-- ==== Sys2Proof/Word.lean ====
section
/-! DEFINITION. Word widths of the block's ports, registers, descriptors and records (R14, R17, R18). -/

namespace Sys2Proof

/-- One byte of host memory, stack memory or an image (R17). -/
abbrev Byte := BitVec 8
/-- A register of the register port (R493). -/
abbrev W32 := BitVec 32
/-- A 64-bit word of a descriptor, completion, record or image (R18). -/
abbrev W64 := BitVec 64
/-- A stamp of the beat counter, 48 bits wide (R14, R59). -/
abbrev Beat := BitVec 48

end Sys2Proof
end

