-- ==== Sys2Proof/Syntax.lean ====
section
/-! DEFINITION. The commands: one constructor per row of the table of operations and events, with the operands the surroundings
give with it (log 3). -/

namespace Sys2Proof

/-- A descriptor as the block fetched it: its ring, its submission-ring index and its eight words (R101, Table 3-3). -/
structure Desc where
  ring : BitVec 10
  index : BitVec 16
  w0 : W64
  w1 : W64
  w2 : W64
  w3 : W64
  w4 : W64
  w5 : W64
  w6 : W64
  w7 : W64
  deriving DecidableEq, Repr, Inhabited

/-- A response on a stack channel: the cycle in which its last transfer arrives, its header and its payload (R312, Table 10-4). -/
structure Rsp where
  chan : BitVec 3
  cycle : BitVec 8
  op : BitVec 4
  status : BitVec 4
  tag : BitVec 16
  epoch : BitVec 8
  respLen : BitVec 11
  w1 : W64
  w2 : W64
  w3 : W64
  payload : List Byte
  deriving DecidableEq, Repr, Inhabited

/-- A relay record as read from a lane of the inbox, with the time-port time of its arrival (R423, Table 14-8). -/
structure RelayIn where
  lane : BitVec 6
  time : W64
  w0 : W64
  w1 : W64
  w2 : W64
  w3 : W64
  w4 : W64
  w5 : W64
  w6 : W64
  w7 : W64
  deriving DecidableEq, Repr, Inhabited

/-- A sensor's reading in 0.25 degrees, two's complement, and whether it reads within range (R367). -/
structure TempIn where
  sensor : Nat
  deg : BitVec 10
  ok : Bool
  deriving DecidableEq, Repr, Inhabited

/-- What the inputs sampled every beat hold at a boundary (Tables 12-1, 16-18), and which background work of Table 12-9 finished in the
beat before it, by its number; the sweep of the associative store (0) is the block's own. -/
structure BeatIn where
  time : W64
  railMv : BitVec 16
  railCa : BitVec 16
  railValid : Bool
  temps : List TempIn
  floorsDone : List Nat
  deriving DecidableEq, Repr, Inhabited

/-- The governor's inputs of the period's last beat and the block's own power estimate (R366, R371). -/
structure GovIn where
  budgetMw : BitVec 16
  throttle : BitVec 2
  estMw : Nat
  deriving DecidableEq, Repr, Inhabited

/-- The agent's answer to identify on one channel (Table 10-7). -/
structure AgentId where
  chan : BitVec 3
  w1 : W64
  w2 : W64
  w3 : W64
  deriving DecidableEq, Repr, Inhabited

/-- A stream record read from the mirror at start: the crc of its trailer, and the crc computed over it as read (R397, R416). -/
structure MirrorRec where
  ring : Nat
  handle : W32
  charged : Nat
  crc : W32
  sum : W32
  deriving DecidableEq, Repr, Inhabited

/-- What start steps 4 to 8 find: sensors that fail calibration, whether a sensor moved 10 degrees, the calibrated power model,
identify answers, agent epoch, largest loaded round trip, the 64 time-port values, whether the persistent window can be read, whether the
tile scan passes, and the stream mirror's records (R412 to R418). -/
structure StartIn where
  badSensors : List Nat
  moved : Bool
  idleMw : Nat
  dynMw : Nat
  agents : List AgentId
  epoch : BitVec 8
  rtMax : Nat
  times : List W64
  persistOk : Bool
  scanOk : Bool
  mirror : List MirrorRec
  deriving DecidableEq, Repr, Inhabited

/-- What start steps 1 to 3 find (Table 14-1). -/
structure BootIn where
  fuseOk : Bool
  romOk : Bool
  badCells : List Nat
  otherBad : Bool
  deriving DecidableEq, Repr, Inhabited

/-- A feature frame: header record, descriptor beat, data bytes, and whether every payload beat followed (R122, R482). -/
structure FrameIn where
  hdr : W64
  desc : List W64
  data : List Byte
  whole : Bool
  deriving DecidableEq, Repr, Inhabited

/-- A tile header or a record trailer as a reader finds it (Tables 13-2, 13-4); a trailer has a generation, write_open and a crc. -/
structure HdrRead where
  imageId : W32
  generation : W32
  tileIndex : BitVec 24
  format : BitVec 4
  writeOpen : Bool
  crc : W32
  deriving DecidableEq, Repr, Inhabited

/-- One use of a tile or a record: its header before and after its payload rows, and the crc computed over the payload as read (R394). -/
structure UseRead where
  first : HdrRead
  last : HdrRead
  sum : W32
  deriving DecidableEq, Repr, Inhabited

/-- Integrity events that meet the work of one compute phase (Tables 13-3, 13-7, 13-9): what the uses named read, words corrected by their
address, words found uncorrectable, and mismatches. -/
inductive IntegEvt where
  | eccSingle (words : List Nat)
  | streamRead (h : W32) (u : UseRead)
  | nodeRead (h : W32) (node : Nat) (u : UseRead)
  | streamUncorr (h : W32)
  | nodeUncorr (h : W32) (node : Nat)
  | stagingRead (h : W32) (u : UseRead)
  | allowRead (h : W32) (u : UseRead)
  | tileRead (slot tile : Nat) (u : UseRead)
  | tileUncorr (slot tile : Nat)
  | pinnedBad (slot mask : Nat)
  | residue (cell : Nat)
  /-- a bit of the value or of the care plane of a bank's array flips (R257, R258) -/
  | arrayFlip (bank index bit : Nat) (care : Bool)
  | shadowUncorr (bank index : Nat)
  | genStore (hs : List W32)
  deriving DecidableEq, Repr, Inhabited

/-- Kinds of management-core trap (R408). -/
inductive TrapKind where
  | fetchRam | fetchRom | dataLoad | narrowStore
  deriving DecidableEq, Repr, Inhabited

/-- An access of the management core (R384, R406, R408): an instruction fetch found uncorrectable; a load or a narrow store of its data RAM, or a
barrier, with whether a word it reads there is uncorrectable; a store of some bytes to a row of a data-path memory's tile through its window. -/
inductive CoreOp where
  | fetch (addr : W32) (rom : Bool)
  | load (addr : W32) (bytes : Nat) (bad : Bool)
  | store (addr : W32) (bytes : List Byte) (bad : Bool)
  | barrier (bad : Bool)
  | window (addr : W32) (tile row : Nat) (bytes : List Byte)
  deriving DecidableEq, Repr, Inhabited

/-- The pins the private test instructions need (R490). -/
structure TestPins where
  testMode : Bool
  resetAsserted : Bool
  deriving DecidableEq, Repr, Inhabited

/-- The commands of the block, in the table's order. -/
inductive Instr where
  | powerOnReset (boot : BootIn)
  | warmReset (boot : BootIn)
  | go (v : W32) (x : StartIn)
  | startComplete (time : W64)
  | registerWrite (off : BitVec 16) (v : W32)
  | beatCountLoRead
  | timeOffsetLoRead
  | ringReset (v : W32)
  | ringResetEffect (ring : BitVec 10)
  | missClr (v : W32)
  | submissionTailDoorbell (num : BitVec 11) (word : W64)
  | completionHeadDoorbell (num : BitVec 11) (word : W64)
  | egressHeadDoorbell (num : BitVec 11) (word : W64)
  | cancelDoorbell (num : BitVec 11) (word : W64)
  | cancelTakesEffect (h : W32)
  | descriptorPhaseReread (d : Desc)
  | openStream (d : Desc) (allow : List Byte)
  | closeStream (d : Desc)
  | streamCloseBoundary (h : W32)
  | ingest (d : Desc)
  | ingestComplete (h : W32)
  | chunkComplete (h : W32)
  | bindSlot (d : Desc)
  | unbindSlot (d : Desc)
  | cancel (d : Desc)
  | saveCairn (d : Desc)
  | saveCairnQuietBoundary (h : W32)
  | saveCairnTimeout (h : W32)
  | resumeCairn (d : Desc)
  | retireCairn (d : Desc)
  | loadImage (d : Desc) (image : List Byte)
  | activateImage (d : Desc)
  | imageActivationBoundary (slot : BitVec 8)
  | retireImage (d : Desc)
  | queryImage (d : Desc)
  | setTenant (d : Desc)
  | setBudget (d : Desc)
  | setPolicy (d : Desc)
  | matchUpdateInvalidate (d : Desc)
  | matchUpdateWrite (d : Desc) (recs : List Byte)
  | matchUpdateValidate (d : Desc)
  | matchShift (d : Desc)
  | matchShiftMove (bank : BitVec 5)
  | matchSearch (d : Desc) (key : List Byte)
  | selfTest (d : Desc) (failed : Bool)
  | calibrateThermalTrims (d : Desc) (bad : List Nat)
  | calibrateDroopDetectors (d : Desc)
  | calibrateStackRoundTrip (d : Desc)
  | commandDeferred (ring : BitVec 10) (index : BitVec 16)
  | traceCtl (d : Desc)
  | counterCtl (d : Desc)
  | logFlush (d : Desc)
  | stop (d : Desc)
  | resume (d : Desc)
  | hangReport (d : Desc)
  | rangeJoin (d : Desc)
  | rangeJoinTimeout
  | rangeLeave (d : Desc)
  | rangeStatus (d : Desc)
  | expertQuery (d : Desc)
  | expertPinImage (d : Desc)
  | expertReserveSlots (d : Desc)
  | expertReleaseSlots (d : Desc)
  | expertSetBankWidth (d : Desc)
  | expertGovBound (d : Desc)
  | committedToken (w : W64)
  | draftToken (w : W64)
  | acceptMarker (w : W64)
  | stepEnd (w : W64)
  | featureFrame (f : FrameIn)
  | stepOpenTimeout (slot : BitVec 14)
  | beatBoundary (x : BeatIn)
  | sealPhase (mismatch : List (W32 × Nat))
  | releasePhase
  | stackDuePoint (chan : BitVec 3) (tag : BitVec 16)
  | tileReadResponse (r : Rsp)
  | tileWriteResponse (r : Rsp)
  | featureStageResponse (r : Rsp)
  | treeWalkResponse (r : Rsp)
  | maskCombineResponse (r : Rsp)
  | gatherSumResponse (r : Rsp)
  | cairnSaveResponse (r : Rsp)
  | cairnLoadResponse (r : Rsp)
  | scrubRangeResponse (r : Rsp)
  | pingResponse (r : Rsp)
  | stackCreditReturn (chan : BitVec 3) (n : BitVec 16)
  | hostReadData (tag : BitVec 8) (data : List Byte) (poison : Bool)
  | hostWriteAck (tag : BitVec 8) (fail : Bool)
  | maskCreditReturn (n : BitVec 8)
  | irqMessage (v : BitVec 6)
  | egressStallTimeout (ring : BitVec 10)
  | tornTileReread (h : W32) (u : UseRead)
  | tileReloadInstall (slot : BitVec 8) (tile : Nat)
  | recoveryExtExpiry (rec : Nat)
  | mgmtTrap (before : List CoreOp) (o : CoreOp) (after : List CoreOp)
  | governorPeriod (x : GovIn)
  | refillBoundary
  | ledgerSnapshot
  | backgroundPing
  | wearRotation
  | timeSync
  | counterSample
  | floorMissed (k : BitVec 3)
  | traceRecordDrop
  | stopIHigh
  | stopILow
  | blockStop
  | blockResume
  | relayRec (r : RelayIn)
  | relayChunk (r : RelayIn)
  | relayJoin (r : RelayIn)
  | relayMembers (r : RelayIn)
  | relayProbe (r : RelayIn)
  | relayGrant (r : RelayIn)
  | relayReport (r : RelayIn)
  | relayAck (r : RelayIn)
  | relayHeartbeat (r : RelayIn)
  | relayStop (r : RelayIn)
  | relayResume (r : RelayIn)
  | relayLeave (r : RelayIn)
  | relayAckSend (lane : BitVec 6)
  | heartbeatSend
  | relayTimeout (peer : BitVec 6)
  | leaseGrant
  | leaseAdoption
  | bypass (bits : List Bool)
  | idcode
  | mbist (pins : TestPins) (groups failed : BitVec 16)
  | mbistResult (pins : TestPins)
  | scan (pins : TestPins)
  | fuseProg (pins : TestPins) (value : BitVec 256) (target : BitVec 8)
  | fuseRead (pins : TestPins) (target : BitVec 8)
  | computePhase (evts : List IntegEvt)
  | droopEvent (ridge : BitVec 4)
  | testReset
  deriving DecidableEq, Repr

end Sys2Proof
end

