-- ==== Sys2Proof/Decode.lean ====
section
/-! DEFINITION. The command a table word spells: no row of the table of operations and events gives bits, so no word spells one. -/

namespace Sys2Proof

/-- No row of the table has fields, so no word spells a command (log 3). -/
def decodeTableWord (_nbits _w : Nat) : Option Instr := none

end Sys2Proof
end

