-- ==== Sys2Proof/Machine/Bits.lean ====
section
/-! DEFINITION. Bit fields, little-endian bytes and finite maps: the plain data helpers every family uses. -/

namespace Sys2Proof.Machine

/-- Field [hi:lo] of a word, both ends included (R17). -/
def fld {n : Nat} (w : BitVec n) (hi lo : Nat) : Nat := (w.toNat >>> lo) % 2 ^ (hi + 1 - lo)

/-- Bit i of a word. -/
def bit {n : Nat} (w : BitVec n) (i : Nat) : Bool := w.getLsbD i

/-- Field [hi:lo] of w replaced by v (v taken modulo the field's width). -/
def setFld {n : Nat} (w : BitVec n) (hi lo v : Nat) : BitVec n :=
  let m := 2 ^ (hi + 1 - lo)
  let x := w.toNat
  BitVec.ofNat n (x - ((x >>> lo) % m) * 2 ^ lo + (v % m) * 2 ^ lo)

/-- A Nat packed from (value, low bit) pairs. -/
def pack (fs : List (Nat × Nat)) : Nat := fs.foldl (fun a f => a + f.1 * 2 ^ f.2) 0

/-- A 64-bit word packed from (value, low bit) pairs. -/
def w64 (fs : List (Nat × Nat)) : W64 := BitVec.ofNat 64 (pack fs)

def b2n (b : Bool) : Nat := if b then 1 else 0

/-- Rounded-up division (the manual's ceiling of a quotient). -/
def cdiv (a b : Nat) : Nat := (a + b - 1) / b

/-- Rounded-up base-2 logarithm, by counting doublings. -/
def clog2Go : Nat → Nat → Nat → Nat
  | 0, k, _ => k
  | f + 1, k, n => if 2 ^ k < n then clog2Go f (k + 1) n else k
def clog2 (n : Nat) : Nat := clog2Go 64 0 n

/-! Little-endian bytes (R17). -/

def bytesToNat : List Byte → Nat
  | [] => 0
  | b :: bs => b.toNat + 256 * bytesToNat bs

def natToBytes : Nat → Nat → List Byte
  | 0, _ => []
  | k + 1, n => BitVec.ofNat 8 n :: natToBytes k (n / 256)

/-- n bytes from offset off; bytes past the end are absent. -/
def sliceB (bs : List Byte) (off n : Nat) : List Byte := (bs.drop off).take n

def rd64 (bs : List Byte) (off : Nat) : W64 := BitVec.ofNat 64 (bytesToNat (sliceB bs off 8))
def rd32 (bs : List Byte) (off : Nat) : W32 := BitVec.ofNat 32 (bytesToNat (sliceB bs off 4))
def rdN (bs : List Byte) (off n : Nat) : Nat := bytesToNat (sliceB bs off n)

def w64Bytes (w : W64) : List Byte := natToBytes 8 w.toNat
def wordsBytes (ws : List W64) : List Byte := ws.flatMap w64Bytes
def bytesWords (bs : List Byte) (k : Nat) : List W64 := (List.range k).map fun i => rd64 bs (8 * i)

/-- The list padded at its end with d to a multiple of m. -/
def padTo {α : Type} (m : Nat) (d : α) (xs : List α) : List α :=
  xs ++ List.replicate (cdiv xs.length m * m - xs.length) d

/-! Finite maps by number: lists of pairs with rising keys. -/

abbrev AMap (α : Type) := List (Nat × α)

def AMap.get? {α : Type} : AMap α → Nat → Option α
  | [], _ => none
  | (k, v) :: m, i => if k = i then some v else AMap.get? m i

def AMap.getD {α : Type} (m : AMap α) (i : Nat) (d : α) : α := (AMap.get? m i).getD d

/-- The entry at i set to v, the keys kept rising. -/
def AMap.set {α : Type} : AMap α → Nat → α → AMap α
  | [], i, v => [(i, v)]
  | (k, x) :: m, i, v =>
    if i < k then (i, v) :: (k, x) :: m
    else if i = k then (i, v) :: m
    else (k, x) :: AMap.set m i v

def AMap.erase {α : Type} : AMap α → Nat → AMap α
  | [], _ => []
  | (k, x) :: m, i => if k = i then AMap.erase m i else (k, x) :: AMap.erase m i

def AMap.has {α : Type} (m : AMap α) (i : Nat) : Bool := (AMap.get? m i).isSome
def AMap.modify {α : Type} (m : AMap α) (i : Nat) (f : α → α) : AMap α :=
  match AMap.get? m i with
  | some v => AMap.set m i (f v)
  | none => m
/-- The entry at i, or the default d, changed by f. -/
def AMap.modifyD {α : Type} (m : AMap α) (i : Nat) (d : α) (f : α → α) : AMap α :=
  AMap.set m i (f (AMap.getD m i d))
def AMap.vals {α : Type} (m : AMap α) : List α := m.map (·.2)
def AMap.keys {α : Type} (m : AMap α) : List Nat := m.map (·.1)

/-- Keys strictly rise: the canonical form of a map. -/
def AMap.wf {α : Type} : AMap α → Bool
  | [] => true
  | [_] => true
  | (k, _) :: (k', v') :: m => k < k' && AMap.wf ((k', v') :: m)

/-- Sorted insertion by a key (stable: equal keys keep arrival order). -/
def insertBy {α : Type} (key : α → Nat) (x : α) : List α → List α
  | [] => [x]
  | y :: ys => if key x < key y then x :: y :: ys else y :: insertBy key x ys

/-- Stable sort, first elements first among equals. -/
def sortAsc {α : Type} (key : α → Nat) (xs : List α) : List α := xs.foldl (fun acc x => insertBy key x acc) []

def sumBy {α : Type} (f : α → Nat) (xs : List α) : Nat := xs.foldl (fun a x => a + f x) 0
def maxBy {α : Type} (f : α → Nat) (xs : List α) : Nat := xs.foldl (fun a x => max a (f x)) 0

def nodupNat : List Nat → Bool
  | [] => true
  | x :: xs => !xs.contains x && nodupNat xs

/-! Beat numbers: 48 bits, compared within a window of 2^47 beats (R14, R59). -/

/-- The beat n beats after a. -/
def beatAdd (a n : Nat) : Nat := (a + n) % 2 ^ 48
/-- Beats from a to b, going forward. -/
def beatsFrom (a b : Nat) : Nat := (b + (2 ^ 48 - a % 2 ^ 48)) % 2 ^ 48
/-- Beat a is b or comes before it. -/
def beatLe (a b : Nat) : Bool := decide (beatsFrom a b < 2 ^ 47)
def beatLt (a b : Nat) : Bool := !beatLe b a
/-- The later of two beats. -/
def beatMax (a b : Nat) : Nat := if beatLe a b then b else a

/-- Saturating addition. -/
def satAdd (cap a b : Nat) : Nat := min cap (a + b)

end Sys2Proof.Machine
end

