-- ==== Sys2Proof/Machine/Crc.lean ====
section
/-! DEFINITION. CRC-32C with the parameters of R134 (initial value all ones, reflected, final inversion). -/

namespace Sys2Proof.Machine

/-- The reflected Castagnoli polynomial. -/
def crcPoly : Nat := 0x82F63B78

def crcBits : Nat → Nat → Nat
  | 0, c => c
  | k + 1, c => crcBits k (if c % 2 = 1 then (c / 2) ^^^ crcPoly else c / 2)

def crcStep (c : Nat) (b : Byte) : Nat := crcBits 8 (c ^^^ b.toNat)

/-- CRC-32C of the bytes in order (R134). -/
def crc32c (bs : List Byte) : W32 :=
  BitVec.ofNat 32 (bs.foldl crcStep 0xFFFFFFFF ^^^ 0xFFFFFFFF)

end Sys2Proof.Machine
end

