-- ==== Sys2Proof/Machine/ImageTypes.lean ====
section
/-! DEFINITION. What images hold once read: the sections of R154, R183, R186, R243, R265, R283, R292, R299, R342 as plain data. -/

namespace Sys2Proof.Machine

/-- A set of allowed token ids below n: bit t of bits allows token t (R179, R181). -/
structure Mask where
  n : Nat
  bits : Nat
  deriving DecidableEq, Repr, Inhabited

/-- Image kinds of Table 15-7. -/
inductive ImgKind where
  | vocabulary | maskDictionary | grammar | patternSet | automaton
  | probeHead | treeEnsemble | probeDelta | treeDelta | policy
  deriving DecidableEq, Repr, Inhabited

structure AutoState where
  base : Nat
  dflt : Nat
  accFirst : Nat
  accCount : Nat
  hold : Nat
  deriving DecidableEq, Repr, Inhabited

structure AutoAccept where
  pattern : Nat
  priority : Nat
  rule : Nat
  len : Nat
  deriving DecidableEq, Repr, Inhabited

/-- An automaton section (Tables 8-6 and 8-7). -/
structure AutoImg where
  nStates : Nat
  nClasses : Nat
  direction : Nat
  startState : Nat
  resyncState : Nat
  nCells : Nat
  nAccepts : Nat
  reservedOk : Bool
  classMap : List Nat
  states : List AutoState
  cells : List (Nat × Nat)
  accepts : List AutoAccept
  deriving DecidableEq, Repr, Inhabited

/-- Encode tables of a vocabulary: the merge table in rank order and the tokens that take part in matching (R154, R164, R165). -/
structure EncTables where
  merges : List (Nat × Nat × Nat)
  matchable : List Nat
  deriving DecidableEq, Repr, Inhabited

structure VocabImg where
  nTokens : Nat
  vocabIdx : Nat
  longest : Bool
  eos : Nat
  nMerges : Nat
  decodeBytes : Nat
  encodeBytes : Nat
  pretokenStates : Nat
  byteTokens : List Nat
  decode : List (List Byte)
  enc : EncTables
  pretoken : AutoImg
  reservedOk : Bool
  deriving DecidableEq, Repr, Inhabited

structure DictImg where
  nMasks : Nat
  vocabIdx : Nat
  raw : List (List Byte)
  /-- byte offset of each mask in the section -/
  offs : List Nat
  masks : List Mask
  ban : List Nat
  dirOk : Bool
  reservedOk : Bool
  /-- reference vocabulary generation (R184): its image slot, tokens, end token, generation -/
  refSlot : Nat
  refN : Nat
  refEos : Nat
  refGen : Nat
  deriving DecidableEq, Repr, Inhabited

/-- Tiles of the dictionary's image that hold a mask (R183, R311). -/
def DictImg.tiles (d : DictImg) (mask : Nat) : List Nat :=
  let a := 256 + d.offs.getD mask 0
  (List.range ((a + (d.raw.getD mask []).length - 1) / 4096 + 1 - a / 4096)).map fun i => a / 4096 + i

inductive DeadPolicy where
  | eosOnly | escapeSet | failStream
  deriving DecidableEq, Repr, Inhabited

structure GState where
  mask : Nat
  dead : Bool
  first : Nat
  count : Nat
  deriving DecidableEq, Repr, Inhabited

structure GTrans where
  cls : Nat
  next : Nat
  action : Nat
  sym : Nat
  deriving DecidableEq, Repr, Inhabited

structure GrammarImg where
  nStates : Nat
  vocabIdx : Nat
  maxDepth : Nat
  deadCode : Nat
  maxMixed : Nat
  startState : Nat
  escapeState : Nat
  escapeMask : Nat
  dictGen : Nat
  /-- image slot of the dictionary it was loaded against (R188, R190) -/
  dictSlot : Nat
  nPinned : Nat
  allPinned : Bool
  nClasses : Nat
  nReturns : Nat
  nTrans : Nat
  residentBytes : Nat
  pinnedBytes : Nat
  classMap : List Nat
  states : List GState
  trans : List GTrans
  returns : List Nat
  pinned : List Nat
  reservedOk : Bool
  deriving DecidableEq, Repr, Inhabited

def GrammarImg.deadPolicy (g : GrammarImg) : DeadPolicy :=
  if g.deadCode = 0 then .eosOnly else if g.deadCode = 1 then .escapeSet else .failStream

/-- An entry record (Table 8-2); value and care are the key bits of all its units, unit 0 lowest. -/
structure EntryRec where
  priority : Nat
  rule : Nat
  isPrefix : Bool
  length : Nat
  set : Nat
  pattern : Nat
  value : Nat
  care : Nat
  reservedOk : Bool
  deriving DecidableEq, Repr, Inhabited

structure PatSetHdr where
  width : Nat
  dual : Bool
  copies : Nat
  count : Nat
  recordOffset : Nat
  deriving DecidableEq, Repr, Inhabited

structure PatSetImg where
  hdr : PatSetHdr
  entries : List EntryRec
  deriving DecidableEq, Repr, Inhabited

/-- A layer descriptor (Table 9-7). -/
structure LayerD where
  inWidth : Nat
  outWidth : Nat
  format : Nat
  rowCode : Nat
  act : Nat
  mode : Nat
  invScale : W32
  tileIndex : Nat
  paramOffset : Nat
  reservedOk : Bool
  deriving DecidableEq, Repr, Inhabited

structure PwlTable where
  xs : List W32
  ys : List W32
  ss : List W32
  deriving DecidableEq, Repr, Inhabited

/-- A probe-head section (Table 9-6); tiles and parameters are read from the section's bytes. -/
structure HeadImg where
  layers : List LayerD
  inWidth : Nat
  nOut : Nat
  link : Nat
  source : Nat
  accumulate : Nat
  accIndex : Nat
  spanLimit : Nat
  tileOffset : Nat
  pwl : PwlTable
  reservedOk : Bool
  sect : List Byte
  deriving DecidableEq, Repr, Inhabited

/-- An ensemble section (Table 9-9). -/
structure EnsImg where
  nNodes : Nat
  nTrees : Nat
  nClasses : Nat
  maxDepth : Nat
  integer : Bool
  streamed : Bool
  link : Nat
  nFeatures : Nat
  nodes : List W64
  dir : List (Nat × Nat)
  base : List W32
  pwl : PwlTable
  reservedOk : Bool
  deriving DecidableEq, Repr, Inhabited

structure PDeltaEntry where
  row : Nat
  elem : Nat
  scale : Bool
  value : W32
  deriving DecidableEq, Repr, Inhabited

structure PDeltaTile where
  layer : Nat
  tile : Nat
  entries : List PDeltaEntry
  deriving DecidableEq, Repr, Inhabited

/-- One base of a probe-delta image (R299, R301, R303): the gather list gives each listed column's differences by row. -/
structure PDeltaBase where
  imageId : Nat
  gen : Nat
  tiles : List PDeltaTile
  gather : List (Nat × List W32)
  /-- bits of entries that are to be 0 are, and the tables lie in the section -/
  reservedOk : Bool
  deriving DecidableEq, Repr, Inhabited

/-- One base of a tree-delta image (R299, R304). -/
structure TDeltaBase where
  imageId : Nat
  gen : Nat
  mult : Nat
  buckets : List W64
  deriving DecidableEq, Repr, Inhabited

/-- Per-record worst-case demand (Table 11-2). -/
structure Demand where
  lane : Nat
  walk : Nat
  search : Nat
  stack : Nat
  host : Nat
  steps : Nat
  firstReq : Nat
  depReq : Nat
  resp : Nat
  deriving DecidableEq, Repr, Inhabited

structure ScoreRule where
  model : Nat
  output : Nat
  cmp : Nat
  verdict : Nat
  t : W32
  reservedOk : Bool
  deriving DecidableEq, Repr, Inhabited

structure MatchRule where
  verdict : Nat
  replace : Nat
  reservedOk : Bool
  deriving DecidableEq, Repr, Inhabited

/-- A direction block (Table 11-2). -/
structure PolDir where
  heads : List Nat
  ens : List Nat
  autos : List Nat
  sets : List (Nat × Nat)
  scoreRules : List ScoreRule
  matchRules : List MatchRule
  strings : List (List Byte)
  demand : Demand
  countsOk : Bool
  deriving DecidableEq, Repr, Inhabited

/-- A policy section (Table 11-1). -/
structure PolicyImg where
  nRounds : Nat
  align : Nat
  mapIndet : Nat
  mapIncomplete : Nat
  mapTimeout : Nat
  mapNan : Nat
  fillToken : Nat
  tokCount : Nat
  tokType : Nat
  spanCount : Nat
  spanType : Nat
  inDir : PolDir
  outDir : PolDir
  reservedOk : Bool
  deriving DecidableEq, Repr, Inhabited

/-- The kind-specific part of an image. -/
inductive ImgBody where
  | vocabulary (v : VocabImg)
  | maskDictionary (d : DictImg)
  | grammar (g : GrammarImg)
  | patternSet (p : PatSetImg)
  | automaton (a : AutoImg)
  | probeHead (h : HeadImg)
  | treeEnsemble (e : EnsImg)
  | probeDelta (bs : List PDeltaBase)
  | treeDelta (bs : List TDeltaBase)
  | policy (p : PolicyImg)
  deriving DecidableEq, Repr, Inhabited

/-- The common image header (Table 15-7). -/
structure ImgHdr where
  magic : Nat
  kind : Nat
  hdrVersion : Nat
  keySlot : Nat
  raise : Bool
  liveUpdate : Bool
  imageId : Nat
  gen : Nat
  length : Nat
  rbVersion : Nat
  blockVersion : Nat
  sectionLength : Nat
  crc : W32
  reservedOk : Bool
  deriving DecidableEq, Repr, Inhabited

end Sys2Proof.Machine
end

