-- ==== Sys2Proof/Config.lean ====
section
/-! DEFINITION. What an implementation fixes and the manual leaves open: free values, constants without a body, of which no proof
can know a value. -/

namespace Sys2Proof.Machine

/-- Free choice number k: the choices the manual leaves to Yogimen (placement, allocation), one after another (log 4). -/
opaque Config.choose : Nat → Nat

/-- The merge table and the matchable tokens that a vocabulary section's bytes hold; the manual gives the tables no layout (R154, log 5). -/
opaque Config.encTables : List Byte → EncTables
/-- Byte offset of the decode table in a vocabulary section; not given by Table 5-2 (log 5). -/
opaque Config.decodeTableAt : List Byte → Nat
/-- Width, dual, copies, record count and record offset of a pattern-set section; not given (R243, R245, log 5). -/
opaque Config.patSetHdr : List Byte → PatSetHdr
/-- For each base of a probe-delta section: image id, generation, directory offset, directory entries, gather list (R299, R301, log 5). -/
opaque Config.probeDeltaBases : List Byte → List (Nat × Nat × Nat × Nat × List (Nat × List W32))
/-- For each base of a tree-delta section: image id, generation, multiplier, bucket-table offset (R299, R304, log 5). -/
opaque Config.treeDeltaBases : List Byte → List (Nat × Nat × Nat × Nat)
/-- Byte offsets within the delta's image of a base's gather table and of its bucket table; not given (R299, log 5). -/
opaque Config.gatherAt : PDeltaBase → Nat
opaque Config.bucketsAt : TDeltaBase → Nat
/-- Whether a policy section needs lane, walker or associative work between two stack rounds; the section has no field for it (R63, log 5). -/
opaque Config.workBetweenRounds : List Byte → Bool

/-- Results of the link functions, fixed by the manual only up to an error bound (R297, log 6). -/
opaque Config.freeLogistic : W32 → W32
opaque Config.freeExp : W32 → W32
opaque Config.freeSoftmax : List W32 → Nat → W32
/-- Knots of the tables of GELU and sigmoid: 1,025 values over [-16, 16] (R285, log 6). -/
opaque Config.geluKnot : Nat → W32
opaque Config.sigmoidKnot : Nat → W32

/-- The cycle within a phase at which BEAT_CYCLE is read, by beat and phase (R60, log 49). -/
opaque Config.readCycle : Nat → Nat

/-- Log codes of events the manual has Yogimen log without listing a code for them (R478, log 14). -/
opaque Config.unlistedCode : Nat → Nat
/-- Cause words of log records whose values the manual does not list (Table 15-6, log 14). -/
opaque Config.unlistedCause : Nat → Nat
/-- Node a stream waits on for a feature frame; Table 15-16 gives the sampler no class (log 14). -/
opaque Config.frameHolder : Nat
/-- The four stage outputs a member forwards to its successor's policy; the manual does not say which values they are (Table 14-9, log 14). -/
opaque Config.stageOutput : Nat → W32
/-- Operands of EXPERT whose packing Table 3-10 does not give: the five amounts of words 4 and 5, and the floor and ceiling of each
allowance item in words 3 and 4 (log 14). -/
opaque Config.reserveAmounts : W64 → W64 → List Nat
opaque Config.govBounds : W64 → W64 → List (Nat × Nat)
/-- The form in which an EXPERT query reports a setting; not given by Table 3-10 (log 14). -/
opaque Config.expertReport : List Nat → Nat × Nat

/-- Whether a programming of the rollback counts fails, which the manual leaves to the fuses: free choice number k (R451, log 63). -/
opaque Config.fuseFails : Nat → Bool

/-- What a calibration finds of the power model, in mW: free choice number k (R372, log 66). -/
opaque Config.powerFound : Nat → Nat

/-- Work a ridge does in a beat: lane and walker cycles, search slots, engine steps, the rest of Table 15-14's ridge counters and the tiles
the sweep passes, whose amounts depend on the implementation's schedule (log 39). -/
opaque Config.ridgeWork : Nat → Nat
/-- Bytes of the stream-state tiles mirrored in the stack window whose layout the manual does not give (R147, log 40). -/
opaque Config.mirrorByte : Nat → Nat → Byte
/-- The word that says where an allow list lies, from its mask-cache tile and its offset in the stack window (Table 6-6, log 40). -/
opaque Config.allowPlace : Option Nat → Option Nat → Nat

end Sys2Proof.Machine
end

