-- ==== Sys2Proof/Machine/Float.lean ====
section
/-! DEFINITION. The number formats of Table 9-2 and the arithmetic of R275, R276, R293 and R298, on exact dyadic values. -/

namespace Sys2Proof.Machine

/-- A value of one of the formats of Table 9-2: finite values are sign, significand and power of two. -/
inductive FV where
  | nan
  | inf (neg : Bool)
  | fin (neg : Bool) (m : Nat) (e : Int)
  deriving DecidableEq, Repr, Inhabited

def FV.isNan : FV → Bool
  | .nan => true
  | _ => false

def FV.zero : FV := .fin false 0 0

/-- Decode a sign/exponent/fraction format with eb exponent and fb fraction bits whose all-ones exponent
holds infinities and NaN (binary32, binary16, bfloat16, E5M2). -/
def decIeee (eb fb : Nat) (x : Nat) : FV :=
  let neg := (x >>> (eb + fb)) % 2 = 1
  let ex := (x >>> fb) % 2 ^ eb
  let fr := x % 2 ^ fb
  let bias : Int := (2 ^ (eb - 1) : Nat) - 1
  if ex = 2 ^ eb - 1 then (if fr = 0 then .inf neg else .nan)
  else if ex = 0 then .fin neg fr (1 - bias - fb)
  else .fin neg (fr + 2 ^ fb) ((ex : Int) - bias - fb)

def dec32 (x : W32) : FV := decIeee 8 23 x.toNat
def dec16 (x : Nat) : FV := decIeee 5 10 x
def decBf16 (x : Nat) : FV := decIeee 8 7 x
def decE5M2 (x : Nat) : FV := decIeee 5 2 x
/-- E4M3: no infinities, S.1111.111 is NaN (Table 9-2). -/
def decE4M3 (x : Nat) : FV :=
  let neg := x / 128 % 2 = 1
  let ex := x / 8 % 16
  let fr := x % 8
  if ex = 15 ∧ fr = 7 then .nan
  else if ex = 0 then .fin neg fr (-9)
  else .fin neg (fr + 8) ((ex : Int) - 10)

/-- m shifted right by k, rounded to nearest, ties to even. -/
def rneShift (m k : Nat) : Nat :=
  if k = 0 then m
  else
    let q := m / 2 ^ k
    let r := m % 2 ^ k
    let h := 2 ^ (k - 1)
    if r > h ∨ (r = h ∧ q % 2 = 1) then q + 1 else q

def bitLen (m : Nat) : Nat := if m = 0 then 0 else Nat.log2 m + 1

/-- m times 2^e rounded to p significant bits with least exponent emin (ties to even). -/
def roundTo (p : Nat) (emin : Int) (m : Nat) (e : Int) : Nat × Int :=
  let e' := max emin (e + bitLen m - p)
  let m' := if e' ≤ e then m * 2 ^ (e - e').toNat else rneShift m (e' - e).toNat
  if m' = 2 ^ p then (2 ^ (p - 1), e' + 1) else (m', e')

/-- The one NaN the block writes (payload: log 10). -/
def nan32 : W32 := 0x7FC00000#32
def inf32 (neg : Bool) : W32 := if neg then 0xFF800000#32 else 0x7F800000#32
def zero32 : W32 := 0#32

/-- binary32 encoding of a value, rounded to nearest, ties to even; overflow gives infinity (R275). -/
def enc32 : FV → W32
  | .nan => nan32
  | .inf n => inf32 n
  | .fin neg m e =>
    let s := b2n neg * 2 ^ 31
    if m = 0 then BitVec.ofNat 32 s
    else
      let (m', e') := roundTo 24 (-149) m e
      if m' = 0 then BitVec.ofNat 32 s
      else if e' > 104 then inf32 neg
      else if m' < 2 ^ 23 then BitVec.ofNat 32 (s + m')
      else BitVec.ofNat 32 (s + (e' + 150).toNat * 2 ^ 23 + (m' - 2 ^ 23))

/-- The signed significands of two finite values at their common exponent. -/
def alignAdd (n₁ : Bool) (m₁ : Nat) (e₁ : Int) (n₂ : Bool) (m₂ : Nat) (e₂ : Int) : Int × Int :=
  let e := min e₁ e₂
  let a : Int := m₁ * 2 ^ (e₁ - e).toNat
  let b : Int := m₂ * 2 ^ (e₂ - e).toNat
  ((if n₁ then -a else a) + (if n₂ then -b else b), e)

/-- Exact sum; a zero sum of unlike signs is +0. -/
def FV.add : FV → FV → FV
  | .nan, _ => .nan
  | _, .nan => .nan
  | .inf a, .inf b => if a = b then .inf a else .nan
  | .inf a, _ => .inf a
  | _, .inf b => .inf b
  | .fin n₁ m₁ e₁, .fin n₂ m₂ e₂ =>
    let (v, e) := alignAdd n₁ m₁ e₁ n₂ m₂ e₂
    if v = 0 then .fin (n₁ && n₂) 0 0 else .fin (v < 0) v.natAbs e

def FV.neg : FV → FV
  | .nan => .nan
  | .inf n => .inf (!n)
  | .fin n m e => .fin (!n) m e

/-- Exact product. -/
def FV.mul : FV → FV → FV
  | .nan, _ => .nan
  | _, .nan => .nan
  | .inf a, .inf b => .inf (a != b)
  | .inf a, .fin b m _ => if m = 0 then .nan else .inf (a != b)
  | .fin b m _, .inf a => if m = 0 then .nan else .inf (a != b)
  | .fin a m₁ e₁, .fin b m₂ e₂ => .fin (a != b) (m₁ * m₂) (e₁ + e₂)

/-- fl(a + b) of R275. -/
def fAdd (a b : W32) : W32 := enc32 ((dec32 a).add (dec32 b))
/-- fl(a - b) of R275. -/
def fSub (a b : W32) : W32 := enc32 ((dec32 a).add (dec32 b).neg)
/-- fl(a * b) of R275. -/
def fMul (a b : W32) : W32 := enc32 ((dec32 a).mul (dec32 b))
/-- fl(a + x) with x exact. -/
def fAddV (a : W32) (x : FV) : W32 := enc32 ((dec32 a).add x)

/-- Order of two values: none when a NaN takes part; -0 equals +0 (R293). -/
def FV.lt? : FV → FV → Option Bool
  | .nan, _ => none
  | _, .nan => none
  | .inf a, .inf b => some (a && !b)
  | .inf a, _ => some a
  | _, .inf b => some (!b)
  | .fin n₁ m₁ e₁, .fin n₂ m₂ e₂ => some ((alignAdd n₁ m₁ e₁ (!n₂) m₂ e₂).1 < 0)

def fLt? (a b : W32) : Option Bool := (dec32 a).lt? (dec32 b)
def fIsNan (a : W32) : Bool := (dec32 a).isNan

/-- float(p): an integer to binary32, ties to even (R273, R279). -/
def intF32 (i : Int) : W32 := enc32 (.fin (i < 0) i.natAbs 0)

/-- n times 2^e as fl(d * 2^e). -/
def fScale (d : W32) (k : Int) : W32 := enc32 ((dec32 d).mul (.fin false 1 k))

/-- rint of a finite value, ties to even. -/
def rint (neg : Bool) (m : Nat) (e : Int) : Int :=
  let v : Nat := if 0 ≤ e then m * 2 ^ e.toNat else rneShift m (-e).toNat
  if neg then -(v : Int) else v

/-- A feature element converted to binary32 (R273). Type codes of Table 4-3. -/
def featF32 (ty : Nat) (raw : Nat) : W32 :=
  match ty with
  | 0 => BitVec.ofNat 32 raw
  | 1 => enc32 (decBf16 raw)
  | 2 => enc32 (dec16 raw)
  | _ => intF32 (BitVec.ofNat 32 raw).toInt

/-- INT8 conversion of Table 9-3; a NaN is never converted (R277). -/
def toInt8 (x inv : W32) : Int :=
  match dec32 (fMul x inv) with
  | .nan => 0
  | .inf n => if n then -128 else 127
  | .fin n m e => max (-128) (min 127 (rint n m e))

/-- The format parameters (precision, least exponent, largest significand and its exponent) of E4M3 and E5M2. -/
def fp8Round (e5 : Bool) (v : FV) : FV :=
  let (p, emin) : Nat × Int := if e5 then (3, -16) else (4, -9)
  let top : FV × FV := if e5 then (.fin false 7 13, .fin true 7 13) else (.fin false 7 6, .fin true 7 6)
  match v with
  | .nan => .nan
  | .inf n => if n then top.2 else top.1
  | .fin n m e =>
    let (m', e') := roundTo p emin m e
    let r : FV := .fin n m' e'
    if (top.1.lt? (.fin false m' e')) = some true then (if n then top.2 else top.1) else r

/-- BF16 conversion of Table 9-3: overflow and infinities saturate. -/
def toBf16 (x : W32) : FV :=
  match dec32 x with
  | .nan => .nan
  | .inf n => .fin n 255 120
  | .fin n m e =>
    let (m', e') := roundTo 8 (-133) m e
    if e' > 120 then .fin n 255 120 else .fin n m' e'

/-- floor(log2 amax) - e_max clamped to -127 to 127; -127 for an all-zero block (Table 9-3). -/
def fp8Exp (e5 : Bool) (block : List W32) : Int :=
  let emaxF : Int := if e5 then 15 else 8
  let top : Option Int := block.foldl (fun a x =>
    match dec32 x with
    | .fin _ m e => if m = 0 then a else
        let l : Int := e + bitLen m - 1
        (match a with | none => some l | some y => some (max y l))
    | _ => a) none
  match top with
  | none => -127
  | some l => max (-127) (min 127 (l - emaxF))

/-! Reference values of the exponential, in fixed point with 200 fraction bits (error far below the bounds of R297). -/

def fxP : Nat := 200
def fxOne : Nat := 2 ^ fxP

/-- Taylor sum of e^r for a fixed-point r below 1/8. -/
def expTaylor : Nat → Nat → Nat → Nat → Nat → Nat
  | 0, _, _, _, acc => acc
  | f + 1, r, k, term, acc =>
    let t := term * r / fxOne / k
    expTaylor f r (k + 1) t (acc + t)

def sqIter : Nat → Nat → Nat
  | 0, x => x
  | k + 1, x => sqIter k (x * x / fxOne)

/-- e^x for x ≥ 0 given in fixed point (x below 2^10). -/
def expPos (x : Nat) : Nat := sqIter 14 (expTaylor 30 (x / 2 ^ 14) 1 fxOne fxOne)

/-- The magnitude of a finite value in fixed point. -/
def fxOf (m : Nat) (e : Int) : Nat :=
  let k := e + fxP
  if 0 ≤ k then m * 2 ^ k.toNat else m / 2 ^ (-k).toNat

/-- e^v of a finite value of magnitude below 2^10, in fixed point. -/
def expFx (neg : Bool) (m : Nat) (e : Int) : Nat :=
  let x := expPos (fxOf m e)
  if neg then fxOne * fxOne / x else x

/-- A fixed-point value as a dyadic value. -/
def ofFx (n : Nat) : FV := .fin false n (-(fxP : Int))

/-- |v - ref| ≤ ref * 2^-k for a finite non-negative v (relative bound of R297). -/
def withinRel (k : Nat) (v : W32) (ref : Nat) : Bool :=
  match dec32 v with
  | .fin false m e => let x := fxOf m e; (if x ≥ ref then x - ref else ref - x) * 2 ^ k ≤ ref
  | _ => false

/-- |v - ref| ≤ 2^-k absolutely, ref signed in fixed point (R285). -/
def withinAbs (k : Nat) (v : W32) (ref : Int) : Bool :=
  match dec32 v with
  | .fin n m e =>
    let x : Int := if n then -(fxOf m e : Int) else fxOf m e
    (x - ref).natAbs * 2 ^ k ≤ fxOne
  | _ => false

/-- The free value where it keeps the manual's bound, else the reference value rounded. -/
def boundedRel (k : Nat) (free : W32) (ref : Nat) : W32 :=
  if withinRel k free ref then free else enc32 (ofFx ref)

def boundedAbs (k : Nat) (free : W32) (ref : Int) : W32 :=
  if withinAbs k free ref then free else enc32 (.fin (ref < 0) ref.natAbs (-(fxP : Int)))

end Sys2Proof.Machine
end

