-- ==== Sys2Proof/Machine/Classifier.lean ====
section
/-! DEFINITION. Probe heads, tree ensembles, link functions and accumulators (R271 to R304, R520). -/

namespace Sys2Proof.Machine

/-- A feature frame's elements: the type code of Table 4-3 and the raw encodings. -/
structure Feats where
  ty : Nat
  raw : List Nat
  layerId : Nat
  opId : Nat
  deriving DecidableEq, Repr, Inhabited

/-- Elements converted to binary32 (R273). -/
def Feats.f32 (f : Feats) : List W32 := f.raw.map (featF32 f.ty)

/-- Elements of a frame's data bytes (R122). -/
def frameElems (ty count : Nat) (data : List Byte) : List Nat :=
  let sz := if ty = 0 || ty = 3 then 4 else 2
  (List.range count).map fun i => rdN data (sz * i) sz

/-- One level of the pairwise tree of R280. -/
def pairUp {α : Type} (f : α → α → α) : List α → List α
  | a :: b :: rest => f a b :: pairUp f rest
  | xs => xs
def pairTree {α : Type} (f : α → α → α) : Nat → List α → List α
  | 0, xs => xs
  | k + 1, xs => if xs.length ≤ 1 then xs else pairTree f k (pairUp f xs)
/-- The pairwise sum of a list of binary32 values; +0 for none (R280, R294). -/
def pairSum (xs : List W32) : W32 := (pairTree fAdd 64 xs).headD zero32

def LayerD.rowBytes (l : LayerD) : Nat := 64 / 2 ^ l.rowCode
/-- Columns one tile row holds (Table 9-4). -/
def LayerD.perRow (l : LayerD) : Nat :=
  if l.format = 1 then l.rowBytes * 2 else if l.format = 4 then l.rowBytes / 2 else if l.format = 5 then l.rowBytes / 4 else l.rowBytes
def LayerD.colTiles (l : LayerD) : Nat := cdiv l.inWidth l.perRow
def LayerD.rowTiles (l : LayerD) : Nat := cdiv l.outWidth 64
def LayerD.padCols (l : LayerD) : Nat := l.colTiles * l.perRow
/-- 32-column groups or blocks of a row over the padded column count (R283). -/
def LayerD.groups (l : LayerD) : Nat := l.padCols / 32
def LayerD.isFp8 (l : LayerD) : Bool := l.format == 2 || l.format == 3
/-- Byte offset of the multipliers and of the biases in the parameter table (R283). -/
def LayerD.mulOff (l : LayerD) : Nat := l.paramOffset + (if l.isFp8 then l.outWidth * l.groups else 0)
def LayerD.mulCount (l : LayerD) : Nat := if l.format = 1 then l.outWidth * l.groups else l.outWidth
def LayerD.biasOff (l : LayerD) : Nat := l.mulOff + 4 * l.mulCount

/-- Encodings of the tile row k of tile t, with a delta's replaced weights (R284, R302). -/
def tileRow (h : HeadImg) (l : LayerD) (t k : Nat) (dl : List PDeltaEntry) : List Nat :=
  let bs := sliceB h.sect (h.tileOffset + 4096 * (l.tileIndex + t) + 64 * k) l.rowBytes
  (List.range l.perRow).map fun e =>
    let base :=
      if l.format = 1 then (bs.getD (e / 2) 0).toNat / 16 ^ (e % 2) % 16
      else if l.format = 4 then rdN bs (2 * e) 2
      else (bs.getD e 0).toNat
    match dl.find? fun x => x.row == k && x.elem == e && !x.scale with
    | some x => x.value.toNat % (if l.format = 1 then 16 else if l.format = 4 then 65536 else 256)
    | none => base

/-- The listed scale of a row (and group) in a tile's delta, or the base's (R301, R302). -/
def scaleOr (dl : List PDeltaEntry) (k lo hi : Nat) (base : W32) : W32 :=
  match dl.find? fun x => x.row == k && x.scale && lo ≤ x.elem && x.elem ≤ hi with
  | some x => x.value
  | none => base

def signed (bits n : Nat) : Int := if n < 2 ^ (bits - 1) then (n : Int) else (n : Int) - 2 ^ bits

/-- Products of weights and inputs summed exactly. -/
def dotInt : List Int → List Int → Int
  | w :: ws, q :: qs => w * q + dotInt ws qs
  | _, _ => 0
/-- d = fl(d + w q) with each product exact (R279). -/
def dotF : W32 → List FV → List FV → W32
  | d, w :: ws, q :: qs => dotF (fAddV d (w.mul q)) ws qs
  | d, _, _ => d

/-- Consecutive parts of n elements, k of them. -/
def chunksOf {α : Type} (n : Nat) : Nat → List α → List (List α)
  | 0, _ => []
  | k + 1, xs => xs.take n :: chunksOf n k (xs.drop n)

def e8 (n : Nat) : Int := (n : Int) - 127

/-- Pre-activations y_r of a resident layer (R276, R278 to R280); delta gives each tile's entries. -/
def layerPre (h : HeadImg) (l : LayerD) (delta : Nat → List PDeltaEntry) (xs : List W32) : List W32 :=
  let cols := l.padCols
  let xs := xs.take l.inWidth ++ List.replicate (cols - min cols (xs.take l.inWidth).length) zero32
  let per := l.perRow
  let C := l.colTiles
  let qi : List (List Int) := if l.format ≤ 1 then chunksOf per C (xs.map fun x => toInt8 x l.invScale) else []
  let e5 := l.format == 3
  let blocks := if l.isFp8 then chunksOf 32 (cols / 32) xs else []
  let xa := blocks.map (fp8Exp e5)
  let q8 : List (List FV) := if l.isFp8 then
      (blocks.zip xa).map fun (b, x) => b.map fun v => fp8Round e5 ((dec32 v).mul (.fin false 1 (-x))) else []
  let qb : List (List FV) := if l.format = 4 then chunksOf per C (xs.map toBf16) else []
  (List.range l.outWidth).map fun R =>
    let i := R / 64
    let k := R % 64
    let G := l.groups
    let bias := rd32 h.sect (l.biasOff + 4 * R)
    let tileNo := fun j => i * C + j
    let m := (List.range C).foldl (fun m j => if l.isFp8 then m else scaleOr (delta (tileNo j)) k 0 0 m) (rd32 h.sect (l.mulOff + 4 * R))
    if l.format = 0 then
      let acc := (List.range C).foldl (fun a j =>
        a + dotInt ((tileRow h l (tileNo j) k (delta (tileNo j))).map (signed 8)) (qi.getD j [])) 0
      fAdd (fMul (intF32 acc) m) bias
    else if l.format = 1 then
      let parts := (List.range C).map fun j =>
        let ws := chunksOf 32 (per / 32) ((tileRow h l (tileNo j) k (delta (tileNo j))).map (signed 4))
        let qs := chunksOf 32 (per / 32) (qi.getD j [])
        (List.range (per / 32)).foldl (fun p g =>
          let gm := scaleOr (delta (tileNo j)) k (32 * g) (32 * g + 31) (rd32 h.sect (l.mulOff + 4 * (R * G + j * (per / 32) + g)))
          fAdd p (fMul (intF32 (dotInt (ws.getD g []) (qs.getD g []))) gm)) zero32
      fAdd (pairSum parts) bias
    else if l.isFp8 then
      let parts := (List.range C).map fun j =>
        let dec := if e5 then decE5M2 else decE4M3
        let ws := chunksOf 32 (per / 32) ((tileRow h l (tileNo j) k (delta (tileNo j))).map dec)
        (List.range (per / 32)).foldl (fun p g =>
          let b := j * (per / 32) + g
          let base := BitVec.ofNat 32 (rdN h.sect (l.paramOffset + R * G + b) 1)
          let xw := e8 ((scaleOr (delta (tileNo j)) k (32 * g) (32 * g + 31) base).toNat % 256)
          fAdd p (fScale (dotF zero32 (ws.getD g []) (q8.getD b [])) (xw + xa.getD b 0))) zero32
      fAdd (fMul (pairSum parts) m) bias
    else
      let parts := (List.range C).map fun j =>
        dotF zero32 ((tileRow h l (tileNo j) k (delta (tileNo j))).map decBf16) (qb.getD j [])
      fAdd (fMul (pairSum parts) m) bias

/-- 1 / (1 + e^-v) of a finite value, in fixed point. -/
def logisticFx (neg : Bool) (m : Nat) (e : Int) : Nat :=
  if fxOf m e ≥ 140 * fxOne then (if neg then 0 else fxOne)
  else fxOne * fxOne / (fxOne + expFx (!neg) m e)

/-- tanh-form GELU of a finite value, in signed fixed point: x times logistic(2u), u = sqrt(2/pi) (x + 0.044715 x^3) (R285). -/
def geluFx (neg : Bool) (m : Nat) (e : Int) : Int :=
  let x := fxOf m e
  let c := 797884560802865355879892119868763736951717262329869315331851659 * fxOne / 10 ^ 63
  let cub := x * x / fxOne * x / fxOne * 44715 / 1000000
  let u2 := 2 * c * (x + cub) / fxOne
  let lg := if u2 ≥ 140 * fxOne then (if neg then 0 else fxOne) else fxOne * fxOne / (fxOne + expFx (!neg) u2 (-(fxP : Int)))
  let r := x * lg / fxOne
  if neg then -(r : Int) else r

/-- Linear interpolation between the 1,025 knots of a table over [-16, 16), whose values are free; x lies in the range (R285, log 6). -/
def tabled (knot : Nat → W32) (x : W32) (neg : Bool) (m : Nat) (e : Int) : W32 :=
  let a := fxOf m e
  let k := (if neg then 16 * fxOne - min a (16 * fxOne) else 16 * fxOne + a) * 32 / fxOne
  let xk := fMul (intF32 ((k : Int) - 512)) 0x3D000000#32
  fAdd (knot k) (fMul (fSub x xk) (fMul (fSub (knot (k + 1)) (knot k)) 0x42000000#32))
/-- The activations of R285; the tabled functions stay within their error bound. -/
def actFn (a : Nat) (x : W32) : W32 :=
  match a with
  | 0 => x
  | 1 => if (dec32 x).isNan then nan32 else if fLt? zero32 x = some true then x else zero32
  | _ =>
    match dec32 x with
    | .nan => nan32
    | .inf n => if n then zero32 else if a = 2 then x else 0x3F800000#32
    | .fin n m e =>
      if fLt? x 0xC1800000#32 = some true then zero32
      else if fLt? x 0x41800000#32 ≠ some true then (if a = 2 then x else 0x3F800000#32)
      else if a = 2 then boundedAbs 13 (tabled Config.geluKnot x n m e) (geluFx n m e)
      else boundedAbs 13 (tabled Config.sigmoidKnot x n m e) (logisticFx n m e)

/-- The PWL table lookup of R298. -/
def pwlFn (t : PwlTable) (s : W32) : W32 :=
  if fLt? s (t.xs.headD zero32) = some true then t.ys.headD zero32
  else if fLt? s (t.xs.getD 64 zero32) ≠ some true then t.ys.getD 64 zero32
  else
    let k := ((List.range 64).filter fun i => fLt? s (t.xs.getD i zero32) ≠ some true).getLastD 0
    fAdd (t.ys.getD k zero32) (fMul (fSub s (t.xs.getD k zero32)) (t.ss.getD k zero32))

/-- The larger of two values, no NaN among them. -/
def fMax (a b : W32) : W32 := if fLt? a b = some true then b else a

def expFn (s : W32) : W32 :=
  match dec32 s with
  | .nan => nan32
  | .inf n => if n then zero32 else inf32 false
  | .fin n m e =>
    if !n && fxOf m e * 10000 > 887228 * fxOne then inf32 false
    else if n && fxOf m e * 100 > 10328 * fxOne then zero32
    else boundedRel 20 (Config.freeExp s) (expFx n m e)

def logisticFn (s : W32) : W32 :=
  match dec32 s with
  | .nan => nan32
  | .inf n => if n then zero32 else 0x3F800000#32
  | .fin n m e => boundedRel 20 (Config.freeLogistic s) (logisticFx n m e)

/-- Softmax (Table 9-10, R520). -/
def softmaxFn (ss : List W32) : List W32 :=
  let isPInf := fun s : W32 => s == inf32 false
  let isNInf := fun s : W32 => s == inf32 true
  if ss.any fIsNan || ss.any isPInf || ss.all isNInf then ss.map fun _ => nan32
  else
    let fins := ss.filter fun s => !isNInf s
    let M := fins.foldl fMax (fins.headD zero32)
    let term := fun s : W32 =>
      match (dec32 s).add (dec32 M).neg with
      | .fin n m e => if fxOf m e ≥ 140 * fxOne then 0 else if m = 0 then fxOne else expFx n m e
      | _ => 0
    let sum := sumBy term fins
    ss.mapIdx fun i s => if isNInf s then zero32 else boundedRel 18 (Config.freeSoftmax ss i) (term s * fxOne / max sum 1)

/-- Link functions (Table 9-10): the scores, and whether NAN_SEEN is set. -/
def linkFn (code : Nat) (pwl : PwlTable) (ss : List W32) : List W32 × Bool :=
  let out :=
    if code = 2 then softmaxFn ss
    else ss.map fun s => if fIsNan s then nan32
      else if code = 1 then logisticFn s else if code = 3 then expFn s else if code = 4 then pwlFn pwl s else s
  (out, out.any fIsNan)

/-- A NaN among a layer's inputs, or one that arises when they are scaled for their conversion (R277). -/
def layerNan (l : LayerD) (xs : List W32) : Bool :=
  xs.any fun x => fIsNan x || (l.mode ≠ 2 && l.format ≤ 1 && fIsNan (fMul x l.invScale))
/-- The scores of a head from its last layer; a NaN in any of them makes every output NaN (R277). -/
def headOut (h : HeadImg) (ys : List W32) : List W32 × Bool :=
  let r := if ys.any fIsNan then (ys, true) else linkFn h.link h.pwl ys
  if r.2 then (List.replicate h.nOut nan32, true) else r
/-- Layers from index k on; the input list holds the previous layer's activated outputs. NaN inputs stop the conversion (R277). -/
def runLayers (h : HeadImg) (delta : Nat → Nat → List PDeltaEntry) : Nat → List LayerD → List W32 → List W32
  | _, [], xs => xs
  | k, l :: ls, xs =>
    if layerNan l xs then List.replicate h.nOut nan32
    else runLayers h delta (k + 1) ls ((layerPre h l (delta k) xs).map (actFn l.act))

/-- A head whose layers are all resident (R283 to R285). -/
def headScores (h : HeadImg) (delta : Nat → Nat → List PDeltaEntry) (xs : List W32) : List W32 × Bool :=
  headOut h (runLayers h delta 0 h.layers (xs.take h.inWidth))

/-- A head whose layer 0 came back from the stack: g is the gather layer's sums, or the gather delta's differences (R288, R303). -/
def headScoresGather (h : HeadImg) (delta : Nat → Nat → List PDeltaEntry) (xs g : List W32) : List W32 × Bool :=
  match h.layers with
  | [] => ([], false)
  | l :: ls =>
    let y := if l.mode = 2 then (List.range l.outWidth).map fun r => fAdd (g.getD r zero32) (rd32 h.sect (l.biasOff + 4 * r))
      else (layerPre h l (delta 0) (xs.take h.inWidth)).mapIdx fun r v => fAdd v (g.getD r zero32)
    let y := y.map (actFn l.act)
    headOut h (if layerNan l (xs.take h.inWidth) || y.any fIsNan then List.replicate h.nOut nan32 else runLayers h delta 1 ls y)

/-- A tree delta's replacement for node n: kind and value (R304). -/
def bucketOf (d : TDeltaBase) (n : Nat) : Option (Nat × W32) :=
  match d.buckets[(n * d.mult % 2 ^ 32) >>> 19]? with
  | some w => if bit w 27 && fld w 26 0 == n then some (fld w 28 28, BitVec.ofNat 32 (fld w 63 32)) else none
  | none => none

/-- The walk of R293 from node n: the leaf value and whether a compare met a NaN. -/
def walkTree (e : EnsImg) (d : Option TDeltaBase) (f : Feats) : Nat → Nat → Bool → W32 × Bool
  | 0, _, nan => (zero32, nan)
  | fuel + 1, n, nan =>
    match e.nodes[n]? with
    | none => (zero32, nan)
    | some w =>
      let v := match d.bind (bucketOf · n) with | some (_, x) => x | none => BitVec.ofNat 32 (fld w 63 32)
      if bit w 0 then (v, nan)
      else
        let raw := f.raw.getD (fld w 14 1) 0
        let right := n + fld w 31 16
        if e.integer then
          if (BitVec.ofNat 32 raw).toInt < v.toInt then walkTree e d f fuel (n + 1) nan else walkTree e d f fuel right nan
        else
          let x := featF32 f.ty raw
          if fIsNan x then walkTree e d f fuel right true
          else if fLt? x v = some true then walkTree e d f fuel (n + 1) nan else walkTree e d f fuel right nan

/-- P_c for each class and the NaN indication (R294). -/
def ensPartials (e : EnsImg) (d : Option TDeltaBase) (f : Feats) : List W32 × Bool :=
  let walks := e.dir.map fun (root, c) => (c, walkTree e d f 33 root false)
  ((List.range e.nClasses).map fun c => pairSum ((walks.filter fun w => w.1 == c).map fun w => w.2.1), walks.any fun w => w.2.2)

/-- Scores of an ensemble from its partials (R294). -/
def ensScores (e : EnsImg) (p : List W32) (nan : Bool) : List W32 × Bool :=
  let (ys, n2) := linkFn e.link e.pwl ((List.range e.nClasses).map fun c => fAdd (e.base.getD c zero32) (p.getD c zero32))
  (ys, nan || n2)

/-- One accumulator value folded (R289): mode 1 max, 2 and 3 sum. -/
def foldAcc (mode : Nat) (a x : W32) : W32 :=
  if mode = 1 then (if fIsNan a || fIsNan x then nan32 else fMax a x) else fAdd a x

/-- fl(sum / n) for a mean: the quotient rounded to nearest, ties to even. -/
def fDivN (a : W32) (n : Nat) : W32 :=
  match dec32 a with
  | .fin s m e => if n = 0 then nan32 else
      let q := m * 2 ^ 64 / n
      let sticky := if m * 2 ^ 64 % n = 0 then 0 else 1
      enc32 (.fin s (2 * q + sticky) (e - 65))
  | .inf s => inf32 s
  | .nan => nan32

end Sys2Proof.Machine
end

