-- ==== Sys2Proof/Machine/Masks.lean ====
section
/-! DEFINITION. Masks: format, canonical encoding, combination and grammar advance (R179 to R196, R201). -/

namespace Sys2Proof.Machine

/-- Blocks of 512 tokens of a vocabulary of n tokens (R179). -/
def maskBlocks (n : Nat) : Nat := cdiv n 512
/-- Bytes of a summary over b blocks (R180). -/
def summaryBytes (b : Nat) : Nat := 8 * cdiv b 32
/-- All tokens below n. -/
def allBits (n : Nat) : Nat := 2 ^ n - 1

def Mask.none (n : Nat) : Mask := ⟨n, 0⟩
def Mask.all (n : Nat) : Mask := ⟨n, allBits n⟩
def Mask.single (n t : Nat) : Mask := ⟨n, if t < n then 2 ^ t else 0⟩
def Mask.empty (m : Mask) : Bool := m.bits == 0
def Mask.has (m : Mask) (t : Nat) : Bool := m.bits.testBit t
def Mask.and (a b : Mask) : Mask := ⟨a.n, a.bits &&& b.bits⟩
def Mask.andNot (a b : Mask) : Mask := ⟨a.n, a.bits &&& (allBits a.n ^^^ (b.bits &&& allBits a.n))⟩

/-- The tokens of block j, as a 512-bit number. -/
def Mask.block (m : Mask) (j : Nat) : Nat := (m.bits >>> (512 * j)) % 2 ^ 512
/-- The ids of block j that lie below n. -/
def fullBlock (n j : Nat) : Nat := 2 ^ min 512 (n - 512 * j) - 1
/-- Canonical code of block j: 0 all denied, 1 all allowed, 2 mixed (R180, R182). -/
def Mask.code (m : Mask) (j : Nat) : Nat :=
  if m.block j = 0 then 0 else if m.block j = fullBlock m.n j then 1 else 2
def Mask.mixed (m : Mask) : Nat := ((List.range (maskBlocks m.n)).filter fun j => m.code j == 2).length
def Mask.mixedBlocks (m : Mask) : List Nat := (List.range (maskBlocks m.n)).filter fun j => m.code j == 2

/-- The canonical bytes of a mask (R179 to R182). -/
def Mask.encode (m : Mask) : List Byte :=
  let b := maskBlocks m.n
  let codes := (List.range b).map m.code
  let summary := (List.range (summaryBytes b)).map fun i =>
    BitVec.ofNat 8 ((List.range 4).foldl (fun a q => a + (codes.getD (4 * i + q) 0) * 4 ^ q) 0)
  summary ++ ((List.range b).filter fun j => m.code j == 2).flatMap fun j => natToBytes 64 (m.block j)
/-- Length in 8-byte words (Table 6-9). -/
def Mask.words (m : Mask) : Nat := summaryBytes (maskBlocks m.n) / 8 + 8 * m.mixed

/-- Summary code of block j in a mask's bytes. -/
def rawCode (bs : List Byte) (j : Nat) : Nat := ((bs.getD (j / 4) 0).toNat / 4 ^ (j % 4)) % 4
/-- Length that a mask's summary implies over b blocks. -/
def rawLen (b : Nat) (bs : List Byte) : Nat :=
  summaryBytes b + 64 * ((List.range b).filter fun j => rawCode bs j == 2).length

/-- The blocks of a mask read from its bytes, or none on code 11. -/
def decodeBlocks (n : Nat) (bs : List Byte) : Nat → Nat → Nat → Nat → Option Nat
  | 0, _, _, acc => some acc
  | f + 1, j, off, acc =>
    match rawCode bs j with
    | 0 => decodeBlocks n bs f (j + 1) off acc
    | 1 => decodeBlocks n bs f (j + 1) off (acc + fullBlock n j * 2 ^ (512 * j))
    | 2 => decodeBlocks n bs f (j + 1) (off + 64) (acc + rdN bs off 64 * 2 ^ (512 * j))
    | _ => none

/-- A mask read from bytes: length as the summary implies, no code 11, padding codes 00, no bit at or above n (R184, R197). -/
def decodeMask (n : Nat) (bs : List Byte) : Option Mask :=
  let b := maskBlocks n
  let sb := summaryBytes b
  if bs.length = rawLen b bs && sb ≤ bs.length
      && (List.range (4 * sb)).all (fun j => j < b || rawCode bs j == 0) then
    match decodeBlocks n bs b 0 sb 0 with
    | some x => if x < 2 ^ n then some ⟨n, x⟩ else none
    | none => none
  else none

/-- A mask in canonical form (R182): encoding what it decodes to gives it back. -/
def canonicalMask (n : Nat) (bs : List Byte) : Option Mask :=
  match decodeMask n bs with
  | some m => if m.encode = bs then some m else none
  | none => none

/-- G AND A AND-NOT B; a missing A allows all, a missing B denies nothing (R196). -/
def composeMask (g : Mask) (a b : Option Mask) : Mask :=
  let x := match a with | some m => g.and m | none => g
  match b with | some m => x.andNot m | none => x

/-- The grammar part of a stream's state (Table 6-6): state, pushed symbols (deepest last), dead. -/
structure Gram where
  state : Nat
  stack : List Nat
  dead : Bool
  deriving DecidableEq, Repr, Inhabited

def Gram.start (g : GrammarImg) : Gram := ⟨g.startState, [], false⟩

/-- The grammar part of the stream state, with the word of its allow list (Table 6-6). -/
def gramRow (g : Option Gram) (al : Nat) : List Byte :=
  match g with
  | some g =>
    wordsBytes [w64 [(g.state, 0), (g.stack.length, 22), (b2n g.dead, 28)], BitVec.ofNat 64 al]
      ++ (g.stack.take 48).map (BitVec.ofNat 8) ++ List.replicate (48 - g.stack.length) 0#8
  | none => List.replicate 64 0#8
def readGram (bs : List Byte) : Gram :=
  let w := rd64 bs 0
  ⟨fld w 21 0, ((bs.drop 16).take (fld w 27 22)).map (·.toNat), bit w 28⟩

/-- The transition of a state for a class (R187). -/
def findTrans (g : GrammarImg) (st cls : Nat) : Option GTrans :=
  match g.states[st]? with
  | some s => ((g.trans.drop s.first).take s.count).find? fun t => t.cls == cls
  | none => none

/-- The step of R193 on token t; escape tells whether the escape mask allows t. -/
def advance (g : GrammarImg) (escape : Bool) (st : Gram) (t : Nat) : Gram :=
  let settle (x : Gram) : Gram :=
    match g.states[x.state]? with
    | some s => if s.dead then { x with dead := true } else x
    | none => { x with dead := true }
  if st.dead then
    if g.deadPolicy = .escapeSet && escape then ⟨g.escapeState, [], false⟩ else st
  else
    match findTrans g st.state (g.classMap.getD t 0) with
    | none => { st with dead := true }
    | some e =>
      if e.action = 1 then
        if st.stack.length = g.maxDepth then { st with dead := true }
        else settle ⟨e.next, st.stack ++ [e.sym], st.dead⟩
      else if e.action = 2 then
        if st.stack.length = 0 then { st with dead := true }
        else settle ⟨g.returns.getD (st.stack.getLastD 0) 0, st.stack.dropLast, st.dead⟩
      else settle { st with state := e.next }

/-- The dead-end mask of Table 6-7; esc is the escape mask, b the ban mask. -/
def deadEndMask (p : DeadPolicy) (n eos : Nat) (esc : Mask) (b : Option Mask) : Mask :=
  match p with
  | .eosOnly => Mask.single n eos
  | .escapeSet =>
    let x := composeMask esc none b
    if x.empty then Mask.single n eos else x
  | .failStream => Mask.none n

end Sys2Proof.Machine
end

