-- ==== Sys2Proof/Machine/Matcher.lean ====
section
/-! DEFINITION. The associative store: keys, well-formed records, ordered search (R234 to R254, R257 to R260). -/

namespace Sys2Proof.Machine

/-- An entry as a bank holds it: its shadow record, valid, written since its invalidation, the entry tag of a shift's copies (R249), the
value and care bits the ternary array holds, which bit flips part from the shadow's (R257, R258), whether the shadow is uncorrectable (R259),
and the place of its record in the set's master (R246, log 35). -/
structure BEntry where
  unit : Nat
  rec_ : EntryRec
  valid : Bool
  written : Bool
  tag : Nat
  arrV : Nat
  arrC : Nat
  shadowBad : Bool
  place : Nat
  deriving DecidableEq, Repr, Inhabited

/-- An entry written: array and shadow hold its record. -/
def BEntry.put (unit : Nat) (r : EntryRec) (valid : Bool) (tag place : Nat) : BEntry :=
  { unit := unit, rec_ := r, valid := valid, written := true, tag := tag, arrV := r.value, arrC := r.care, shadowBad := false, place := place }
/-- The array agrees with the shadow. -/
def BEntry.sound (e : BEntry) : Bool := e.arrV == e.rec_.value && e.arrC == e.rec_.care
/-- Units of an entry of a bank's width whose array differs from the shadow (R258). -/
def BEntry.differing (e : BEntry) (w : Nat) : Nat :=
  ((List.range w).filter fun i => ((e.arrV ^^^ e.rec_.value) ||| (e.arrC ^^^ e.rec_.care)) >>> (72 * i) % 2 ^ 72 ≠ 0).length
/-- The array rewritten from the shadow (R258). -/
def BEntry.rewritten (e : BEntry) : BEntry := { e with arrV := e.rec_.value, arrC := e.rec_.care }

/-- Keys of Table 8-1. -/
def tokenKey (tenant tok : Nat) : Nat := 2 * 2 ^ 70 + tenant * 2 ^ 58 + tok
def hashKey (tenant len hash : Nat) : Nat := 2 ^ 70 + tenant * 2 ^ 58 + (len - 1) * 2 ^ 48 + hash
def slotsKey : Nat → List Nat → Nat
  | _, [] => 0
  | i, t :: ts => t * 2 ^ (19 * i) + slotsKey (i + 1) ts
/-- Phrase key: slot 0 is the most recent token (R238). -/
def phraseKey (width tenant : Nat) (window : List Nat) : Nat :=
  if width = 2 then tenant * 2 ^ 132 + slotsKey 0 (window.take 6)
  else tenant * 2 ^ 276 + slotsKey 0 (window.take 14)
def windowKey (width tenant : Nat) (window : List Nat) : Nat :=
  if width = 1 then tokenKey tenant (window.headD 0) else phraseKey width tenant window

/-- Token slots of a phrase width. -/
def phraseSlots (width : Nat) : Nat := if width = 2 then 6 else 14
def keyFld (x hi lo : Nat) : Nat := (x >>> lo) % 2 ^ (hi + 1 - lo)
def slotCare (e : EntryRec) (i : Nat) : Nat := keyFld e.care (19 * i + 18) (19 * i)
def slotVal (e : EntryRec) (i : Nat) : Nat := keyFld e.value (19 * i + 18) (19 * i)
/-- Type field of a width-1 entry. -/
def entryType (e : EntryRec) : Nat := keyFld e.value 71 70

/-- Well formed as R244 says; the lengths of a token and of a hash are those of Table 8-2. -/
def entryOk (width : Nat) (e : EntryRec) : Bool :=
  e.reservedOk && (e.value &&& e.care) == e.value
  && (if width = 1 then
        keyFld e.care 71 70 == 3 && (entryType e == 1 || entryType e == 2)
        && (if entryType e == 2 then keyFld e.care 57 19 == 2 ^ 39 - 1 && keyFld e.value 57 19 == 0
              && slotCare e 0 == 2 ^ 19 - 1 && e.length == 1
            else e.length == 0)
      else
        let n := phraseSlots width
        let (rhi, rlo) : Nat × Nat := if width = 2 then (131, 114) else (275, 266)
        keyFld e.care rhi rlo == 2 ^ (rhi + 1 - rlo) - 1 && keyFld e.value rhi rlo == 0
        && 1 ≤ e.length && e.length ≤ n
        && (List.range n).all fun i => slotCare e i == (if i < e.length then 2 ^ 19 - 1 else 0))

/-- Whether the fill token stands in a cared slot (R241). -/
def holdsFill (width fill : Nat) (e : EntryRec) : Bool :=
  if width = 1 then entryType e == 2 && slotVal e 0 == fill
  else (List.range e.length).any fun i => slotVal e i == fill

/-- An entry of a set in the mask whose cared bits, as the array holds them, equal the key's (R247). -/
def entryHit (sets key : Nat) (e : BEntry) : Bool :=
  e.valid && sets.testBit e.rec_.set && (key &&& e.arrC) == (e.arrV &&& e.arrC)
/-- The re-read of a match: the shadow key disagrees with the search key, so the match is false (R257). -/
def falseMatch (key : Nat) (e : BEntry) : Bool := (key &&& e.rec_.care) != e.rec_.value

/-- A match in order: global unit index and the entry. -/
abbrev Hit := Nat × BEntry

/-- Order of R248: higher priority, then lower global unit index. -/
def hitKey (h : Hit) : Nat := (4095 - h.2.rec_.priority) * 2 ^ 20 + h.1

/-- The matches of one bank. -/
def bankHits (bank sets key : Nat) (es : List BEntry) : List Hit :=
  (es.filter (entryHit sets key)).map fun e => (bank * 2048 + e.unit, e)

/-- What a search gives its record (R249, R250, R257, R259). -/
structure SearchRes where
  full : List EntryRec
  pre : List EntryRec
  falseHit : Bool
  uncorr : Bool
  /-- entries whose false hit was found, and those whose shadow could not be corrected, by global unit -/
  bad : List Nat
  lost : List Nat
  slots : Nat
  deriving DecidableEq, Repr, Inhabited

/-- The copy of an entry in a dual set: the same pattern, and the same kind of entry, so that a prefix match never hides the full match of
its pattern (R249, R260, Table 8-8; log 25). -/
def dualCopy (x e : BEntry) : Bool :=
  x.rec_.pattern == e.rec_.pattern && x.rec_.isPrefix == e.rec_.isPrefix && (!e.rec_.isPrefix || x.rec_.length == e.rec_.length)
/-- Whether a match belongs to the same entry as one taken: the copy of a shift, or the copy of a dual set (R249). -/
def sameEntry (dual : Bool) (taken : List BEntry) (e : BEntry) : Bool :=
  taken.any fun x => x.tag == e.tag || (dual && dualCopy x e)

/-- The stepping of R250: at most 8 steps, until depth full matches are taken. A match whose shadow is uncorrectable leaves no result
(R259). -/
def stepHits (key depth : Nat) (dual : Bool) : Nat → List Hit → List BEntry → SearchRes → SearchRes
  | 0, _, _, r => r
  | _ + 1, [], _, r => r
  | f + 1, (u, e) :: hs, taken, r =>
    let r := { r with slots := r.slots + 1 }
    if e.shadowBad then { r with full := [], pre := [], uncorr := true, lost := [u] }
    else if falseMatch key e then stepHits key depth dual f hs taken { r with falseHit := true, bad := u :: r.bad }
    else if sameEntry dual taken e then stepHits key depth dual f hs taken r
    else if e.rec_.isPrefix then stepHits key depth dual f hs (e :: taken) { r with pre := r.pre ++ [e.rec_] }
    else
      let r := { r with full := r.full ++ [e.rec_] }
      if r.full.length ≥ depth then r else stepHits key depth dual f hs (e :: taken) r

/-- One search over the banks of a copy (or of both copies of a dual set). -/
def searchHits (key depth : Nat) (dual : Bool) (hits : List Hit) : SearchRes :=
  stepHits key depth dual 8 (sortAsc hitKey hits) [] default

end Sys2Proof.Machine
end

