-- ==== Sys2Proof/Machine/Tokenizer.lean ====
section
/-! DEFINITION. Byte automata, UTF-8, pre-tokens, merge-rank and longest-match tokenizing (R160 to R177, R239, R265). -/

namespace Sys2Proof.Machine

/-- One byte step of an automaton (R265). -/
def autoStep (a : AutoImg) (s : Nat) (b : Byte) : Nat :=
  let c := a.classMap.getD b.toNat 0
  match a.states[s]? with
  | none => a.startState
  | some st =>
    match a.cells[st.base + c]? with
    | some (next, check) => if check = s then next else st.dflt
    | none => st.dflt

/-- Accept entries of a state. -/
def autoAccepts (a : AutoImg) (s : Nat) : List AutoAccept :=
  match a.states[s]? with
  | some st => (a.accepts.drop st.accFirst).take st.accCount
  | none => []
def autoHold (a : AutoImg) (s : Nat) : Nat :=
  match a.states[s]? with
  | some st => st.hold
  | none => 0

/-- Accepts met while running over bytes, each with the count of bytes taken, and the state at the end. -/
def autoRun (a : AutoImg) : Nat → Nat → List Byte → List (Nat × AutoAccept) × Nat
  | s, _, [] => ([], s)
  | s, k, b :: bs =>
    let s' := autoStep a s b
    let (ms, e) := autoRun a s' (k + 1) bs
    ((autoAccepts a s').map (fun x => (k + 1, x)) ++ ms, e)

/-- Bytes that may follow in a UTF-8 sequence: its length and the range of the second byte, or none for an invalid lead (Table 5-4). -/
def utf8Lead (b : Nat) : Option (Nat × Nat × Nat) :=
  if b < 0x80 then some (1, 0, 0)
  else if b < 0xC2 then none
  else if b < 0xE0 then some (2, 0x80, 0xBF)
  else if b = 0xE0 then some (3, 0xA0, 0xBF)
  else if b = 0xED then some (3, 0x80, 0x9F)
  else if b < 0xF0 then some (3, 0x80, 0xBF)
  else if b = 0xF0 then some (4, 0x90, 0xBF)
  else if b < 0xF4 then some (4, 0x80, 0xBF)
  else if b = 0xF4 then some (4, 0x80, 0x8F)
  else none

/-- How many bytes of bs continue a sequence: stops at the first byte outside its range; lo and hi bound the next byte. -/
def utf8Take : Nat → Nat → Nat → List Byte → Nat
  | 0, _, _, _ => 0
  | _ + 1, _, _, [] => 0
  | k + 1, lo, hi, b :: bs => if lo ≤ b.toNat && b.toNat ≤ hi then 1 + utf8Take k 0x80 0xBF bs else 0

/-- A scanned byte: its value, whether it is valid, whether it starts a character. -/
structure ByteInfo where
  b : Byte
  ok : Bool
  startsChar : Bool
  deriving DecidableEq, Repr, Inhabited

/-- The scan of R163: bytes with validity, and the incomplete valid tail (empty when final). -/
def utf8Scan (final : Bool) : Nat → List Byte → List ByteInfo × List Byte
  | 0, _ => ([], [])
  | _ + 1, [] => ([], [])
  | f + 1, b :: bs =>
    match utf8Lead b.toNat with
    | none => let (r, t) := utf8Scan final f bs; (⟨b, false, true⟩ :: r, t)
    | some (n, lo, hi) =>
      let k := utf8Take (n - 1) lo hi bs
      if k = n - 1 then
        let (r, t) := utf8Scan final f (bs.drop k)
        (⟨b, true, true⟩ :: (bs.take k).map (fun x => ⟨x, true, false⟩) ++ r, t)
      else if bs.length = k && !final then ([], b :: bs)
      else
        let (r, t) := utf8Scan final f (bs.drop k)
        ((b :: bs.take k).map (fun x => ⟨x, false, true⟩) ++ r, t)

def scanBytes (final : Bool) (bs : List Byte) : List ByteInfo × List Byte := utf8Scan final (bs.length + 1) bs

/-- A pre-token: its bytes and whether they are valid (R161, R163). -/
structure PreTok where
  bytes : List Byte
  ok : Bool
  deriving DecidableEq, Repr, Inhabited

/-- Index of the last character start in a list, at most 3 from its end (R161). -/
def lastStart (cur : List ByteInfo) : Nat :=
  let n := cur.length
  if (cur.getD (n - 1) default).startsChar then n - 1
  else if (cur.getD (n - 2) default).startsChar then n - 2
  else if (cur.getD (n - 3) default).startsChar then n - 3 else n

/-- Splits scanned bytes into pre-tokens; the state is the pre-token automaton's, cur the bytes gathered so far. Where the bytes are not all
in yet, the pre-token under way is not given. -/
def splitGo (a : AutoImg) (all : Bool) : Nat → List ByteInfo → List ByteInfo → List PreTok
  | _, cur, [] => if cur.isEmpty || !all then [] else [⟨cur.map (·.b), true⟩]
  | st, cur, x :: xs =>
    let st' := autoStep a st x.b
    let flush : List PreTok := if cur.isEmpty then [] else [⟨cur.map (·.b), true⟩]
    if !x.ok then flush ++ ⟨[x.b], false⟩ :: splitGo a all st' [] xs
    else
      let (out, cur1) : List PreTok × List ByteInfo :=
        if cur.length < 1024 then ([], cur)
        else
          let k := if x.startsChar then cur.length else lastStart cur
          ([⟨(cur.take k).map (·.b), true⟩], cur.drop k)
      let cur2 := cur1 ++ [x]
      if (autoAccepts a st').isEmpty then out ++ splitGo a all st' cur2 xs
      else out ++ ⟨cur2.map (·.b), true⟩ :: splitGo a all st' [] xs

/-- Rank and result of an adjacent pair (R164). -/
def mergeRank (ms : List (Nat × Nat × Nat)) (a b : Nat) : Option (Nat × Nat) :=
  let rec go : Nat → List (Nat × Nat × Nat) → Option (Nat × Nat)
    | _, [] => none
    | i, (x, y, r) :: rest => if x = a && y = b then some (i, r) else go (i + 1) rest
  go 0 ms

/-- Best pair of a list of pieces: rank, position, result; the leftmost among equals. -/
def bestPair (ms : List (Nat × Nat × Nat)) : Nat → List Nat → Option (Nat × Nat × Nat)
  | i, a :: b :: rest =>
    let tail := bestPair ms (i + 1) (b :: rest)
    match mergeRank ms a b with
    | none => tail
    | some (r, t) =>
      match tail with
      | some (r', i', t') => if r' < r then some (r', i', t') else some (r, i, t)
      | none => some (r, i, t)
  | _, _ => none

def mergeLoop (ms : List (Nat × Nat × Nat)) : Nat → List Nat → List Nat
  | 0, ps => ps
  | f + 1, ps =>
    match bestPair ms 0 ps with
    | none => ps
    | some (_, i, t) => mergeLoop ms f (ps.take i ++ t :: ps.drop (i + 2))

/-- The longest decode string of a matchable token that starts bs: its length and the lowest token id; the end-of-sequence token is special
and takes no part (R163, R165). -/
def longestMatch (v : VocabImg) (bs : List Byte) : Option (Nat × Nat) :=
  v.enc.matchable.foldl (fun best t =>
    let s := v.decode.getD t []
    if t = v.eos || s.isEmpty || !(s.isPrefixOf bs) then best
    else match best with
      | some (l, u) => if l < s.length || (l = s.length && t < u) then some (s.length, t) else best
      | none => some (s.length, t)) none

def longestLoop (v : VocabImg) : Nat → List Byte → List Nat
  | 0, _ => []
  | _ + 1, [] => []
  | f + 1, b :: bs =>
    match longestMatch v (b :: bs) with
    | some (l, t) => t :: longestLoop v f ((b :: bs).drop l)
    | none => v.byteTokens.getD b.toNat 0 :: longestLoop v f bs

/-- Tokens of a pre-token; no merge gives the end-of-sequence token (R163 to R165). -/
def preTokens (v : VocabImg) (p : PreTok) : List Nat :=
  if !p.ok then p.bytes.map fun b => v.byteTokens.getD b.toNat 0
  else if v.longest then longestLoop v p.bytes.length p.bytes
  else mergeLoop (v.enc.merges.filter fun m => m.2.2 != v.eos) p.bytes.length (p.bytes.map fun b => v.byteTokens.getD b.toNat 0)

/-- A produced token: id, invalid-byte mark, its bytes, and the whole pre-token on a valid pre-token's last token (R170, R251). -/
structure TokOut where
  id : Nat
  inv : Bool
  bytes : List Byte
  pre : Option (List Byte)
  deriving DecidableEq, Repr, Inhabited

def preTokOuts (v : VocabImg) (p : PreTok) : List TokOut :=
  let ids := preTokens v p
  let n := ids.length
  let rec go : Nat → List Nat → List Byte → List TokOut
    | _, [], _ => []
    | i, t :: ts, bs =>
      let l := if p.ok then (v.decode.getD t []).length else 1
      ⟨t, !p.ok, bs.take l, if p.ok && i + 1 = n then some p.bytes else none⟩ :: go (i + 1) ts (bs.drop l)
  go 0 ids p.bytes

/-- Pre-tokens of the bytes of one INGEST buffer that are in, behind the carry, and the new carry (R160 to R163, R168, R169). The pre-token
automaton starts at its start state and steps over the carried bytes too (DEDUCED, log 12). -/
def preToks (v : VocabImg) (carry data : List Byte) (all final : Bool) : List PreTok × List Byte :=
  let (infos, rest) := scanBytes (final && all) (carry ++ data)
  (splitGo v.pretoken all v.pretoken.startState [] infos, rest)
/-- Pre-tokens of the segment that begins a list: up to the first boundary at or after 512 bytes from its start, where that has come
(R151). -/
def segPre : Nat → List PreTok → Option Nat
  | _, [] => none
  | n, p :: ps => if 512 ≤ n + p.bytes.length then some 1 else (segPre (n + p.bytes.length) ps).map (· + 1)
/-- Tokens of one INGEST buffer behind the carry, and the new carry (R160 to R169). -/
def tokenize (v : VocabImg) (carry data : List Byte) (final : Bool) : List TokOut × List Byte :=
  let (ps, rest) := preToks v carry data true final
  (ps.flatMap (preTokOuts v), rest)

/-- The incomplete character at the end of output bytes (R176). -/
def charTail (bs : List Byte) : List Byte := (scanBytes false bs).2

/-- Character start offsets of output bytes, then their length; each invalid byte is a character, so is an incomplete tail (R177). -/
def charBounds (bs : List Byte) : List Nat :=
  let (infos, rest) := scanBytes false bs
  let n := infos.length
  ((List.range n).filter fun i => (infos.getD i default).startsChar) ++ (if rest.isEmpty then [] else [n]) ++ [bs.length]

/-- The 48-bit hash of a pre-token (R239). -/
def preHash (bs : List Byte) : Nat := (crc32c bs).toNat + ((crc32c bs.reverse).toNat % 65536) * 2 ^ 32

end Sys2Proof.Machine
end

