-- ==== Sys2Proof/Machine/Types.lean ====
section
/-! DEFINITION. The kinds of state the block holds: rings, streams, records, images, channels, budgets, logs and the rest, as plain data. -/

namespace Sys2Proof.Machine

/-- The configurations of Table 0-2. -/
inductive Cfg where
  | c4 | c8 | c16
  deriving DecidableEq, Repr, Inhabited

/-- What elaboration fixes: configuration, manufacturer code, patch level, the sampler's mask credit (R12, R484, R490, R497). -/
structure ElabS where
  cfg : Cfg
  mfr : BitVec 11
  fwPatch : Byte
  maskCredit : Nat
  deriving DecidableEq, Repr, Inhabited

/-- The fuses: four key hashes and states, ten anti-rollback counts (R450, R491). -/
structure FuseS where
  keyHash : List Nat
  keyState : List Nat
  rollback : List Nat
  deriving DecidableEq, Repr, Inhabited

/-- Writable register storage (Chapter 17); indexed registers are maps whose missing entries read 0. -/
structure RegS where
  coreClock : W32
  hostport : W32
  ringLo : W32
  ringHi : W32
  persistLo : W32
  persistHi : W32
  persistCfg : W32
  logLo : W32
  logHi : W32
  relayLo : W32
  relayHi : W32
  rangeMember : W32
  stackCfg : W32
  rtFloor : Byte
  region : AMap W32
  rclass : AMap W32
  tokMode : W32
  commitCap : W32
  govCtl : W32
  govTherm : W32
  irqEnable : W32
  vecLo : AMap W32
  vecHi : AMap W32
  vecData : AMap W32
  hangCtl : W32
  unlock : W32
  deriving DecidableEq, Repr, Inhabited

/-- START_STATUS.STATE (Table 14-3). -/
inductive StartPhase where
  | steps13 | awaiting | steps48 | complete | failed | safeMode
  deriving DecidableEq, Repr, Inhabited

/-- Beat, phase of the beat, latches and the last time value (R14, R56, R60, R488). -/
structure ClockS where
  beat : BitVec 48
  /-- phase of Table 2-1 last run: 0 intake, 1 compute, 2 seal, 3 release -/
  phase : Nat
  /-- the cycle the beat has reached, as far as an event has shown it (R60) -/
  cycle : Nat
  hiLatch : Nat
  offHiLatch : Nat
  lastTime : W64
  timeSteps : Nat
  stopPin : Bool
  stopCmd : Bool
  stopped : Bool
  deriving DecidableEq, Repr, Inhabited

/-- A completion entry before it is written (Table 3-4); late is set where the writer waited for room. -/
structure Cpl where
  tag : Nat
  index : Nat
  opcode : Nat
  kind : Nat
  stream : Nat
  resA : Nat
  resB : Nat
  status : Nat
  verdict : Nat
  flags : Nat
  pos : Nat
  irq : Bool
  since : Nat
  /-- jobs whose acknowledgement the commit word waits for (R112, R172) -/
  after : List Nat
  /-- the command it completes -/
  cmd : Nat := 0
  deriving DecidableEq, Repr, Inhabited

/-- An egress entry (Table 3-5). -/
structure EgEntry where
  pos : Nat
  verdict : Nat
  flags : Nat
  etype : Nat
  bytes : List Byte
  check : W32
  /-- what the check code also covers: token, policy and generation (R134, R135) -/
  token : Nat
  policy : Nat
  gen : Nat
  deriving DecidableEq, Repr, Inhabited

structure EgSection where
  stream : Nat
  slot : Nat
  entries : List EgEntry
  deriving DecidableEq, Repr, Inhabited

structure Batch where
  due : Nat
  step : Nat
  more : Bool
  since : Nat
  sections : List EgSection
  deriving DecidableEq, Repr, Inhabited

/-- A ring-table entry as kept (Table 3-1). -/
structure RingEntry where
  enable : Bool
  admin : Bool
  sqBase : Nat
  sqSize : Nat
  cqBase : Nat
  cqSize : Nat
  egBase : Nat
  egSize : Nat
  tenant : Nat
  anyTenant : Bool
  rclass : Nat
  vector : Nat
  irqEn : Bool
  verdictIrq : Bool
  attr : Nat
  holdoff : Nat
  reservedOk : Bool
  deriving DecidableEq, Repr, Inhabited

/-- A ring set (R91 to R100, R106 to R110). -/
structure Ring where
  entry : Option RingEntry
  faulted : Bool
  /-- cause the ring was marked faulted for (Table 17-8) -/
  cause : Nat
  halted : Bool
  /-- doorbells taken before the entry arrived -/
  early : List (Nat × Nat)
  sqTail : Nat
  sqHead : Nat
  sqPhase : Bool
  fetching : List Nat
  /-- descriptors that came ahead of an earlier one's read (R387, R475) -/
  came : AMap (List Byte)
  fetched : List Desc
  /-- re-reads made of the descriptor at the head (R100) -/
  reread : Option Nat
  stale : Bool
  cqHead : Nat
  cqTail : Nat
  cqPhase : Bool
  /-- entries taken and not returned, and those of them whose write is acknowledged (R98, Table 16-10) -/
  cqUsed : Nat
  cqDone : Nat
  cqPend : List Cpl
  egHead : Nat
  egTail : Nat
  egPhase : Bool
  egUsed : Nat
  egDone : Nat
  egPend : List Batch
  lastStep : Nat
  /-- entries gathered for step batches with the latest release beat, and for an out-of-step batch (stream, slot, entry) -/
  acc : AMap (Nat × List (Nat × Nat × EgEntry))
  loose : List (Nat × Nat × EgEntry)
  /-- entries that waited for their input verdict, to go with the first batch of its beat (R138, R139) -/
  waited : List (Nat × Nat × EgEntry)
  /-- entries that go with the ring's next batch (R145) -/
  next : List (Nat × Nat × EgEntry)
  resetAsked : Bool
  /-- handles and counts to report CANCELLED at the first doorbell after a start (R416) -/
  ghosts : List (Nat × Nat)
  deriving DecidableEq, Repr, Inhabited

/-- What a running command does (R105, R112). -/
inductive CmdK where
  | openS (h : Nat) (cairn : Option Nat) (left : Nat) (loads : List (Nat × List Byte)) (bad : Nat)
  | closeS (h : Nat)
  | ingest (h : Nat)
  | bindS (h : Nat)
  | cancelC (h : Nat)
  /-- since: the beat the wait began; once the record is being written, the position saved -/
  | saveC (h : Nat) (handle : Nat) (since : Nat) (stage : Nat) (loc : Nat) (gen : Nat)
  | resumeC (h : Nat) (handle : Nat) (loads : List (Nat × List Byte))
  | retireC (handle : Nat) (left : Nat)
  /-- the next tile to write, tiles acknowledged, parts not yet committed -/
  | loadI (slot : Nat) (next : Nat) (acked : Nat) (parts : Nat)
  | activateI (slot : Nat) (at_ : Nat)
  | retireI (slot : Nat)
  | boundary
  /-- and the entries whose records the set's master takes -/
  | validate (bank : Nat) (units : List Nat) (left : Nat) (es : List BEntry)
  | shift (bank : Nat)
  | test (target : Nat) (unit : Nat) (failed : Bool) (started : Bool)
  | calib (kind : Nat) (chan : Nat) (left : Nat) (worst : Nat) (started : Bool)
  | flush (seq : Nat)
  | join (since : Nat)
  /-- where the record goes; whether its commit word there has been cleared (R390) -/
  | status (addr : Nat) (cleared : Bool)
  | stopC
  deriving DecidableEq, Repr, Inhabited

structure Cmd where
  id : Nat
  ring : Nat
  index : Nat
  tag : Nat
  opcode : Nat
  irq : Bool
  stream : Nat
  layerId : Nat
  opId : Nat
  since : Nat
  paused : Bool
  k : CmdK
  deriving DecidableEq, Repr, Inhabited

/-- What a beat boundary is to bring about (R29, R118). -/
inductive Eff where
  | openS (h : Nat) (cmd : Nat)
  | closeS (h : Nat)
  | bindS (h : Nat) (slot : Option Nat) (cmd : Nat)
  /-- verdict code and flags of the stream event, and the command that asked (R99, R110, R203) -/
  | cancel (h : Nat) (code : Nat) (flags : Nat) (event : Bool)
  | endOutput (h : Nat) (code : Nat)
  | ringReset (r : Nat)
  | activate (slot : Nat)
  /-- the rollback count of an activation whose checks have passed (R451) -/
  | program (slot : Nat)
  | tenant (t : Nat) (enable : Bool) (ban : Option Nat) (pd td : Option Nat) (cmd : Nat)
  | policy (pid : Nat) (imageId : Nat) (enable : Bool) (cmd : Nat)
  | invalidate (bank : Nat) (units : List Nat)
  | writeE (bank : Nat) (es : List BEntry)
  | validate (bank : Nat) (units : List Nat)
  | bankWidth (bank : Nat) (w : Nat)
  /-- the entries of a set number go with their image (R245) -/
  | dropSet (bank set : Nat)
  | shiftMove (bank : Nat)
  | trace (en : Bool) (base size mask : Nat)
  | counter (en : Bool) (k base size : Nat)
  | releaseClass (rc : Nat)
  | leaveRange
  /-- a range is formed: its formation and D_range (R29, R425) -/
  | joinRange (formation dRange : Nat)
  | cellOut (cell : Nat) (cause : Nat)
  | cellBack (cell : Nat)
  | chanBack (chan : Nat)
  /-- a channel leaves service for its loaded series, and ends it (R29, R378) -/
  | chanOut (chan : Nat) (cmd : Nat)
  | chanEnd (chan : Nat)
  | tileGood (slot tile : Nat)
  | streamGood (h : Nat)
  | pinGood (slot mask : Nat)
  /-- the good copy of a stream's pinned allow list (R521) -/
  | allowGood (h : Nat)
  | entryGood (bank unit : Nat)
  | wear (from_ to_ : Nat)
  deriving DecidableEq, Repr, Inhabited

/-- An effect and the boundary (count of beats since start) it falls at. -/
structure Sched where
  at_ : Nat
  eff : Eff
  /-- the command whose checks it passed, where they are made again when B_rt rises (R70) -/
  cmd : Nat := 0
  deriving DecidableEq, Repr, Inhabited

/-- What a stack operation serves. -/
inductive Purp where
  | stage (rid mi seg : Nat)
  | walk (rid mi : Nat)
  | gather (rid mi first : Nat)
  | mask (mid : Nat)
  | reload (slot tile : Nat)
  /-- a reload after the recovery has failed, or after a cell left rotation (R287, R403) -/
  | repair (slot tile : Nat)
  | entryReload (bank unit : Nat)
  | streamReload (tile : Nat)
  /-- tile of the dictionary's image in the slot home (R521) -/
  | pinReload (slot mask home tile : Nat)
  | allowReload (h : Nat)
  | wearRead (from_ to_ slot tile : Nat)
  | encode (unit slot tile h : Nat)
  | master (slot tile : Nat)
  | imgWrite (cmd : Nat)
  | setMaster (cmd : Nat)
  | allow (cmd : Nat)
  /-- tile number, and the streams with the generations it carries (R399) -/
  | mirror (tile : Nat) (gens : List (Nat × Nat))
  | cairnSave (cmd : Nat)
  | cairnClear (cmd : Nat)
  /-- the clear of a location whose save was cut short (R227, R233) -/
  | saveDrop
  | retireClear (cmd : Nat)
  | cairnLoad (cmd loc : Nat)
  | scrub (region : Nat)
  /-- the sweep's read of a cairn record (R232) -/
  | cairnCheck (handle loc : Nat)
  | pingBg
  | pingSeries (cmd : Nat)
  | pingFault
  deriving DecidableEq, Repr, Inhabited

/-- An operation outstanding on a channel (R314, R318, R328). -/
structure SOp where
  tag : Nat
  op : Nat
  /-- window offset of word 2 -/
  off : Nat
  purp : Purp
  respLen : Nat
  due : Nat
  iBeat : Nat
  iCycle : Nat
  dead : Bool
  deriving DecidableEq, Repr, Inhabited

/-- An operation of a firmware command that waits for room on a channel (R315, R316). -/
structure FirmOp where
  op : Nat
  purp : Purp
  words : List W64
  payload : List Byte
  respLen : Nat
  deriving DecidableEq, Repr, Inhabited

/-- A stack-operation channel (R312 to R316, R326, R332, R485). -/
structure Chan where
  credit : Nat
  nextTag : Nat
  outs : List SOp
  inService : Bool
  faulted : Bool
  calibrating : Bool
  pingsLeft : Nat
  planFirst : Nat
  planDep : Nat
  /-- request transfers of the recovery reserve in use (R77) -/
  planRec : Nat
  /-- request transfers of background and firmware work in this beat (R316, R375) -/
  planBack : Nat
  /-- stage slots in use this beat -/
  nextSlot : Nat
  deriving DecidableEq, Repr, Inhabited

/-- A tile of an image's master whose image part is being read from the persistent window (R403). -/
structure Fetch where
  slot : Nat
  tile : Nat
  /-- reads not yet answered, and the bytes of those that are -/
  left : Nat
  got : AMap (List Byte)
  deriving DecidableEq, Repr, Inhabited

/-- Stack-side state (R309, R325, R330, R504). -/
structure StackS where
  chans : AMap Chan
  brt : Nat
  maxCycles : Nat
  epoch : Nat
  agentResp : Nat
  agentCredit : Nat
  agentVer : Nat
  agentSlots : Nat
  agentWindow : Nat
  agentOps : Nat
  agentGib : Nat
  /-- masters being rewritten after an epoch change: image slots left, images and bytes rewritten (R325) -/
  rewriteLeft : List Nat
  rewriteAt : Nat
  rewritten : Nat
  rewrittenBytes : Nat
  /-- tiles whose master is to be rewritten and read again (R403): image slot and key -/
  repairs : List (Nat × Nat)
  /-- allocated runs of the images region: first record and count, by image slot (R310) -/
  imgRuns : AMap (Nat × Nat)
  allowUsed : List Nat
  /-- results of paused commands' operations, used after RESUME: 0 or 1 plus why the result is absent, round trip, payload (Table 3-11) -/
  held : List (SOp × Nat × Nat × List Byte)
  /-- channel and tag of the largest round trip of the loaded series under way (R69, R331) -/
  seriesWorst : Nat × Nat
  /-- operations of firmware commands that wait, first in, first out -/
  firm : List FirmOp
  /-- the tile of a master whose image part is being read from the persistent window (R403), and how often each mirror tile was written (R399) -/
  fetch : Option Fetch
  mirrorWrites : AMap Nat
  deriving DecidableEq, Repr, Inhabited

/-- An image in its slot (R448 to R453). State 0 loaded, 1 active, 2 retiring, 3 being loaded; order counts the loads. -/
structure Img where
  hdr : ImgHdr
  body : ImgBody
  bytes : List Byte
  status : Nat
  fixedD : Nat
  /-- B_rt in force at its activation -/
  brt : Nat
  ridges : List Nat
  pinned : Option (List Nat)
  /-- cell of each tile placed on cells -/
  cells : AMap Nat
  /-- tiles not usable until reloaded -/
  badTiles : List Nat
  masterLost : Bool
  /-- placed copies of a pattern set: copy, bank, set number (R245) -/
  placed : List (Nat × Nat × Nat)
  /-- pinned masks failed at use, with the master tiles still to be read (R521) -/
  badMasks : AMap (List Nat)
  committed : Bool
  retireBeat : Nat
  order : Nat
  deriving DecidableEq, Repr, Inhabited

/-- Start, clock and time state (R412 to R421, R60, R414, R488). -/
structure StartS where
  phase : StartPhase
  failedStep : Nat
  failCount : Nat
  warm : Bool
  calKept : Bool
  brtKept : Bool
  imgKept : Bool
  savedEpoch : Nat
  calValid : Bool
  coldNext : Bool
  halted : Bool
  /-- addresses at which an instruction fetch has trapped (R408) -/
  trapAddrs : List W32
  fuseCopy : FuseS
  /-- sum of the 64 time-port values of step 6, and the clock in kHz they were taken under (R414) -/
  timeSum : Nat
  timeKhz : Nat
  /-- the agent epoch under which the stack window was last used, and B_rt as the last completed start held it -/
  winEpoch : Nat
  keptBrt : Nat
  /-- images as they stood before the reset, and whether tile memory still holds them (R415, R418) -/
  kept : AMap Img
  tilesKept : Bool
  offset : W64
  deriving DecidableEq, Repr, Inhabited

/-- A bank of the associative store with its running shift: first unit, entries left, direction up, half step, command (R235, R256). -/
structure Shift where
  first : Nat
  count : Nat
  up : Bool
  done : Nat
  copied : Bool
  cmd : Nat
  deriving DecidableEq, Repr, Inhabited

/-- A bank; the entries whose rewrite a false hit has asked for, the unit the sweep compares next, and the beat its last pass over the bank
ended (R257, R258). -/
structure Bank where
  width : Nat
  entries : List BEntry
  shift : Option Shift
  rewrite : List Nat
  sweep : Nat
  sweptAt : Nat
  deriving DecidableEq, Repr, Inhabited

/-- A tenant (R338, R346, R359): k is signed; lease counts stand in k, x and c in a range. -/
structure Tenant where
  enabled : Bool
  c : Nat
  b : Nat
  e : Nat
  k : Int
  x : Nat
  u : Nat
  pend : Option (Nat × Nat × Nat)
  ban : Option Nat
  pd : Option Nat
  td : Option Nat
  pdNext : Option Nat
  tdNext : Option Nat
  /-- the lease in force in a range: c and g, its period -/
  leaseC : Nat
  leaseG : Nat
  leaseP : Nat
  /-- the lease's x as granted -/
  leaseX : Nat
  deriving DecidableEq, Repr, Inhabited

/-- A policy id's binding (R341). -/
structure PolBind where
  imageId : Nat
  enabled : Bool
  deriving DecidableEq, Repr, Inhabited

/-- A cairn handle: owner, pair number, generation committed in each location (R223 to R231). -/
structure Cairn where
  tenant : Nat
  pair : Nat
  gen0 : Option Nat
  gen1 : Option Nat
  deriving DecidableEq, Repr, Inhabited

/-- A partial pattern over output bytes: automaton or phrase, its key, and the first byte offset it covers (R140, R254, R265). -/
structure Pend where
  auto : Bool
  key : Nat
  start : Nat
  /-- the pattern set's image slot of a phrase -/
  slot : Nat
  /-- order in which patterns became pending -/
  born : Nat
  deriving DecidableEq, Repr, Inhabited

/-- A pattern completed by a record: the byte offsets it covers and its rule's verdict (R141, R143). -/
structure Compl where
  pend : Pend
  fin : Nat
  spanStart : Nat
  verdict : Nat
  repl : List Byte
  priority : Nat
  pattern : Nat
  deriving DecidableEq, Repr, Inhabited

/-- The screening state a token carries on: the parts of R147 that a node state holds (R213). -/
structure Ctx where
  carry : List Byte
  autos : List Nat
  window : List Nat
  gram : Option Gram
  accs : List W32
  accN : List Nat
  pend : List Pend
  /-- output bytes so far and the start offsets of the last 14 tokens, most recent first -/
  off : Nat
  starts : List Nat
  deriving DecidableEq, Repr, Inhabited

/-- A draft node, kept under its record's id: its step, number and state, and its parent's record unless it is a root (R210, R213). -/
structure Node where
  step : Nat
  num : Nat
  parent : Option Nat
  ctx : Ctx
  corrupt : Bool
  /-- beats in a row in which the state read torn, and the last of them (R396, R398) -/
  tornRun : Nat := 0
  tornAt : Nat := 0
  /-- the generation the state last committed, and its trailer's write_open (R397, R398) -/
  gen : Nat := 0
  wbOpen : Bool := false
  deriving DecidableEq, Repr, Inhabited

/-- An open part of a step (R126, R127, R211). -/
structure StepPart where
  seq : Nat
  first : Nat
  /-- drafts received: node and parent -/
  nodes : List (Nat × Nat)
  /-- marker taken: count and deepest node -/
  marker : Option (Nat × Nat)
  committed : Bool
  deriving DecidableEq, Repr, Inhabited

/-- A record's bytes kept at the gate, each with its offset in the output and whether it begins a character (R177), and its entry data for
etype 01 (R140, R141). -/
structure Held where
  pos : Nat
  token : Nat
  policy : Nat
  gen : Nat
  flags : Nat
  bytes : List (Nat × Byte × Bool)
  deriving DecidableEq, Repr, Inhabited

/-- An INGEST job (R105, R149 to R173). -/
structure Ingest where
  cmd : Nat
  addr : Nat
  len : Nat
  final : Bool
  /-- parts read, by number, and parts still to come -/
  got : AMap (List Byte)
  reads : Nat
  /-- pre-tokens of the buffer that its segments so far have tokenized (R151) -/
  did : Nat
  /-- an encode tile is awaited (R156) -/
  miss : Bool
  /-- tokens produced; the token buffer filled -/
  ready : Bool
  full : Bool
  consumed : Nat
  /-- tokens of the stream after this buffer (Table 3-5) -/
  posAfter : Nat := 0
  deriving DecidableEq, Repr, Inhabited

/-- A chunk under way: the active policies and pattern sets when its first token was searched (Table 8-8), what its tokens' searches have
found, and the writes of its token words. -/
structure OpenChunk where
  gens : List Nat
  results : List Nat
  flags : Nat
  jobs : List Nat
  /-- the beat its last token was searched in, the stream record it waits for, and whether that read torn (R51, R396, R400) -/
  at_ : Nat
  waits : List (Nat × Nat)
  torn : Bool
  deriving DecidableEq, Repr, Inhabited

/-- States of Table 4-1; opening stands before the boundary of the open. -/
inductive StreamPhase where
  | opening | inputOpen | answering | outputEnded | closing | closed
  deriving DecidableEq, Repr, Inhabited

/-- A stream (R118, R147). -/
structure Stream where
  handle : Nat
  ring : Nat
  rc : Nat
  tenant : Nat
  policy : Nat
  vocab : Nat
  grammar : Option Nat
  ridge : Nat
  klass : Nat
  phase : StreamPhase
  slot : Option Nat
  lastSlot : Nat
  pos : Nat
  p0 : Nat
  dMin : Nat
  /-- B_rt its stack rounds are due by (R70) -/
  brt : Nat
  allow : Option Mask
  allowPinned : Bool
  /-- its pinned allow list has failed, or reads torn in this beat (R89, R393, R521) -/
  allowBad : Bool
  allowTorn : Option Nat
  allowSlot : Option Nat
  /-- 8-byte words of the list as it was given -/
  allowWords : Nat
  /-- the beat of its open's checks, and the open's place among the commands (R70) -/
  opened : Nat × Nat
  -- tokenizer
  tokBase : Nat
  tokCap : Nat
  tokIdx : Nat
  carry : List Byte
  eoi : Bool
  stoppedTok : Bool
  ingested : Bool
  jobs : List Ingest
  /-- tokens produced and not yet in a complete chunk -/
  toks : List TokOut
  /-- chunks under way, by number -/
  parts : AMap OpenChunk := []
  chunkNo : Nat
  passed : List Nat
  -- input verdict
  inRes : List Nat
  inFlags : Nat
  /-- span heads that accumulate, by their place in the policy, whose records had a delta applied (R305) -/
  inDeltas : List Nat
  /-- the final chunk is produced; its number once its verdict is released -/
  lastMade : Bool
  lastChunk : Option Nat
  spans : List Nat
  inVerdict : Option Nat
  -- screening state of the input direction and of the output direction
  inCtx : Ctx
  ctx : Ctx
  nodes : AMap Node
  base : Option Nat
  /-- position from which spans count (R230, R290) -/
  spanBase : Nat
  step : Option StepPart
  lastClosed : Option Nat
  -- gate
  held : List Held
  pends : List Pend
  /-- patterns forced to resolve, each with the offset up to which a match of it began before (R142) -/
  forced : List Pend
  /-- the incomplete character at the end of the bytes of the records released so far (R177) -/
  gateTail : List Byte
  waiting : List EgEntry
  outRes : List Nat
  outFlags : Nat
  /-- verdict with which output ended, the entry 10 owed, no entry after this -/
  ended : Option Nat
  tail : Bool
  e10 : Bool
  nextFlags : Nat
  charged : Nat
  /-- the CLOSE_STREAM command that waits for the last batch -/
  closing : Option Nat
  /-- accumulators folded since a beat's start while the input verdict is open (Table 9-13) -/
  accNew : Option (Nat × List W32 × List Nat)
  /-- the generation the record last committed, whether its trailer's write_open is set, and the generation its mirror holds (R397 to R399) -/
  gen : Nat
  wbOpen : Bool
  mirrorGen : Nat
  /-- torn reads in a row, and the beat of the last (R396) -/
  tornRun : Nat
  tornAt : Nat
  lost : Bool
  lastBatch : Option Nat
  deriving DecidableEq, Repr, Inhabited

/-- Kinds of record in flight. -/
inductive RecK where
  | committed | draft | marker | stepEnd | chunk | span
  deriving DecidableEq, Repr, Inhabited

/-- A model's result: 0 not asked, 1 waiting for stages, 2 waiting for the reading operation, 3 absent, 4 present. -/
structure ModelR where
  mi : Nat
  /-- image slot of the generation in use -/
  img : Nat
  st : Nat
  stagesLeft : Nat
  /-- beat in which the stage round is due -/
  due : Nat
  parts : AMap (List W32)
  chans : List (Nat × Nat)
  scores : List W32
  nan : Bool
  deriving DecidableEq, Repr, Inhabited

/-- A record (R48, R57, R58, R124, R129). -/
structure Rec where
  id : Nat
  h : Nat
  kind : RecK
  slot : Nat
  step : Nat
  node : Nat
  parent : Nat
  token : Nat
  n : Nat
  feats : Option Feats
  needFrame : Bool
  arrived : Bool
  arriveBeat : Nat
  stamp : Option Nat
  /-- its own beat s + D - 1, in which it is sealed, and the beat it is released in (R35, R61, R74, R218) -/
  sealBy : Nat
  rel : Nat
  brt : Nat
  pos : Nat
  polSlot : Nat
  polGen : Nat
  policy : Nat
  pd : Option Nat
  td : Option Nat
  ban : Option Nat
  /-- draw class: 0 committed, 1 burst, 2 best effort, 3 none, 4 not drawn -/
  draw : Nat
  fits : Bool
  shed : Nat
  bytes : List Byte
  models : List ModelR
  results : List Nat
  flags : Nat
  compl : List Compl
  pend : List Pend
  off : Nat
  screened : Bool
  waitTile : List (Nat × Nat)
  torn : Bool
  /-- beats in a row in which its staging tile had read torn at its own last read (R396) -/
  tornN : Nat
  /-- the beat of its last torn read (R395) -/
  tornAt : Nat
  ext : Bool
  /-- lane, walker, host and search demand that repeated work still needs from the recovery reserve (R77) -/
  redo : Option (Nat × Nat × Nat × Nat)
  deadFound : Bool
  /-- taken in as a draft: screened in a node state -/
  spec : Bool
  sealed : Bool
  verdict : Nat
  /-- the record's mask has been stamped; the feature frame came late or not at all -/
  maskDone : Bool
  released : Bool
  /-- token-buffer writes a chunk's verdict waits for (R172) -/
  rows : List Nat
  /-- records of the path an accept marker commits -/
  path : List Nat
  /-- the channel of its first stack round in the plan, and those of a segmented stage (R321, R332) -/
  chan : Option Nat := none
  segs : List Nat := []
  /-- its stack tier is held (R356, step 4) -/
  noStack : Bool := false
  /-- lane work of it used a cell whose residue did not match (R282) -/
  residue : Bool := false
  deriving DecidableEq, Repr, Inhabited

/-- A mask: queued, being composed on the stack, or being written (R86, R87, R204, R205). -/
structure MaskJ where
  id : Nat
  h : Nat
  slot : Nat
  step : Nat
  node : Nat
  kind : Nat
  cause : Nat
  stamp : Nat
  ready : Nat
  deadline : Nat
  rid : Option Nat
  mask : Mask
  waiting : Bool
  composed : Bool
  /-- its draft node has been accepted -/
  taken : Bool
  ban : Option Nat
  gram : Option Gram
  /-- 8-byte words still to write once begun -/
  left : Nat
  begun : Bool
  /-- the channel of its MASK_COMBINE in the plan (R332) -/
  chan : Option Nat := none
  deriving DecidableEq, Repr, Inhabited

/-- Governor state (R365 to R374, R352). -/
structure GovS where
  level : Nat
  factor : Nat
  levelReq : Nat
  railBad : Bool
  moduleLimit : Bool
  steps : Nat
  burst : Nat
  est : Nat
  rail : Nat
  lane : Nat
  walk : Nat
  assoc : Nat
  stFirst : Nat
  stDep : Nat
  host : Nat
  idleMw : Nat
  dynMw : Nat
  droops : Nat
  peaks : AMap Int
  sensorsBad : List Nat
  temps : AMap (Nat × Bool)
  railSum : Nat
  railBeats : Nat
  railOut : Bool
  railLast : Nat × Nat
  periodSeen : Bool
  /-- period boundary whose settings have been applied -/
  donePeriod : Nat
  /-- expert bounds: item, floor, ceiling -/
  bounds : AMap (Nat × Nat)
  /-- expert reservations: class, five amounts -/
  reserved : AMap (List Nat)
  sampled : Nat × Nat × Nat
  /-- burst scale before the last period boundary; boundaries of the last refill and the last snapshot (R347, R353, R364) -/
  burstWas : Nat
  refillDone : Nat
  snapDone : Nat
  deriving DecidableEq, Repr, Inhabited

/-- Tiles of a cell moving to another (R377, R378): reads to issue, reads outstanding, and the self-test the move is for. -/
structure Move where
  src : Nat
  dst : Nat
  todo : List (Nat × Nat)
  left : Nat
  cmd : Option Nat
  deriving DecidableEq, Repr, Inhabited

/-- Integrity and capacity state (R53, R401 to R405, R376, R377). -/
structure IntegS where
  faults : Nat
  eccCorr : Nat
  eccUncorr : Nat
  eccTorn : Nat
  cellsOut : List Nat
  activity : AMap Nat
  floorStatus : Nat
  /-- last completion of each floor of Table 12-9, by bit -/
  floorAt : AMap Nat
  /-- floors missed whose work has not completed since -/
  floorsLate : List Nat
  /-- handle and position of the entries whose check code differed in this beat's seal phase (R135) -/
  mismatch : List (Nat × Nat)
  /-- units other than cells that a self-test took out of rotation: target and index -/
  unitsOut : List (Nat × Nat)
  moving : Option Move
  /-- stack window sweep: region and offset of the next rows (Table 12-9) -/
  sweepAt : Nat × Nat
  /-- boundaries of the last wear rotation and background ping -/
  wearDone : Nat
  pingDone : Nat
  /-- a background ping is still to be made (R376) -/
  pingOwed : Bool
  /-- words found with a single-bit error, by address, that the sweep is to rewrite (R405) -/
  rewrites : List Nat
  deriving DecidableEq, Repr, Inhabited

/-- A range member as known (Table 14-10). -/
structure Member where
  role : Nat
  succ : Nat
  di : Nat
  hop : Nat
  inbox : Nat
  lastHeard : Nat
  deriving DecidableEq, Repr, Inhabited

/-- A lease grant received (Table 14-9). -/
structure Grant where
  tenant : Nat
  period : Nat
  g : Nat
  c : Nat
  x : Nat
  time : W64
  deriving DecidableEq, Repr, Inhabited

/-- A predecessor's result for a record (R428). -/
structure Pred where
  slot : Nat
  step : Nat
  node : Nat
  kind : Nat
  verdict : Nat
  flags : Nat
  outputs : List W32
  /-- time of the first member's stamp boundary -/
  time : W64
  /-- beat it arrived in -/
  beat : Nat
  deriving DecidableEq, Repr, Inhabited

/-- A relay record to be written (R424): peer, kind, sender, words 1 to 5, the beat it began to wait; peer 64 is the successor
before formation. -/
structure RelayOut where
  peer : Nat
  kind : Nat
  sender : Nat
  words : List W64
  formation : Nat
  since : Nat
  /-- the inbox it goes to -/
  inbox : Nat
  deriving DecidableEq, Repr, Inhabited

/-- Who a host read serves (R478). -/
inductive ROwner where
  | table (ring : Nat)
  | desc (ring : Nat) (index : Nat)
  | ingest (ring h cmd part : Nat)
  /-- a chunk's tokens at a later member: stream, chunk, count, verdict and flags so far, address, bytes already read -/
  | chunk (h no n verdict flags addr : Nat) (got : List Byte)
  /-- part of an image's tile in the persistent window -/
  | image (slot tile part : Nat)
  /-- a read whose data nothing waits for any more -/
  | gone
  deriving DecidableEq, Repr, Inhabited

/-- Range state (R422 to R435, R359 to R363). -/
structure RangeS where
  joined : Bool
  forming : Option Nat
  role : Nat
  succInbox : Nat
  timeout : Nat
  formation : Nat
  lastFormation : Nat
  dRange : Nat
  dPath : Nat
  /-- D_i of the member at its join (R426) -/
  dOwn : Nat
  formedBeat : Nat
  members : AMap Member
  split : Bool
  splitFrom : List Nat
  /-- split from the head for want of a grant alone: 1 since it showed, 2 once its charges so far are reported (R362, R363) -/
  starved : Nat
  /-- largest probe time by sender -/
  hops : AMap Nat
  probes : Nat
  /-- inbox of a sender whose JOIN came in -/
  joinBox : AMap Nat
  /-- beat of the last lease adoption -/
  adopted : Nat
  /-- lanes of the inbox: head, consumed since the last ACK, beat of the oldest -/
  lanes : AMap (Nat × Nat × Nat)
  /-- lanes at receivers: tail and returned head -/
  send : AMap (Nat × Nat)
  sentTo : AMap Nat
  backlog : List RelayOut
  /-- grants received and not yet adopted -/
  grants : List Grant
  grantsSince : AMap Nat
  /-- the anchor's records: last full-lease charge by (member, tenant), granted and not yet reported -/
  used : List (Nat × Nat × Nat)
  outstanding : List (Nat × Nat × Nat × Nat)
  reported : List Nat
  anchor : AMap (Int × Nat × Nat)
  leasePeriod : Nat
  granted : Nat
  /-- predecessor results (R428) -/
  preds : List Pred
  /-- chunks of later members whose tokens are still to be read, in order of arrival (R427) -/
  chunkQ : List ROwner
  /-- a STOP of another member is in force -/
  stopIn : Bool
  leaving : Bool
  deriving DecidableEq, Repr, Inhabited

/-- A log record before and after commit (Table 15-4). -/
structure LogRec where
  code : Nat
  severity : Nat
  engine : Nat
  beat : Nat
  d0 : W64
  d1 : W64
  d2 : W64
  seq : Nat
  /-- segment of the persistent log it lies in, 64 while it waits for one, and its address -/
  seg : Nat
  at_ : Nat
  committed : Bool
  deriving DecidableEq, Repr, Inhabited

/-- A segment of the persistent window: role 0 free, 1 log, 2 store (R440 to R442). -/
structure Seg where
  role : Nat
  seq : Nat
  opens : Nat
  rows : Nat
  /-- its header is committed -/
  valid : Bool
  /-- least address of the entries abandoned uncommitted in it (R444, R478) -/
  lost : Option Nat
  /-- on its way to being free: 1 its live entries are copied out, 2 its header is cleared (R390, R442) -/
  freeing : Nat
  deriving DecidableEq, Repr, Inhabited

/-- An activation record (Table 15-10). -/
structure ActRec where
  slot : Nat
  state : Nat
  kind : Nat
  imageId : Nat
  gen : Nat
  beat : Nat
  time : W64
  seq : Nat
  seg : Nat
  at_ : Nat
  committed : Bool
  deriving DecidableEq, Repr, Inhabited

/-- A tenant's row of a snapshot (R454). -/
structure SnapRow where
  tenant : Nat
  c : Nat
  b : Nat
  e : Nat
  k : Int
  x : Nat
  u : Nat
  enabled : Bool
  deriving DecidableEq, Repr, Inhabited

/-- A ledger snapshot (R353, R454). -/
structure Snap where
  beat : Nat
  time : W64
  rows : List SnapRow
  seq : Nat
  seg : Nat
  at_ : Nat
  committed : Bool
  deriving DecidableEq, Repr, Inhabited

/-- An image part (R443, Table 15-3). -/
structure Part where
  slot : Nat
  imageId : Nat
  gen : Nat
  num : Nat
  count : Nat
  bytes : List Byte
  seq : Nat
  seg : Nat
  at_ : Nat
  committed : Bool
  deriving DecidableEq, Repr, Inhabited

/-- The persistent window (R439 to R444). -/
structure PersistS where
  segs : AMap Seg
  openLog : Option Nat
  openStore : Option Nat
  /-- sequences of segments and of store entries -/
  nextSeq : Nat
  entrySeq : Nat
  lastOpened : Nat
  acts : List ActRec
  snaps : List Snap
  parts : List Part
  logs : List LogRec
  /-- rows that wait for a free segment: what, key, bytes -/
  wait : List (Nat × Nat × List Byte)
  deriving DecidableEq, Repr, Inhabited

/-- A trace record waiting in the buffer (Table 15-11). -/
structure TraceRec where
  engine : Nat
  event : Nat
  tag : Nat
  layerId : Nat
  opId : Nat
  policy : Nat
  stream : Nat
  detail : W64
  beat : Nat
  deriving DecidableEq, Repr, Inhabited

/-- An entry of the merge buffer of the management core's data RAM (R406). -/
structure MergeEntry where
  word : Nat
  /-- its 8 bytes, each once it is valid -/
  bytes : List (Option Byte)
  deriving DecidableEq, Repr, Inhabited

/-- The management core's data RAM, by aligned 64-bit word, and its merge buffer, oldest entry first (R406). -/
structure CoreMem where
  ram : AMap (List Byte)
  buf : List MergeEntry
  deriving DecidableEq, Repr, Inhabited

/-- Logs, trace, counters, hang clocks and the core's memory (R406, R445 to R464). -/
structure MgmtS where
  logSeq : Nat
  logTail : Nat
  logPhase : Bool
  traceOn : Bool
  traceBase : Nat
  traceSize : Nat
  traceMask : Nat
  traceSeq : Nat
  traceTail : Nat
  tracePhase : Bool
  traceBuf : List TraceRec
  traceDropped : Nat
  cntOn : Bool
  cntK : Nat
  cntBase : Nat
  cntSize : Nat
  cntSeq : Nat
  cntTail : Nat
  cntPhase : Bool
  /-- a latched sample still unwritten: its beat -/
  cntPend : Option Nat
  cntDone : Nat
  counters : AMap Nat
  /-- waiting queues by node id: identity of the work at the head, beat it was first seen there, hang declared -/
  waits : AMap (Nat × Nat × Bool)
  syncDone : Nat
  core : CoreMem
  deriving DecidableEq, Repr, Inhabited

/-- What a host write carries (R388, R478). -/
inductive WOwner where
  | cpl (ring : Nat) (irq : Bool) (cmd : Nat)
  | batch (ring slots : Nat)
  | tokens (ring : Nat)
  | relay (lane kind : Nat)
  | persist (what : Nat) (key : Nat)
  | logRing (irq : Bool)
  | trace
  | counter
  | rangeStatus (cmd : Nat)
  | irqMsg (v : Nat)
  /-- a write of a ring as it was before a ring reset -/
  | gone
  deriving DecidableEq, Repr, Inhabited

/-- A write job: packets not yet issued, packets not acknowledged, the commit word, jobs to wait for (R388). -/
structure WJob where
  id : Nat
  owner : WOwner
  attr : Nat
  todo : List (Nat × List Byte)
  unacked : Nat
  commit : Option (Nat × List Byte)
  committing : Bool
  after : List Nat
  /-- the whole entry of a persistent-window write, to be written again on a failure (R478) -/
  again : List Byte
  deriving DecidableEq, Repr, Inhabited

/-- Host-side state (R474, R478 to R480, R501). -/
structure HostS where
  reads : AMap ROwner
  readQ : List (ROwner × Nat × Nat × Nat)
  writes : AMap Nat
  jobs : AMap WJob
  nextJob : Nat
  irqStatus : Nat
  dbRing : Nat
  dbCause : Nat
  dbFault : Bool
  dbOverrun : Bool
  resetBusy : Bool
  cancelMiss : Nat
  /-- raised vectors not yet sent, and the beat of the last message on each -/
  irqPend : List Nat
  irqLast : AMap Nat
  lost : Nat
  /-- address and length of each write packet not yet acknowledged, by tag (R475) -/
  packets : AMap (Nat × Nat)
  /-- jobs of token words that failed (R388, R478) -/
  failed : List Nat
  deriving DecidableEq, Repr, Inhabited

/-- Mask port (R483, R484). -/
structure PortS where
  credit : Nat
  stall : Nat
  stallLogged : Bool
  /-- frames that arrived before their token (R124) -/
  early : List (Nat × Nat × Nat × Feats)
  deriving DecidableEq, Repr, Inhabited

/-- A beat's plan (R79, Table 2-4): what each allowance item still holds for new records, what the recovery reserve still holds (R77), and
the first-round and dependent windows of every channel (R316, R81). -/
structure Plan where
  lane : Nat
  walk : Nat
  host : Nat
  stack : Nat
  banks : AMap Nat
  steps : AMap Nat
  recLane : Nat
  recWalk : Nat
  recHost : Nat
  stFirst : Nat
  stDep : Nat
  /-- search slots of the recovery reserve of each bank (R77) -/
  recBanks : AMap Nat
  /-- planned request transfers of each channel's two windows, and response transfers planned and not yet asked for (R332) -/
  first : AMap Nat
  dep : AMap Nat
  resp : AMap Nat
  deriving DecidableEq, Repr, Inhabited

/-- What a dynamic tile is used for: feature staging of a record, cairn staging of a command, a draft node's state, an allow list of a
stream (R393, R401). -/
inductive TileUse where
  | staging (rec : Nat)
  | cairn (cmd : Nat)
  | node (rec : Nat)
  | allowList (h : Nat)
  deriving DecidableEq, Repr, Inhabited

/-- A dynamic tile: its use, the fields of its header, the payload its rows hold, and while write_open is 1 the payload being written
(R391, R393). -/
structure DynTile where
  use : Option TileUse
  format : Nat
  generation : Nat
  writeOpen : Bool
  payload : List Byte
  crc : W32
  next : List Byte
  /-- the beat in which it last read torn, and how many in a row (R395, R396) -/
  tornAt : Option Nat := none
  tornRun : Nat := 0
  deriving DecidableEq, Repr, Inhabited

/-- Test access (R490, R491). -/
structure TestS where
  ir : Nat
  groupsDone : BitVec 16
  groupsFailed : BitVec 16
  fuseTarget : Byte
  deriving DecidableEq, Repr, Inhabited

/-- What crosses the block's output ports. -/
inductive Out where
  | hmRead (addr rows tag attr : Nat)
  | hmWrite (addr tag attr : Nat) (bytes : List Byte)
  | mask (slot step node kind cause words : Nat) (bytes : List Byte)
  | stReq (chan op tag epoch reqLen due : Nat) (words : List W64) (payload : List Byte)
  | stReset (chan : Nat)
  /-- loaded pings of the start's series on a channel: how many, the first tag, response transfers each asks for, and how many are outstanding at
  most (R68, R329) -/
  | stPings (chan n tag resp most : Nat)
  | regData (off : Nat) (v : W32)
  | therm (index deg : Nat) (ok : Bool)
  | power (est level : Nat)
  | stopPin (high : Bool)
  | tdo (width value : Nat)
  deriving DecidableEq, Repr, Inhabited

end Sys2Proof.Machine
end

