-- ==== Sys2Proof/Machine/Flags.lean ====
section
/-! DEFINITION. Statuses, verdicts, their ranks and combination, flags and the verdict check code (R116, R130 to R135). -/

namespace Sys2Proof.Machine

/-! Completion statuses (Table 3-9). -/
def stOK := 0x00
def stDeferred := 0x01
def stBadDesc := 0x10
def stBadTenant := 0x11
def stBadStream := 0x12
def stNotFound := 0x13
def stCapacity := 0x20
def stLatency := 0x21
def stDeadline := 0x22
def stBudget := 0x23
def stState := 0x24
def stSigBad := 0x30
def stRollback := 0x31
def stCorrupt := 0x32
def stStale := 0x40
def stHalted := 0x41
def stStackTo := 0x42
def stSplit := 0x50
def stIncomplete := 0x51
def stInternal := 0x7F

/-! Verdict codes (Table 4-6). -/
def vPass := 0
def vHold := 1
def vRedact := 2
def vBlock := 3
def vBudget := 4
def vIndet := 5
def vCancelled := 6
def vIncomplete := 7
def vOos := 8

/-- Severity rank of a verdict code; the lowest number wins (R131). -/
def vRank (v : Nat) : Nat :=
  match v with
  | 0 => 9 | 1 => 7 | 2 => 8 | 3 => 3 | 4 => 6 | 5 => 5 | 6 => 2 | 7 => 4 | 8 => 1 | _ => 5

/-- The worse of two verdicts (R131). -/
def vMin (a b : Nat) : Nat := if vRank b < vRank a then b else a
/-- The combination of results; PASS when there are none (R131, R344). -/
def combine (vs : List Nat) : Nat := vs.foldl vMin vPass
/-- Whether a verdict releases bytes (R47, Table 4-6). -/
def releases (v : Nat) : Bool := v == vPass || v == vRedact

/-! Verdict flags (Table 4-7), as bit values. -/
def fSpec := 1
def fNanSeen := 2
def fGramDead := 4
def fTornRetry := 8
def fTimeout := 16
def fFalseHit := 32
def fRecExt := 64
def fThrottled := 128
def fDelta := 256

def setFlag (fs f : Nat) : Nat := fs ||| f
def hasFlag (fs f : Nat) : Bool := fs &&& f == f

/-- The 24-byte tuple of Table 4-8. -/
def checkTuple (handle token policy gen pos verdict etype flags n : Nat) : List Byte :=
  wordsBytes [w64 [(handle, 0), (pos, 32), (verdict, 56), (etype, 60)],
    w64 [(if etype = 2 then 0 else token, 0), (policy, 19), (flags, 29), (n, 41)], w64 [(gen, 0)]]

/-- The verdict check code (R134). -/
def checkCode (handle token policy gen pos verdict etype flags : Nat) (payload : List Byte) : W32 :=
  crc32c (checkTuple handle token policy gen pos verdict etype flags payload.length ++ payload)

/-- An egress entry with its check code. -/
def mkEntry (handle token policy gen pos verdict etype flags : Nat) (payload : List Byte) : EgEntry :=
  ⟨pos, verdict, flags, etype, payload, checkCode handle token policy gen pos verdict etype flags payload, token, policy, gen⟩
/-- An entry with another verdict and other bytes, checked anew (R135). -/
def EgEntry.as (e : EgEntry) (handle verdict : Nat) (payload : List Byte) : EgEntry :=
  mkEntry handle e.token e.policy e.gen e.pos verdict e.etype e.flags payload

end Sys2Proof.Machine
end

