-- ==== Sys2Proof/Machine/State.lean ====
section
/-! DEFINITION. The state of the block, its faults and refusals, and the state after reset (R415, R496, Chapter 17). -/

namespace Sys2Proof.Machine

/-- No command stops the model: every failure the manual names is a next state. Safe. -/
inductive Fault where
  deriving DecidableEq, Repr

/-- Why a command has no meaning. -/
inductive Refusal where
  /-- Raised by a dispatch arm of a command not modelled. Safe: the model stops. -/
  | notModelled (mnemonic : String)
  deriving DecidableEq, Repr

/-- Everything the block holds, and the queue of commands that wait. -/
structure State where
  pending : List Instr
  build : ElabS
  fuses : FuseS
  regs : RegS
  start : StartS
  clk : ClockS
  rings : AMap Ring
  cmds : List Cmd
  nextId : Nat
  sched : List Sched
  streams : AMap Stream
  opens : AMap Nat
  recs : List Rec
  masks : List MaskJ
  port : PortS
  images : AMap Img
  banks : AMap Bank
  tenants : AMap Tenant
  policies : AMap PolBind
  cairns : AMap Cairn
  stack : StackS
  tokCache : AMap (List (Nat × Nat))
  gov : GovS
  integ : IntegS
  range : RangeS
  persist : PersistS
  mgmt : MgmtS
  host : HostS
  test : TestS
  out : List Out
  plan : Plan
  dyn : AMap DynTile
  free : Nat
  deriving DecidableEq, Repr

/-- Fuses of a part with nothing programmed (DESIGN CHOICE, log 13). -/
def FuseS.blank : FuseS := ⟨[0, 0, 0, 0], [0, 0, 0, 0], [0, 0, 0, 0, 0, 0, 0, 0, 0, 0]⟩

/-- Register reset values of Chapter 17; BLOCK_CAP and CHANNEL_EN follow the configuration (R503, R506). -/
def RegS.reset (c : Cfg) : RegS :=
  { coreClock := 0x000E57E0#32, hostport := 0x00030000#32, ringLo := 0#32, ringHi := 0#32, persistLo := 0#32, persistHi := 0#32,
    persistCfg := 0#32, logLo := 0#32, logHi := 0#32, relayLo := 0#32, relayHi := 0#32, rangeMember := 0#32,
    stackCfg := match c with | .c4 => 0x00032008#32 | .c8 => 0x000F2008#32 | .c16 => 0x00FF2008#32,
    rtFloor := 0#8, region := [], rclass := [], tokMode := 0#32, commitCap := 0#32,
    govCtl := match c with | .c4 => 0x0000044C#32 | .c8 => 0x00000834#32 | .c16 => 0x00001004#32,
    govTherm := 0x0369645F#32, irqEnable := 1#32, vecLo := [], vecHi := [], vecData := [], hangCtl := 0x0000FA00#32, unlock := 0#32 }

def StartS.reset (failCount savedEpoch : Nat) (warm cal : Bool) : StartS :=
  { phase := .steps13, failedStep := 0, failCount := failCount, warm := warm, calKept := false, brtKept := false, imgKept := false,
    savedEpoch := savedEpoch, calValid := cal, coldNext := false, halted := false, trapAddrs := [], fuseCopy := FuseS.blank,
    timeSum := 0, timeKhz := 0, winEpoch := 0, keptBrt := 0, kept := [], tilesKept := false, offset := 0#64 }

def ClockS.reset : ClockS := ⟨0#48, 3, 0, 0, 0, 0#64, 0, false, false, false⟩
def PortS.reset (credit : Nat) : PortS := ⟨credit, 0, false, []⟩
def StackS.reset : StackS := ⟨[], 0, 0, 0, 0, 0, 0, 0, 0, 0, 0, [], 0, 0, 0, [], [], [], [], (0, 0), [], none, []⟩
/-- No beat has been planned. -/
def Plan.reset : Plan := ⟨0, 0, 0, 0, [], [], 0, 0, 0, 0, 0, [], [], [], []⟩
def GovS.reset : GovS :=
  { level := 0, factor := 0, levelReq := 0, railBad := false, moduleLimit := false, steps := 0, burst := 0, est := 0, rail := 0,
    lane := 0, walk := 0, assoc := 0, stFirst := 0, stDep := 0, host := 0, idleMw := 0, dynMw := 0, droops := 0, peaks := [],
    sensorsBad := [], temps := [], railSum := 0, railBeats := 0, railOut := false, railLast := (0, 0),
    periodSeen := false, donePeriod := 0, bounds := [], reserved := [], sampled := (0, 0, 0), burstWas := 0, refillDone := 0, snapDone := 0 }
def IntegS.reset : IntegS := ⟨0, 0, 0, 0, [], [], 0, [], [], [], [], none, (0, 0), 0, 0, false, []⟩
def RangeS.reset : RangeS :=
  { joined := false, forming := none, role := 0, succInbox := 0, timeout := 0, formation := 0, lastFormation := 0, dRange := 0,
    dPath := 0, dOwn := 0, formedBeat := 0, members := [], split := false, splitFrom := [], starved := 0, hops := [], probes := 0, joinBox := [], adopted := 0, lanes := [],
    send := [], sentTo := [], backlog := [], grants := [], grantsSince := [], used := [], outstanding := [], reported := [],
    anchor := [], leasePeriod := 0, granted := 0, preds := [], chunkQ := [], stopIn := false, leaving := false }
def PersistS.reset : PersistS := ⟨[], none, none, 1, 1, 63, [], [], [], [], []⟩
def MgmtS.reset : MgmtS :=
  { logSeq := 0, logTail := 0, logPhase := true, traceOn := false, traceBase := 0, traceSize := 0, traceMask := 0, traceSeq := 0,
    traceTail := 0, tracePhase := true, traceBuf := [], traceDropped := 0, cntOn := false, cntK := 0, cntBase := 0, cntSize := 0,
    cntSeq := 0, cntTail := 0, cntPhase := true, cntPend := none, cntDone := 0, counters := [], waits := [], syncDone := 0, core := ⟨[], []⟩ }
def HostS.reset : HostS :=
  { reads := [], readQ := [], writes := [], jobs := [], nextJob := 0, irqStatus := 0, dbRing := 0, dbCause := 0, dbFault := false,
    dbOverrun := false, resetBusy := false, cancelMiss := 0, irqPend := [], irqLast := [], lost := 0, packets := [], failed := [] }
def TestS.reset : TestS := ⟨0x01, 0#16, 0#16, 0#8⟩
/-- Elaboration taken by the model: C16, manufacturer code 0, patch level 0, sampler credit 255 (DESIGN CHOICE, log 13). -/
def ElabS.dflt : ElabS := ⟨.c16, 0#11, 0#8, 255⟩

/-- The block right after the power-on reset input: every register at its reset value, nothing open, no command waiting. -/
def State.reset : State :=
  { pending := [], build := ElabS.dflt, fuses := FuseS.blank, regs := RegS.reset .c16, start := StartS.reset 0 0 false false,
    clk := ClockS.reset, rings := [], cmds := [], nextId := 1, sched := [], streams := [], opens := [], recs := [], masks := [],
    port := PortS.reset 255, images := [], banks := [], tenants := [], policies := [], cairns := [], stack := StackS.reset,
    tokCache := [], gov := GovS.reset, integ := IntegS.reset, range := RangeS.reset, persist := PersistS.reset,
    mgmt := MgmtS.reset, host := HostS.reset, test := TestS.reset, out := [], plan := Plan.reset, dyn := [], free := 0 }

end Sys2Proof.Machine
end

