-- ==== Sys2Proof/Machine/Ops.lean ====
section
/-! DEFINITION. The named operations on the state that every family uses: sizes, counters, logs, host traffic, commands, streams. -/

namespace Sys2Proof.Machine

/-! Sizes of the configuration (Table 0-2, R498). -/
def Cfg.ridges : Cfg → Nat | .c4 => 4 | .c8 => 8 | .c16 => 16
def State.ridges (s : State) : Nat := s.build.cfg.ridges
def State.cells (s : State) : Nat := 16 * s.ridges
def State.channels (s : State) : Nat := s.ridges / 2
def State.tokUnits (s : State) : Nat := s.ridges / 4
def State.sensors (s : State) : Nat := s.ridges + 8
def State.nBanks (s : State) : Nat := 2 * s.ridges
def State.maxStreams (s : State) : Nat := 1024 * s.ridges
def State.beat (s : State) : Nat := s.clk.beat.toNat
/-- The boundary that comes next. -/
def State.nextB (s : State) : Nat := beatAdd s.beat 1
/-- Beat stamp as written: 48 bits (R14, R59). -/
def beat48 (b : Nat) : Nat := b % 2 ^ 48

def State.complete (s : State) : Bool := s.start.phase == .complete
/-- Whether commands and doorbells are served: started, or in safe mode (Table 16-2). -/
def State.serving (s : State) : Bool := s.start.phase == .complete || s.start.phase == .safeMode
/-- Whether beats run: the start has completed and no stop holds (R433). -/
def State.running (s : State) : Bool := s.serving && !s.clk.stopped

/-- First cycle of each phase of Table 2-1, and how many it has. -/
def phaseCycles (k : Nat) : Nat × Nat := [(0, 16), (16, 184), (200, 24), (224, 11)].getD k (224, 11)
/-- A phase of Table 2-1 begins. -/
def State.toPhase (s : State) (k : Nat) : State := { s with clk := { s.clk with phase := k, cycle := (phaseCycles k).1 } }
/-- The beat has reached a cycle. -/
def State.reach (s : State) (cycle : Nat) : State := { s with clk := { s.clk with cycle := max s.clk.cycle cycle } }
/-- First cycle of the phase the beat is in, and how many it has (Table 2-1); a frame of a stop has no phases (Table 17-18). -/
def State.cycles (s : State) : Nat × Nat := if s.clk.stopped then (0, 235) else phaseCycles s.clk.phase
/-- The beat's phases have run: what falls at its boundary can be brought about (R56, log 48). -/
def State.atEnd (s : State) : Bool := s.clk.phase == 3

/-! Register fields. -/
def State.freqKhz (s : State) : Nat := fld s.regs.coreClock 19 0
def State.rclassReg (s : State) (n : Nat) : W32 := AMap.getD s.regs.rclass n 0#32
def State.latBound (s : State) (rc : Nat) : Nat := fld (s.rclassReg rc) 15 0
def State.maskDeadline (s : State) (rc : Nat) : Nat := fld (s.rclassReg rc) 24 16
def State.maxDraft (s : State) (rc : Nat) : Nat := fld (s.rclassReg rc) 31 25
def State.region (s : State) (k : Nat) : Nat × Nat :=
  let w := AMap.getD s.regs.region k 0#32
  (fld w 15 0 * 2 ^ 24, fld w 31 16 * 2 ^ 24)
def State.chanEn (s : State) (n : Nat) : Bool := n < s.channels && bit s.regs.stackCfg (16 + n)
def State.respWindow (s : State) : Nat := 16 * fld s.regs.stackCfg 15 8
def State.unlocked (s : State) (f : Nat) : Bool := bit s.regs.unlock f
def State.streamed (s : State) : Bool := bit s.regs.tokMode 0
def State.vocabLim (s : State) : Nat := if s.streamed then 16 else 4

/-- The next free choice among n candidates (log 4). -/
def State.pick (s : State) (n : Nat) : Nat × State :=
  if n ≤ 1 then (0, s) else (Config.choose s.free % n, { s with free := s.free + 1 })

def State.emit (s : State) (o : Out) : State := { s with out := s.out ++ [o] }
/-- Counter i raised by n, modulo 2^64 (R460). -/
def State.count (s : State) (i n : Nat) : State :=
  { s with mgmt := { s.mgmt with counters := AMap.set s.mgmt.counters i ((AMap.getD s.mgmt.counters i 0 + n) % 2 ^ 64) } }
/-- A cause bit of IRQ_STATUS set: 0 fatal, 1 management, 2 ring, 3 range (R479). -/
def State.raise (s : State) (i : Nat) : State := { s with host := { s.host with irqStatus := s.host.irqStatus ||| 2 ^ i } }
/-- A bit of FAULT_STATUS set (Table 17-16). -/
def State.fault (s : State) (i : Nat) : State := { s with integ := { s.integ with faults := s.integ.faults ||| 2 ^ i } }
def State.at (s : State) (b : Nat) (e : Eff) : State := { s with sched := s.sched ++ [⟨b, e, 0⟩] }
/-- An effect of a command whose checks a raised B_rt makes again in the same beat (R70). -/
def State.atFor (s : State) (b : Nat) (e : Eff) (cmd : Nat) : State := { s with sched := s.sched ++ [⟨b, e, cmd⟩] }
def State.fresh (s : State) : Nat × State := (s.nextId, { s with nextId := s.nextId + 1 })

/-- A trace record for an event on an engine, when trace is enabled and the engine's bit is set (R455, R458). -/
def State.trace (s : State) (engine event tag layerId opId policy stream : Nat) (detail : W64) : State :=
  if s.mgmt.traceOn && s.mgmt.traceMask.testBit engine then
    if s.mgmt.traceBuf.length < 256 then
      { s with mgmt := { s.mgmt with traceBuf := s.mgmt.traceBuf ++ [⟨engine, event, tag, layerId, opId, policy, stream, detail, s.beat⟩] } }
    else ({ s with mgmt := { s.mgmt with traceDropped := s.mgmt.traceDropped + 1 } }).count 120 1
  else s
def State.ev (s : State) (engine event stream : Nat) (detail : List (Nat × Nat)) : State :=
  s.trace engine event 0 0 0 0 stream (w64 detail)

/-! Host memory port (R473 to R478, R388). -/

/-- A write cut at 4 KiB boundaries (R473). -/
def cutWrite : Nat → Nat → List Byte → List (Nat × List Byte)
  | 0, _, _ => []
  | f + 1, a, bs =>
    if bs.isEmpty then []
    else
      let n := 4096 - a % 4096
      (a, bs.take n) :: cutWrite f (a + n) (bs.drop n)
def cuts (a : Nat) (bs : List Byte) : List (Nat × List Byte) := cutWrite (bs.length / 4096 + 2) a bs

/-- The smallest tag below 256 not in use (R474). -/
def freeTag {α : Type} (m : AMap α) : Option Nat := (List.range 256).find? fun t => !AMap.has m t

/-- Packets of a job issued while tags are free. -/
def pumpPackets : Nat → Nat → State → State
  | 0, _, s => s
  | f + 1, j, s =>
    match AMap.get? s.host.jobs j with
    | none => s
    | some w =>
      match w.todo, freeTag s.host.writes with
      | (a, bs) :: rest, some t =>
        let w := { w with todo := rest, unacked := w.unacked + 1 }
        let s := { s with host := { s.host with
          writes := AMap.set s.host.writes t j, packets := AMap.set s.host.packets t (a, bs.length), jobs := AMap.set s.host.jobs j w } }
        pumpPackets f j (s.emit (.hmWrite a t w.attr bs))
      | _, _ => s
/-- Every job's packets issued in job order. -/
def pumpAll (s : State) : State := (AMap.keys s.host.jobs).foldl (fun s j => pumpPackets 256 j s) s

/-- A commit-last write: the data, then the commit word once every data write and every job of after is acknowledged (R388). -/
def State.write (s : State) (owner : WOwner) (attr : Nat) (data : List (Nat × List Byte)) (commit : Option (Nat × List Byte))
    (after : List Nat) : Nat × State :=
  let j := s.host.nextJob
  let again : List Byte := match owner with
    | .persist _ _ => data.flatMap (·.2) ++ (commit.map (·.2)).getD []
    | _ => []
  let data := data.flatMap fun d => cuts d.1 d.2
  let w : WJob := ⟨j, owner, attr, if data.isEmpty then (commit.map fun c => [c]).getD [] else data, 0,
    if data.isEmpty then none else commit, data.isEmpty, after, again⟩
  let s := { s with host := { s.host with nextJob := j + 1, jobs := AMap.set s.host.jobs j w } }
  (j, pumpPackets 256 j s)
def State.write' (s : State) (owner : WOwner) (attr : Nat) (data : List (Nat × List Byte)) (commit : Option (Nat × List Byte)) : State :=
  (s.write owner attr data commit []).2

/-- A read of n bytes overlaps a write packet that is not acknowledged (R475). -/
def unacked (s : State) (addr n : Nat) : Bool := s.host.packets.any fun x => decide (x.2.1 < addr + n) && decide (addr < x.2.1 + x.2.2)
/-- A read command of rows of 64 bytes, or its place in the queue when no tag is free or an unacknowledged write overlaps it (R474, R475). -/
def State.read (s : State) (o : ROwner) (addr rows attr : Nat) : State :=
  match if unacked s addr (64 * rows) then none else freeTag s.host.reads with
  | some t => ({ s with host := { s.host with reads := AMap.set s.host.reads t o } }).emit (.hmRead addr rows t attr)
  | none => { s with host := { s.host with readQ := s.host.readQ ++ [(o, addr, rows, attr)] } }
/-- Reads that nothing waits for any more: the queued ones are not issued, the data of the others goes nowhere (R385). -/
def State.dropReads (s : State) (p : ROwner → Bool) : State :=
  { s with host := { s.host with
    reads := s.host.reads.map fun (x : Nat × ROwner) => (x.1, if p x.2 then .gone else x.2), readQ := s.host.readQ.filter fun x => !p x.1 } }

/-! Attributes (Table 16-8). -/
def State.hpAttr (s : State) (lo : Nat) : Nat := fld s.regs.hostport (lo + 2) lo
def State.persistBase (s : State) : Nat := fld s.regs.persistLo 31 20 * 2 ^ 20 + fld s.regs.persistHi 24 0 * 2 ^ 32
def State.segRows (s : State) : Nat := 2 ^ (fld s.regs.persistCfg 2 0) * 2 ^ 14
def State.persistAttr (s : State) : Nat := fld s.regs.persistCfg 6 4

/-! The persistent window (R440 to R442). -/

def row64 (ws : List W64) : List Byte := wordsBytes (ws ++ List.replicate (8 - ws.length) 0#64)

/-- Segment i's row address. -/
def State.rowAddr (s : State) (i r : Nat) : Nat := s.persistBase + (i * s.segRows + r) * 64

def freeSegs (s : State) : List Nat := (List.range 64).filter fun i => (AMap.getD s.persist.segs i default).role == 0
/-- A segment of a role that is not on its way to being free. -/
def Seg.serves (g : Seg) (role : Nat) : Bool := g.role == role && g.freeing == 0

/-- The next free segment after the one most recently opened, in ring order (R441). -/
def nextFree (s : State) : Option Nat :=
  ((List.range 64).map fun k => (s.persist.lastOpened + 1 + k) % 64).find? fun i => (AMap.getD s.persist.segs i default).role == 0

/-- The log's limit of segments (R442). -/
def logLimit (s : State) : Nat := max 1 (16 / 2 ^ fld s.regs.persistCfg 2 0)

/-- The oldest segment of a role. -/
def oldestSeg (s : State) (role : Nat) : Option Nat :=
  ((s.persist.segs.filter fun x => x.2.serves role).foldl (fun (b : Option (Nat × Nat)) x =>
    match b with
    | some (_, q) => if x.2.seq < q then some (x.1, x.2.seq) else b
    | none => some (x.1, x.2.seq)) none).map (·.1)

def State.setSeg (s : State) (i : Nat) (f : Seg → Seg) : State :=
  { s with persist := { s.persist with segs := AMap.set s.persist.segs i (f (AMap.getD s.persist.segs i default)) } }
/-- A segment's header is cleared; the segment is free once that write is acknowledged (R390, R442). -/
def freeSeg (s : State) (i : Nat) : State :=
  (s.setSeg i fun g => { g with freeing := 2 }).write' (.persist 5 i) s.persistAttr [] (some (s.rowAddr i 0 + 56, w64Bytes 0#64))
/-- A segment is free: the entries it held are gone. -/
def State.segFreed (s : State) (i : Nat) : State :=
  let s := s.setSeg i fun g => { g with role := 0, valid := false, rows := 0, lost := none, freeing := 0 }
  let p := s.persist
  { s with persist := { p with
    logs := p.logs.filter (fun l => l.seg != i || !l.committed), parts := p.parts.filter (fun x => x.seg != i),
    acts := p.acts.filter (fun x => x.seg != i), snaps := p.snaps.filter fun x => x.seg != i } }

/-- The next free segment opened for a role, its header written (R441). -/
def takeSeg (s : State) (role : Nat) : State :=
  match nextFree s with
  | none => s
  | some i =>
    let g := AMap.getD s.persist.segs i default
    let g' : Seg := ⟨role, s.persist.nextSeq, g.opens + 1, 1, false, none, 0⟩
    let p := { s.persist with segs := AMap.set s.persist.segs i g', nextSeq := s.persist.nextSeq + 1, lastOpened := i }
    let s := { s with persist := if role = 1 then { p with openLog := some i } else { p with openStore := some i } }
    let hdr := row64 [w64 [(0x30, 0), (role, 8)], w64 [(g'.seq, 0), (g'.opens, 32)]]
    s.write' (.persist 0 i) s.persistAttr [(s.rowAddr i 0, hdr.take 56)] (some (s.rowAddr i 0 + 56, w64Bytes (w64 [(1, 63)])))

/-- Rows usable in a segment of a role (R442). -/
def segLimit (s : State) (role : Nat) : Nat := if role = 1 then min s.segRows (2 ^ 18) else s.segRows
def openOf (s : State) (role : Nat) : Option Nat := if role = 1 then s.persist.openLog else s.persist.openStore
/-- The open segment of a role has room for n rows. -/
def hasRoom (s : State) (role n : Nat) : Bool :=
  match openOf s role with
  | some i => let g := AMap.getD s.persist.segs i default; g.serves role && g.rows + n ≤ segLimit s role
  | none => false

/-- The rows of a multi-row store entry: lead, payload, trailer (R440, Table 15-3). -/
def multiRow (lead : List W64) (payload : List Byte) (seq : Nat) : List Byte :=
  row64 lead ++ padTo 64 0#8 payload ++ row64 [w64 [(0x20, 0)], w64 [(seq, 0)], 0#64, 0#64, 0#64, 0#64, 0#64, w64 [(seq, 0), (1, 63)]]
def partRows (p : Part) : List Byte :=
  multiRow [w64 [(0x10, 0), (cdiv p.bytes.length 64, 8), (p.num, 40), (p.count, 48)], w64 [(p.imageId, 0), (p.gen, 32)], w64 [(p.slot, 0)]]
    p.bytes p.seq
def snapRow (r : SnapRow) : List Byte :=
  let k := if r.k < 0 then (2 ^ 64 + r.k).toNat else r.k.toNat
  wordsBytes [w64 [(r.c, 0), (r.b, 32)], w64 [(r.e, 0), (r.x, 32)], BitVec.ofNat 64 k, w64 [(r.u, 0), (b2n r.enabled, 63)]]
def snapRows (n : Snap) : List Byte :=
  multiRow [w64 [(0x11, 0), (2048, 8)], w64 [(beat48 n.beat, 0)], n.time]
    ((List.range 4096).flatMap fun t => match n.rows.find? fun r => r.tenant == t with
      | some r => snapRow r
      | none => List.replicate 32 0#8) n.seq
def actRow (a : ActRec) : List Byte :=
  row64 [w64 [(0x02, 0), (a.slot, 8), (a.state, 16), (a.kind, 18)], w64 [(a.imageId, 0), (a.gen, 32)], w64 [(beat48 a.beat, 0)], a.time,
    0#64, 0#64, w64 [(a.seq, 0)], w64 [(a.seq, 0), (1, 63)]]

/-- The role of the segments an entry lies in: 1 log records, 2 the rest (R441). -/
def roleOf (what : Nat) : Nat := if what = 1 then 1 else 2
/-- The uncommitted entry with a key placed in a segment at an address. -/
def PersistS.placed (p : PersistS) (what key seg a : Nat) : PersistS :=
  match what with
  | 1 => { p with logs := p.logs.map fun (l : LogRec) => if l.seq = key && !l.committed then { l with seg := seg, at_ := a } else l }
  | 2 => { p with acts := p.acts.map fun (l : ActRec) => if l.seq = key && !l.committed then { l with seg := seg, at_ := a } else l }
  | 3 => { p with parts := p.parts.map fun (l : Part) => if l.seq = key && !l.committed then { l with seg := seg, at_ := a } else l }
  | _ => { p with snaps := p.snaps.map fun (l : Snap) => if l.seq = key && !l.committed then { l with seg := seg, at_ := a } else l }
/-- An entry's rows written at an address, the last word last. -/
def State.writeRows (s : State) (what key addr : Nat) (bs : List Byte) : State :=
  s.write' (.persist what key) s.persistAttr [(addr, bs.take (bs.length - 8))] (some (addr + bs.length - 8, bs.drop (bs.length - 8)))
/-- An entry's rows put into the open segment of its role; without room they wait for a segment to be free. -/
def putRows (s : State) (what key : Nat) (bs : List Byte) : State :=
  match (if hasRoom s (roleOf what) (bs.length / 64) then openOf s (roleOf what) else none) with
  | some i =>
    let a := s.rowAddr i (AMap.getD s.persist.segs i default).rows
    let s := s.setSeg i fun g => { g with rows := g.rows + bs.length / 64 }
    ({ s with persist := s.persist.placed what key i a } : State).writeRows what key a bs
  | none => { s with persist := { s.persist with wait := s.persist.wait ++ [(what, key, bs)] } }

/-- Store entries of a segment that are live: parts of loaded images, the latest activation record of each slot, the latest snapshot (R442). -/
def livePart (s : State) (p : Part) : Bool :=
  match AMap.get? s.images p.slot with
  | some i => i.hdr.imageId == p.imageId && i.hdr.gen == p.gen
  | none => false
def liveAct (s : State) (a : ActRec) : Bool := !(s.persist.acts.any fun x => x.slot == a.slot && a.seq < x.seq && x.committed)
def liveSnap (s : State) (n : Snap) : Bool := !(s.persist.snaps.any fun x => n.seq < x.seq && x.committed)

/-- One entry, added to its list uncommitted, copied into the open store segment or the next free one; none is left out for want of
compaction (R442). -/
def copyRows (s : State) (what key : Nat) (bs : List Byte) : State :=
  putRows (if hasRoom s 2 (bs.length / 64) then s else takeSeg s 2) what key bs
/-- The committed live entries of a segment that stand nowhere else are copied out (R442). -/
def copyOut (s : State) (i : Nat) : State :=
  let s := (s.persist.parts.filter fun p => p.seg == i && p.committed && livePart s p && !(s.persist.parts.any fun y => y.seq == p.seq && y.seg != i)).foldl
    (fun s p => copyRows { s with persist := { s.persist with parts := s.persist.parts ++ [{ p with seg := 64, committed := false }] } } 3 p.seq (partRows p)) s
  let s := (s.persist.acts.filter fun a => a.seg == i && a.committed && liveAct s a && !(s.persist.acts.any fun y => y.seq == a.seq && y.seg != i)).foldl
    (fun s a => copyRows { s with persist := { s.persist with acts := s.persist.acts ++ [{ a with seg := 64, committed := false }] } } 2 a.seq (actRow a)) s
  (s.persist.snaps.filter fun n => n.seg == i && n.committed && liveSnap s n && !(s.persist.snaps.any fun y => y.seq == n.seq && y.seg != i)).foldl
    (fun s n => copyRows { s with persist := { s.persist with snaps := s.persist.snaps ++ [{ n with seg := 64, committed := false }] } } 4 n.seq (snapRows n)) s
/-- Every live entry of a segment has a committed copy elsewhere (R389). -/
def copiedOut (s : State) (i : Nat) : Bool :=
  let p := s.persist
  ((p.parts.filter fun x => x.seg == i && livePart s x).all fun x => p.parts.any fun y => y.seq == x.seq && y.seg != i && y.committed)
    && ((p.acts.filter fun x => x.seg == i && liveAct s x).all fun x => p.acts.any fun y => y.seq == x.seq && y.seg != i && y.committed)
    && (p.snaps.filter fun x => x.seg == i && liveSnap s x).all fun x => p.snaps.any fun y => y.seq == x.seq && y.seg != i && y.committed
/-- A segment's compaction goes on: it is freed once its live entries are committed elsewhere (R389, R442). -/
def compactMore (s : State) (i : Nat) : State :=
  if (AMap.getD s.persist.segs i default).freeing ≠ 1 then s
  else
    let s := copyOut s i
    if copiedOut s i then freeSeg s i else s
/-- A store segment compacted: its live entries copied out, then it is freed (R442). -/
def compact (s : State) (i : Nat) : State :=
  let s := if s.persist.openStore = some i then { s with persist := { s.persist with openStore := none } } else s
  compactMore (s.setSeg i fun g => { g with freeing := 1 }) i
/-- Every compaction under way goes on. -/
def State.pumpCompact (s : State) : State := (AMap.keys s.persist.segs).foldl compactMore s

/-- A segment opened for a role: the log's limit frees its oldest, fewer than 2 free segments compact the oldest store one (R441, R442). -/
def openSeg (s : State) (role : Nat) : State :=
  let s := if role = 1 && (s.persist.segs.filter fun x => x.2.serves 1).length ≥ logLimit s then
      match oldestSeg s 1 with | some i => freeSeg s i | none => s
    else s
  let s := if (freeSegs s).length + (s.persist.segs.filter fun x => x.2.freeing != 0).length < 2 then
      match oldestSeg s 2 with | some i => compact s i | none => s
    else s
  takeSeg s role

/-- An entry's rows written in the open segment of its role, or the next one. -/
def State.placeRows (s : State) (what key : Nat) (bs : List Byte) : State :=
  putRows (if hasRoom s (roleOf what) (bs.length / 64) then s else openSeg s (roleOf what)) what key bs
/-- The rows that waited for a segment, in order, as far as they find room now. -/
def State.pumpRows (s : State) : State :=
  s.persist.wait.foldl (fun s x => s.placeRows x.1 x.2.1 x.2.2) { s with persist := { s.persist with wait := [] } }

/-- Rows of the live store contents (R443). -/
def liveRows (s : State) : Nat :=
  let stays (i : Nat) : Bool := (AMap.getD s.persist.segs i default).freeing == 0
  sumBy (fun p => if stays p.seg && livePart s p then cdiv p.bytes.length 64 + 2 else 0) s.persist.parts
    + (s.persist.acts.filter fun a => stays a.seg && liveAct s a).length + (if s.persist.snaps.isEmpty then 0 else 2050)
/-- Rows the store may hold: its segments less 2 (R443). -/
def storeRows (s : State) : Nat := (64 - logLimit s - 2) * (s.segRows - 1)

/-! Logs (R445 to R447). -/

def logBase (s : State) : Nat := fld s.regs.logLo 31 12 * 2 ^ 12 + fld s.regs.logHi 24 0 * 2 ^ 32
/-- The codes of Table 15-6. -/
def logCodes : List Nat :=
  [0x01, 0x02, 0x10, 0x11, 0x12, 0x13, 0x14, 0x15, 0x20, 0x21, 0x22, 0x23, 0x30, 0x31, 0x32, 0x33, 0x34, 0x35, 0x40, 0x41, 0x50, 0x51, 0x60,
   0x61, 0x62, 0x70, 0x71, 0x72, 0x80]
/-- Code of an event that is logged without a code of its own: a free one of the table's, the others being reserved (R23, R447, log 55). -/
def unlistedLog (k : Nat) : Nat := logCodes.getD (Config.unlistedCode k % logCodes.length) 0x01
/-- A record's words 0 to 6; the cycle of the event is a free choice (Table 15-4, log 4). -/
def logRow (l : LogRec) (cycle : Nat) (time : W64) : List W64 :=
  [w64 [(1, 0), (l.code, 8), (l.severity, 24), (l.engine, 32)], w64 [(beat48 l.beat, 0), (cycle, 48)], time, l.d0, l.d1, l.d2, w64 [(l.seq, 0)]]

/-- A log record to the persistent log, and to the event ring when it has a base (R445, R446). -/
def State.log (s : State) (code severity engine : Nat) (d0 d1 d2 : W64) : State :=
  let l : LogRec := ⟨code, severity, engine, s.beat, d0, d1, d2, s.mgmt.logSeq, 64, 0, false⟩
  let s := { s with persist := { s.persist with logs := s.persist.logs ++ [l] }, mgmt := { s.mgmt with logSeq := (s.mgmt.logSeq + 1) % 2 ^ 32 } }
  let s := s.count 121 1
  let (cyc, s) := s.pick 235
  let body := wordsBytes (logRow l cyc s.clk.lastTime)
  let s := s.placeRows 1 l.seq (body ++ w64Bytes (w64 [(l.seq, 0), (1, 63)]))
  if logBase s = 0 then s
  else
    let n := 2 ^ (fld s.regs.logLo 3 0 + 6)
    let a := logBase s + 64 * s.mgmt.logTail
    let t := s.mgmt.logTail + 1
    let ph := s.mgmt.logPhase
    let s := { s with mgmt := if t = n then { s.mgmt with logTail := 0, logPhase := !ph } else { s.mgmt with logTail := t } }
    s.write' (.logRing (bit s.regs.logLo 10 && severity ≥ 2)) (s.hpAttr 4) [(a, body)] (some (a + 56, w64Bytes (w64 [(l.seq, 0), (b2n ph, 63)])))

/-! Tenants, streams, rings. -/

def Tenant.dflt : Tenant := ⟨false, 0, 0, 0, 0, 0, 0, none, none, none, none, none, none, 0, 0, 0, 0⟩
def State.tenant (s : State) (t : Nat) : Tenant := AMap.getD s.tenants t Tenant.dflt
def State.setTenant (s : State) (t : Nat) (f : Tenant → Tenant) : State := { s with tenants := AMap.set s.tenants t (f (s.tenant t)) }

/-- A ring as it is after a ring reset (R94). -/
def Ring.blank : Ring :=
  { entry := none, faulted := false, cause := 0, halted := false, early := [], sqTail := 0, sqHead := 0, sqPhase := true, fetching := [], came := [],
    fetched := [], reread := none, stale := false, cqHead := 0, cqTail := 0, cqPhase := true, cqUsed := 0, cqDone := 0, cqPend := [], egHead := 0, egTail := 0,
    egPhase := true, egUsed := 0, egDone := 0, egPend := [], lastStep := 0, acc := [], loose := [], waited := [], next := [], resetAsked := false, ghosts := [] }
def State.ring (s : State) (r : Nat) : Ring := AMap.getD s.rings r Ring.blank
def State.setRing (s : State) (r : Nat) (f : Ring → Ring) : State := { s with rings := AMap.set s.rings r (f (s.ring r)) }
def ringSize (code : Nat) : Nat := 2 ^ (code + 6)

def hIndex (h : Nat) : Nat := h % 2 ^ 14
/-- The stream a handle names, unless closed or stale (R102). -/
def State.stream? (s : State) (h : Nat) : Option Stream :=
  match AMap.get? s.streams (hIndex h) with
  | some st => if st.handle = h && st.phase != .closed then some st else none
  | none => none
def State.setStream (s : State) (h : Nat) (f : Stream → Stream) : State :=
  match s.stream? h with
  | some st => { s with streams := AMap.set s.streams (hIndex h) (f st) }
  | none => s
def State.openStreams (s : State) : List Stream := (AMap.vals s.streams).filter fun st => st.phase != .closed
/-- The stream bound to a sampler slot. -/
def State.bound? (s : State) (slot : Nat) : Option Stream := s.openStreams.find? fun st => st.slot == some slot

def State.setRec (s : State) (id : Nat) (f : Rec → Rec) : State := { s with recs := s.recs.map fun r => if r.id = id then f r else r }
def State.rec? (s : State) (id : Nat) : Option Rec := s.recs.find? fun r => r.id == id
def State.recsOf (s : State) (h : Nat) : List Rec := s.recs.filter fun r => r.h == h
def State.setCmd (s : State) (id : Nat) (f : Cmd → Cmd) : State := { s with cmds := s.cmds.map fun c => if c.id = id then f c else c }
def State.cmd? (s : State) (id : Nat) : Option Cmd := s.cmds.find? fun c => c.id == id
def State.setMask (s : State) (id : Nat) (f : MaskJ → MaskJ) : State := { s with masks := s.masks.map fun m => if m.id = id then f m else m }

/-- The policy generation of an image id that is active: its slot and image (R341). -/
def State.activeOf (s : State) (k : Nat) (id : Nat) : Option (Nat × Img) :=
  s.images.find? fun x => x.2.hdr.kind == k && x.2.hdr.imageId == id && x.2.status == 1
/-- An image is loaded or active; one that is retiring is neither (Table 3-7). -/
def Img.loaded (i : Img) : Bool := i.status < 2
/-- Images of an id in any state, those being loaded among them. -/
def State.heldOf (s : State) (k : Nat) (id : Nat) : List (Nat × Img) := s.images.filter fun x => x.2.hdr.kind == k && x.2.hdr.imageId == id
/-- Loaded images of an id. -/
def State.loadedOf (s : State) (k : Nat) (id : Nat) : List (Nat × Img) :=
  (s.heldOf k id).filter fun x => x.2.loaded
def Img.policy? (i : Img) : Option PolicyImg := match i.body with | .policy p => some p | _ => none
def Img.vocab? (i : Img) : Option VocabImg := match i.body with | .vocabulary v => some v | _ => none
def Img.dict? (i : Img) : Option DictImg := match i.body with | .maskDictionary d => some d | _ => none
def Img.grammar? (i : Img) : Option GrammarImg := match i.body with | .grammar g => some g | _ => none
def Img.auto? (i : Img) : Option AutoImg := match i.body with | .automaton a => some a | _ => none
def Img.set? (i : Img) : Option PatSetImg := match i.body with | .patternSet p => some p | _ => none
def Img.head? (i : Img) : Option HeadImg := match i.body with | .probeHead h => some h | _ => none
def Img.ens? (i : Img) : Option EnsImg := match i.body with | .treeEnsemble e => some e | _ => none
def State.img? (s : State) (slot : Nat) : Option Img := AMap.get? s.images slot
def State.setImg (s : State) (slot : Nat) (f : Img → Img) : State := { s with images := AMap.modify s.images slot f }
def State.polOf (s : State) (slot : Nat) : Option PolicyImg := (s.img? slot).bind Img.policy?
/-- The active generation of an enabled policy id (R341). -/
def State.policyOf (s : State) (pid : Nat) : Option (Nat × Img × PolicyImg) :=
  match AMap.get? s.policies pid with
  | some b => if b.enabled then
      match s.activeOf 10 b.imageId with
      | some (slot, i) => i.policy?.map fun p => (slot, i, p)
      | none => none
    else none
  | none => none

/-! Completions (R106 to R108). -/

def Cpl.blank : Cpl := ⟨0, 0, 0, 0, 0, 0, 0, 0, 0, 0, 0, false, 0, [], 0⟩
/-- A completion entry queued on a ring; the release phase writes it when a slot is free (R110). -/
def State.post (s : State) (ring : Nat) (c : Cpl) : State :=
  s.setRing ring fun r => { r with cqPend := r.cqPend ++ [{ c with since := s.beat }] }

/-- A verdict or event entry of a stream (Table 3-4): kind 1 chunk, 2 input, 3 event. -/
def State.postVerdict (s : State) (st : Stream) (kind verdict flags relBeat chunk pos : Nat) (after : List Nat) : State :=
  s.post st.ring { Cpl.blank with
    kind := kind, stream := st.handle, resB := pack [(beat48 relBeat, 0), (chunk, 48)], verdict := verdict, flags := flags, pos := pos,
    irq := ((s.ring st.ring).entry.map (·.verdictIrq)).getD false, after := after }

/-- What a command's completion carries. -/
structure Done where
  status : Nat
  stream : Nat := 0
  resA : Nat := 0
  resB : Nat := 0
  verdict : Nat := 0
  flags : Nat := 0
  pos : Nat := 0
  after : List Nat := []

/-- Counter of a refusal status or of DEFERRED (Table 15-14, indices 70 to 74 and 110). -/
def countRefusal (s : State) (st : Nat) : State :=
  if 0x20 ≤ st && st ≤ 0x24 then s.count (70 + (st - 0x20)) 1 else if st = stDeferred then s.count 110 1 else s

/-- A running command completes. -/
def State.finish (s : State) (c : Cmd) (d : Done) : State :=
  let s := { s with cmds := s.cmds.filter fun x => x.id != c.id }
  let s := countRefusal s d.status
  let s := s.trace 51 0x02 c.tag c.layerId c.opId 0 c.stream (w64 [(c.opcode, 0), (c.index, 8), (c.ring, 24), (d.status, 34)])
  s.post c.ring { Cpl.blank with
    tag := c.tag, index := c.index, opcode := c.opcode, stream := if d.stream = 0 then c.stream else d.stream, resA := d.resA,
    resB := d.resB, status := d.status, verdict := d.verdict, flags := d.flags, pos := d.pos, irq := c.irq, after := d.after, cmd := c.id }
def State.finishId (s : State) (id : Nat) (d : Done) : State :=
  match s.cmd? id with | some c => s.finish c d | none => s

/-- A doorbell fault recorded: the first keeps ring and cause (Table 17-8). -/
def State.dbFaultAt (s : State) (ring cause : Nat) : State :=
  let h := s.host
  let s := s.count 103 1
  if h.dbFault then { s with host := { s.host with dbOverrun := true } }
  else { s with host := { s.host with dbFault := true, dbRing := ring, dbCause := cause } }

/-- A vector raised by a ring (R108, R479); it is sent only while its EN is 1 (R480). -/
def State.raiseVec (s : State) (v : Nat) : State :=
  let s := s.raise 2
  if bit (AMap.getD s.regs.vecHi v 0#32) 31 then { s with host := { s.host with irqPend := s.host.irqPend ++ [v] } } else s

/-! Cells and time. -/

def State.cellsIn (s : State) : Nat := s.cells - s.integ.cellsOut.length
/-- Usable tiles of an image on a cell. -/
def tilesOn (i : Img) (cell : Nat) : List Nat :=
  (AMap.keys i.cells).filter fun t => AMap.get? i.cells t == some cell && !i.badTiles.contains t
/-- A cell leaves rotation: capacity falls, its tiles need a reload, status and log (R53, R287). -/
def State.cellLeaves (s : State) (cell cause : Nat) : State :=
  if s.integ.cellsOut.contains cell then s
  else
    let s := { s with integ := { s.integ with cellsOut := s.integ.cellsOut ++ [cell], faults := s.integ.faults ||| 128 } }
    let s := { s with images := s.images.map fun (x : Nat × Img) =>
      (x.1, { x.2 with badTiles := x.2.badTiles ++ tilesOn x.2 cell }) }
    (s.count 90 1).log 0x0031 2 51 (w64 [(cell, 0)]) (w64 [(cause, 0)]) 0#64

/-- Nanoseconds of n beats of 235 / f_core, rounded down (R14, R67). -/
def State.beatsNs (s : State) (n : Nat) : Nat := n * 235 * 10 ^ 6 / max 1 s.freqKhz
/-- Time-port time of the coming boundary: a beat after the last one's (R414). -/
def State.nextTime (s : State) : W64 := BitVec.ofNat 64 (s.clk.lastTime.toNat + s.beatsNs 1)
/-- The time-port value taken: never below the last taken (R488). -/
def State.takeTime (s : State) (t : W64) : State :=
  if t.toNat < s.clk.lastTime.toNat then { s with clk := { s.clk with timeSteps := s.clk.timeSteps + 1 } }
  else { s with clk := { s.clk with lastTime := t } }

end Sys2Proof.Machine
end

