-- ==== Sys2Proof/Machine/Issue.lean ====
section
/-! DEFINITION. Issuing stack operations, absent results and masks that give way (R89, R207, R312 to R332). -/

namespace Sys2Proof.Machine

/-- A quantity less its recovery reserve of 1/32, rounded up (R77, R261, R373). -/
def plannable (n : Nat) : Nat := n - cdiv n 32

def Chan.blank : Chan := ⟨0, 0, [], false, false, false, 0, 0, 0, 0, 0, 0⟩
/-- An operation of foreground work: a record's round, a mask, or intake within what these leave (R316, R332, R335). -/
def Purp.foreground : Purp → Bool | .stage _ _ _ => true | .walk _ _ => true | .gather _ _ _ => true | .mask _ => true | .encode _ _ _ _ => true | _ => false
/-- The firmware command an operation serves. -/
def Purp.cmd? : Purp → Option Nat
  | .imgWrite k => some k | .setMaster k => some k | .allow k => some k | .cairnSave k => some k | .cairnClear k => some k
  | .retireClear k => some k | .cairnLoad k _ => some k | .pingSeries k => some k | _ => none
/-- Response transfers outstanding on a channel from foreground operations, or from the others (R332). -/
def Chan.respOf (c : Chan) (fg : Bool) : Nat := sumBy (fun o => if o.purp.foreground = fg then 1 + o.respLen else 0) c.outs
def State.chan (s : State) (c : Nat) : Chan := AMap.getD s.stack.chans c Chan.blank
def State.setChan (s : State) (c : Nat) (f : Chan → Chan) : State :=
  { s with stack := { s.stack with chans := AMap.set s.stack.chans c (f (s.chan c)) } }
/-- Channels enabled and in service. -/
def State.liveChans (s : State) : List Nat := (List.range s.channels).filter fun c => s.chanEn c && (s.chan c).inService

/-- Issue windows: first round and dependent round with the B_rt the result is due by, intake, recovery (R77), background or firmware (R316). -/
inductive Win where
  | first (brt : Nat) | dep (brt : Nat) | intake | recov | back
  deriving DecidableEq, Repr, Inhabited

/-- First-round and dependent request transfers a channel has planned or sent in this beat. -/
def firstLoad (s : State) (c : Nat) : Nat := max (AMap.getD s.plan.first c 0) (s.chan c).planFirst
def depLoad (s : State) (c : Nat) : Nat := max (AMap.getD s.plan.dep c 0) (s.chan c).planDep
/-- Request transfers a channel still takes in a window of this beat, by the plan in force; background work takes the cycles that the rest has
not planned (R77, R81, R316, R332, R373, R375). -/
def winRoom (s : State) (c : Nat) : Win → Nat
  | .first _ => plannable s.plan.stFirst - (s.chan c).planFirst
  | .dep _ => plannable s.plan.stDep - (s.chan c).planDep
  | .intake => plannable s.plan.stFirst - firstLoad s c
  | .recov => cdiv s.plan.stFirst 32 - (s.chan c).planRec
  | .back => 235 - firstLoad s c - depLoad s c - (s.chan c).planRec - (s.chan c).planBack
/-- Response transfers a channel still takes: the window less 66 for foreground work, intake behind what is planned, and the 66 kept from it for
every other operation (R332, R335, R336). -/
def respRoom (s : State) (c : Nat) (w : Win) (fg : Bool) : Nat :=
  if fg then s.respWindow - 66 - (s.chan c).respOf true - (if w = .intake then AMap.getD s.plan.resp c 0 else 0) else 66 - (s.chan c).respOf false
/-- Credit that background work leaves for one beat's foreground transfers, 178 and 33 of them (R354, R358, log 66). -/
def State.creditKeep (s : State) : Nat := min 211 (s.stack.agentCredit - 66)
/-- A channel takes an operation now: it is in service and has credit, cycles and response window for it (R315, R316, R332). -/
def chanTakes (s : State) (c : Nat) (w : Win) (purp : Purp) (req respLen : Nat) : Bool :=
  (s.chan c).inService && req + (if w = .back then s.creditKeep else 0) ≤ (s.chan c).credit && req ≤ winRoom s c w
    && 1 + respLen ≤ respRoom s c w purp.foreground

/-- The live channel with the fewest planned request transfers, the lowest on ties (R332). -/
def leastLoaded (s : State) : Option Nat := (sortAsc (fun c => firstLoad s c + depLoad s c) s.liveChans).head?
/-- The live channel with the fewest response transfers outstanding from background and firmware work, the lowest on ties. -/
def leastBusy (s : State) : Option Nat := (sortAsc (fun c => (s.chan c).respOf false) s.liveChans).head?

/-- An operation sent on a channel: its tag, its due beat, its place among the outstanding (R314, R316, R328). -/
def State.sendOn (s : State) (c : Nat) (w : Win) (op : Nat) (purp : Purp) (words : List W64) (payload : List Byte) (respLen : Nat) : State :=
  let ch := s.chan c
  let req := 1 + cdiv payload.length 64
  let (nf, nd, nr, nb, brt) : Nat × Nat × Nat × Nat × Nat := match w with
    | .first b => (req, 0, 0, 0, b) | .dep b => (0, req, 0, 0, b) | .intake => (req, 0, 0, 0, s.stack.brt)
    | .recov => (0, 0, req, 0, s.stack.brt) | .back => (0, 0, 0, req, s.stack.brt)
  let (cyc, s) := match w with
    | .dep _ => let (k, s) := s.pick (36 - min 35 req); (200 + k, s)
    | .back => s.pick 235
    | _ => let (k, s) := s.pick (185 - min 184 req); (16 + k, s)
  let due := beatAdd s.beat brt
  let o : SOp := ⟨ch.nextTag, op, fld (words.headD 0#64) 39 0, purp, respLen, due, s.beat, cyc, false⟩
  let s := if w = .intake then { s with plan := { s.plan with first := AMap.set s.plan.first c (AMap.getD s.plan.first c 0 + req) } } else s
  let s := s.setChan c fun ch => { ch with
    credit := ch.credit - req, nextTag := (ch.nextTag + 1) % 65536, outs := ch.outs ++ [o],
    planFirst := ch.planFirst + nf, planDep := ch.planDep + nd, planRec := ch.planRec + nr, planBack := ch.planBack + nb }
  let s := ((s.count (47 + op) 1).count 41 (b2n (op == 5))).ev (40 + c) 0x03 0 [(c, 0), (o.tag, 3), (op, 19)]
  s.emit (.stReq c op o.tag s.stack.epoch (req - 1) (beat48 due) words payload)

/-- An operation that is not issued: its result is absent, and it is counted and logged (R316). -/
def State.noIssue (s : State) (engine chan op : Nat) : State :=
  (s.count 60 1).log 0x0011 1 engine (w64 [(chan, 0)]) (w64 [(op, 0)]) 0#64
/-- An operation on one channel, when that takes it; else it is absent (R315, R316, R332). -/
def State.issueOn (s : State) (c : Nat) (w : Win) (op : Nat) (purp : Purp) (words : List W64) (payload : List Byte) (respLen : Nat) :
    Bool × State :=
  if chanTakes s c w purp (1 + cdiv payload.length 64) respLen then (true, s.sendOn c w op purp words payload respLen)
  else (false, s.noIssue (40 + c) c op)

/-- The channel on which an operation is outstanding that a read, write or clear at an offset depends on (R313). -/
def tileChan (s : State) (op off : Nat) : Option Nat :=
  (s.stack.chans.find? fun x => x.2.outs.any fun o =>
    o.off == off && (op == 1 && o.op == 2 || op == 2 && (o.op == 1 || o.op == 2) || op == 7 && o.op == 7)).map (·.1)
/-- The channel an operation takes: the one it depends on, else the least loaded one, by the plan or by its own kind of work (R313, R332). -/
def chanFor (s : State) (w : Win) (op off : Nat) : Option Nat :=
  (tileChan s op (off % 2 ^ 40)).orElse fun _ => match w with | .recov => leastBusy s | .back => leastBusy s | _ => leastLoaded s
/-- Whether an operation is taken now on the channel that it takes. -/
def canIssue (s : State) (w : Win) (purp : Purp) (op off req respLen : Nat) : Bool :=
  match chanFor s w op off with | some c => chanTakes s c w purp req respLen | none => false
/-- An operation on the channel that it takes: whether it was issued. -/
def State.issue (s : State) (w : Win) (op : Nat) (purp : Purp) (words : List W64) (payload : List Byte) (respLen : Nat) : Bool × State :=
  match chanFor s w op (fld (words.headD 0#64) 39 0) with
  | some c => s.issueOn c w op purp words payload respLen
  | none => (false, s.noIssue 51 0 op)
/-- Payload transfers that a read of a tile, a cairn or a ping brings (Table 10-5). -/
def opResp (op : Nat) : Nat := if op = 1 || op = 10 then 65 else if op = 8 then 8 else 0
/-- Room for a background operation of some request transfers (R315, R316, R336). -/
def bgRoom (s : State) (req : Nat) (op : Nat := 0) (off : Nat := 0) : Bool := canIssue s .back .pingBg op off req (opResp op)

/-- The operations of firmware commands that wait are issued as channels take them, first in, first out; those of a command that is over are
not (R315, R316, Table 3-11). -/
def pumpFirm : Nat → State → State
  | 0, s => s
  | f + 1, s =>
    match s.stack.firm with
    | [] => s
    | o :: rest =>
      let t : State := { s with stack := { s.stack with firm := rest } }
      if (o.purp.cmd?.map fun k => (s.cmd? k).isNone).getD false then pumpFirm f t
      else
        let off := fld (o.words.headD 0#64) 39 0
        match chanFor s .back o.op off with
        | some c =>
          if chanTakes s c .back o.purp (1 + cdiv o.payload.length 64) o.respLen then
            pumpFirm f (t.sendOn c .back o.op o.purp o.words o.payload o.respLen)
          else s
        | none => s
def State.pumpFirms (s : State) : State := if s.clk.stopped || s.start.halted then s else pumpFirm s.stack.firm.length s
/-- An operation of a firmware command, behind those that wait. -/
def State.firm (s : State) (op : Nat) (purp : Purp) (words : List W64) (payload : List Byte) (respLen : Nat) : State :=
  ({ s with stack := { s.stack with firm := s.stack.firm ++ [⟨op, purp, words, payload, respLen⟩] } } : State).pumpFirms

/-! Window offsets (R310, R311). -/
def imgBase (s : State) (slot : Nat) : Nat := (s.region 0).1 + (AMap.getD s.stack.imgRuns slot (0, 0)).1 * 4160
def tileOff (s : State) (slot tile : Nat) : Nat := imgBase s slot + tile * 4160
def cairnOff (s : State) (pair loc : Nat) : Nat := (s.region 1).1 + pair * 1024 + loc * 512
def allowOff (s : State) (k : Nat) : Nat := (s.region 3).1 + k * 66560

/-- A flag put on a mask's determining record while it is unreleased, on the stream's next released committed record, or in trace (R89, R202, R207). -/
def State.maskFlag (s : State) (m : MaskJ) (f : Nat) : State :=
  match m.rid.bind s.rec? with
  | some r => s.setRec r.id fun r => { r with flags := setFlag r.flags f }
  | none =>
    if m.kind = 0 || m.taken then s.setStream m.h fun st => { st with nextFlags := setFlag st.nextFlags f }
    else s.ev 36 0x0A m.h [(m.slot, 0), (m.step, 14), (if m.kind = 1 then setFlag f fSpec else f, 30)]

/-- A mask replaced by an all-denied one with cause 10 (R89). -/
def State.maskReplaced (s : State) (id f : Nat) : State :=
  match s.masks.find? fun m => m.id == id with
  | some m => (s.setMask id fun m => { m with mask := Mask.none m.mask.n, cause := 2, waiting := false, composed := true }).maskFlag m f
  | none => s

/-- A model's result becomes absent (R36, R327). -/
def State.modelAbsent (s : State) (rid mi : Nat) : State :=
  s.setRec rid fun r =>
    { r with models := r.models.map fun m => if m.mi = mi && m.st ≠ 4 then { m with st := 3 } else m, flags := setFlag r.flags fTimeout }

def Bank.blank : Bank := ⟨1, [], none, [], 0, 0⟩
def State.bank (s : State) (b : Nat) : Bank := AMap.getD s.banks b Bank.blank
def State.setBank (s : State) (b : Nat) (f : Bank → Bank) : State := { s with banks := AMap.set s.banks b (f (s.bank b)) }

/-- Entries of target units cleared (R255). -/
def Bank.invalidate (b : Bank) (us : List Nat) : Bank :=
  { b with entries := b.entries.map fun e => if us.contains e.unit then { e with valid := false, written := false, shadowBad := false } else e }
/-- Records loaded into target units. -/
def Bank.load (b : Bank) (es : List BEntry) : Bank :=
  { b with entries := b.entries.filter (fun e => !es.any fun x => x.unit == e.unit) ++ es }
def Bank.validate (b : Bank) (us : List Nat) : Bank :=
  { b with entries := b.entries.map fun e => if us.contains e.unit && e.written then { e with valid := true } else e }
/-- A bank's width set: invalid entries of another width are lost (R235). -/
def Bank.setWidth (b : Bank) (w : Nat) : Bank := if b.width = w then b else { b with width := w, entries := b.entries.filter fun e => e.valid || e.shadowBad }
/-- A scheduled change of bank k. -/
def Bank.after (k : Nat) (b : Bank) (e : Eff) : Bank :=
  match e with
  | .invalidate n us => if n = k then b.invalidate us else b
  | .writeE n es => if n = k then b.load es else b
  | .validate n us => if n = k then b.validate us else b
  | .bankWidth n w => if n = k then b.setWidth w else b
  | .dropSet n t => if n = k then { b with entries := b.entries.filter fun e => e.rec_.set != t } else b
  | _ => b
/-- A bank with the changes of the coming boundary. -/
def bankSoon (s : State) (k : Nat) : Bank := s.sched.foldl (fun b e => b.after k e.eff) (s.bank k)
/-- A change of a bank's entries takes effect at the next boundary; during a start, at once (R247, R255). -/
def State.bankAt (s : State) (k : Nat) (e : Eff) : State :=
  if s.complete then s.at s.nextB e else s.setBank k fun b => b.after k e
/-- The entries of a placed set go (R245). -/
def State.dropPlaced (s : State) (i : Img) : State := i.placed.foldl (fun s x => s.bankAt x.2.1 (.dropSet x.2.1 x.2.2)) s

/-- A read of an image's part in the persistent window. -/
def ROwner.imageOf (slot : Nat) : ROwner → Bool
  | .image k _ _ => k == slot
  | _ => false
/-- An image slot emptied: its tiles, its run of the images region and its entries of the store are free (R245, Table 10-1). -/
def State.dropImage (s : State) (slot : Nat) : State :=
  let s := match s.img? slot with | some i => s.dropPlaced i | none => s
  let s : State := { s with
           images := AMap.erase s.images slot
           stack := { s.stack with
             imgRuns := AMap.erase s.stack.imgRuns slot, rewriteLeft := s.stack.rewriteLeft.filter (fun x => x != slot),
             rewriteAt := if s.stack.rewriteLeft.head? = some slot then 0 else s.stack.rewriteAt,
             repairs := s.stack.repairs.filter fun x => x.1 != slot,
             fetch := s.stack.fetch.filter fun f => f.slot != slot } }
  s.dropReads (ROwner.imageOf slot)

/-- Whether generation a is newer than b modulo 2^32 (R228). -/
def genNewer (a b : Nat) : Bool := a != b && (a + 2 ^ 32 - b) % 2 ^ 32 < 2 ^ 31

/-- The location of a pair that holds the current record, with its generation. -/
def Cairn.current (k : Cairn) : Option (Nat × Nat) :=
  match k.gen0, k.gen1 with
  | none, none => none
  | some g, none => some (0, g)
  | none, some g => some (1, g)
  | some a, some b => if genNewer b a then some (1, b) else some (0, a)

/-- A save that fails leaves no new directory entry, unless another save of the handle is under way (R112, R227, R233). -/
def State.dropNewCairn (s : State) (id handle : Nat) : State :=
  let other := s.cmds.any fun c => c.id != id && match c.k with | .saveC _ x _ _ _ _ => x == handle | _ => false
  match AMap.get? s.cairns handle with
  | some k => if k.current.isNone && !other then { s with cairns := AMap.erase s.cairns handle } else s
  | none => s
/-- A save ends without its record: the location it was writing gets no commit word, and the record that was current stays so (R227, R233,
Table 3-11; the clear is the model's, log 52). -/
def State.dropSave (s : State) (c : Cmd) : State :=
  match c.k with
  | .saveC _ handle _ stage loc _ =>
    let s := match AMap.get? s.cairns handle with
      | some k => if stage = 1 || stage = 2 then s.firm 7 .saveDrop [w64 [(cairnOff s k.pair loc, 0), (1, 40)]] [] 0 else s
      | none => s
    s.dropNewCairn c.id handle
  | _ => s

/-- A stream that does not come to be open: its index, its open sequence and its allow-list slot are as before the command (R112). -/
def State.unopen (s : State) (h : Nat) : State :=
  match AMap.get? s.streams (hIndex h) with
  | some st =>
    if st.handle = h && st.phase = .opening then
      { s with streams := AMap.erase s.streams (hIndex h), opens := AMap.set s.opens (hIndex h) ((h / 2 ^ 14 + 2 ^ 18 - 1) % 2 ^ 18),
               sched := s.sched.filter fun e => match e.eff with | .openS x _ => x != h | _ => true,
               stack := { s.stack with allowUsed := s.stack.allowUsed.filter fun k => st.allowSlot != some k } }
    else s
  | none => s
/-- A command that issued an absent operation completes (R327). -/
def State.cmdAbsent (s : State) (id status : Nat) : State :=
  match s.cmd? id with
  | none => s
  | some c =>
    match c.k with
    | .openS h _ _ _ _ =>
      (s.finish c { status := status }).unopen h
    | .loadI slot _ _ _ =>
      (s.dropImage slot).finish c { status := status }
    | .saveC _ _ _ _ _ _ => (s.finish c { status := status }).dropSave c
    | _ => s.finish c { status := status }

end Sys2Proof.Machine
end

