-- ==== Sys2Proof/Machine/Relay.lean ====
section
/-! DEFINITION. A member's part in a range: roles, lanes, relay records written, predecessor results (R54, R72, R359, R422 to R428, R466). -/

namespace Sys2Proof.Machine

/-- This member's id (Table 14-6). -/
def State.selfId (s : State) : Nat := fld s.regs.rangeMember 5 0
/-- Outside a range an instance is its own tail; in one, the tail alone writes masks, verdicts and batches (R54, R427). -/
def State.isTail (s : State) : Bool := !s.range.joined || s.range.role == 2
/-- No member names this one as its successor: it takes INGEST, tokenizes and charges (R359, R427). -/
def State.isFirst (s : State) : Bool := !s.range.joined || !(s.range.members.any fun m => m.1 != s.selfId && m.2.succ == s.selfId)
def State.succId (s : State) : Nat := ((AMap.get? s.range.members s.selfId).map (·.succ)).getD 64
/-- The member whose successor this one is; 64 where there is none. -/
def State.predId (s : State) : Nat := ((s.range.members.find? fun m => m.1 != s.selfId && m.2.succ == s.selfId).map (·.1)).getD 64
/-- The anchor's member id: the head's. -/
def State.headId (s : State) : Nat := ((s.range.members.find? fun m => m.2.role == 0).map (·.1)).getD 64

/-! Lanes. -/

/-- Slots of a lane (Table 14-7). -/
def laneSlots (s : State) : Nat := 2 ^ (fld s.regs.relayLo 3 0 + 8)
def inboxBase (s : State) : Nat := fld s.regs.relayLo 31 16 * 2 ^ 16 + fld s.regs.relayHi 24 0 * 2 ^ 32
/-- Inbox of a peer; 64 stands for the successor before formation. -/
def peerInbox (s : State) (peer : Nat) : Nat := if peer = 64 then s.range.succInbox else ((AMap.get? s.range.members peer).map (·.inbox)).getD (AMap.getD s.range.joinBox peer 0)
/-- The lane to a peer has a returned slot (R423). -/
def laneRoom (s : State) (peer : Nat) : Bool := let x := AMap.getD s.range.send peer (0, 0); x.1 - x.2 < laneSlots s
/-- A relay record written into the lane (R424, Table 14-8). -/
def State.relayWrite (s : State) (r : RelayOut) : State :=
  let n := laneSlots s
  let x := AMap.getD s.range.send r.peer (0, 0)
  let a := r.inbox + (s.selfId * n + x.1 % n) * 64
  let target := if r.peer = 64 then Config.unlistedCause 6 % 64 else r.peer
  let w0 := w64 [(r.kind, 0), (r.sender, 4), (target, 10), (r.formation, 16)]
  let ws := w0 :: ((List.range 5).map fun i => r.words.getD i 0#64) ++ [s.clk.lastTime]
  let w7 := w64 [(beat48 s.beat, 0), (b2n (x.1 / n % 2 == 0), 63)]
  let s := { s with range := { s.range with
    send := AMap.set s.range.send r.peer (x.1 + 1, x.2), sentTo := AMap.set s.range.sentTo r.peer s.beat } }
  let s := (s.count 112 1).ev 52 0x0C (fld (r.words.getD 0 0#64) 31 0) [(beat48 s.beat, 0), (target, 48), (r.kind, 54)]
  s.write' (.relay r.peer r.kind) (s.hpAttr 12) [(a, wordsBytes ws)] (some (a + 56, w64Bytes w7))
/-- Records that wait for lanes, written in order as far as each lane has room: in the release phase, and where no beat runs (R56). -/
def State.pumpRelay (s : State) : State :=
  s.range.backlog.foldl (fun s r =>
    let before := s.range.backlog.takeWhile fun x => x != r
    if laneRoom s r.peer && !(before.any fun x => x.peer == r.peer) then
      { s with range := { s.range with backlog := s.range.backlog.erase r } }.relayWrite r
    else s) s
/-- A REC or CHUNK whose verdict is INCOMPLETE, since it cannot be forwarded in time (R54, R429). -/
def RelayOut.marked (r : RelayOut) : RelayOut :=
  let at_ (hi lo : Nat) : List W64 := r.words.modifyHead fun w => setFld w hi lo (combine [fld w hi lo, vIncomplete])
  if r.kind = 1 then { r with words := at_ 41 38 } else if r.kind = 2 then { r with words := at_ 40 37 } else r
/-- Kinds of record that wait out a split: results, marked INCOMPLETE, and a lease's report; any other record that no lane takes is lost (R363,
R429, log 63). -/
def relayKept (kind : Nat) : Bool := kind == 1 || kind == 2 || kind == 7
/-- A record for a peer under a sender's id; it is written in a release phase, as soon as the lane has room (Table 2-1, R423). -/
def State.relayAs (s : State) (sender peer kind : Nat) (ws : List W64) : State :=
  let r : RelayOut := { peer := peer, kind := kind, sender := sender, words := ws, formation := s.range.formation, since := s.beat, inbox := peerInbox s peer }
  if s.range.splitFrom.contains peer && !laneRoom s peer && !relayKept kind then s
  else { s with range := { s.range with backlog := s.range.backlog ++ [r] } }
def State.relay (s : State) (peer kind : Nat) (ws : List W64) : State := s.relayAs s.selfId peer kind ws
/-- A record to every other member. -/
def State.relayAll (s : State) (kind : Nat) (ws : List W64) : State :=
  ((AMap.keys s.range.members).filter fun m => m != s.selfId).foldl (fun s m => s.relay m kind ws) s

/-! Predecessor results (R428). -/

/-- Kind of a record in a REC (Table 14-9). -/
def recCode (r : Rec) : Nat :=
  match r.kind with | .draft => 1 | .stepEnd => 2 | .span => 3 | _ => if r.spec then 1 else 0
/-- Number that tells records of one slot and step apart: the draft node, or a span's position. -/
def recNode (r : Rec) : Nat := if r.kind = .span then r.token else if r.spec || r.kind == .draft then r.node else 0
def predOf (s : State) (r : Rec) : Option Pred :=
  s.range.preds.find? fun p => p.slot == r.slot && p.step == r.step && p.node == recNode r && p.kind == recCode r
/-- The predecessor's result arrived before this beat, or none is awaited. -/
def predIn (s : State) (r : Rec) : Bool :=
  s.isFirst || match predOf s r with | some p => beatLt p.beat s.beat | none => false
/-- Kinds of record that move a stream's screening state. -/
def RecK.moves : RecK → Bool | .committed => true | .draft => true | .marker => true | _ => false
/-- A stamped record can be screened in this beat: its tiles are good, its stream record read, its predecessor's result in (R74, R428). -/
def runsNow (s : State) (r : Rec) : Bool :=
  r.stamp.isSome && !r.screened && r.waitTile.isEmpty && !r.torn && (r.kind == .marker || s.isFirst || !s.isTail || predIn s r)
/-- A stamped record waits for its predecessor's result (R428). -/
def awaitsPred (s : State) (r : Rec) : Bool := r.stamp.isSome && !r.screened && r.kind != .marker && r.kind != .chunk && !predIn s r
/-- A record ahead of this one in its stream is stamped and not yet screened. -/
def recBlocked (s : State) (r : Rec) : Bool :=
  r.kind.moves && s.recs.any fun x => x.h == r.h && x.id < r.id && x.kind.moves && x.stamp.isSome && !x.screened
/-- A member between the first and the tail stamps a record once both have arrived. -/
def stageReady (s : State) (r : Rec) : Bool := s.isFirst || s.isTail || predIn s r
/-- Verdict and flags so far that a record brings to this member's own. -/
def predRes (s : State) (r : Rec) : List Nat × Nat :=
  if s.isFirst || r.kind = .chunk then ([], 0)
  else match predOf s r with
    | some p => (if p.verdict = vPass then [] else [p.verdict], p.flags)
    | none => ([], 0)
def State.dropPred (s : State) (r : Rec) : State :=
  match predOf s r with
  | some p => { s with range := { s.range with preds := s.range.preds.erase p } }
  | none => s
/-- A record's result forwarded to the successor (R54, R428); a split makes it INCOMPLETE; the stage outputs are free values. -/
def State.relayRec (s : State) (r : Rec) : State :=
  let first := (predOf s r).map (·.time)
  let s := s.dropPred r
  let split := s.range.splitFrom.contains s.succId
  let v := if split then combine [r.verdict, vIncomplete] else r.verdict
  let stampTime := first.getD (BitVec.ofNat 64 (s.start.offset.toNat + s.beatsNs (r.stamp.getD 0)))
  let o (i : Nat) : Nat := (Config.stageOutput (s.free + i)).toNat
  let s := { s with free := s.free + 4 }
  s.relay s.succId 1 [w64 [(r.slot, 0), (r.step, 14), (recNode r % 64, 30), (recCode r, 36), (v, 38), (r.flags, 42)],
    w64 [(if r.kind = .span then r.token else r.pos, 0)], stampTime, w64 [(o 0, 0), (o 1, 32)], w64 [(o 2, 0), (o 3, 32)]]
/-- A chunk's result forwarded: the address is that of its first token word (R427); a split makes it INCOMPLETE (R54). -/
def State.relayChunk (s : State) (st : Stream) (r : Rec) : State :=
  let v := if s.range.splitFrom.contains s.succId then combine [r.verdict, vIncomplete] else r.verdict
  s.relay s.succId 2 [w64 [((st.slot.getD st.lastSlot), 0), (r.token, 14), (r.n, 24), (v, 37), (r.flags, 41)], w64 [(r.off, 0)]]

end Sys2Proof.Machine
end

