-- ==== Sys2Proof/WellFormed.lean ====
section
/-! DEFINITION. Which commands are well formed: operands as the ports carry them. -/

namespace Sys2Proof

/-- Opcode of a descriptor: word 0 bits [7:0] (Table 3-3). -/
def Desc.opcode (d : Desc) : Nat := d.w0.toNat % 256

/-- A response as the agent's transfers carry it: a cycle below 235, a payload of resp_len transfers (R312, Table 10-4). -/
def Rsp.ok (r : Rsp) : Bool := r.cycle.toNat < 235 && r.payload.length == 64 * r.respLen.toNat

/-- A relay record names a lane below 64 by its type; its kind is the row's (Table 14-9). -/
def RelayIn.kindIs (r : RelayIn) (k : Nat) : Bool := r.w0.toNat % 16 == k

/-- A frame's descriptor beat is eight words when the frame arrived whole (R122). -/
def FrameIn.ok (f : FrameIn) : Bool := !f.whole || f.desc.length == 8

/-- Sub-operation of MATCH_UPDATE and of CALIBRATE, word 2 bits [1:0]; BIND_SLOT's unbind bit; EXPERT's function and action. -/
def Desc.subOp (d : Desc) : Nat := d.w2.toNat % 4
def Desc.unbindBit (d : Desc) : Bool := d.w2.getLsbD 16
def Desc.fnAct (d : Desc) : Nat × Nat := (d.w2.toNat % 16, d.w2.toNat / 16 % 16)

/-- A command is well formed when its operands are what its row of the table names. -/
def Instr.wellFormed : Instr → Bool
  | .submissionTailDoorbell n _ => !n.getLsbD 10
  | .completionHeadDoorbell n _ => !n.getLsbD 10
  | .egressHeadDoorbell n _ => !n.getLsbD 10
  | .cancelDoorbell n _ => n.getLsbD 10
  | .openStream d _ => d.opcode == 0x01
  | .closeStream d => d.opcode == 0x02
  | .ingest d => d.opcode == 0x03
  | .bindSlot d => d.opcode == 0x04 && !d.unbindBit
  | .unbindSlot d => d.opcode == 0x04 && d.unbindBit
  | .cancel d => d.opcode == 0x05
  | .saveCairn d => d.opcode == 0x06
  | .resumeCairn d => d.opcode == 0x07
  | .retireCairn d => d.opcode == 0x08
  | .loadImage d _ => d.opcode == 0x10
  | .activateImage d => d.opcode == 0x11
  | .retireImage d => d.opcode == 0x12
  | .queryImage d => d.opcode == 0x13
  | .setTenant d => d.opcode == 0x18
  | .setBudget d => d.opcode == 0x19
  | .setPolicy d => d.opcode == 0x1A
  | .matchUpdateInvalidate d => d.opcode == 0x20 && d.subOp == 0
  | .matchUpdateWrite d _ => d.opcode == 0x20 && d.subOp == 1
  | .matchUpdateValidate d => d.opcode == 0x20 && d.subOp == 2
  | .matchShift d => d.opcode == 0x21
  | .matchSearch d _ => d.opcode == 0x22
  | .selfTest d _ => d.opcode == 0x28
  | .calibrateThermalTrims d _ => d.opcode == 0x29 && d.subOp == 0
  | .calibrateDroopDetectors d => d.opcode == 0x29 && d.subOp == 1
  | .calibrateStackRoundTrip d => d.opcode == 0x29 && d.subOp == 2
  | .traceCtl d => d.opcode == 0x30
  | .counterCtl d => d.opcode == 0x31
  | .logFlush d => d.opcode == 0x32
  | .stop d => d.opcode == 0x38
  | .resume d => d.opcode == 0x39
  | .hangReport d => d.opcode == 0x3A
  | .rangeJoin d => d.opcode == 0x40
  | .rangeLeave d => d.opcode == 0x41
  | .rangeStatus d => d.opcode == 0x42
  | .expertQuery d => d.opcode == 0x48 && d.fnAct.2 == 0
  | .expertPinImage d => d.opcode == 0x48 && d.fnAct == (0, 1)
  | .expertReserveSlots d => d.opcode == 0x48 && d.fnAct == (1, 1)
  | .expertReleaseSlots d => d.opcode == 0x48 && d.fnAct == (1, 2)
  | .expertSetBankWidth d => d.opcode == 0x48 && d.fnAct == (2, 1)
  | .expertGovBound d => d.opcode == 0x48 && d.fnAct == (3, 1)
  | .committedToken w => w.toNat / 2 ^ 33 % 8 == 0
  | .draftToken w => w.toNat / 2 ^ 33 % 8 == 1
  | .acceptMarker w => w.toNat / 2 ^ 33 % 8 == 2
  | .stepEnd w => w.toNat / 2 ^ 33 % 8 == 3
  | .featureFrame f => f.ok
  | .tileReadResponse r => r.ok
  | .tileWriteResponse r => r.ok
  | .featureStageResponse r => r.ok
  | .treeWalkResponse r => r.ok
  | .maskCombineResponse r => r.ok
  | .gatherSumResponse r => r.ok
  | .cairnSaveResponse r => r.ok
  | .cairnLoadResponse r => r.ok
  | .scrubRangeResponse r => r.ok
  | .pingResponse r => r.ok
  | .relayRec r => r.kindIs 1
  | .relayChunk r => r.kindIs 2
  | .relayJoin r => r.kindIs 3
  | .relayMembers r => r.kindIs 4
  | .relayProbe r => r.kindIs 5
  | .relayGrant r => r.kindIs 6
  | .relayReport r => r.kindIs 7
  | .relayAck r => r.kindIs 8
  | .relayHeartbeat r => r.kindIs 9
  | .relayStop r => r.kindIs 10
  | .relayResume r => r.kindIs 11
  | .relayLeave r => r.kindIs 12
  | .mbist p _ _ => p.testMode
  | .mbistResult p => p.testMode
  | .scan p => p.testMode
  | .fuseProg p _ _ => p.testMode
  | .fuseRead p _ => p.testMode
  | .powerOnReset _ | .warmReset _ | .go _ _ | .startComplete _ | .registerWrite _ _ | .beatCountLoRead | .timeOffsetLoRead
  | .ringReset _ | .ringResetEffect _ | .missClr _ | .cancelTakesEffect _ | .descriptorPhaseReread _ | .streamCloseBoundary _
  | .ingestComplete _ | .chunkComplete _ | .saveCairnQuietBoundary _ | .saveCairnTimeout _ | .imageActivationBoundary _
  | .matchShiftMove _ | .commandDeferred _ _ | .rangeJoinTimeout | .stepOpenTimeout _ | .beatBoundary _ | .sealPhase _
  | .releasePhase | .stackDuePoint _ _ | .stackCreditReturn _ _ | .hostReadData _ _ _ | .hostWriteAck _ _ | .maskCreditReturn _
  | .irqMessage _ | .egressStallTimeout _ | .tornTileReread _ _ | .tileReloadInstall _ _ | .recoveryExtExpiry _
  | .mgmtTrap .. | .governorPeriod _ | .refillBoundary | .ledgerSnapshot | .backgroundPing | .wearRotation | .timeSync
  | .counterSample | .floorMissed _ | .traceRecordDrop | .stopIHigh | .stopILow | .blockStop | .blockResume | .relayAckSend _
  | .heartbeatSend | .relayTimeout _ | .leaseGrant | .leaseAdoption | .bypass _ | .idcode | .computePhase _ | .droopEvent _
  | .testReset => true

end Sys2Proof
end

