-- ==== Sys2Proof/Machine/Operands.lean ====
section
/-! DEFINITION. Descriptor fields, the checks every command shares, and the order in which commands of a ring start (R21, R22,
R101 to R105, R113, R516). -/

namespace Sys2Proof.Machine

/-- Word w of a descriptor. -/
def Desc.word (d : Desc) (w : Nat) : W64 :=
  match w with
  | 0 => d.w0 | 1 => d.w1 | 2 => d.w2 | 3 => d.w3 | 4 => d.w4 | 5 => d.w5 | 6 => d.w6 | _ => d.w7
/-- Field [hi:lo] of word w (Tables 3-3 and 3-6). -/
def dfld (d : Desc) (w hi lo : Nat) : Nat := fld (Desc.word d w) hi lo
def dbit (d : Desc) (w i : Nat) : Bool := bit (Desc.word d w) i

def dIrq (d : Desc) : Bool := dbit d 0 8
def dFence (d : Desc) : Bool := dbit d 0 9
def dExpert (d : Desc) : Bool := dbit d 0 10
def dTag (d : Desc) : Nat := dfld d 0 31 16
def dPhase (d : Desc) : Bool := dbit d 0 63
def dStream (d : Desc) : Nat := dfld d 1 31 0

/-- Bits of a word that fields (hi, lo) cover. -/
def maskOf (fs : List (Nat × Nat)) : Nat := fs.foldl (fun m f => m ||| ((2 ^ (f.1 + 1 - f.2) - 1) * 2 ^ f.2)) 0
def allW : List (Nat × Nat) := [(63, 0)]

/-- Fields of words 2 to 7 of an opcode (Table 3-6); the ridge field of OPEN_STREAM counts only under expert (R103). A field that the chosen
operation of MATCH_UPDATE or action of EXPERT does not use may hold any value (log 55). -/
def cmdFields (op : Nat) (expert : Bool) : List (List (Nat × Nat)) :=
  match op with
  | 0x01 => [[(27, 0), (39, 32)], allW, [(56, 0)], if expert then [(19, 0), (35, 32)] else [(19, 0)], [(56, 0)], [(22, 0)]]
  | 0x03 => [[(56, 0)], [(25, 0), (32, 32)]]
  | 0x04 => [[(13, 0), (16, 16)]]
  | 0x06 => [allW, [(0, 0)]]
  | 0x07 => [allW]
  | 0x08 => [allW, [(11, 0)]]
  | 0x10 => [[(56, 0)], [(31, 0)], [(7, 0)]]
  | 0x11 => [[(7, 0)], [(47, 0)]]
  | 0x12 => [[(7, 0)]]
  | 0x13 => [[(7, 0)]]
  | 0x18 => [[(12, 0)], [(18, 0)], [(8, 0), (24, 16)]]
  | 0x19 => [[(11, 0)], allW, [(31, 0)]]
  | 0x1A => [[(18, 0)]]
  | 0x20 => [[(1, 0), (7, 3), (18, 8), (30, 20)], [(56, 0)]]
  | 0x21 => [[(7, 3), (18, 8), (30, 20), (32, 32)]]
  | 0x22 => [[(31, 0)], [(56, 0)], [(15, 0)]]
  | 0x28 => [[(3, 0), (15, 8)]]
  | 0x29 => [[(1, 0)]]
  | 0x30 => [[(0, 0)], [(56, 0)], [(3, 0)], allW]
  | 0x31 => [[(0, 0), (12, 8)], [(56, 0)], [(3, 0)]]
  | 0x40 => [[(1, 0)], [(56, 0)], [(31, 0)]]
  | 0x42 => [[(56, 0)]]
  | 0x48 => [[(7, 0)], allW, allW, allW, allW, allW]
  | _ => []

/-- A reserved bit of the descriptor is 1 (R21); word 1 is not looked at, also where the command names no stream (log 55). -/
def dReserved (d : Desc) : Bool :=
  let w0 := maskOf [(10, 0), (31, 16), (63, 63)]
  let fs := cmdFields d.opcode (dExpert d)
  d.w0.toNat &&& w0 != d.w0.toNat
    || (List.range 6).any fun i =>
      let w := (Desc.word d (i + 2)).toNat
      w &&& maskOf (fs.getD i []) != w

def isAdmin (op : Nat) : Bool :=
  (0x10 ≤ op && op ≤ 0x13) || (0x18 ≤ op && op ≤ 0x1A) || (0x20 ≤ op && op ≤ 0x22) || (0x28 ≤ op && op ≤ 0x32)
    || (0x38 ≤ op && op ≤ 0x3A) || (0x40 ≤ op && op ≤ 0x42) || op == 0x48
/-- Commands that name a stream in word 1 (R102). -/
def namesStream (op : Nat) : Bool := 0x02 ≤ op && op ≤ 0x07
/-- Commands executed while the block is stopped, and in safe mode (R113). -/
def stoppedOk (op : Nat) : Bool := op == 0x39 || op == 0x3A || op == 0x13 || op == 0x42 || op == 0x32 || op == 0x30 || op == 0x31 || op == 0x38
def safeOk (op : Nat) : Bool := op == 0x13 || (0x28 ≤ op && op ≤ 0x32) || op == 0x3A

/-- Field values outside what Table 3-6, Table 3-7 and R516 allow. -/
def dBadValue (s : State) (d : Desc) : Bool :=
  match d.opcode with
  | 0x01 =>
    d.w1 != 0#64 || dfld d 6 5 0 != 0 || dfld d 7 22 0 < 4096 || dfld d 7 22 0 > 4194304
      || dfld d 2 25 22 ≥ s.vocabLim || (dExpert d && dfld d 5 35 32 ≥ s.ridges)
  | 0x03 => dfld d 3 25 0 == 0 && !dbit d 3 32
  | 0x10 => dfld d 2 11 0 != 0
  | 0x20 => dfld d 2 7 3 ≥ s.nBanks
  | 0x21 => dfld d 2 7 3 ≥ s.nBanks
  | 0x22 => dfld d 2 31 0 ≥ 2 ^ s.nBanks
  | 0x28 => dfld d 2 3 0 > 4
  | 0x30 => dfld d 4 3 0 > 11
  | 0x31 => dfld d 4 3 0 > 10 || dfld d 2 12 8 < 4 || dfld d 2 12 8 > 20
  | 0x40 => dfld d 2 1 0 == 3 || (dfld d 2 1 0 == 2 && dfld d 3 56 0 != 0)
  | 0x48 => (d.fnAct.1 == 2 && d.fnAct.2 ≤ 1 && dfld d 3 4 0 ≥ s.nBanks) || (d.fnAct == (2, 1) && dfld d 3 9 8 == 3)
  | _ => false

/-- The expert function a command uses is locked (R103, R115); action 0 is a query. -/
def expertLocked (s : State) (d : Desc) : Bool :=
  if d.opcode = 0x48 then d.fnAct.2 != 0 && !s.unlocked d.fnAct.1
  else d.opcode == 0x01 && dExpert d && !s.unlocked 0

/-- Whether a ring takes part in command traffic: its entry read, neither faulted nor halted. -/
def Ring.served (r : Ring) : Bool := r.entry.isSome && !r.faulted && !r.halted

/-- A cancel of the stream is asked for and its boundary has not come. -/
def cancelDue (s : State) (h : Nat) : Bool :=
  s.sched.any fun e => match e.eff with | .cancel x c _ _ => x == h && c == vCancelled | _ => false

/-- Whether running commands, and fetched descriptors before d, let d start (R101 fence, R105): an earlier descriptor is overtaken only where
a command of its own stream alone holds it (log 55). -/
def orderOk (s : State) (d : Desc) (earlier : List Desc) : Bool :=
  let run := s.cmds.filter fun c => c.ring == d.ring.toNat
  let op := d.opcode
  let sameStream (o h : Nat) : Bool := namesStream o && namesStream op && h == dStream d && !(o == 0x03 && op == 0x03)
  let blocked (e : Desc) : Bool :=
    namesStream e.opcode && !dFence e && dStream e != dStream d
      && run.any fun c => namesStream c.opcode && c.stream == dStream e && !(c.opcode == 0x03 && e.opcode == 0x03)
  (!dFence d || (run.isEmpty && earlier.isEmpty))
    && (!isAdmin op || !(run.any fun c => isAdmin c.opcode))
    && !(run.any fun c => sameStream c.opcode c.stream)
    && earlier.all blocked

/-- A descriptor that Yogimen starts now: fetched, in order, the core running (R105, R409). -/
def State.canStart (s : State) (d : Desc) : Bool :=
  let r := s.ring d.ring.toNat
  s.serving && !s.start.halted && r.served && r.fetched.contains d
    && orderOk s d (r.fetched.takeWhile fun e => e != d)

/-- The checks every command shares, in order; the row's own sub-operation is part of the command set (R21, R22, R104, R516, R113,
R103, R102). -/
def descStatus (s : State) (d : Desc) (rowOk : Bool) : Option Nat :=
  let admin := ((s.ring d.ring.toNat).entry.map (·.admin)).getD false
  if !rowOk || dReserved d || (isAdmin d.opcode && !admin) || dBadValue s d then some stBadDesc
  else if s.clk.stopped && !stoppedOk d.opcode then some stState
  else if s.start.phase == .safeMode && !safeOk d.opcode then some stState
  else if expertLocked s d then some stState
  else if namesStream d.opcode then
    match s.stream? (dStream d) with
    | some st => if st.ring = d.ring.toNat && st.phase != .opening && !cancelDue s st.handle then none else some stBadStream
    | none => some stBadStream
  else none

/-- The row of the command table that a descriptor belongs to, if any: its opcode, sub-operation, function and action are listed (Table 3-5,
Table 3-6, Table 3-10, R22). -/
def descListed (d : Desc) : Bool :=
  match d.opcode with
  | 0x20 => d.subOp < 3
  | 0x29 => d.subOp < 3
  | 0x48 => d.fnAct.1 ≤ 3 && (d.fnAct.2 == 0 || [(0, 1), (1, 1), (1, 2), (2, 1), (3, 1)].contains d.fnAct)
  | op => (0x01 ≤ op && op ≤ 0x08) || isAdmin op
/-- The descriptor leaves the fetched ones and its command begins. -/
def State.begin (s : State) (d : Desc) : Cmd × State :=
  let r := d.ring.toNat
  let c : Cmd :=
    { id := s.nextId, ring := r, index := d.index.toNat, tag := dTag d, opcode := d.opcode, irq := dIrq d, stream := dStream d,
      layerId := dfld d 1 47 32, opId := dfld d 1 63 48, since := s.beat, paused := false, k := .boundary }
  let s := s.setRing r fun x => { x with fetched := x.fetched.erase d }
  let s := { s with nextId := s.nextId + 1, cmds := s.cmds ++ [c] }
  (c, s.trace 51 0x01 c.tag c.layerId c.opId 0 c.stream (w64 [(c.opcode, 0), (c.index, 8), (c.ring, 24)]))

/-- A descriptor's command: nothing unless it starts now; the shared checks; then its own body. -/
def runDesc (s : State) (d : Desc) (rowOk : Bool) (body : State → Cmd → State) : State :=
  if s.canStart d then
    let x := s.begin d
    match descStatus x.2 d rowOk with
    | some st => x.2.finish x.1 { status := st }
    | none => body x.2 x.1
  else s

/-- A command keeps running as k. -/
def State.keep (s : State) (c : Cmd) (k : CmdK) : State := s.setCmd c.id fun x => { x with k := k }

end Sys2Proof.Machine
end

