-- ==== Sys2Proof/Machine/Registers.lean ====
section
/-! DEFINITION. The register map: what every register reads, what a write does, and the reads that latch (R19, R20, R470, R471,
R493 to R509). -/

namespace Sys2Proof.Machine

def boolsNat (bs : List Bool) : Nat := bs.foldr (fun b a => b2n b + 2 * a) 0
def w32 (fs : List (Nat × Nat)) : W32 := BitVec.ofNat 32 (pack fs)

/-- START_STATUS.STATE (Table 14-3). -/
def StartPhase.code : StartPhase → Nat
  | .steps13 => 0 | .awaiting => 1 | .steps48 => 2 | .complete => 3 | .failed => 4 | .safeMode => 5

def Cfg.code : Cfg → Nat | .c4 => 0 | .c8 => 1 | .c16 => 2

/-- BUDGET_STATUS (Table 11-7). -/
def State.budgetStatus (s : State) : W32 :=
  w32 [(s.gov.burst, 0), (b2n (1 ≤ s.gov.steps), 3), (b2n (2 ≤ s.gov.steps), 4), (b2n (4 ≤ s.gov.steps), 5)]
/-- GOV_STATUS (Table 12-7). -/
def State.govStatus (s : State) : W32 :=
  w32 [(s.gov.level, 0), (s.gov.factor, 2), (s.gov.levelReq, 9), (b2n s.gov.railBad, 11), (b2n s.gov.moduleLimit, 12), (s.gov.steps, 13)]
/-- START_STATUS (Table 14-3). -/
def State.startStatus (s : State) : W32 :=
  w32 [(s.start.phase.code, 0), (b2n s.clk.stopped, 3), (s.start.failedStep, 4), (s.start.failCount, 8), (b2n s.start.warm, 10),
    (b2n s.start.calKept, 11), (b2n s.start.brtKept, 12), (b2n s.start.imgKept, 13)]
def State.doorbellFault (s : State) : W32 :=
  let h := s.host
  w32 [(h.dbRing, 0), (h.dbCause, 10), (b2n h.dbFault, 14), (b2n h.dbOverrun, 15), (b2n h.resetBusy, 16), (h.cancelMiss, 24)]
def State.ringBits (s : State) (f : Ring → Bool) (i : Nat) : W32 :=
  BitVec.ofNat 32 (boolsNat ((List.range 32).map fun j => f (s.ring (32 * i + j))))
def State.chanBits (s : State) (f : Chan → Bool) : Nat := boolsNat ((List.range s.channels).map fun c => f (s.chan c))

/-- An indexed register's number when off lies in base + i × stride, i < n. -/
def idx? (off base stride n : Nat) : Option Nat :=
  if base ≤ off ∧ (off - base) % stride = 0 ∧ (off - base) / stride < n then some ((off - base) / stride) else none

/-- Registers of pages 0x0000 and 0x1000 (Tables 17-2 to 17-6); the cycle of BEAT_CYCLE is a free value
among those of the phase the beat is in, never before a cycle that an event has shown (R60, log 49). -/
def State.reg01 (s : State) (off : Nat) : W32 :=
  let c := s.build.cfg
  match off with
  | 0x0000 => w32 [(s.build.fwPatch.toNat, 0), (3, 8), (2, 16), (2, 24)]
  | 0x0004 => w32 [(0x1A20, 0), (s.build.mfr.toNat, 16)]
  | 0x0008 => w32 [(c.code, 0)]
  | 0x0010 => w32 [(s.ridges, 0), (s.tokUnits, 8), (s.channels, 16), (s.sensors, 24)]
  | 0x0014 => w32 [(s.cells, 0)]
  | 0x0018 => w32 [(64 * s.cells, 0)]
  | 0x001C => w32 [(256 * s.cells, 0)]
  | 0x0020 => w32 [(4096 * s.ridges, 0)]
  | 0x0024 => w32 [(s.nBanks, 0), (2048, 16)]
  | 0x0028 => w32 [(s.maxStreams, 0)]
  | 0x1004 => s.startStatus
  | 0x1008 => s.regs.coreClock
  | 0x1010 => w32 [(s.beat % 2 ^ 32, 0)]
  | 0x1014 => w32 [(s.clk.hiLatch, 0)]
  | 0x1018 => if s.complete then w32 [(max s.clk.cycle (s.cycles.1 + Config.readCycle (4 * s.beat + s.clk.phase) % s.cycles.2), 0)] else 0#32
  | 0x1020 => w32 [(fld s.start.offset 31 0, 0)]
  | 0x1024 => w32 [(s.clk.offHiLatch, 0)]
  | _ => 0#32

/-- Registers of pages 0x2000 and 0x3000 (Tables 17-7 to 17-10). STACK_RT.BEATS holds the low 8 bits of a B_rt above 255: the manual states
no value there, so this is the model's choice (DESIGN CHOICE, log 65). -/
def State.reg23 (s : State) (off : Nat) : W32 :=
  let k := s.stack
  match off with
  | 0x2000 => s.regs.hostport
  | 0x2008 => s.regs.ringLo
  | 0x200C => s.regs.ringHi
  | 0x2014 => s.doorbellFault
  | 0x2020 => s.regs.persistLo
  | 0x2024 => s.regs.persistHi
  | 0x2028 => s.regs.persistCfg
  | 0x2030 => s.regs.logLo
  | 0x2034 => s.regs.logHi
  | 0x2040 => s.regs.relayLo
  | 0x2044 => s.regs.relayHi
  | 0x2048 => s.regs.rangeMember
  | 0x3000 => s.regs.stackCfg
  | 0x3004 => w32 [(k.brt % 256, 0), (s.regs.rtFloor.toNat, 8), (k.maxCycles, 16)]
  | 0x3020 => w32 [(k.agentResp, 0)]
  | 0x3024 => w32 [(k.agentCredit, 0), (k.agentVer, 16), (k.agentSlots, 24)]
  | 0x3028 => w32 [(k.agentWindow, 0), (k.agentOps, 16)]
  | 0x302C => w32 [(k.agentGib, 0), (k.epoch, 8), (s.start.savedEpoch, 16)]
  | 0x3030 => w32 [(s.chanBits (·.inService), 0), (s.chanBits (·.faulted), 8), (s.chanBits (·.calibrating), 16)]
  | _ =>
    match idx? off 0x2100 4 32, idx? off 0x2180 4 32, idx? off 0x3010 4 4 with
    | some i, _, _ => s.ringBits (·.faulted) i
    | _, some i, _ => s.ringBits (·.halted) i
    | _, _, some i => AMap.getD s.regs.region i 0#32
    | _, _, _ => 0#32

/-- Registers of pages 0x4000 to 0x6000 (Tables 17-11 to 17-14). -/
def State.reg456 (s : State) (off : Nat) : W32 :=
  match off with
  | 0x4040 => s.regs.tokMode
  | 0x4048 => s.regs.commitCap
  | 0x404C => s.budgetStatus
  | 0x5000 => s.regs.govCtl
  | 0x5004 => s.regs.govTherm
  | 0x5008 => s.govStatus
  | 0x500C => w32 [(s.gov.est, 0), (s.gov.rail, 16)]
  | 0x5010 => w32 [(s.integ.floorStatus, 0)]
  | 0x5020 => w32 [(s.gov.lane, 0)]
  | 0x5024 => w32 [(s.gov.walk, 0)]
  | 0x5028 => w32 [(s.gov.assoc, 0)]
  | 0x502C => w32 [((s.gov.stFirst + s.gov.stDep) * ((List.range s.channels).filter s.chanEn).length, 0)]
  | 0x5030 => w32 [(s.gov.host, 0)]
  | 0x6000 => w32 [(s.host.irqStatus, 0)]
  | 0x6004 => s.regs.irqEnable
  | _ =>
    match idx? off 0x4000 4 16, idx? off 0x5080 4 s.sensors with
    | some i, _ => s.rclassReg i
    | _, some i => let t := AMap.getD s.gov.temps i (0, false); w32 [(t.1, 0), (b2n t.2, 10)]
    | _, _ =>
      match idx? off 0x6400 16 64, idx? off 0x6404 16 64, idx? off 0x6408 16 64 with
      | some v, _, _ => AMap.getD s.regs.vecLo v 0#32
      | _, some v, _ => AMap.getD s.regs.vecHi v 0#32
      | _, _, some v => AMap.getD s.regs.vecData v 0#32
      | _, _, _ => 0#32

/-- Registers of pages 0x7000 and 0x8000 (Tables 17-15, 17-16, 3-8). -/
def State.reg78 (s : State) (off : Nat) : W32 :=
  match off with
  | 0x7000 => w32 [(s.integ.faults, 0)]
  | 0x7004 => w32 [(s.integ.eccCorr, 0), (s.integ.eccUncorr, 16), (s.integ.eccTorn, 24)]
  | 0x7008 => s.regs.hangCtl
  | 0x7010 => w32 [(b2n s.mgmt.traceOn, 0), (s.mgmt.traceSize, 1), (s.mgmt.traceSeq % 2 ^ 22, 10)]
  | 0x7014 => w32 [(b2n s.mgmt.cntOn, 0), (s.mgmt.cntK, 1), (s.mgmt.cntSize, 6), (s.mgmt.cntSeq % 2 ^ 22, 10)]
  | 0x7018 => w32 [(s.mgmt.traceBase % 2 ^ 32, 0)]
  | 0x701C => w32 [(s.mgmt.traceBase / 2 ^ 32, 0)]
  | 0x7020 => w32 [(s.mgmt.cntBase % 2 ^ 32, 0)]
  | 0x7024 => w32 [(s.mgmt.cntBase / 2 ^ 32, 0)]
  | 0x7030 => w32 ((List.range 4).map fun i => (s.fuses.keyState.getD i 0, 2 * i))
  | 0x8000 => s.regs.unlock
  | _ =>
    match idx? off 0x7040 4 8, idx? off 0x7084 4 10 with
    | some i, _ => BitVec.ofNat 32 (boolsNat ((List.range 32).map fun j => s.integ.cellsOut.contains (32 * i + j)))
    | _, some k => w32 [(s.fuses.rollback.getD k 0, 0)]
    | _, _ => 0#32

/-- What the register at an offset reads; 0 where there is none, and for write-only fields (R471, Table 0-4). -/
def State.regRead (s : State) (off : Nat) : W32 :=
  if off < 0x2000 then s.reg01 off else if off < 0x4000 then s.reg23 off else if off < 0x7000 then s.reg456 off else s.reg78 off

/-! Writes. -/

/-- Whether RWL fields still take a write: until the start completes (Table 0-4, R495). -/
def State.rwl (s : State) : Bool := s.start.phase != .complete

def State.setRegs (s : State) (f : RegS → RegS) : State := { s with regs := f s.regs }

/-- HOSTPORT_CFG: a reserved attribute code leaves its field, the other fields are applied (R477). -/
def hostportWrite (old v : W32) : W32 :=
  [0, 4, 8, 12, 16].foldl (fun (w : W32) lo => if fld v (lo + 2) lo ≤ 4 then setFld w (lo + 2) lo (fld v (lo + 2) lo) else w) old

/-- GOV_THERM: thresholds not strictly ascending or a hysteresis of 0 leave the register (R370). -/
def govThermWrite (old v : W32) : W32 :=
  if fld v 7 0 < fld v 15 8 ∧ fld v 15 8 < fld v 23 16 ∧ fld v 27 24 ≠ 0 then v &&& 0x0FFFFFFF#32 else old

/-- RCLASS_LIMIT: an out-of-range value leaves its field, the other fields are applied (R85, Table 2-6). -/
def rclassWrite (old v : W32) : W32 :=
  let a := if fld v 15 0 = 1 then old else setFld old 15 0 (fld v 15 0)
  let b := if fld v 24 16 = 0 ∨ (8 ≤ fld v 24 16 ∧ fld v 24 16 ≤ 256) then setFld a 24 16 (fld v 24 16) else a
  if fld v 31 25 ≤ 64 then setFld b 31 25 (fld v 31 25) else b

/-- STACK_CFG: out-of-range fields stay, absent channels' bits read 0 (R515). -/
def stackCfgWrite (chans : Nat) (old v : W32) : W32 :=
  let ok (x : Nat) : Bool := 8 ≤ x && x ≤ 128
  let en := fld v 23 16 % 2 ^ chans
  let a := if ok (fld v 7 0) then setFld old 7 0 (fld v 7 0) else old
  let b := if ok (fld v 15 8) then setFld a 15 8 (fld v 15 8) else a
  if en = 0 then b else setFld b 23 16 en

/-- RWL registers: their fields take the written value, reserved bits ignored (R21, R495). -/
def RegS.writeLocked (r : RegS) (chans : Nat) (off : Nat) (v : W32) : RegS :=
  match off with
  | 0x1008 => if 500000 ≤ fld v 19 0 ∧ fld v 19 0 ≤ 940000 then { r with coreClock := v &&& 0x000FFFFF#32 } else r
  | 0x2000 => { r with hostport := hostportWrite r.hostport v }
  | 0x2008 => { r with ringLo := v &&& 0xFFFFF000#32 }
  | 0x200C => { r with ringHi := v &&& 0x01FFFFFF#32 }
  | 0x2020 => { r with persistLo := v &&& 0xFFF00000#32 }
  | 0x2024 => { r with persistHi := v &&& 0x01FFFFFF#32 }
  | 0x2028 => { r with persistCfg := v &&& 0x00000077#32 }
  | 0x2030 => { r with logLo := v &&& 0xFFFFF7FF#32 }
  | 0x2034 => { r with logHi := v &&& 0x01FFFFFF#32 }
  | 0x2040 => { r with relayLo := v &&& 0xFFFF000F#32 }
  | 0x2044 => { r with relayHi := v &&& 0x01FFFFFF#32 }
  | 0x2048 => { r with rangeMember := v &&& 0x00007F3F#32 }
  | 0x3000 => { r with stackCfg := stackCfgWrite chans r.stackCfg v }
  | 0x3004 => { r with rtFloor := BitVec.ofNat 8 (fld v 15 8) }
  | 0x4040 => { r with tokMode := v &&& 1#32 }
  | 0x4048 => { r with commitCap := v }
  | 0x5000 => { r with govCtl := v }
  | 0x5004 => { r with govTherm := govThermWrite r.govTherm v }
  | 0x8000 => { r with unlock := v &&& 0xF#32 }
  | _ =>
    match idx? off 0x3010 4 4, idx? off 0x4000 4 16 with
    | some i, _ => { r with region := AMap.set r.region i v }
    | _, some i => { r with rclass := AMap.set r.rclass i (rclassWrite (AMap.getD r.rclass i 0#32) v) }
    | _, _ => r

/-- RW registers that a write sets at any time. -/
def RegS.writeOpen (r : RegS) (off : Nat) (v : W32) : RegS :=
  match off with
  | 0x6004 => { r with irqEnable := v &&& 0xF#32 }
  | 0x7008 => { r with hangCtl := v &&& 0x00FFFFFF#32 }
  | _ =>
    match idx? off 0x6400 16 64, idx? off 0x6404 16 64, idx? off 0x6408 16 64 with
    | some i, _, _ => { r with vecLo := AMap.set r.vecLo i (v &&& 0xFFFFFFFC#32) }
    | _, some i, _ => { r with vecHi := AMap.set r.vecHi i (v &&& 0x81FFFFFF#32) }
    | _, _, some i => { r with vecData := AMap.set r.vecData i v }
    | _, _, _ => r

/-- Bits of m that v writes as 1 are cleared (Table 0-4, W1C). -/
def w1c (m v mask : Nat) : Nat := m ^^^ (m &&& v &&& mask)

/-- DOORBELL_FAULT: three W1C bits, and MISS_CLR (Table 17-8). -/
def State.writeDoorbellFault (s : State) (v : W32) : State :=
  let h := s.host
  { s with host := { h with
      dbFault := h.dbFault && !bit v 14, dbOverrun := h.dbOverrun && !bit v 15, resetBusy := h.resetBusy && !bit v 16,
      cancelMiss := if bit v 23 then 0 else h.cancelMiss } }

/-- A request to reset a ring at the next boundary; two requests before it act as one (R94, R502). -/
def State.askRingReset (s : State) (r : Nat) : State :=
  if (s.ring r).resetAsked then s
  else (s.setRing r fun x => { x with resetAsked := true }).at s.nextB (.ringReset r)

/-- A register write: every field by its access code (R19, R470, R471). -/
def State.regWrite (s : State) (off : Nat) (v : W32) : State :=
  match off with
  | 0x2010 => s.askRingReset (fld v 9 0)
  | 0x2014 => s.writeDoorbellFault v
  | 0x5010 => { s with integ := { s.integ with floorStatus := w1c s.integ.floorStatus v.toNat 0xFF } }
  | 0x6000 => { s with host := { s.host with irqStatus := w1c s.host.irqStatus v.toNat 0xF } }
  | 0x7000 => { s with integ := { s.integ with faults := w1c s.integ.faults v.toNat 0xEF } }
  | 0x7004 => { s with integ := { s.integ with eccCorr := fld v 15 0, eccUncorr := fld v 23 16, eccTorn := fld v 31 24 } }
  | _ => s.setRegs fun r => if s.rwl then (r.writeLocked s.channels off v).writeOpen off v else r.writeOpen off v

/-- A write to a register that has no row of its own. -/
def execRegisterWrite (off : BitVec 16) (v : W32) (s : State) : Host.Outcome State Fault Refusal :=
  .next (s.regWrite (off.toNat / 4 * 4) v)

/-- A read of BEAT_COUNT_LO latches count bits [47:32] (R60). -/
def execBeatCountLoRead (s : State) : Host.Outcome State Fault Refusal :=
  .next (({ s with clk := { s.clk with hiLatch := s.beat / 2 ^ 32 } }).emit (.regData 0x1010 (s.regRead 0x1010)))

/-- A read of TIME_OFFSET_LO latches the high half of the offset (Table 14-4). -/
def execTimeOffsetLoRead (s : State) : Host.Outcome State Fault Refusal :=
  .next (({ s with clk := { s.clk with offHiLatch := fld s.start.offset 63 32 } }).emit (.regData 0x1020 (s.regRead 0x1020)))

/-- RING_RESET written: the reset is asked for at the next boundary (R94, R502). -/
def execRingReset (v : W32) (s : State) : Host.Outcome State Fault Refusal := .next (s.askRingReset (fld v 9 0))

/-- DOORBELL_FAULT written with MISS_CLR (Table 17-8). -/
def execMissClr (v : W32) (s : State) : Host.Outcome State Fault Refusal := .next (s.writeDoorbellFault v)

end Sys2Proof.Machine
end

