-- ==== Sys2Proof/Machine/Rings.lean ====
section
/-! DEFINITION. Rings: the ring table, doorbells, fetching, stale descriptors, halts and resets (R91 to R100, R110, R407, R472, R502). -/

namespace Sys2Proof.Machine

/-! Ring-table entries. -/

/-- An entry read from its 64 bytes (Table 3-1); a base that is not 64-byte aligned counts as a reserved bit that is set (the model's choice,
log 55). -/
def parseRing (bs : List Byte) : RingEntry :=
  let w (i : Nat) : W64 := rd64 bs (8 * i)
  let b0 := w 0; let b1 := w 1; let b2 := w 2; let b3 := w 3; let b4 := w 4
  { enable := bit b0 61, admin := bit b0 62, sqBase := fld b0 56 0, sqSize := fld b0 60 57, cqBase := fld b1 56 0, cqSize := fld b1 60 57,
    egBase := fld b2 56 0, egSize := fld b2 60 57, tenant := fld b3 11 0, anyTenant := bit b3 12, rclass := fld b3 16 13,
    vector := fld b3 22 17, irqEn := bit b3 23, verdictIrq := bit b3 24, attr := fld b3 27 25, holdoff := fld b4 15 0,
    reservedOk := fld b0 63 63 == 0 && fld b1 63 61 == 0 && fld b2 63 61 == 0 && fld b3 63 28 == 0 && fld b4 63 16 == 0
      && w 5 == 0#64 && w 6 == 0#64 && w 7 == 0#64 && fld b0 5 0 == 0 && fld b1 5 0 == 0 && fld b2 5 0 == 0 }

/-- The first failed check of an entry, as DOORBELL_FAULT.CAUSE (R93, Table 17-8). -/
def entryCause (e : RingEntry) : Option Nat :=
  if !e.enable then some 1
  else if e.sqSize > 10 || e.cqSize > 10 || e.egSize > 10 then some 2
  else if e.egSize < 4 then some 3
  else if e.attr > 4 then some 9
  else if !e.reservedOk then some 4
  else none

def ringTableBase (s : State) : Nat := fld s.regs.ringLo 31 12 * 2 ^ 12 + fld s.regs.ringHi 24 0 * 2 ^ 32

/-! Fetching. -/

/-- Descriptors that may be asked for beyond those under way: up to the tail, 64 ahead (R100). -/
def fetchRows (e : RingEntry) (r : Ring) : Nat :=
  let n := ringSize e.sqSize
  min ((r.sqTail + n - r.sqHead) % n) (64 - r.fetched.length) - r.fetching.length
/-- Ring r's reads of descriptors. -/
def ROwner.descOf (k : Nat) : ROwner → Bool
  | .desc r _ => r == k
  | _ => false

/-- A completion of the ring waits for room (R110). -/
def cplWaits (e : RingEntry) (r : Ring) : Bool := !r.cqPend.isEmpty && r.cqUsed ≥ ringSize e.cqSize

/-- Descriptors that no row of the command table names complete BAD_DESCRIPTOR once they could start (R22, log 55). -/
def pumpUnlisted : Nat → Nat → State → State
  | 0, _, s => s
  | f + 1, k, s =>
    match (s.ring k).fetched.find? fun d => !descListed d && s.canStart d with
    | some d => let (c, s) := s.begin d; pumpUnlisted f k (s.finish c { status := stBadDesc })
    | none => s
def State.pumpUnlisted (s : State) (k : Nat) : State := Sys2Proof.Machine.pumpUnlisted (s.ring k).fetched.length k s
/-- The next descriptors of a ring asked for, each in one 64-byte read of its row, when the ring may fetch (R100, R387). -/
def State.fetchRing (s : State) (k : Nat) : State :=
  let r := s.ring k
  match r.entry with
  | none => s
  | some e =>
    if !r.served || r.stale || r.reread.isSome || cplWaits e r || r.resetAsked || fetchRows e r = 0 then s
    else
      let is := (List.range (fetchRows e r)).map fun i => (r.sqHead + r.fetching.length + i) % ringSize e.sqSize
      let s := s.setRing k fun x => { x with fetching := x.fetching ++ is }
      is.foldl (fun s i => s.read (.desc k i) (e.sqBase + 64 * i) 1 e.attr) s

/-- The submission head past one descriptor; the phase toggles at the wrap (R95). -/
def Ring.takeDesc (r : Ring) (n : Nat) (d : Desc) : Ring :=
  let h := r.sqHead + 1
  { r with fetched := r.fetched ++ [d], sqHead := if h = n then 0 else h, sqPhase := if h = n then !r.sqPhase else r.sqPhase }

def mkDesc (k i : Nat) (bs : List Byte) : Desc :=
  ⟨BitVec.ofNat 10 k, BitVec.ofNat 16 i, rd64 bs 0, rd64 bs 8, rd64 bs 16, rd64 bs 24, rd64 bs 32, rd64 bs 40, rd64 bs 48, rd64 bs 56⟩

/-- Descriptors that have come taken in order, up to the first whose phase is wrong: that one is to be read again, and nothing else that was
asked for behind it counts (R100). -/
def takeRows (k n : Nat) : Nat → Ring → Ring × Nat
  | 0, r => (r, 0)
  | f + 1, r =>
    match r.fetching with
    | [] => (r, 0)
    | i :: rest =>
      match AMap.get? r.came i with
      | none => (r, 0)
      | some bs =>
        let d := mkDesc k i (bs.take 64)
        if dPhase d = r.sqPhase then
          let (r, m) := takeRows k n f { r.takeDesc n d with fetching := rest, came := AMap.erase r.came i }
          (r, m + 1)
        else ({ r with reread := some 0, fetching := [], came := [] }, 0)

/-- The descriptor at a ring's head read again; at the fourth wrong phase the ring is stale (R100). -/
def State.rereadIn (s : State) (k : Nat) (e : RingEntry) (n : Nat) (d : Desc) : State :=
  let r := s.ring k
  let s := (s.setRing k fun x => { x with fetching := [] }).count 101 1
  if dPhase d = r.sqPhase then
    (((s.setRing k fun x => { x.takeDesc (ringSize e.sqSize) d with reread := none }).count 96 1).fetchRing k).pumpUnlisted k
  else if n + 1 < 4 then s.setRing k fun x => { x with reread := some (n + 1) }
  else
    let s := (s.setRing k fun x => { x with reread := none, stale := true }).count 102 1
    s.post k { Cpl.blank with index := r.sqHead, status := stStale }
/-- Descriptor i of a ring as its data arrives. -/
def State.descArrive (s : State) (k i : Nat) (data : List Byte) : State :=
  let r := s.ring k
  match r.entry, r.reread with
  | none, _ => s
  | some e, some n => s.rereadIn k e n (mkDesc k r.sqHead (data.take 64))
  | some e, none =>
    let (r', m) := takeRows k (ringSize e.sqSize) r.fetching.length { r with came := AMap.set r.came i data }
    let s := (s.setRing k fun _ => r').count 96 m
    ((if r'.reread.isSome then s.dropReads (ROwner.descOf k) else s).fetchRing k).pumpUnlisted k

/-! Halting. -/

/-- A cancel of an open stream asked for at the next boundary; a second one acts as one (R99). -/
def State.askCancel (s : State) (h code flags : Nat) (event : Bool) : State :=
  if cancelDue s h then s else s.at s.nextB (.cancel h code flags event)

def streamsOf (s : State) (k : Nat) : List Stream := s.openStreams.filter fun st => st.ring == k

/-- The effects scheduled for a command that completes without success are dropped (R112). -/
def Eff.cmd? : Eff → Option Nat
  | .openS _ c => some c
  | .bindS _ _ c => some c
  | .tenant _ _ _ _ _ c => some c
  | .policy _ _ _ c => some c
  | _ => none
def State.dropEffs (s : State) (cmd : Nat) : State := { s with sched := s.sched.filter fun e => e.eff.cmd? != some cmd }

/-- The reads of a command's INGEST buffer. -/
def ROwner.ofIngest (cmd : Nat) : ROwner → Bool
  | .ingest _ _ c _ => c == cmd
  | _ => false
/-- A command in progress ends early with a status; a buffer is not read again after its INGEST has completed (R385). -/
def State.abort (s : State) (c : Cmd) (status : Nat) : State :=
  match c.k with
  | .ingest h =>
    let n := match s.stream? h with
      | some st => ((st.jobs.find? fun j => j.cmd == c.id).map (·.consumed)).getD 0
      | none => 0
    let pos := ((s.stream? h).map (·.tokIdx)).getD 0
    let s := (s.setStream h fun st => { st with jobs := st.jobs.filter fun j => j.cmd != c.id }).dropReads (ROwner.ofIngest c.id)
    s.finish c { status := status, resA := n, pos := pos }
  | _ => (s.dropEffs c.id).cmdAbsent c.id status

/-- A ring halts: its commands complete CHANNEL_HALTED, its streams are cancelled (R407, Table 3-11). -/
def State.haltRing (s : State) (k addr : Nat) : State :=
  if (s.ring k).halted then s
  else
    let s := (s.setRing k fun r => { r with halted := true, fetching := [], came := [], reread := none }).dropReads (ROwner.descOf k)
    let s := (s.count 106 1).log 0x0041 2 48 (w64 [(k, 0)]) (w64 [(addr, 0)]) 0#64
    let s := (s.cmds.filter fun c => c.ring == k).foldl (fun s c => s.abort c stHalted) s
    let s := (s.ring k).fetched.foldl (fun s d =>
      let (c, s) := s.begin d
      s.finish c { status := stHalted }) s
    (streamsOf s k).foldl (fun s st => s.askCancel st.handle vCancelled 0 true) s

/-! Doorbells. -/

/-- Entries or slots returned on a ring: beyond what is written, the doorbell is discarded (R98). -/
def returnHead (n used done head index : Nat) : Option (Nat × Nat) :=
  let ret := (index + n - head) % n
  if ret > done then none else some (used - ret, done - ret)

/-- A ring doorbell on a ring whose entry is held. -/
def State.ringDoorbellAct (s : State) (k : Nat) (e : RingEntry) (which index : Nat) : State :=
  let r := s.ring k
  let n := ringSize (if which = 0 then e.sqSize else if which = 1 then e.cqSize else e.egSize)
  if index ≥ n then s.dbFaultAt k 6
  else if which = 0 then
    if r.halted then s
    else (s.setRing k fun x => { x with sqTail := index, stale := false }).fetchRing k
  else if which = 1 then
    match returnHead n r.cqUsed r.cqDone r.cqHead index with
    | some (u, d) => (s.setRing k fun x => { x with cqHead := index, cqUsed := u, cqDone := d }).fetchRing k
    | none => s.dbFaultAt k 0xA
  else
    match returnHead n r.egUsed r.egDone r.egHead index with
    | some (u, d) => s.setRing k fun x => { x with egHead := index, egUsed := u, egDone := d }
    | none => s.dbFaultAt k 0xA

/-- The handles and counts a warm start left behind, reported CANCELLED at the ring's first doorbell (R416). -/
def State.reportGhosts (s : State) (k : Nat) : State :=
  let r := s.ring k
  let s := r.ghosts.foldl (fun s g =>
    (s.post k { Cpl.blank with
      kind := 3, stream := g.1, verdict := vCancelled, pos := g.2, irq := (r.entry.map (·.verdictIrq)).getD false }).count 109 1) s
  s.setRing k fun x => { x with ghosts := [] }

/-- Ring-table data as it arrives: the entry is checked and the doorbells that waited for it act (R92, R93). -/
def State.entryArrive (s : State) (k : Nat) (data : List Byte) (poison : Bool) : State :=
  let r := s.ring k
  let e := parseRing data
  let s := s.setRing k fun x => { x with early := [] }
  match (if poison then some 8 else entryCause e) with
  | some cause =>
    let s := s.setRing k fun x => { x with faulted := true, cause := cause }
    r.early.foldl (fun s _ => s.dbFaultAt k cause) s
  | none =>
    let s := (s.setRing k fun x => { x with entry := some e }).reportGhosts k
    r.early.foldl (fun s x => s.ringDoorbellAct k e x.1 x.2) s

/-- A ring doorbell word on doorbell number k whose row is `which` (R92 to R98, Table 16-2). -/
def State.ringDoorbell (s : State) (num which : Nat) (word : W64) : State :=
  let k := num % 1024
  let r := s.ring k
  if !s.serving then s
  else if fld word 9 0 ≠ k then s.dbFaultAt k 5
  else if r.resetAsked then s
  else if r.faulted then s.dbFaultAt k r.cause
  else if fld word 27 26 = 3 then s.dbFaultAt k 7
  else if fld word 27 26 ≠ which then s
  else
    match r.entry with
    | some e => s.ringDoorbellAct k e which (fld word 25 10)
    | none =>
      let first := r.early.isEmpty
      let s := s.setRing k fun x => { x with early := x.early ++ [(which, fld word 25 10)] }
      if first then s.read (.table k) (ringTableBase s + 64 * k) 1 (s.hpAttr 0) else s

/-- A submission-tail doorbell (R96). -/
def execSubmissionTailDoorbell (num : BitVec 11) (word : W64) (s : State) : Host.Outcome State Fault Refusal :=
  .next (s.ringDoorbell num.toNat 0 word)
/-- A completion-head doorbell (R98). -/
def execCompletionHeadDoorbell (num : BitVec 11) (word : W64) (s : State) : Host.Outcome State Fault Refusal :=
  .next (s.ringDoorbell num.toNat 1 word)
/-- An egress-head doorbell (R98). -/
def execEgressHeadDoorbell (num : BitVec 11) (word : W64) (s : State) : Host.Outcome State Fault Refusal :=
  .next (s.ringDoorbell num.toNat 2 word)

/-- CANCEL_MISS saturates at 0xFF (R99). -/
def State.cancelMissed (s : State) : State :=
  ({ s with host := { s.host with cancelMiss := satAdd 0xFF s.host.cancelMiss 1 } }).count 105 1

/-- An INGEST of the stream that has completed in this beat, its entry not yet written: the cancel wins (Table 1-3). -/
def State.cancelIngests (s : State) (st : Stream) : State :=
  s.setRing st.ring fun r => { r with cqPend := r.cqPend.map fun c =>
    if c.opcode = 3 && c.kind = 0 && c.stream = st.handle && c.since = s.beat then { c with status := stBadStream } else c }
/-- A cancel doorbell: accepted for an open stream of the named ring (R99). It reads no ring-table entry, and on a faulted ring it is only
counted (the model's choice, log 55). -/
def State.cancelDoorbell (s : State) (num : Nat) (word : W64) : State :=
  let k := num % 1024
  if !s.serving then s
  else if fld word 9 0 ≠ k then s.dbFaultAt k 5
  else
    let s := s.count 104 1
    match s.stream? (fld word 41 10) with
    | some st =>
      if st.ring = k && st.phase != .opening then (s.cancelIngests st).askCancel st.handle vCancelled 0 true else s.cancelMissed
    | none => s.cancelMissed
def execCancelDoorbell (num : BitVec 11) (word : W64) (s : State) : Host.Outcome State Fault Refusal :=
  .next (s.cancelDoorbell num.toNat word)

/-! Stale descriptors and resets. -/

/-- At a beat boundary the stale descriptor at a ring's head is read again, as the ring's first fetch of the beat (R100). -/
def State.askReread (s : State) (k : Nat) : State :=
  let r := s.ring k
  match r.entry with
  | some e =>
    if r.served && r.reread.isSome && r.fetching.isEmpty then
      (s.setRing k fun x => { x with fetching := [r.sqHead] }).read (.desc k r.sqHead) (e.sqBase + 64 * r.sqHead) 1 e.attr
    else s
  | none => s
/-- The descriptor that a ring's re-read brings (R100); its read is answered. -/
def State.rereadDesc (s : State) (d : Desc) : State :=
  let k := d.ring.toNat
  let r := s.ring k
  match r.entry, r.reread with
  | some e, some n =>
    if !r.served || r.fetching ≠ [d.index.toNat] then s
    else
      let own (o : ROwner) : Bool := o == .desc k d.index.toNat
      let s := { s with host := { s.host with
        reads := s.host.reads.filter (fun x => !own x.2), readQ := s.host.readQ.filter fun x => !own x.1 } }
      s.rereadIn k e n d
  | _, _ => s
def execDescriptorPhaseReread (d : Desc) (s : State) : Host.Outcome State Fault Refusal := .next (s.rereadDesc d)

/-- A ring's reads of its ring-table entry and its descriptors. -/
def ROwner.ofRing (k : Nat) : ROwner → Bool
  | .table r => r == k
  | o => o.descOf k
/-- A ring reset at its boundary: refused while a stream is open or a fetched command waits or runs (R94, R502). Reads and writes begun
before it are no longer the ring's (R92, R98). -/
def State.resetRingNow (s : State) (k : Nat) : State :=
  let s := s.setRing k fun x => { x with resetAsked := false }
  let busy := !(streamsOf s k).isEmpty || !(s.ring k).fetched.isEmpty || s.cmds.any fun c => c.ring == k
  if busy then { s with host := { s.host with resetBusy := true } }
  else
    let s := { s with host := { s.host with jobs := s.host.jobs.map fun (x : Nat × WJob) =>
      (x.1, { x.2 with owner := match x.2.owner with
        | .cpl r _ _ => if r = k then .gone else x.2.owner
        | .batch r _ => if r = k then .gone else x.2.owner
        | .tokens r => if r = k then .gone else x.2.owner
        | o => o }) } }
    (s.dropReads (ROwner.ofRing k)).setRing k fun _ => Ring.blank

/-- Whether an effect is due at the coming boundary, and the state without it; no boundary passes while stopped (R433). -/
def State.takeEff (s : State) (p : Eff → Bool) : Option (Eff × State) :=
  match s.sched.find? fun e => s.atEnd && !s.clk.stopped && beatLe e.at_ s.nextB && p e.eff with
  | some e => some (e.eff, { s with sched := s.sched.erase e })
  | none => none

/-- The boundary of an asked ring reset (R94). -/
def execRingResetEffect (ring : BitVec 10) (s : State) : Host.Outcome State Fault Refusal :=
  .next (match s.takeEff fun e => e == .ringReset ring.toNat with
    | some (_, s) => s.resetRingNow ring.toNat
    | none => s)

end Sys2Proof.Machine
end

