-- ==== Sys2Proof/Machine/Tiles.lean ====
section
/-! DEFINITION. Dynamic tiles: work tiles (feature staging, cairn staging, tentative node states) and the mask-cache tiles of allow lists,
with their headers and the three steps of a rewrite (R391, R393, R394). -/

namespace Sys2Proof.Machine

/-- Bytes 0 to 23 of a dynamic tile's header (Table 13-2). -/
def dynHead (index format generation : Nat) (open_ : Bool) : List Byte :=
  wordsBytes [w64 [(generation, 32)], w64 [(index, 0), (format, 24), (b2n open_, 28)], 0#64]
/-- The crc of a tile: over its 4,096 payload bytes, then bytes 0 to 23 of its header (R391). -/
def dynCrc (index format generation : Nat) (payload : List Byte) : W32 :=
  crc32c (padTo 4096 0#8 (payload.take 4096) ++ dynHead index format generation false)
/-- A dynamic tile's header as it reads (Table 13-2). -/
def dynHeader (index : Nat) (t : DynTile) : List Byte :=
  dynHead index t.format t.generation t.writeOpen ++ natToBytes 4 t.crc.toNat ++ List.replicate 4 0#8

/-! Uses of a tile and of a record (R394 to R398). -/

/-- The classes of Table 13-3, and a good use. -/
inductive UseClass where
  | good | torn | stale | corrupt
  deriving DecidableEq, Repr
/-- The two header reads agree and the crc they carry verifies over the payload as read. -/
def useWhole (u : UseRead) : Bool := u.first == u.last && u.first.crc == u.sum
/-- A use of a dynamic tile: torn while it is being rewritten or where its header changed meanwhile, else good or corrupt (R394, R395). -/
def tileClass (u : UseRead) : UseClass :=
  if u.first.writeOpen || u.last.writeOpen || u.first != u.last then .torn else if useWhole u then .good else .corrupt
/-- A use of a stream record or node state of which the scheduler expects a generation: a good copy of an older one is stale (R398). -/
def recClass (gen : Nat) (u : UseRead) : UseClass :=
  match tileClass u with
  | .good =>
    let d := (gen + 2 ^ 32 - u.first.generation.toNat) % 2 ^ 32
    if d = 0 then .good else if d < 2 ^ 31 then .stale else .corrupt
  | c => c
/-- A use of a static tile that the record expects to be a tile of an image and generation (R394, R395). -/
def staticClass (imageId gen tile : Nat) (u : UseRead) : UseClass :=
  if useWhole u && (u.first.generation.toNat != gen || u.first.tileIndex.toNat != tile) then .stale
  else if useWhole u && !u.first.writeOpen && u.first.imageId.toNat == imageId then .good
  else .corrupt

/-- A row of a tile's payload. -/
def rowOf (bs : List Byte) (i : Nat) : List Byte := sliceB bs (64 * i) 64
/-- A row as a reader sees it: while a rewrite is open, row by row either the old row or the new one, each whole (R382, R383). -/
def DynTile.row (t : DynTile) (n i : Nat) : List Byte :=
  rowOf (padTo 4096 0#8 (if t.writeOpen && Config.choose (n + i) % 2 = 1 then t.next else t.payload)) i
/-- A use of a dynamic tile as a reader finds it; the header and its store are read before and after the rows (R394). -/
def DynTile.read (index n : Nat) (t : DynTile) : UseRead :=
  let h : HdrRead := ⟨0#32, BitVec.ofNat 32 t.generation, BitVec.ofNat 24 index, BitVec.ofNat 4 t.format, t.writeOpen, t.crc⟩
  ⟨h, h, dynCrc index t.format t.generation ((List.range 64).flatMap (t.row n))⟩
/-- Bytes 496 to 511 of a stream record or node state (Table 13-4): the CRC is over bytes 0 to 495, trailer word 0 and the bytes of the hold-back
store in use (R397). -/
def recTrailer (gen : Nat) (open_ : Bool) (body held : List Byte) : List Byte :=
  let w0 := wordsBytes [w64 [(gen % 2 ^ 32, 0), (b2n open_, 32)]]
  w0 ++ natToBytes 8 (crc32c (body ++ w0 ++ held)).toNat

def words32 (n : Nat) (xs : List Nat) : List Byte :=
  ((List.range n).flatMap fun i => natToBytes 4 (xs.getD i 0))

/-- Format of a use: work tile or mask-cache tile. -/
def TileUse.format : TileUse → Nat | .allowList _ => 3 | _ => 2
def DynTile.blank : DynTile := ⟨none, 2, 0, false, [], 0#32, [], none, 0⟩
def State.tileOf (s : State) (u : TileUse) : Option (Nat × DynTile) := s.dyn.find? fun x => x.2.use == some u
/-- Word 1 of the grammar part: the allow list is present, is pinned, and where it lies in the mask cache and the stack window, in a packing
that Table 6-6 does not give (R192, log 40). -/
def allowWord (s : State) (st : Stream) : Nat :=
  match st.allow with
  | none => 0
  | some _ => 1 + 2 * b2n st.allowPinned
      + 4 * (Config.allowPlace ((s.tileOf (.allowList st.handle)).map (·.1)) (st.allowSlot.map (allowOff s)) % 2 ^ 62)
/-- The tile a use is written to: its own, else the first that is free (log 47). -/
def State.dynSlot (s : State) (u : TileUse) : Nat :=
  match s.tileOf u with
  | some x => x.1
  | none => ((s.dyn.find? fun x => x.2.use == none).map (·.1)).getD s.dyn.length
/-- Step 1 of a rewrite: the header is written with write_open 1 and the generation increased by 1; the payload is to follow (R393). -/
def State.dynWrite (s : State) (u : TileUse) (payload : List Byte) : State :=
  let k := s.dynSlot u
  let t := AMap.getD s.dyn k DynTile.blank
  let t := { t with use := some u, format := u.format, generation := (t.generation + 1) % 2 ^ 32, writeOpen := true, next := payload }
  { s with dyn := AMap.set s.dyn k t }
/-- Steps 2 and 3: the payload rows, then the header with write_open 0 and the new crc (R393). -/
def DynTile.close (k : Nat) (t : DynTile) : DynTile :=
  if t.writeOpen then { t with payload := t.next, crc := dynCrc k t.format t.generation t.next, writeOpen := false, next := [] } else t
/-- Every rewrite begun in the ending beat is complete at its boundary (R56, log 47). -/
def State.dynClose (s : State) : State := { s with dyn := s.dyn.map fun x => (x.1, x.2.close x.1) }
/-- The class of a use of a dynamic tile in this beat. -/
def State.useOf (s : State) (u : TileUse) : UseClass :=
  match s.tileOf u with
  | some (k, t) => tileClass (t.read k s.free)
  | none => .good
/-- A torn read of a tile counted towards its four in a row, whoever reads it (R396). -/
def DynTile.tornMore (t : DynTile) (beat : Nat) : DynTile :=
  { t with tornRun := if t.tornAt.map (beatAdd · 1) = some beat then t.tornRun + 1 else 1, tornAt := some beat }
def State.tileTorn (s : State) (u : TileUse) : State :=
  { s with dyn := s.dyn.map fun x => (x.1, if x.2.use = some u then x.2.tornMore s.beat else x.2) }
/-- A tile that has read torn in four beats in a row while no write to it is planned is corrupt (R396). -/
def DynTile.tornOut (t : DynTile) : Bool := decide (4 ≤ t.tornRun) && !t.writeOpen
def State.tornOut (s : State) (u : TileUse) : Bool := (s.tileOf u).any fun x => x.2.tornOut
/-- Bytes 0 to 495 of a stream's record: its parts in the order of R147's table; the inside of the parts whose layout the manual does not give
is free, one value for each stream and generation (log 40). -/
def recBody (s : State) (st : Stream) (c : Ctx) (key : Nat) : List Byte :=
  let free (from_ n : Nat) : List Byte := (List.range n).map fun i => Config.mirrorByte key (from_ + i)
  free 0 80 ++ words32 16 c.autos ++ gramRow c.gram (allowWord s st) ++ words32 16 c.window ++ words32 48 (c.accs.map (·.toNat)) ++ free 464 32
/-- The bytes of the hold-back store in use, in order (R140, R397). -/
def heldBytes (st : Stream) : List Byte := st.held.flatMap fun h => h.bytes.map (·.2.1)
/-- A stream's 512 bytes, its trailer the last 16 (R147, R397). -/
def streamRecord (s : State) (st : Stream) : List Byte :=
  let c := if st.phase = .inputOpen then { st.inCtx with gram := st.ctx.gram } else st.ctx
  let body := recBody s st c (st.handle * 65 * 2 ^ 32 + st.gen)
  body ++ recTrailer st.gen st.wbOpen body (heldBytes st)
/-- A node state's 512 bytes: the stream's layout, with no hold-back store (R213, R397). -/
def nodeRecord (s : State) (st : Stream) (n : Node) : List Byte :=
  let body := recBody s st n.ctx ((st.handle * 65 + n.num + 1) * 2 ^ 32 + n.gen)
  body ++ recTrailer n.gen n.wbOpen body []
/-- A stream record is written back: its generation advances and its trailer opens; a write-back already open takes the change in (R393, R398). -/
def State.writeBack (s : State) (h : Nat) : State :=
  s.setStream h fun st => if st.wbOpen then st else { st with gen := (st.gen + 1) % 2 ^ 32, wbOpen := true }
/-- The same for a node state, whose work tile is rewritten with it (R213, R393, R398). -/
def State.writeNode (s : State) (h id : Nat) : State :=
  let s := s.setStream h fun st => { st with nodes := AMap.modify st.nodes id fun n =>
    if n.wbOpen then n else { n with gen := (n.gen + 1) % 2 ^ 32, wbOpen := true } }
  match s.stream? h with
  | some st => match AMap.get? st.nodes id with | some n => s.dynWrite (.node id) (nodeRecord s st { n with wbOpen := false }) | none => s
  | none => s
/-- Every write-back is complete: the trailers are written with write_open 0 and the new crc (R393, R398). -/
def State.recClose (s : State) : State :=
  { s with streams := s.streams.map fun (x : Nat × Stream) =>
      (x.1, { x.2 with wbOpen := false, nodes := x.2.nodes.map fun (y : Nat × Node) => (y.1, { y.2 with wbOpen := false }) }) }
/-- Streams whose hold-back store changed between two states: the record's crc covers it, so the record is written back (R140, R397). -/
def State.heldBack (a s : State) : State :=
  (s.openStreams.filter fun st => ((a.stream? st.handle).map heldBytes).getD [] != heldBytes st).foldl (fun s st => s.writeBack st.handle) s
/-- What a tile is used for is still there. -/
def State.useLive (s : State) : TileUse → Bool
  | .staging id => s.recs.any fun r => r.id == id
  | .cairn id => s.cmds.any fun c => c.id == id
  | .node id => s.openStreams.any fun st => AMap.has st.nodes id
  | .allowList h => s.openStreams.any fun st => st.handle == h
/-- Tiles whose use is over are free; their headers stay as they are. -/
def State.dynFree (s : State) : State :=
  { s with dyn := s.dyn.map fun x => (x.1, if (x.2.use.map s.useLive).getD true then x.2 else { x.2 with use := none }) }

end Sys2Proof.Machine
end

