-- ==== Sys2Proof/Machine/Screen.lean ====
section
/-! DEFINITION. Screening: searches, automata, grammar, models and stack rounds of records and chunk tokens (R37, R174, R192 to R202,
R212, R240, R247 to R260, R265, R269, R271 to R305). -/

namespace Sys2Proof.Machine

/-! Masks. -/

/-- The dictionary a grammar means at its load: the loaded generation dict_generation for its vocabulary index (R188). Two dictionary images of
one index can carry that number; the model takes the one in the lowest slot (DESIGN CHOICE, log 65). -/
def State.dictFor (s : State) (g : GrammarImg) : Option (Nat × Img × DictImg) :=
  (sortAsc (fun x => x.1) (s.images.filter fun x => x.2.loaded && x.2.hdr.gen == g.dictGen
      && (x.2.dict?.map fun d => d.vocabIdx == g.vocabIdx).getD false)).head?.bind fun x => x.2.dict?.map fun d => (x.1, x.2, d)
/-- The dictionary a loaded grammar uses for its whole life (R190). -/
def State.dictOf (s : State) (g : GrammarImg) : Option (Nat × Img × DictImg) :=
  (s.img? g.dictSlot).bind fun i => i.dict?.map fun d => (g.dictSlot, i, d)
def dictMask (d : DictImg) (id : Nat) : Mask := d.masks.getD id (Mask.none d.refN)
def State.grammarOf (s : State) (st : Stream) : Option (Nat × Img × GrammarImg) :=
  match st.grammar.bind fun k => (s.img? k).map fun i => (k, i) with
  | some (k, i) => i.grammar?.map fun g => (k, i, g)
  | none => none
def State.vocabOf (s : State) (st : Stream) : VocabImg := ((s.img? st.vocab).bind Img.vocab?).getD default

/-- The step of R193 for a stream's grammar. -/
def gramStep (s : State) (st : Stream) (g : Option Gram) (t : Nat) : Option Gram :=
  match g, s.grammarOf st with
  | some x, some (_, _, gi) =>
    let esc := match s.dictOf gi with | some (_, _, d) => (dictMask d gi.escapeMask).has t | none => false
    some (advance gi esc x t)
  | _, _ => g

/-- Whether a mask id is pinned in the mask cache: a grammar's pinned mask or a ban mask (R183, R189). -/
def pinnedMask (gi : GrammarImg) (d : DictImg) (id : Nat) : Bool := gi.pinned.contains id || d.ban.contains id

/-- A committed dead end under FAIL_STREAM cancels the stream as BLOCK after the later of two beats (R203). -/
def State.failStream (s : State) (st : Stream) (gi : GrammarImg) (rel : Nat) : State :=
  if gi.deadPolicy = .failStream then s.at (beatAdd (beatMax rel s.beat) 1) (.cancel st.handle vBlock fGramDead true) else s

/-- A pinned image mask of a grammar or its dictionary has failed (R521). -/
def failedPin (gimg dimg : Img) (id : Nat) : Bool := AMap.has gimg.badMasks id || AMap.has dimg.badMasks id
/-- The dead-end mask a stream's mask becomes, with cause 01, or the all-denied mask with cause 10 where the escape or ban mask it is built of
has failed (R201, R521). -/
def State.putDeadEnd (s : State) (m : MaskJ) (st : Stream) (gimg dimg : Img) (gi : GrammarImg) (di : DictImg) : State :=
  let v := s.vocabOf st
  if gi.deadPolicy = .escapeSet && (failedPin gimg dimg gi.escapeMask || (m.ban.map (failedPin gimg dimg)).getD false) then s.maskReplaced m.id fRecExt
  else
    let dm := deadEndMask gi.deadPolicy v.nTokens v.eos (dictMask di gi.escapeMask) (m.ban.map (dictMask di))
    s.setMask m.id fun x => { x with mask := dm, cause := 1, waiting := false, composed := true }
/-- A dead end found on a composed mask: the dead bit of its state is set, in a node's work tile too, and the dead-end mask takes its place; of
an accepted node's mask the state is the committed one (R201, R202, R208, R393). -/
def State.maskDead (s : State) (m : MaskJ) (st : Stream) (gimg dimg : Img) (gi : GrammarImg) (di : DictImg) : State :=
  let s := (s.putDeadEnd m st gimg dimg gi di).count 42 1
  let kill (c : Ctx) : Ctx := { c with gram := c.gram.map fun g => { g with dead := true } }
  if m.kind = 1 && !m.taken then
    let id := m.rid.getD 0
    let s := s.setStream st.handle fun x => { x with nodes := AMap.modify x.nodes id fun n => { n with ctx := kill n.ctx } }
    (s.writeNode st.handle id).maskFlag m fGramDead
  else
    let s := ((s.setStream st.handle fun x => { x with ctx := kill x.ctx }).writeBack st.handle).maskFlag m fGramDead
    s.failStream st gi (((m.rid.bind s.rec?).map (·.rel)).getD s.beat)

/-- The use of a pinned allow list's tile that a mask's composing makes (R393, R394). -/
def allowUse (s : State) (st : Stream) : UseClass := if st.allowPinned then s.useOf (.allowList st.handle) else .good

/-- Whether a mask needs a MASK_COMBINE: its state's mask or its stream's allow list is not in the mask cache (R195, R205). -/
def needsCombine (s : State) (m : MaskJ) : Bool :=
  match s.stream? m.h with
  | none => false
  | some st =>
    match s.grammarOf st, m.gram with
    | some (_, _, gi), some g =>
      match s.dictOf gi with
      | some (_, _, di) =>
        m.cause != 3 && !g.dead && !(gi.states.getD g.state default).dead && !(pinnedMask gi di (gi.states.getD g.state default).mask && (st.allow.isNone || st.allowPinned))
      | none => false
    | _, _ => false
/-- Response payload transfers of a MASK_COMBINE over n tokens, at the most (Table 10-5). -/
def maskResp (n : Nat) : Nat := cdiv (8 * (summaryBytes (maskBlocks n) / 8 + 8 * maskBlocks n)) 64
/-- A mask's MASK_COMBINE: its state's mask, its stream's allow list, its ban (R195, R205, Table 10-5). -/
def State.askCombine (s : State) (m : MaskJ) (st : Stream) (gid dslot : Nat) (dimg : Img) : State :=
  let n := (s.vocabOf st).nTokens
  let ops : List Nat :=
    [gid * 2 ^ 8]
    ++ (match st.allowSlot with | some k => [1 + 4 + allowOff s k * 2 ^ 8 + st.allowWords * 2 ^ 48] | none => [])
    ++ (match m.ban with | some b => [3 + b * 2 ^ 8] | none => [])
  let words := [w64 [(imgBase s dslot, 0), (ops.length - 1, 40)], w64 [(256, 0)], w64 [(n, 0)]]
  let payload := wordsBytes ((ops ++ List.replicate (8 - ops.length) 0).map (BitVec.ofNat 64))
  let s := s.setMask m.id fun x => { x with waiting := true, composed := false }
  let (ok, s) := match (if dimg.masterLost then none else some m.chan) with
    | some (some c) => s.issueOn c (.first st.brt) 5 (.mask m.id) words payload (maskResp n)
    | some none => (false, s.noIssue 51 0 5)
    | none => (false, s)
  if ok then s else s.maskReplaced m.id fTimeout
/-- The mask of a grammar state that is not dead: what fails replaces it, an empty one is a dead end, the rest is composed on the die or asked of
the stack (R89, R195 to R201, R521). -/
def State.composeMask (s : State) (m : MaskJ) (st : Stream) (gimg : Img) (gi : GrammarImg) (gid dslot : Nat) (dimg : Img) (di : DictImg) : State :=
  if failedPin gimg dimg gid || (m.ban.map (failedPin gimg dimg)).getD false || st.allowBad then s.maskReplaced m.id fRecExt
  else if allowUse s st = .corrupt then (s.setStream st.handle fun x => { x with allowBad := true }).maskReplaced m.id fRecExt
  else if st.allowTorn = some s.beat || allowUse s st = .torn then s.maskReplaced m.id fTornRetry
  else if needsCombine s m then s.askCombine m st gid dslot dimg
  else
    let x := Machine.composeMask (dictMask di gid) st.allow (m.ban.map (dictMask di))
    if x.empty then s.maskDead m st gimg dimg gi di
    else s.setMask m.id fun y => { y with mask := x, composed := true }
/-- A mask composed in the compute phase of its stamp beat, or its MASK_COMBINE issued; a replaced one keeps its computed time (R89, R195 to
R201). -/
def composeOne (s : State) (m : MaskJ) : State :=
  match s.stream? m.h with
  | none => s
  | some st =>
    let v := s.vocabOf st
    if m.cause = 3 then s.setMask m.id fun x => { x with mask := Mask.none v.nTokens, composed := true }
    else
      match s.grammarOf st, m.gram with
      | some (_, gimg, gi), some g =>
        match s.dictOf gi with
        | none => s.setMask m.id fun x => { x with mask := Mask.none v.nTokens, cause := 2, composed := true }
        | some (dslot, dimg, di) =>
          let s := if needsCombine s m then s.setMask m.id fun x => { x with ready := beatAdd s.beat (st.brt + 1) } else s
          if !gimg.badTiles.isEmpty then s.maskReplaced m.id fRecExt
          else if g.dead then s.putDeadEnd m st gimg dimg gi di
          else if (gi.states.getD g.state default).dead then s.maskDead m st gimg dimg gi di
          else s.composeMask m st gimg gi (gi.states.getD g.state default).mask dslot dimg di
      | _, _ => s.setMask m.id fun x => { x with mask := Mask.none v.nTokens, composed := true }

/-! Searches. -/

/-- The result of searching a set's copy for a key; dual sets present the key to both copies (R247, R259, R260). A copy with a bank that a self-test
took out of rotation is not searched; where no copy is left the result is absent (R53, R379; DESIGN CHOICE, log 66). -/
def searchSet (s : State) (i : Img) (p : PatSetImg) (rot depth key : Nat) : SearchRes :=
  let out (c : Nat) : Bool := i.placed.any fun x => x.1 == c && s.integ.unitsOut.contains (2, x.2.1)
  let copies := (List.range (if p.hdr.dual then 2 else max 1 p.hdr.copies)).filter fun c => !out c
  let copy := copies.getD (rot % max 1 copies.length) 0
  let use := i.placed.filter fun x => (p.hdr.dual && copies.contains x.1) || x.1 == copy
  let hits := use.flatMap fun x => bankHits x.2.1 (2 ^ x.2.2) key (AMap.getD s.banks x.2.1 default).entries
  let lost := use.any fun x => (AMap.getD s.banks x.2.1 default).entries.any fun e => e.shadowBad && !e.valid && e.rec_.set == x.2.2
  let r := searchHits key depth p.hdr.dual hits
  if lost || copies.isEmpty then { r with full := [], pre := [], uncorr := true } else r

def activeSet (s : State) (id : Nat) : Option (Nat × Img × PatSetImg) :=
  match s.activeOf 4 id with
  | some (k, i) => i.set?.map fun p => (k, i, p)
  | none => none

/-- What screening a token yields. -/
structure Found where
  results : List Nat
  flags : Nat
  compl : List Compl
  pend : List Pend
  /-- entries that matched falsely, and those whose shadow was uncorrectable, by global unit -/
  falseHits : List Nat
  lost : List Nat
  deriving DecidableEq, Repr, Inhabited

def Found.join (a b : Found) : Found := ⟨a.results ++ b.results, a.flags ||| b.flags, a.compl ++ b.compl, a.pend ++ b.pend, a.falseHits ++ b.falseHits, a.lost ++ b.lost⟩
def Found.none : Found := ⟨[], 0, [], [], [], []⟩

/-- A match's rule as a result; PASS rules only count (R343, R344). -/
def ruleOf (d : PolDir) (rule : Nat) : MatchRule := d.matchRules.getD rule default
def ruleRes (d : PolDir) (rule : Nat) : List Nat := let v := (ruleOf d rule).verdict; if v = 0 then [] else [v]

/-- Start offset of the token L places back (L = 1 for the last). -/
def startOf (c : Ctx) (l : Nat) : Nat := c.starts.getD (l - 1) 0

/-- One pattern set on an output token (R251, R254). -/
def outSet (s : State) (d : PolDir) (tenant : Nat) (c : Ctx) (rot : Nat) (sd : Nat × Nat) : Found :=
  match activeSet s sd.1 with
  | none => { Found.none with results := [vIndet] }
  | some (slot, i, p) =>
    if p.hdr.width = 1 && !(p.entries.any fun e => entryType e == 2) && i.hdr.liveUpdate == false then Found.none
    else
      let r := searchSet s i p rot sd.2 (windowKey p.hdr.width tenant c.window)
      let comp := r.full.filterMap fun e =>
        let m := ruleOf d e.rule
        if m.verdict = 0 then Option.none
        else
          let pend : Pend := ⟨false, e.pattern, startOf c e.length, slot, 0⟩
          some ⟨pend, c.off, startOf c e.length, m.verdict, d.strings.getD m.replace [], e.priority, e.pattern⟩
      let pres := (r.pre.filter fun e => !(r.full.any fun f => f.pattern == e.pattern)).map fun e =>
        (⟨false, e.pattern, startOf c e.length, slot, 0⟩ : Pend)
      { results := (r.full.flatMap fun e => ruleRes d e.rule) ++ (if r.uncorr then [vIndet] else []),
        flags := if r.falseHit then fFalseHit else 0, compl := comp, falseHits := r.bad, lost := r.lost,
        pend := if r.uncorr then pres ++ c.pend.filter (fun x => !x.auto && x.slot == slot) else pres }

/-- One output automaton over a record's bytes (R265, R269): j its place in the policy's list; off the offset of the first byte. -/
def outAuto (s : State) (d : PolDir) (id j st0 off : Nat) (old : List Pend) (bs : List Byte) : Found × Nat :=
  match (s.activeOf 5 id).bind fun x => x.2.auto? with
  | none => ({ Found.none with results := [vIndet] }, st0)
  | some a =>
    let (ms, st1) := autoRun a st0 0 bs
    let fin := off + bs.length
    let before := ((old.find? fun p => p.auto && p.key == j).map (·.start)).getD fin
    let comp := ms.filterMap fun (k, x) =>
      let m := ruleOf d x.rule
      if m.verdict = 0 then Option.none
      else
        let e := off + k
        let b := if x.len = 0 then min before e else e - min e x.len
        some ⟨⟨true, j, min b before, 0, 0⟩, e, b, m.verdict, d.strings.getD m.replace [], x.priority, x.pattern⟩
    let hold := autoHold a st1
    ({ results := ms.flatMap fun (_, x) => ruleRes d x.rule, flags := 0, compl := comp,
       pend := if hold = 0 then [] else [⟨true, j, fin - min fin hold, 0, 0⟩], falseHits := [], lost := [] }, st1)

def outAutos (s : State) (d : PolDir) (off : Nat) (old : List Pend) (bs : List Byte) : Nat → List Nat → List Nat → Found × List Nat
  | _, [], _ => (Found.none, [])
  | j, id :: ids, sts =>
    let init := ((s.activeOf 5 id).bind fun x => x.2.auto?).map (·.startState)
    let (f, e) := outAuto s d id j (sts.headD (init.getD 0)) off old bs
    let (g, es) := outAutos s d off old bs (j + 1) ids sts.tail
    (f.join g, e :: es)

/-- Of several partial patterns with one key, the longest coverage (R254). -/
def longest (ps : List Pend) : List Pend :=
  ps.foldl (fun (a : List Pend) p =>
    if a.any fun q => q.auto == p.auto && q.key == p.key && q.slot == p.slot then
      a.map fun q => if q.auto == p.auto && q.key == p.key && q.slot == p.slot then { q with start := min q.start p.start } else q
    else a ++ [p]) []

/-- An output token screened from a context: what was found and the context after it (R174, R176, R212, R269); the grammar advances at the token's stamp. -/
def screenToken (s : State) (st : Stream) (p : PolicyImg) (c : Ctx) (tok pos : Nat) : Found × Ctx × List Byte :=
  let v := s.vocabOf st
  let bs := v.decode.getD tok []
  let c1 : Ctx := { c with
    carry := charTail (c.carry ++ bs), window := (tok :: c.window).take 14,
    starts := (c.off :: c.starts).take 14, off := c.off + bs.length }
  let d := p.outDir
  let f := (d.sets.map (outSet s d st.tenant c1 pos)).foldl Found.join Found.none
  let (g, autos) := outAutos s d c.off c.pend bs 0 d.autos c.autos
  let f := f.join g
  (f, { c1 with autos := autos, pend := longest f.pend }, bs)

/-- An output token that is screened by nothing: the token window takes it, the rest of the context stays (R82, R240). -/
def skipToken (c : Ctx) (tok : Nat) : Ctx :=
  { c with window := (tok :: c.window).take 14, starts := (c.off :: c.starts).take 14 }

/-- Uncorrectable errors on block memories (Table 13-8). -/
def State.uncorrectable (s : State) (n : Nat) : State :=
  { s with integ := { s.integ with eccUncorr := min 255 (s.integ.eccUncorr + n) } }.count 81 n
/-- What searches found: false hits counted, in all and by the bank's ridge (Table 15-14), their entries put down for the sweep's rewrite
(R257); uncorrectable shadow reads counted (R405). -/
def State.searchFinds (s : State) (bad lost : List Nat) : State :=
  let s := bad.foldl (fun s u => ((s.count 88 1).count (128 + 8 * (u / 4096) + 6) 1).setBank (u / 2048) fun b =>
    if b.rewrite.contains (u % 2048) then b else { b with rewrite := b.rewrite ++ [u % 2048] }) s
  s.uncorrectable lost.length

/-! Input tokens. -/

/-- One set on an input token and on the hash of its pre-token (R251). -/
def inSet (s : State) (d : PolDir) (tenant : Nat) (window : List Nat) (pre : Option (List Byte)) (rot : Nat) (sd : Nat × Nat) : Found :=
  match activeSet s sd.1 with
  | none => { Found.none with results := [vIndet] }
  | some (_, i, p) =>
    let res (r : SearchRes) : Found :=
      { Found.none with results := (r.full.flatMap fun e => ruleRes d e.rule) ++ (if r.uncorr then [vIndet] else []),
                        flags := if r.falseHit then fFalseHit else 0, falseHits := r.bad, lost := r.lost }
    let a := res (searchSet s i p rot sd.2 (windowKey p.hdr.width tenant window))
    match p.hdr.width == 1, pre with
    | true, some bs => a.join (res (searchSet s i p rot sd.2 (hashKey tenant bs.length (preHash bs))))
    | _, _ => a

/-- Input automata over an input token's bytes, each from its state (R267). -/
def inAutos (s : State) (d : PolDir) (bs : List Byte) : List Nat → List Nat → Found × List Nat
  | [], _ => (Found.none, [])
  | id :: ids, sts =>
    match (s.activeOf 5 id).bind fun x => x.2.auto? with
    | none => let (g, es) := inAutos s d bs ids sts.tail; ({ g with results := vIndet :: g.results }, sts.headD 0 :: es)
    | some a =>
      let (ms, e) := autoRun a (sts.headD a.startState) 0 bs
      let (g, es) := inAutos s d bs ids sts.tail
      ({ g with results := (ms.flatMap fun (_, x) => ruleRes d x.rule) ++ g.results }, e :: es)

/-- An input token, numbered within the stream's input, screened into its chunk; tokens take the copies of a set in rotation (R37, R240,
R251, R263, R267). -/
def screenInput (s : State) (tenant : Nat) (p : PolicyImg) (c : Ctx) (n : Nat) (t : TokOut) : Found × Ctx :=
  let d := p.inDir
  let w := (t.id :: c.window).take 14
  let f := (d.sets.map (inSet s d tenant w t.pre n)).foldl Found.join Found.none
  let (g, autos) := inAutos s d t.bytes d.autos c.autos
  (f.join g, { c with window := w, autos := autos })

/-- A context at its start (R240, R289): window filled, automata at their start states, accumulators at their start values. -/
def accStart (s : State) (d : PolDir) : List W32 :=
  (List.range 48).map fun i =>
    let isMax := d.heads.any fun id =>
      match (s.activeOf 6 id).bind fun x => x.2.head? with
      | some h => h.accumulate == 1 && h.accIndex == i / 16
      | none => false
    if isMax then inf32 true else zero32
def freshCtx (s : State) (p : PolicyImg) (d : PolDir) (gram : Option Gram) : Ctx :=
  { carry := [], autos := d.autos.map fun id => (((s.activeOf 5 id).bind fun x => x.2.auto?).map (·.startState)).getD 0,
    window := List.replicate 14 p.fillToken, gram := gram, accs := accStart s d, accN := [0, 0, 0], pend := [], off := 0, starts := [] }

/-! Models. -/

/-- A delta's base for an image generation (R299, R300). -/
def pDeltaFor (s : State) (slot : Option Nat) (i : Img) : Option PDeltaBase :=
  match slot.bind s.img? with
  | some (x : Img) =>
    match x.body with
    | .probeDelta bs => bs.find? fun b => b.imageId == i.hdr.imageId && b.gen == i.hdr.gen
    | _ => none
  | none => none
def tDeltaFor (s : State) (slot : Option Nat) (i : Img) : Option (Nat × TDeltaBase) :=
  match slot.bind s.img?, slot with
  | some x, some k =>
    match x.body with
    | .treeDelta bs => (bs.find? fun b => b.imageId == i.hdr.imageId && b.gen == i.hdr.gen).map fun b => (k, b)
    | _ => none
  | _, _ => none
/-- A delta is bound for a model's image at its record (R305). -/
def deltaBound (s : State) (r : Rec) (img : Nat) : Bool :=
  ((s.img? img).map fun i => if i.ens?.isSome then (tDeltaFor s r.td i).isSome else (pDeltaFor s r.pd i).isSome).getD false
def pEntries (b : Option PDeltaBase) (layer tile : Nat) : List PDeltaEntry :=
  match b with
  | some b => (b.tiles.filter fun t => t.layer == layer && t.tile == tile).flatMap (·.entries)
  | none => []

/-- Spans of 64 tokens the request-level classifiers read: all, the first n, or none (R40, R290). -/
def spanNeed (s : State) (d : PolDir) : Option Nat :=
  let hs := (d.heads.filterMap fun id => (s.activeOf 6 id).bind fun x => x.2.head?).filter fun h => h.source == 1
  if !d.ens.isEmpty || hs.any fun h => h.spanLimit == 0 then none else some (maxBy (·.spanLimit) hs)
/-- A span, by its number, is read by a request-level classifier. -/
def spanRead (s : State) (d : PolDir) (n : Nat) : Bool := match spanNeed s d with | none => true | some k => decide (n < k)

/-! Unusable tiles (R51, R287, R402, R403). -/

/-- A tile with no good copy to come in time: its master is under repair, or its cell has left rotation. -/
def tileLost (s : State) (k : Nat) (i : Img) (t : Nat) : Bool :=
  s.stack.repairs.contains (k, t) || ((AMap.get? i.cells t).map s.integ.cellsOut.contains).getD false
def imgLost (s : State) (k : Nat) (i : Img) : Bool :=
  i.badTiles.any (tileLost s k i) || i.cells.any fun x => s.integ.cellsOut.contains x.2
/-- Unusable tiles of images a record needs, all of them being reloaded; a lost one makes the record INDETERMINATE instead. -/
def tileWaits (is : List (Nat × Img)) : List (Nat × Nat) := is.flatMap fun x => x.2.badTiles.map fun t => (x.1, t)
def tilesLost (s : State) (is : List (Nat × Img)) : Bool := is.any fun x => imgLost s x.1 x.2
/-- A record waits for tiles: its delay is extended (R74, Table 13-3). -/
def State.waitFor (s : State) (rid : Nat) (ks : List (Nat × Nat)) : State :=
  s.setRec rid fun r => { r with waitTile := (r.waitTile ++ ks).eraseDups, flags := setFlag r.flags fRecExt }

/-- An image slot with its image, as a list. -/
def slotImgs (s : State) (ks : List Nat) : List (Nat × Img) := ks.filterMap fun k => (s.img? k).map fun i => (k, i)
/-- What a chunk's unusable tiles do: a lost one makes it INDETERMINATE, for the others it waits (R51, R402, R403). -/
def chunkTiles (s : State) (st : Stream) (p : PolicyImg) : List Nat × Nat × List (Nat × Nat) :=
  let is := slotImgs s [st.vocab] ++ p.inDir.autos.filterMap fun id => s.activeOf 5 id
  if tilesLost s is then ([vIndet], 0, []) else let ks := (tileWaits is).eraseDups; ([], if ks.isEmpty then 0 else setFlag 0 fRecExt, ks)

/-- The features a stack round of a model stages: elements for the ensemble or gather layer, listed columns for a gather delta. -/
def stagedElems (f : Feats) (n : Nat) : List W32 := (f.f32).take n

/-- FEATURE_STAGE words and payload (Table 10-5). -/
def stagePayload (xs : List W32) : List Byte := padTo 64 0#8 (xs.flatMap fun x => natToBytes 4 x.toNat)
def stageWords (slot : Nat) (int : Bool) (n : Nat) : List W64 := [w64 [(slot, 0), (b2n int, 2), (n, 16)]]

/-- The operations that read a staged vector: (purpose, opcode, words from word 2, response transfers). -/
def readOps (s : State) (r : Rec) (mi k : Nat) (stageSlot : Nat) (map6 : Nat) : List (Purp × Nat × List W64 × Nat) :=
  match s.img? k with
  | none => []
  | some i =>
    match i.head? with
    | some h =>
      let l := h.layers.headD default
      let rows := l.outWidth
      let dl := pDeltaFor s r.pd i
      let base := if l.mode = 2 then imgBase s k else (r.pd.map (imgBase s)).getD 0
      (List.range (cdiv rows 1024)).map fun q =>
        let cnt := min 1024 (rows - 1024 * q)
        (.gather r.id mi (1024 * q), 6,
          [w64 [(base, 0), (stageSlot, 40)], w64 [(if l.mode = 2 then 256 + h.tileOffset + 4096 * l.tileIndex else (dl.map Config.gatherAt).getD 0, 0)],
           w64 [(1024 * q, 0), (cnt - 1, 12), (rows, 22), (b2n (l.format == 5 || l.mode == 1), 35)], 0#64, BitVec.ofNat 64 map6],
          cdiv (4 * cnt) 64)
    | none =>
      let (dv, db) := match tDeltaFor s r.td i with | some (dk, _) => (1, imgBase s dk) | none => (0, 0)
      let tb := match tDeltaFor s r.td i with | some (_, b) => Config.bucketsAt b | none => 0
      [(.walk r.id mi, 4, [w64 [(imgBase s k, 0), (stageSlot, 40)], w64 [(256, 0)], w64 [(db, 0), (dv, 40)], w64 [(tb, 0)], BitVec.ofNat 64 map6], 1)]

/-- The window of a record's first stack round: first-round in its stamp beat, the recovery reserve where the work is repeated later (R77). -/
def State.roundWin (s : State) (r : Rec) : Win := if r.stamp = some s.beat then .first r.brt else .recov
/-- Stage slots of a channel that hold a segment whose dependent read is still to come (R321). -/
def slotsHeld (s : State) (c : Nat) : List Nat :=
  s.recs.flatMap fun r => r.models.flatMap fun m =>
    if m.st = 1 || (m.st = 2 && 1 < m.chans.length) then m.chans.filterMap fun x => if x.1 = c then some x.2 else none else []
/-- The next stage slot of a channel, in turn among those that hold nothing still needed (R320, R321). -/
def stageSlot (s : State) (c : Nat) : Option Nat :=
  ((List.range 4).map fun i => ((s.chan c).nextSlot + i) % 4).find? fun k => !(slotsHeld s c).contains k
/-- A FEATURE_STAGE on a channel: the slot it fills, where it was issued. -/
def State.stageOn (s : State) (c : Nat) (w : Win) (rid mi seg : Nat) (int : Bool) (xs : List W32) : Option Nat × State :=
  match stageSlot s c with
  | none => (none, s.noIssue (40 + c) c 3)
  | some k =>
    let (ok, s) := s.issueOn c w 3 (.stage rid mi seg) (stageWords k int xs.length) (stagePayload xs) 0
    (if ok then some k else none, s.setChan c fun ch => { ch with nextSlot := k + 1 })
/-- Segments of a wide vector staged on different channels: those of the plan, or the least loaded ones where the work is repeated (R321, R332). -/
def stageSegs (s : State) (r : Rec) (mi : Nat) (int : Bool) : Nat → List (List W32) → List Nat → List Nat → State × List (Nat × Nat) × Bool
  | _, [], _, _ => (s, [], true)
  | k, xs :: rest, plan, used =>
    let cand := (s.liveChans.filter fun c => !used.contains c)
    match (plan.head?.filter cand.contains).orElse fun _ => (sortAsc (fun c => firstLoad s c + depLoad s c) cand).head? with
    | none => (s.noIssue 51 0 3, [], false)
    | some c =>
      let (slot, s) := s.stageOn c (s.roundWin r) r.id mi k int xs
      let (s, m, ok) := stageSegs s r mi int (k + 1) rest plan.tail (c :: used)
      (s, (c, slot.getD 0) :: m, slot.isSome && ok)

/-- Issues a list of reading operations on a channel. -/
def issueAll (s : State) (c : Nat) (w : Win) : List (Purp × Nat × List W64 × Nat) → State × Bool
  | [] => (s, true)
  | (pu, op, ws, rl) :: rest =>
    let (ok, s) := s.issueOn c w op pu ws [] rl
    let (s, ok2) := issueAll s c w rest
    (s, ok && ok2)

/-- The first stack round of a model, on the channel the plan gave its record (R288, R296, R303, R321, R332): staged narrow vectors are read in
the same round; what cannot be staged is not read. -/
def startRound (s : State) (r : Rec) (mi k : Nat) (int lost : Bool) (xs : List W32) : State × ModelR :=
  let w := s.roundWin r
  let mk (st left : Nat) (ch : List (Nat × Nat)) : ModelR := ⟨mi, k, st, left, beatAdd s.beat r.brt, [], ch, [], false⟩
  if lost then (s, mk 3 0 [])
  else if xs.length ≤ 2048 then
    match (r.chan.filter fun _ => r.stamp == some s.beat).orElse fun _ => leastLoaded s with
    | none => (s.noIssue 51 0 3, mk 3 0 [])
    | some c =>
      match s.stageOn c w r.id mi 0 int xs with
      | (none, s) => (s, mk 3 0 [])
      | (some slot, s) =>
        let ops := readOps s r mi k slot 0
        let (s, ok) := issueAll s c w ops
        (s, if ok then mk 2 ops.length [(c, slot)] else mk 3 0 [])
  else
    let n := cdiv xs.length 2048
    let (s, m, ok) := stageSegs s r mi int 0 (chunksOf 2048 n xs) (if r.stamp = some s.beat then r.segs else []) []
    (s, if ok then mk 1 n m else mk 3 0 [])

/-- The value an accumulator starts at, by the mode of the head that folds into it first (R289). -/
def accIni (mode : Nat) : W32 := if mode = 1 then inf32 true else zero32
/-- Accumulator values of a head after folding its scores (R289, R290): the context and the values the policy reads. -/
def foldHead (h : HeadImg) (c : Ctx) (scores : List W32) : Ctx × List W32 :=
  if h.accumulate = 0 then (c, scores)
  else
    let b := 16 * h.accIndex
    let new := (List.range 16).map fun i =>
      let a := if c.accN.getD h.accIndex 0 = 0 then accIni h.accumulate else c.accs.getD (b + i) zero32
      if i < scores.length then foldAcc h.accumulate a (scores.getD i zero32) else a
    let n := c.accN.getD h.accIndex 0 + 1
    let c := { c with accs := c.accs.take b ++ new ++ c.accs.drop (b + 16), accN := c.accN.set h.accIndex n }
    (c, (new.take scores.length).map fun a => if h.accumulate = 3 then fDivN a n else a)

/-- What the model of an image gives a record: the state, a result, flags and verdicts. -/
abbrev Ran := State × Option ModelR × Nat × List Nat
/-- A model whose tiles are being reloaded. -/
def ModelR.waits (mi k : Nat) : ModelR := ⟨mi, k, 5, 0, 0, [], [], [], false⟩

/-- A head's generation at its record: resident scores, a stack round, or an unusable tile (R277, R287, R288, R303, R402). -/
def headOn (s : State) (r : Rec) (f : Feats) (mi k : Nat) (i : Img) (h : HeadImg) : Ran :=
  let db := pDeltaFor s r.pd i
  let gl := sortAsc (·.1) ((db.map (·.gather)).getD [])
  let m := (h.layers.headD default).mode
  let need := slotImgs s (k :: if db.isSome then r.pd.toList else [])
  let waits := tileWaits need
  let round (lost : Bool) (xs : List W32) : Ran :=
    if r.noStack then (s, none, 0, []) else
    let (s, x) := startRound s r mi k false lost xs
    let fl := if x.st = 3 then fTimeout else 0
    if tilesLost s need then (s, some x, fl, [vIndet]) else (if waits.isEmpty then s else s.waitFor r.id waits, some x, fl, [])
  if m = 2 then round i.masterLost (stagedElems f (h.layers.headD default).inWidth)
  else if m = 1 && !gl.isEmpty then
    round (((r.pd.bind s.img?).map (·.masterLost)).getD false) (gl.map fun g => (f.f32).getD g.1 zero32)
  else if tilesLost s need then (s, none, 0, [vIndet])
  else if !waits.isEmpty then (s.waitFor r.id waits, some (ModelR.waits mi k), 0, [])
  else
    let (ys, nan) := headScores h (pEntries db) f.f32
    (s, some ⟨mi, k, 4, 0, 0, [], [], ys, nan⟩, if nan then fNanSeen else 0, [])

/-- An ensemble's generation at its record (R293 to R296, R402). -/
def ensOn (s : State) (r : Rec) (f : Feats) (mi k : Nat) (i : Img) (e : EnsImg) : Ran :=
  let db := tDeltaFor s r.td i
  let need := slotImgs s (k :: if db.isSome then r.td.toList else [])
  let waits := tileWaits need
  if e.streamed then
    let lost := i.masterLost || (match db with | some (b, _) => ((s.img? b).map (·.masterLost)).getD false | none => false)
    let xs := if e.integer then (f.raw.take e.nFeatures).map (BitVec.ofNat 32) else stagedElems f e.nFeatures
    if r.noStack then (s, none, 0, []) else
    let (s, x) := startRound s r mi k e.integer lost xs
    (s, some x, if x.st = 3 then fTimeout else 0, [])
  else if tilesLost s need then (s, none, 0, [vIndet])
  else if !waits.isEmpty then (s.waitFor r.id waits, some (ModelR.waits mi k), 0, [])
  else
    let (p, n1) := ensPartials e (db.map (·.2)) f
    let (ys, n2) := ensScores e p n1
    (s, some ⟨mi, k, 4, 0, 0, [], [], ys, n2⟩, if n2 then fNanSeen else 0, [])

/-- The active generation of a policy's head or ensemble at its record. -/
def runHead (s : State) (r : Rec) (f : Feats) (mi id : Nat) : Ran :=
  match s.activeOf 6 id with
  | none => (s, none, 0, [vIndet])
  | some (k, i) => match i.head? with | some h => headOn s r f mi k i h | none => (s, none, 0, [vIndet])
def runEns (s : State) (r : Rec) (f : Feats) (mi id : Nat) : Ran :=
  match s.activeOf 7 id with
  | none => (s, none, 0, [vIndet])
  | some (k, i) => match i.ens? with | some e => ensOn s r f mi k i e | none => (s, none, 0, [vIndet])
/-- A model whose tiles are back runs on the generation it began with (R402, R404). -/
def rerun (s : State) (r : Rec) (m : ModelR) : Ran :=
  match s.img? m.img, r.feats with
  | some i, some f =>
    match i.head?, i.ens? with
    | some h, _ => headOn s r f m.mi m.img i h
    | none, some e => ensOn s r f m.mi m.img i e
    | none, none => (s, none, 0, [vIndet])
  | _, _ => (s, none, 0, [vIndet])
/-- A record's demand in its stamp beat; a chunk's tokens were searched and stepped as they were produced, and a record whose stack tier is held
issues no round (R58, R79, R356). -/
def recDemand (s : State) (r : Rec) : Demand :=
  let p := (s.polOf r.polSlot).getD default
  if r.kind = .span then p.inDir.demand
  else if r.kind = .chunk then { p.inDir.demand with search := 0, steps := 0, firstReq := 0, depReq := 0, resp := 0 }
  else p.outDir.demand
/-- Banks that hold a copy of any set a policy names (R519). -/
def polBanks (s : State) (p : PolicyImg) : List Nat :=
  ((p.inDir.sets ++ p.outDir.sets).flatMap fun x =>
    match s.activeOf 4 x.1 with | some (_, i) => i.placed.map fun y => y.2.1 | none => []).eraseDups
/-- Elements of the vectors a direction stages in segments (R321). -/
def wideVectors (s : State) (d : PolDir) : List Nat :=
  d.heads.filterMap (fun id => (s.activeOf 6 id).bind fun x => x.2.head?.bind fun h =>
    let l := h.layers.headD default
    if l.mode = 2 && 2048 < l.inWidth then some l.inWidth else none)
  ++ d.ens.filterMap fun id => (s.activeOf 7 id).bind fun x => x.2.ens?.bind fun e => if e.streamed && 2048 < e.nFeatures then some e.nFeatures else none
/-- Request transfers of the segments of a vector of n elements. -/
def segReqs (n : Nat) : List Nat := (List.range (cdiv n 2048)).map fun k => 1 + cdiv (4 * min 2048 (n - 2048 * k)) 64
/-- The beat in whose compute phase the lane work behind a model's last stack round falls: s + N_st B_rt + 1 where E is 1, and no earlier
than the model's own last round (R64). -/
def lateBeat (s : State) (r : Rec) (m : ModelR) : Nat :=
  let p := (s.polOf r.polSlot).getD default
  beatAdd (beatMax (beatAdd (r.stamp.getD 0) (p.nRounds * r.brt)) (beatAdd m.due (if 1 < m.chans.length then r.brt else 0))) p.align
/-- Lane cycles of the layers behind a head's stack round, and of its link function (R278, R297). -/
def lateLane (s : State) (m : ModelR) : Nat :=
  match (s.img? m.img).bind Img.head? with
  | some h => sumBy (fun l => 64 * l.rowBytes * l.rowTiles * l.colTiles) h.layers.tail + 64 * h.nOut
  | none => ((((s.img? m.img).bind Img.ens?).map (·.nClasses)).getD 0) * 64
/-- Repeated work takes its lane, walker, host and search demand from the recovery reserve; what the beat's reserve does not hold is left for the
next one's (R77). A record whose models alone run again searches nothing. -/
def State.fitRedo (s : State) (r : Rec) (whole : Bool) : Bool × State :=
  let d := recDemand s r
  let banks := polBanks s ((s.polOf r.polSlot).getD default)
  let (l, w, h, q) := r.redo.getD (d.lane, d.walk, d.host, if whole then d.search else 0)
  let p := s.plan
  let n := banks.foldl (fun n b => min n (AMap.getD p.recBanks b 0)) q
  let left : Nat × Nat × Nat × Nat := (l - p.recLane, w - p.recWalk, h - p.recHost, q - n)
  let s := { s with plan := { p with
    recLane := p.recLane - l, recWalk := p.recWalk - w, recHost := p.recHost - h
    recBanks := p.recBanks.map fun (x : Nat × Nat) => if banks.contains x.1 then (x.1, x.2 - n) else x } }
  if left = (0, 0, 0, 0) then (true, s.setRec r.id fun x => { x with redo := none }) else (false, s.setRec r.id fun x => { x with redo := some left })
/-- The waiting models of a record run again once nothing is waited for. -/
def State.rerunRec (s : State) (id : Nat) : State :=
  match s.rec? id with
  | none => s
  | some r =>
    if !r.waitTile.isEmpty || !(r.models.any fun m => m.st == 5) then s
    else
      let (fits, s) := s.fitRedo r false
      if !fits then s
      else (r.models.filter fun m => m.st == 5).foldl (fun s m =>
      let (s, x, fl, rs) := rerun s r m
      s.setRec id fun y => { y with
        models := y.models.flatMap (fun z => if z.mi = m.mi then x.toList else [z]), flags := y.flags ||| fl, results := y.results ++ rs }) s

/-- Heads and ensembles of a direction on a record. -/
def runModels (s : State) (r : Rec) (d : PolDir) (f : Feats) : State × List ModelR × Nat × List Nat :=
  let go (run : State → Nat × Nat → Ran) :=
    fun (acc : State × List ModelR × Nat × List Nat) (x : Nat × Nat) =>
      let (s, ms, fl, rs) := acc
      let (s, m, fl', rs') := run s x
      (s, ms ++ m.toList, fl ||| fl', rs ++ rs')
  let want (tok : Bool) : List (Nat × Nat) := ((List.range d.heads.length).zip d.heads).filter fun x =>
    match (s.activeOf 6 x.2).bind fun y => y.2.head? with
    | some h => (h.source == 0) == tok && (tok || h.spanLimit == 0 || r.n < h.spanLimit)
    | none => tok
  let acc := (want (r.kind != .span)).foldl (go fun s x => runHead s r f x.1 x.2) (s, [], 0, [])
  ((List.range d.ens.length).zip d.ens).foldl (go fun s x => runEns s r f (8 + x.1) x.2) acc

/-- A head's or ensemble's scores once its stack round has returned (R288, R296, R303). -/
def stackScores (s : State) (r : Rec) (m : ModelR) : List W32 × Bool :=
  match s.img? m.img with
  | none => ([], false)
  | some i =>
    let parts := (sortAsc (·.1) m.parts).flatMap (·.2)
    match i.head?, i.ens? with
    | some h, _ => headScoresGather h (pEntries (pDeltaFor s r.pd i)) ((r.feats.map Feats.f32).getD []) parts
    | _, some e => ensScores e parts m.nan
    | _, _ => ([], false)

end Sys2Proof.Machine
end

