-- ==== Sys2Proof/Machine/Admission.lean ====
section
/-! DEFINITION. The capacity, latency and deadline checks of Table 2-5 and the demand they weigh (R61, R66, R83, R88, R199, R214,
R261, R333, R334, R346, R350, R373, R518, R519). -/

namespace Sys2Proof.Machine

/-- D of a policy with the B_rt in force (R61). -/
def State.delayOf (s : State) (p : PolicyImg) : Nat := 1 + p.nRounds * s.stack.brt + p.align
/-- The delay under which this instance releases a policy of delay d: D alone, or at the tail D_range with d in its own stage's place
(R72, R73, R428). -/
def State.dRangeOf (s : State) (d : Nat) : Nat := if s.range.joined && s.range.role == 2 then s.range.dRange - s.range.dOwn + d else d

/-- Images as they stand after the activations of the coming boundary (Table 3-11). -/
def activateIn (imgs : AMap Img) (slot : Nat) : AMap Img :=
  match AMap.get? imgs slot with
  | none => imgs
  | some i =>
    let idx (x : Img) : Option Nat := x.vocab?.map (·.vocabIdx)
    imgs.map fun (x : Nat × Img) =>
      if x.1 = slot then (x.1, { x.2 with status := 1 })
      else if x.2.status = 1 && x.2.hdr.kind == i.hdr.kind && (x.2.hdr.imageId == i.hdr.imageId || (i.hdr.kind == 1 && idx x.2 == idx i)) then
        (x.1, { x.2 with status := 0 })
      else x
def State.soon (s : State) : State :=
  s.sched.foldl (fun v e =>
    match e.eff with
    | .activate k => if beatLe e.at_ s.nextB then { v with images := activateIn v.images k } else v
    | _ => v) s
/-- Bindings and tenants as they stand after an effect, as far as admission reads them. -/
def State.seen (s : State) (e : Eff) : State :=
  match e with
  | .activate k => { s with images := activateIn s.images k }
  | .policy pid id on _ => { s with policies := if on then AMap.set s.policies pid ⟨id, true⟩ else AMap.erase s.policies pid }
  | .tenant t on ban _ _ _ => s.setTenant t fun x => { x with enabled := on, ban := ban }
  | _ => s
/-- The machine as admission sees it after every accepted effect due by a boundary. -/
def State.seenBy (s : State) (b : Nat) : State := s.sched.foldl (fun v e => if beatLe e.at_ b then v.seen e.eff else v) s
/-- Images as they stand at a boundary, with the activations due by then and one more. -/
def imagesAt (s : State) (b : Nat) (slot : Nat) : AMap Img :=
  let m := s.sched.foldl (fun m e => match e.eff with | .activate k => if beatLe e.at_ b then activateIn m k else m | _ => m) s.images
  activateIn m slot
/-- The machine as admission sees it from a boundary on: then, and after each activation accepted for a later one (R83). -/
def State.viewsFrom (s : State) (b : Nat) : List State :=
  s.seenBy b :: s.sched.filterMap fun e => match e.eff with
    | .activate _ => if beatLe e.at_ b then none else some (s.seenBy e.at_)
    | _ => none
/-- The ban mask a tenant is about to have, where a SET_TENANT waits for its boundary (R185, R340). -/
def State.banSoon (s : State) (t : Nat) : Option Nat :=
  s.sched.foldl (fun b e => match e.eff with | .tenant x _ ban _ _ _ => if x = t then ban else b | _ => b) (s.tenant t).ban

def State.activeVocab (s : State) (idx : Nat) : Option (Nat × VocabImg) :=
  match s.images.find? fun x => x.2.status == 1 && (x.2.vocab?.map (·.vocabIdx)) == some idx with
  | some (k, i) => i.vocab?.map fun v => (k, v)
  | none => none

/-! Demand. -/

/-- One stream as admission weighs it. -/
structure Adm where
  pol : PolicyImg
  k : Nat
  rc : Nat
  ridge : Nat
  con : Bool
  m : Nat
  worst : Nat
  deadline : Nat
  deriving DecidableEq, Repr, Inhabited

def PolicyImg.sum (p : PolicyImg) (f : Demand → Nat) : Nat := f p.inDir.demand + f p.outDir.demand

/-- Worst mask of a stream: summary and mixed blocks, capped at the blocks there are (R88, R199). -/
def worstMask (n : Nat) (g : GrammarImg) (allow ban : Option Mask) : Nat :=
  let b := maskBlocks n
  let extra := ((allow.map Mask.mixedBlocks).getD [] ++ (ban.map Mask.mixedBlocks).getD []).eraseDups.length
  summaryBytes b + 64 * min b (g.maxMixed + extra)

def State.ban (s : State) (di : DictImg) (t : Nat) : Option Mask := (s.tenant t).ban.map (dictMask di)

/-- An open stream as admission weighs it, under policy image p and ban mask b of its tenant. -/
def State.admWith (s : State) (st : Stream) (p : PolicyImg) (b : Option (Option Nat)) : Adm :=
  let base : Adm := ⟨p, s.maxDraft st.rc, st.rc, st.ridge, false, 0, 0, s.maskDeadline st.rc⟩
  match s.grammarOf st with
  | some (_, _, g) =>
    match s.dictOf g with
    | some (_, _, di) =>
      let ban := match b with | some x => x.map (dictMask di) | none => s.ban di st.tenant
      { base with con := true, m := if g.allPinned && (st.allow.isNone || st.allowPinned) then 0 else 1,
                  worst := worstMask (s.vocabOf st).nTokens g st.allow ban }
    | none => { base with con := true, m := 1 }
  | none => base
/-- The policy image an open stream runs under. -/
def State.streamPol (s : State) (st : Stream) : PolicyImg := ((s.policyOf st.policy).map (·.2.2)).getD default
def State.admOf (s : State) (st : Stream) : Adm := s.admWith st (s.streamPol st) none
def State.adms (s : State) : List Adm := s.openStreams.map s.admOf

/-- An allowance item less the reserve, and what expert reservations of other classes hold (R77, R80). -/
def reservedFor (s : State) (i rc : Nat) : Nat := ((AMap.getD s.gov.reserved rc []).getD i 0)
/-- Demand on item i: in each class, the larger of its streams' demand and its reservation (R80). -/
def classDemand (s : State) (i : Nat) (f : Adm → Nat) (as : List Adm) : Nat :=
  sumBy (fun rc => max (sumBy (fun a => if a.rc = rc then f a else 0) as) (reservedFor s i rc)) (List.range 16)

/-- Lane and walker allowance that the cells in rotation can still give (R53). -/
def State.laneAllow (s : State) : Nat := min s.gov.lane (184 * 64 * s.cellsIn)
def State.walkAllow (s : State) : Nat := min s.gov.walk (184 * s.cellsIn)

/-- Lane, walker and host demand and search slots per bank fit the plannable items (R83, R374, R519). -/
def State.fitsAllowance (s : State) (as : List Adm) : Bool :=
  let per (f : Demand → Nat) (a : Adm) : Nat := (1 + a.k) * a.pol.sum f
  classDemand s 0 (per (·.lane)) as ≤ plannable s.laneAllow
    && classDemand s 1 (per (·.walk)) as ≤ plannable s.walkAllow
    && classDemand s 4 (per (·.host)) as ≤ plannable s.gov.host
    && (List.range s.nBanks).all (fun b =>
      classDemand s 2 (fun a => if (polBanks s a.pol).contains b then (1 + a.k) * a.pol.outDir.demand.search else 0) as ≤ plannable s.gov.assoc)
/-- These and the engine steps per ridge fit (R83, R518). -/
def State.fitsItems (s : State) (as : List Adm) : Bool :=
  s.fitsAllowance as && (List.range s.ridges).all fun r =>
      sumBy (fun a => if a.ridge = r then (1 + a.k) * a.pol.outDir.demand.steps else 0) as ≤ 5704

/-- Frames of a span policy that one beat can bring (R334). -/
def spanFrames (p : PolicyImg) : Nat :=
  let size := if p.spanType = 0 || p.spanType = 3 then 4 else 2
  cdiv 235 (2 + cdiv (size * p.spanCount) 64)
def spanStack (p : PolicyImg) : Bool := p.spanCount != 0 && p.inDir.demand.firstReq != 0

/-- 1 for a constrained stream whose masks can need a MASK_COMBINE (R199). -/
def Adm.one (a : Adm) : Nat := if a.con && a.m == 1 then 1 else 0
/-- First-round and dependent request transfers of admitted work in a beat (R333, R334). -/
def reqDemand (s : State) (as : List Adm) : Nat :=
  classDemand s 3 (fun a => (1 + a.k) * a.pol.sum (·.firstReq) + 2 * (1 + a.k) * a.one) as
    + maxBy (fun a => spanFrames a.pol * a.pol.inDir.demand.firstReq) (as.filter fun a => spanStack a.pol)
def depDemand (as : List Adm) : Nat := sumBy (fun a => (1 + a.k) * a.pol.sum (·.depReq)) as
/-- The largest item of a stream among first-round requests: its record's round, one segment of a staged vector, or its mask (R321, R333). -/
def reqItem (s : State) (a : Adm) : Nat :=
  let segs := (wideVectors s a.pol.inDir ++ wideVectors s a.pol.outDir).flatMap segReqs
  max (max (a.pol.sum (·.firstReq) - sumBy (fun n => n) segs) (maxBy (fun n => n) segs)) (2 * a.one)
/-- The stack part of the capacity check (R333, R334). -/
def State.fitsStack (s : State) (as : List Adm) : Bool :=
  let c := s.liveChans.length
  let one (a : Adm) : Nat := a.one
  let sp := as.filter fun a => spanStack a.pol
  let req := reqDemand s as
  let dep := depDemand as
  let resp := sumBy (fun a => s.stack.brt * (1 + a.k) * a.pol.sum (·.resp) + (1 + a.k) * (1 + cdiv a.worst 64) * one a) as
    + maxBy (fun a => s.stack.brt * spanFrames a.pol * a.pol.inDir.demand.resp) sp
  let jq := maxBy (reqItem s) as
  let jd := maxBy (fun a => a.pol.sum (·.depReq)) as
  let jr := maxBy (fun a => max (a.pol.sum (·.resp)) ((1 + cdiv a.worst 64) * one a)) as
  req + c * jq ≤ c * plannable s.gov.stFirst && dep + c * jd ≤ c * plannable s.gov.stDep && resp + c * (jr + 66) ≤ c * s.respWindow

/-- The mask-deadline check of one constrained stream among some (R86, R88). -/
def State.fitsDeadline (s : State) (as : List Adm) (a : Adm) : Bool :=
  let cs := as.filter (·.con)
  let q := sumBy (fun x => if x.deadline ≤ a.deadline then (1 + x.k) * x.worst else 0) cs
    + maxBy (fun x => if x.deadline ≤ a.deadline then 0 else x.worst) cs
  a.deadline ≠ 0 && 1 + a.m * s.stack.brt + cdiv q 30080 + 1 ≤ a.deadline
/-- The mask-deadline check of every constrained stream. -/
def State.fitsDeadlines (s : State) (as : List Adm) : Bool := (as.filter (·.con)).all (s.fitsDeadline as)

/-! Ridges and resident slots. -/

/-- Bytes of the cairn and work area a ridge's streams reserve (R214). -/
def ridgeUse (s : State) (r : Nat) : Nat :=
  sumBy (fun st => if st.ridge = r then 384 + 512 * s.maxDraft st.rc else 0) s.openStreams
/-- Resident indices of a ridge not in use (R119, R147). -/
def freeIdx (s : State) (r : Nat) : List Nat := ((List.range 1024).map fun i => 1024 * r + i).filter fun i => !AMap.has s.streams i
/-- Ridges in rotation a stream can be placed on (R379); allowed is none where nothing it uses is pinned to ridges (R189). -/
def ridgeCand (s : State) (draft : Nat) (want : Option Nat) (allowed : Option (List Nat)) : List Nat :=
  (List.range s.ridges).filter fun r =>
    !s.integ.unitsOut.contains (1, r) && (match allowed with | some rs => rs.contains r | none => true) && (want.isNone || want == some r)
      && ridgeUse s r + 384 + 512 * draft ≤ 448 * 1024 && !(freeIdx s r).isEmpty

/-! Budget. -/

/-- The draw of R348: 0 committed, 1 burst, 2 best effort, 3 none; and the tenant after it. -/
def drawFrom (t : Tenant) (c : Nat) : Nat × Tenant :=
  if t.k > 0 then
    if t.u < c then (0, { t with k := t.k - 1, u := t.u + 1 }) else (1, { t with k := t.k - 1 })
  else if t.x > 0 then (2, { t with x := t.x - 1 })
  else (3, t)
/-- Committed tokens of the period in force: the tenant's, or its lease's in a range (R361). -/
def State.commitC (s : State) (t : Tenant) : Nat := if s.range.joined then t.leaseC else t.c
def State.draw (s : State) (t : Nat) : Nat × State :=
  let x := drawFrom (s.tenant t) (s.commitC (s.tenant t))
  (x.1, s.setTenant t fun _ => x.2)
/-- What a draw would return, without drawing (R350). -/
def State.drawClass (s : State) (t : Nat) : Nat := (drawFrom (s.tenant t) (s.commitC (s.tenant t))).1

def kMin : Int := -(2 ^ 39)
def kMax : Int := 2 ^ 39 - 1
/-- k saturates at both ends (R346). -/
def satK (k : Int) : Int := if k < kMin then kMin else if k > kMax then kMax else k

/-- Tokens charged to a tenant from k alone, u rising with them (Table 11-5). -/
def Tenant.chargeChunk (t : Tenant) (n : Nat) : Tenant := { t with k := satK (t.k - n), u := satAdd (2 ^ 32 - 1) t.u n }
/-- A shed record's token back to the count it came from (R348). -/
def Tenant.giveBack (t : Tenant) (draw : Nat) : Tenant :=
  if draw = 0 then { t with k := satK (t.k + 1), u := t.u - 1 }
  else if draw = 1 then { t with k := satK (t.k + 1) }
  else if draw = 2 then { t with x := t.x + 1 }
  else t

/-- b × s rounded down, by BURST_SCALE code (Table 11-7). -/
def burstScaled (b code : Nat) : Nat :=
  match code with | 0 => b | 1 => b * 3 / 4 | 2 => b / 2 | 3 => b / 4 | _ => 0

/-- The refill of an enabled tenant (R347). -/
def Tenant.refill (t : Tenant) (scale : Nat) : Tenant :=
  let t := match t.pend with
    | some (c, b, e) => { t with c := c, b := b, e := e, pend := none }
    | none => t
  if t.enabled then
    { t with k := satK (min (t.k + t.c) ((t.c + burstScaled t.b scale : Nat) : Int)), x := t.e, u := 0 }
  else t

end Sys2Proof.Machine
end

