-- ==== Sys2Proof/Machine/Gate.lean ====
section
/-! DEFINITION. The summit gate: hold-back, redaction, forced resolution, egress entries and step batches (R45 to R47, R107, R109,
R129, R138 to R145). -/

namespace Sys2Proof.Machine

/-- The effect of a verdict under its policy: HOLD or BLOCK for the codes the policy maps (R132, Table 4-6). -/
def effectOf (p : PolicyImg) (v : Nat) : Nat :=
  if v = vIndet then p.mapIndet
  else if v = vIncomplete then p.mapIncomplete
  else if v = vBudget ∨ v = vOos then vHold
  else v

/-- A record at the gate: its entry data, its verdict, whether it is released now, and the step in whose batch its entry goes. -/
structure GItem where
  pos : Nat
  token : Nat
  policy : Nat
  gen : Nat
  flags : Nat
  verdict : Nat
  now : Bool
  step : Nat
  deriving DecidableEq, Repr, Inhabited

/-- A byte at the gate: its item, its offset in the output, and its fate: 0 held, 1 freed, v + 1 discarded under verdict v > 0. -/
structure GByte where
  item : Nat
  pos : Nat
  b : Byte
  fate : Nat
  /-- it begins a character (R177) -/
  head : Bool
  deriving DecidableEq, Repr, Inhabited

/-- A redacted span in output offsets (R143). -/
structure Span where
  lo : Nat
  hi : Nat
  prio : Nat
  pat : Nat
  repl : List Byte
  deriving DecidableEq, Repr, Inhabited

/-- The gate's working state over the records of one stream that release in one beat; before is the incomplete character at the end of the
output taken so far, whatever became of its bytes (R177), gone the patterns forced so far (R142). -/
structure Gate where
  items : List GItem
  bytes : List GByte
  pends : List Pend
  gone : List Pend
  before : List Byte
  spans : List Span
  forced : Nat
  deriving DecidableEq, Repr, Inhabited

/-- The gate before a beat's releases: the bytes held so far. -/
def Gate.ofHeld (st : Stream) : Gate :=
  { items := st.held.map fun h => ⟨h.pos, h.token, h.policy, h.gen, h.flags, vPass, false, 0⟩,
    bytes := ((List.range st.held.length).zip st.held).flatMap fun x => x.2.bytes.map fun y => ⟨x.1, y.1, y.2.1, 0, y.2.2⟩,
    pends := st.pends, gone := st.forced, before := st.gateTail, spans := [], forced := 0 }

/-- Held bytes in [lo, hi) discarded under verdict v. -/
def Gate.drop (g : Gate) (lo hi v : Nat) : Gate :=
  { g with bytes := g.bytes.map fun x => if x.fate = 0 && lo ≤ x.pos && x.pos < hi then { x with fate := v + 1 } else x }

def holdLo (ps : List Pend) (fin : Nat) : Nat := ps.foldl (fun a p => min a p.start) fin
/-- Bytes that the pending patterns cover. -/
def Gate.covered (g : Gate) (fin : Nat) : Nat :=
  (g.bytes.filter fun x => x.fate == 0 && holdLo g.pends fin ≤ x.pos).length

/-- The pending pattern that has been pending longest. -/
def oldestPend (ps : List Pend) : Option Pend :=
  ps.foldl (fun (b : Option Pend) p => match b with
    | some q => if p.born < q.born then some p else b
    | none => some p) none
def samePattern (p q : Pend) : Bool := p.auto == q.auto && p.key == q.key && p.slot == q.slot

/-- Forced resolutions until the held bytes fit in 384: what the pattern held before this record is discarded, the record's own bytes are no
longer held by it (R142). -/
def Gate.force : Nat → Nat → Nat → Gate → Gate
  | 0, _, _, g => g
  | f + 1, base, fin, g =>
    if g.covered fin ≤ 384 then g
    else
      match oldestPend g.pends with
      | none => g
      | some p => Gate.force f base fin { (g.drop p.start base vHold) with
          pends := g.pends.erase p, gone := g.gone ++ [{ p with start := fin }], forced := g.forced + 1 }

/-- Down from byte i, the byte the character around it begins with, as far as the bytes at the gate reach back without a gap. -/
def charLo (bs : List GByte) : Nat → Nat
  | 0 => 0
  | i + 1 => if (bs.getD (i + 1) default).head || (bs.getD i default).pos + 1 ≠ (bs.getD (i + 1) default).pos then i + 1 else charLo bs i
/-- Up from byte i, the end of the character that goes on there. -/
def charHi (bs : List GByte) : Nat → Nat → Nat
  | 0, i => i
  | f + 1, i =>
    if bs.length ≤ i || (bs.getD i default).head || (bs.getD (i - 1) default).pos + 1 ≠ (bs.getD i default).pos then i else charHi bs f (i + 1)
/-- A span widened to whole characters within the bytes at the gate (R143, R177); the first of them can complete a character whose lead has
left the gate or was discarded. -/
def widen (bs : List GByte) (c : Compl) : Option Span :=
  let i0 := (bs.filter fun x => x.pos < c.spanStart).length
  let i1 := (bs.filter fun x => x.pos < c.fin).length
  if i1 ≤ i0 then none
  else
    let j0 := charLo bs i0
    let j1 := charHi bs 4 i1
    some ⟨(bs.getD j0 default).pos, (bs.getD (j1 - 1) default).pos + 1, c.priority, c.pattern, c.repl⟩
/-- Where characters begin once a record's bytes follow: those of its bytes, and of the bytes at the gate that the character open before it
reaches back to (R177). -/
def Gate.chars (g : Gate) (r : Rec) : Gate :=
  let k := g.before.length
  let bounds := charBounds (g.before ++ r.bytes)
  { g with
    before := charTail (g.before ++ r.bytes)
    bytes := g.bytes.map fun x =>
      if x.fate = 0 && r.off ≤ x.pos + k && x.pos < r.off then { x with head := bounds.contains (x.pos + k - r.off) } else x }
/-- A record's own bytes as items of the gate. -/
def Gate.own (g : Gate) (r : Rec) : List GByte :=
  let bounds := charBounds (g.before ++ r.bytes)
  ((List.range r.bytes.length).zip r.bytes).map fun x => ⟨g.items.length, r.off + x.1, x.2, 0, bounds.contains (g.before.length + x.1)⟩

/-- Two spans that overlap or touch as one, with the replacement of the higher priority, of the lower pattern among equals (R143, R252). -/
def Span.join (x y : Span) : Span :=
  let w := if x.prio > y.prio || (x.prio == y.prio && x.pat ≤ y.pat) then x else y
  ⟨min x.lo y.lo, max x.hi y.hi, w.prio, w.pat, w.repl⟩
/-- Spans in ascending order of their first bytes merged from the left: the last merged span takes in every later one it reaches. -/
def mergeFrom : Span → List Span → List Span
  | x, [] => [x]
  | x, y :: ys => if y.lo ≤ x.hi then mergeFrom (x.join y) ys else x :: mergeFrom y ys
def mergeSpans : List Span → List Span
  | [] => []
  | x :: xs => mergeFrom x xs

/-- Pending patterns of a record: one that was pending keeps its age; a match that began before its pattern was forced is none (R142). -/
def agedPends (old gone new : List Pend) (born : Nat) : List Pend :=
  (new.filter fun p => !(gone.any fun q => samePattern p q && decide (p.start < q.start))).map fun p =>
    match old.find? fun q => samePattern p q with
    | some q => { p with born := q.born }
    | none => { p with born := born }

/-- Earlier records whose bytes a record has resolved go with that record's step. -/
def Gate.stamp (old new : Gate) (step : Nat) : Gate :=
  let fates (g : Gate) (i : Nat) : List Nat := (g.bytes.filter fun x => x.item == i).map (·.fate)
  let hit (i : Nat) : Bool := (new.bytes.filter fun x => x.item == i).any fun x =>
    (new.spans.drop old.spans.length).any fun y => y.lo ≤ x.pos && x.pos < y.hi
  { new with items := ((List.range new.items.length).zip new.items).map fun x =>
      if !x.2.now && (hit x.1 || fates old x.1 != fates new x.1) then { x.2 with step := step } else x.2 }

/-- One record released at the gate with verdict v (R140 to R143). -/
def Gate.take (g : Gate) (p : PolicyImg) (r : Rec) (v : Nat) : Gate :=
  let old := g
  let eff := effectOf p v
  let keep := eff == vPass || eff == vRedact
  let base := r.off
  let fin := base + r.bytes.length
  let own : List GByte := if keep then g.own r else []
  let g := g.chars r
  let g : Gate := { g with items := g.items ++ [⟨r.pos, r.token, r.policy, r.polGen, r.flags, v, true, r.step⟩], bytes := g.bytes ++ own }
  let g := r.compl.foldl (fun (g : Gate) c =>
    if c.verdict = vHold || c.verdict = vBlock then g.drop c.spanStart base c.verdict else g) g
  let live := g.bytes.filter fun x => x.fate == 0
  let g : Gate := { g with
    spans := g.spans ++ (if eff = vBlock then [] else (r.compl.filter fun c => c.verdict == vRedact).filterMap (widen live)),
    pends := agedPends g.pends g.gone r.pend r.pos,
    gone := g.gone.filter fun q => r.pend.any fun p => samePattern p q && decide (p.start < q.start) }
  let g := g.force g.pends.length base fin
  let g : Gate :=
    if eff = vBlock then { g with pends := [], bytes := g.bytes.map fun x => if x.fate = 0 then { x with fate := vBlock + 1 } else x }
    else
      let lo := holdLo g.pends fin
      { g with bytes := g.bytes.map fun x => if x.fate = 0 && x.pos < lo then { x with fate := 1 } else x }
  old.stamp g r.step

/-- Payload of an item: its freed bytes outside the spans and the replacements placed in it. -/
def itemPay (spans : List Span) : List GByte → List Byte
  | [] => []
  | x :: xs =>
    match spans.find? fun y => y.lo ≤ x.pos && x.pos < y.hi with
    | some y => (if x.fate ≤ 1 && x.pos = y.lo then y.repl else []) ++ itemPay spans xs
    | none => (if x.fate = 1 then [x.b] else []) ++ itemPay spans xs

/-- The entry of one item: its own for a record released now, else one for what has been resolved of an earlier one (R140, R141, R143). While
that record's own entry waits for the input verdict, what is freed of it joins that entry (R138). Where parts of a record resolve apart in one
beat the entry takes the worse verdict, and no bytes where that releases none (R131, log 54). Bytes of a record released now that a later
record of the beat discards are told by an entry of their own (R141). A position of bad had a check-code mismatch (R135). -/
def itemEntries (h : Nat) (bad : List Nat) (waiting : List EgEntry) (spans : List Span) (it : GItem) (bs : List GByte) : List EgEntry :=
  let pay := itemPay spans bs
  let touched := bs.any fun x => x.fate ≤ 1 && spans.any fun y => y.lo ≤ x.pos && x.pos < y.hi
  let mk (v et : Nat) (p : List Byte) : EgEntry := mkEntry h it.token it.policy it.gen it.pos v et it.flags p
  let lost := (bs.filter fun x => x.fate ≥ 2).map (fun x => x.fate - 1)
  if it.now then
    (match lost with | [] => [] | d :: ds => [mk (ds.foldl vMin d) 1 []]) ++ [mk (if touched && it.verdict = vPass then vRedact else it.verdict) 0 pay]
  else
    if !touched && pay.isEmpty && lost.isEmpty then []
    else
      let v := lost.foldl vMin (if touched then vRedact else vPass)
      if bad.contains it.pos then [mk vIndet 1 []]
      else
        match waiting.find? fun e => e.pos == it.pos && e.etype == 0 with
        | some w =>
          (if touched || !pay.isEmpty then [mk (if touched then vMin w.verdict vRedact else w.verdict) 0 (w.bytes ++ pay)] else [])
            ++ (match lost with | [] => [] | d :: ds => [mk (ds.foldl vMin d) 1 []])
        | none => [mk v 1 (if releases v then pay else [])]

/-- Entries of etype 01 first, then 00, then 10, each in ascending position (R144). -/
def orderEntries (es : List EgEntry) : List EgEntry :=
  let of (t : Nat) : List EgEntry := sortAsc (·.pos) (es.filter fun e => e.etype == t)
  of 1 ++ of 0 ++ of 2

/-- What the gate writes, each entry with its step, and what it keeps. -/
def Gate.close (g : Gate) (h : Nat) (bad : List Nat) (waiting : List EgEntry) : List (Nat × EgEntry) × List Held :=
  let spans := mergeSpans (sortAsc (·.lo) g.spans)
  let of (i : Nat) : List GByte := g.bytes.filter fun x => x.item == i
  let is := (List.range g.items.length).zip g.items
  let kept (i : Nat) : List (Nat × Byte × Bool) :=
    ((of i).filter fun x => x.fate == 0 && !(spans.any fun y => y.lo ≤ x.pos && x.pos < y.hi)).map fun x => (x.pos, x.b, x.head)
  (is.flatMap fun x => (itemEntries h bad waiting spans x.2 (of x.1)).map fun e => (x.2.step, e),
   is.filterMap fun x => if (kept x.1).isEmpty then none else some ⟨x.2.pos, x.2.token, x.2.policy, x.2.gen, x.2.flags, kept x.1⟩)
/-- Held bytes freed as PASS, at a close or an output end at a boundary (R46); those of a record whose own entry waits for the input verdict
join that entry (R138). -/
def freeHeld (h : Nat) (bad : List Nat) (waiting : List EgEntry) (hs : List Held) : List EgEntry :=
  hs.map fun x =>
    if bad.contains x.pos then mkEntry h x.token x.policy x.gen x.pos vIndet 1 x.flags []
    else
      match waiting.find? fun e => e.pos == x.pos && e.etype == 0 with
      | some w => w.as h w.verdict (w.bytes ++ x.bytes.map (·.2.1))
      | none => mkEntry h x.token x.policy x.gen x.pos vPass 1 x.flags (x.bytes.map (·.2.1))
/-- Entries that wait, with those that take the place of one of them, or come behind it (R138). -/
def joinWaiting (waiting es : List EgEntry) : List EgEntry :=
  (waiting.filter fun w => !(es.any fun e => e.pos == w.pos && e.etype == w.etype)) ++ es

/-- The stream's output verdict (R42, R43, R131). -/
def outVerdict (st : Stream) : Nat :=
  match st.inVerdict with
  | none => vIncomplete
  | some v => if v != vPass then v else combine (st.ended.toList ++ st.outRes)
/-- Its flags: those of the input verdict and of every committed record (R131). -/
def outFlagsOf (st : Stream) : Nat := st.inFlags ||| st.outFlags
/-- The entry of etype 10 with the output verdict v (R145). -/
def endEntry (st : Stream) (bad : List Nat) (v gen : Nat) : EgEntry :=
  mkEntry st.handle 0 st.policy gen st.pos (if bad.contains st.pos then vIndet else v) 2 (outFlagsOf st) []
/-- The output verdict of a stream whose output ends before or at a PASS of its input. -/
def endVerdict (st : Stream) : Nat := combine (st.ended.toList ++ st.outRes)

/-! Batches. -/

/-- Slots a section takes. -/
def sectionSlots (es : List EgEntry) : Nat := cdiv (64 + 16 * es.length + sumBy (·.bytes.length) es) 64
def batchSlots (ss : List EgSection) : Nat := 1 + sumBy (fun x => sectionSlots x.entries) ss

/-- An entry added to the last section when it is its stream's, else in a new one. -/
def addEntry : List EgSection → Nat × Nat × EgEntry → List EgSection
  | [], (h, sl, e) => [⟨h, sl, [e]⟩]
  | [x], (h, sl, e) => if x.stream = h then [{ x with entries := x.entries ++ [e] }] else [x, ⟨h, sl, [e]⟩]
  | x :: y :: ys, z => x :: addEntry (y :: ys) z

/-- Entries cut into batches of at most lim slots; all but the last carry more (R109). -/
def cutBatches (lim due step since : Nat) : List EgSection → List (Nat × Nat × EgEntry) → List Batch
  | acc, [] => if acc.isEmpty then [] else [⟨due, step, false, since, acc⟩]
  | acc, x :: xs =>
    let acc' := addEntry acc x
    if batchSlots acc' > lim && !acc.isEmpty then ⟨due, step, true, since, acc⟩ :: cutBatches lim due step since [⟨x.1, x.2.1, [x.2.2]⟩] xs
    else cutBatches lim due step since acc' xs

/-- Entries in the order of a batch: ascending sampler slot, each stream's in the order of R144. -/
def orderBatch (es : List (Nat × Nat × EgEntry)) : List (Nat × Nat × EgEntry) :=
  let hs := (sortAsc (fun x => x.2.1) es).map (fun x => x.1) |>.eraseDups
  hs.flatMap fun h =>
    let mine := es.filter fun x => x.1 == h
    let sl := (mine.head?.map (·.2.1)).getD 0
    (orderEntries (mine.map (·.2.2))).map fun e => (h, sl, e)

def hdrBytes (ws : List W64) : List Byte := wordsBytes ((ws ++ List.replicate 8 0#64).take 8)
def entryBytes (e : EgEntry) : List Byte :=
  wordsBytes [w64 [(e.pos, 0), (e.verdict, 24), (e.flags, 28), (e.bytes.length, 40), (e.etype, 56)], w64 [(e.check.toNat, 0)]]
def sectionBytes (x : EgSection) : List Byte :=
  padTo 64 0#8 (hdrBytes [w64 [(x.stream, 0), (x.slot, 32)], w64 [(x.entries.length, 0), (sumBy (·.bytes.length) x.entries, 16)]]
    ++ x.entries.flatMap entryBytes ++ x.entries.flatMap (·.bytes))

/-- A batch written at slot t of a ring: rows behind the commit word, and the commit word (Table 3-5). -/
def batchWrite (base t beat : Nat) (phase pad late : Bool) (n : Nat) (b : Batch) : List (Nat × List Byte) × (Nat × List Byte) :=
  let w0 := w64 [(beat48 b.due, 0), (b2n phase, 63)]
  let w1 := w64 [(b.step, 0), (b.sections.length, 16), (n, 32), (b2n pad, 41), (b2n late, 42), (b2n b.more, 43)]
  let rest := wordsBytes [w1, w64 [(beat48 beat, 0)], 0#64, 0#64, 0#64, 0#64, 0#64] ++ b.sections.flatMap sectionBytes
  ([(base + 64 * t + 8, rest)], (base + 64 * t, w64Bytes w0))

end Sys2Proof.Machine
end

