-- ==== Sys2Proof/Machine/Streams.lean ====
section
/-! DEFINITION. Stream commands: open, close, bind, cancel, and the boundaries at which they take effect (R83, R112, R118 to R120,
R146, R197, R206). -/

namespace Sys2Proof.Machine

/-! Opening. -/

/-- Operands of OPEN_STREAM (Table 3-6). -/
structure OpenArgs where
  tenant : Nat
  policy : Nat
  vocab : Nat
  resume : Bool
  con : Bool
  gslot : Nat
  cairn : Nat
  allowAddr : Nat
  allow : List Byte
  ridge : Option Nat
  base : Nat
  cap : Nat
  deriving DecidableEq, Repr, Inhabited

def openArgs (d : Desc) (allow : List Byte) : OpenArgs :=
  { tenant := dfld d 2 11 0, policy := dfld d 2 21 12, vocab := dfld d 2 25 22, resume := dbit d 2 26, con := dbit d 2 27,
    gslot := dfld d 2 39 32, cairn := dfld d 3 63 0, allowAddr := dfld d 4 56 0, allow := allow.take (dfld d 5 19 0),
    ridge := if dExpert d then some (dfld d 5 35 32) else none, base := dfld d 6 56 0, cap := dfld d 7 22 0 }

/-- A tenant a ring may open streams for (R339). -/
def tenantOk (s : State) (ring t : Nat) : Bool :=
  match (s.ring ring).entry with
  | some e => (s.tenant t).enabled && (e.anyTenant || e.tenant == t)
  | none => false

/-- The objects an open uses. -/
structure OpenObj where
  pslot : Nat
  pol : PolicyImg
  vslot : Nat
  voc : VocabImg
  gram : Option GrammarImg
  dict : Option DictImg
  allow : Option Mask
  deriving DecidableEq, Repr, Inhabited

/-- The grammar and dictionary a constrained open names; the tenant's ban mask must be in the dictionary, the one in force (R340) and the one
of a SET_TENANT that waits for its boundary (R185, R188, R190, log 57). -/
def openGrammar (s : State) (a : OpenArgs) : Except Nat (Option GrammarImg × Option DictImg) :=
  if !a.con then .ok (none, none)
  else
    match s.img? a.gslot with
    | some (i : Img) =>
      match i.grammar? with
      | some g =>
        match s.dictOf g with
        | some (_, _, d) =>
          let banOk := ((s.tenant a.tenant).ban.toList ++ (s.banSoon a.tenant).toList).all d.ban.contains
          if i.status ≠ 1 || !banOk then .error stNotFound else .ok (some g, some d)
        | none => .error stNotFound
      | none => .error stNotFound
    | none => .error stNotFound

/-- Objects named by an open, at their generations after the coming boundary's activations (Table 3-7, Table 3-11, R197). -/
def openObjects (s : State) (a : OpenArgs) : Except Nat OpenObj :=
  let v := s.soon
  match v.policyOf a.policy, v.activeVocab a.vocab, openGrammar v a with
  | some (ps, _, p), some (vs, voc), .ok (g, d) =>
    let cairn := AMap.get? s.cairns a.cairn
    if a.resume && cairn.isNone then .error stNotFound
    else if a.resume && (cairn.map (·.tenant)) ≠ some a.tenant then .error stState
    else if (g.map fun g => g.vocabIdx != a.vocab).getD false || (d.map fun d => d.refN != voc.nTokens || d.refEos != voc.eos).getD false then
      .error stState
    else if a.allowAddr = 0 then .ok ⟨ps, p, vs, voc, g, d, none⟩
    else if !a.con then .error stBadDesc
    else
      match decodeMask voc.nTokens a.allow with
      | some m => if m.empty then .error stBadDesc else .ok ⟨ps, p, vs, voc, g, d, some m⟩
      | none => .error stBadDesc
  | none, _, _ => .error stNotFound
  | _, none, _ => .error stNotFound
  | _, _, .error e => .error e

/-- Ridges that every expert-placed image of the open allows; none where no image is placed so (R189, Table 3-10). -/
def pinnedRidges (s : State) (a : OpenArgs) (o : OpenObj) : Option (List Nat) :=
  let ids (d : PolDir) : List (Option (Nat × Img)) := d.heads.map (s.activeOf 6) ++ d.ens.map (s.activeOf 7) ++ d.autos.map (s.activeOf 5)
  let imgs := (ids o.pol.inDir ++ ids o.pol.outDir ++ [s.img? o.vslot |>.map fun i => (o.vslot, i)]
    ++ (if a.con then [s.img? a.gslot |>.map fun i => (a.gslot, i)] else [])).filterMap id
  imgs.foldl (fun (acc : Option (List Nat)) x =>
    match x.2.pinned, acc with
    | some ps, some rs => some (rs.filter ps.contains)
    | some ps, none => some ps
    | none, _ => acc) none

/-- Slots of 66,560 bytes in the allow-list region (Table 10-1). -/
def allowSlots (s : State) : Nat := (s.region 3).2 / 66560
def freeAllow (s : State) : Option Nat := (List.range (allowSlots s)).find? fun k => !s.stack.allowUsed.contains k
/-- Bytes of allow lists pinned on a ridge (R191). Room is counted in bytes, as R191 gives it; each list also takes a mask-cache tile of its
own, of which the model sets no bound (DESIGN CHOICE, log 65). -/
def pinnedAllow (s : State) (r : Nat) : Nat :=
  sumBy (fun st => if st.ridge = r && st.allowPinned then 8 * st.allowWords else 0) s.openStreams

/-- The admission checks of Table 2-5 in order, on the stream the open would make: with the bindings and ban masks in force (R340), and under
every generation, binding and ban mask accepted before it (R83, log 57). -/
def openAdmit (s : State) (rc : Nat) (a : OpenArgs) (o : OpenObj) (ridge : Option Nat) (pinned : Bool) : Option Nat :=
  let lat := s.latBound rc
  let polIn (v : State) : PolicyImg := ((v.policyOf a.policy).map (·.2.2)).getD o.pol
  let new (v : State) : Adm :=
    { pol := polIn v, k := s.maxDraft rc, rc := rc, ridge := ridge.getD 0, con := a.con,
      m := if (o.gram.map (fun g => g.allPinned)).getD true && (o.allow.isNone || pinned) then 0 else 1,
      worst := match o.gram with
        | some g => worstMask o.voc.nTokens g o.allow (o.dict.bind fun d => (v.tenant a.tenant).ban.map (dictMask d))
        | none => 0,
      deadline := s.maskDeadline rc }
  let vs := (s.soon :: s.viewsFrom s.nextB).map fun v => (v, v.adms ++ [new v])
  if lat = 0 || vs.any (fun x => decide (s.dRangeOf (s.delayOf (polIn x.1)) + 1 > lat)) then some stLatency
  else if ridge.isNone || vs.any (fun x => !x.1.fitsItems x.2 || !x.1.fitsStack x.2) || (o.allow.isSome && (freeAllow s).isNone) then some stCapacity
  else if 2 ≤ s.gov.steps then some stCapacity
  else if s.drawClass a.tenant = 3 then some stBudget
  else if a.con && vs.any (fun x => !x.1.fitsDeadlines x.2) then some stDeadline
  else none

/-- A stream as it stands before its opening boundary. Where B_rt has risen since its policy was activated, its D is that of the raised B_rt:
R61 and R65 against R70 leave it open, so this is the model's choice (DESIGN CHOICE, log 57). -/
def newStream (s : State) (h ring rc ridge klass id : Nat) (a : OpenArgs) (o : OpenObj) (allowSlot : Option Nat) (pinned : Bool) : Stream :=
  let g := o.gram.map Gram.start
  { handle := h, ring := ring, rc := rc, tenant := a.tenant, policy := a.policy, vocab := o.vslot,
    grammar := if a.con then some a.gslot else none, ridge := ridge, klass := klass, phase := .opening, slot := none, lastSlot := 0,
    pos := 0, p0 := 0, dMin := s.delayOf o.pol, brt := s.stack.brt, allow := o.allow, allowPinned := pinned, allowBad := false, allowTorn := none, allowSlot := allowSlot,
    allowWords := cdiv a.allow.length 8, opened := (s.beat, id), tokBase := a.base,
    tokCap := a.cap, tokIdx := 0, carry := [], eoi := false, stoppedTok := false, ingested := false, jobs := [], toks := [],
    chunkNo := 0, passed := [], inRes := [], inFlags := 0, inDeltas := [], lastMade := false, lastChunk := none, spans := [], inVerdict := none,
    inCtx := freshCtx s.soon o.pol o.pol.inDir none, ctx := freshCtx s.soon o.pol o.pol.outDir g, accNew := none, nodes := [], base := none, spanBase := 0,
    step := none, lastClosed := none, held := [], pends := [], forced := [], gateTail := [], waiting := [], outRes := [], outFlags := 0, ended := none, tail := false,
    e10 := false, nextFlags := 0, charged := 0, closing := none, gen := 1, wbOpen := false, mirrorGen := 0, tornRun := 0, tornAt := 0, lost := false,
    lastBatch := none }

/-- The stack traffic of an allow-list copy: 65 rows per TILE_WRITE. -/
def copyAllow (cmd off : Nat) : Nat → List Byte → State → State
  | 0, _, s => s
  | n + 1, bs, s => copyAllow cmd (off + 4160) n (bs.drop 4160) (s.firm 2 (.allow cmd) [w64 [(off, 0)]] (padTo 4160 0#8 (bs.take 4160)) 0)

/-- The open completes: the stream is open from the next boundary (Table 3-7). -/
def State.opened (s : State) (c : Cmd) (h : Nat) : State :=
  (s.finish c { status := stOK, stream := h }).at s.nextB (.openS h 0)

/-- Loads of both locations of a cairn pair (R228). -/
def loadCairn (s : State) (cmd : Nat) (k : Cairn) : State :=
  (s.firm 8 (.cairnLoad cmd 0) [w64 [(cairnOff s k.pair 0, 0)]] [] 8).firm 8 (.cairnLoad cmd 1) [w64 [(cairnOff s k.pair 1, 0)]] [] 8

/-- OPEN_STREAM once its checks have passed. -/
def openStart (s : State) (c : Cmd) (a : OpenArgs) (o : OpenObj) (rc ridge : Nat) (pinned : Bool) : State :=
  let free := freeIdx s ridge
  let (k, s) := s.pick free.length
  let idx := free.getD k 0
  let seq := (AMap.getD s.opens idx 0 + 1) % 2 ^ 18
  let h := idx + seq * 2 ^ 14
  let slot := if o.allow.isSome then freeAllow s else none
  let st := newStream s h c.ring rc ridge (s.drawClass a.tenant) c.id a o slot pinned
  let s := { s with
    opens := AMap.set s.opens idx seq, streams := AMap.set s.streams idx st,
    stack := { s.stack with allowUsed := s.stack.allowUsed ++ slot.toList } }
  let n := match slot with | some _ => cdiv a.allow.length 4160 | none => 0
  let s := if pinned then s.dynWrite (.allowList h) a.allow else s
  let cairn := if a.resume then AMap.get? s.cairns a.cairn else none
  if n = 0 && cairn.isNone then s.opened c h
  else
    let s := s.keep c (.openS h (if a.resume then some a.cairn else none) (n + if cairn.isSome then 2 else 0) [] 0)
    let s := match slot with | some k => copyAllow c.id (allowOff s k) n a.allow s | none => s
    match cairn with | some k => loadCairn s c.id k | none => s

/-- OPEN_STREAM after the shared checks. -/
def openBody (d : Desc) (allow : List Byte) (s : State) (c : Cmd) : State :=
  let a := openArgs d allow
  if !tenantOk s c.ring a.tenant then s.finish c { status := stBadTenant }
  else if a.allowAddr ≠ 0 && allow.length < dfld d 5 19 0 then s.haltRing c.ring a.allowAddr
  else
    match openObjects s a with
    | .error e => s.finish c { status := e }
    | .ok o =>
      let rc := ((s.ring c.ring).entry.map (·.rclass)).getD 0
      let cand := ridgeCand s (s.maxDraft rc) a.ridge (pinnedRidges s a o)
      let (k, s) := s.pick cand.length
      let ridge := cand[k]?
      let pinned := o.allow.isSome && a.allow.length ≤ 4096 && pinnedAllow s (ridge.getD 0) + a.allow.length ≤ 256 * 1024
      match openAdmit s rc a o ridge pinned with
      | some e => s.finish c { status := e }
      | none => openStart s c a o rc (ridge.getD 0) pinned

def execOpenStream (d : Desc) (allow : List Byte) (s : State) : Host.Outcome State Fault Refusal :=
  .next (runDesc s d (d.opcode == 0x01) (openBody d allow))

/-! Closing. -/

/-- A stream's records that are not stamped. -/
def unstamped (h : Nat) (r : Rec) : Bool := r.h == h && r.stamp.isNone
/-- Masks of discarded nodes that no word is written of are dropped (R220). -/
def State.dropMasks (s : State) (h : Nat) (gone : List Nat) : State :=
  { s with masks := s.masks.filter fun m => !(m.h == h && !m.taken && !m.begun && (m.rid.map gone.contains).getD false) }
/-- Draft records, node states and unwritten masks of one step of a stream, or of every step, are dropped: the switchback of R220. -/
def State.switchback (s : State) (h : Nat) (step : Option Nat) : State :=
  let here (k : Nat) : Bool := step.isNone || step == some k
  let gone := ((s.stream? h).map fun st => (st.nodes.filter fun x => here x.2.step).map (·.1)).getD []
  let n := gone.length
  let s := { s with recs := s.recs.filter fun r => !(r.h == h && r.kind == RecK.draft && here r.step) }
  let s := ((s.count 45 (b2n (n != 0))).count 46 n).dropMasks h gone
  s.setStream h fun st =>
    let left := st.nodes.filter fun x => !here x.2.step
    { st with nodes := left, base := if left.isEmpty then none else st.base }

/-- The close boundary: intake ends, the open chunk and unstamped records are dropped, but for a chunk completed before it (R178), and an
open step closes without a fault. -/
def State.closeAt (s : State) (h cmd : Nat) : State :=
  let s := { s with recs := s.recs.filter fun (r : Rec) => r.kind == RecK.chunk || !unstamped h r }
  let s := s.switchback h none
  s.setStream h fun st => { st with
    phase := .closing, closing := some cmd, toks := [], parts := [], jobs := [], carry := [], step := none,
    lastClosed := match st.step with | some p => some p.seq | none => st.lastClosed }

def closeBody (_ : Desc) (s : State) (c : Cmd) : State :=
  (s.keep c (.closeS c.stream)).at s.nextB (.closeS c.stream)
def execCloseStream (d : Desc) (s : State) : Host.Outcome State Fault Refusal :=
  .next (runDesc s d (d.opcode == 0x02) (closeBody d))

/-- The running close command of a stream. -/
def closeCmd (s : State) (h : Nat) : Nat :=
  ((s.cmds.find? fun c => c.k == .closeS h).map (·.id)).getD 0

/-! Slots. -/

/-- Records, frames, masks or node states of a stream in flight (Table 3-7, Tables 4-10, 6-10, 7-2). -/
def slotBusy (s : State) (st : Stream) : Bool :=
  (s.recs.any fun r => r.h == st.handle && r.kind != .chunk && r.kind != .span) || (s.masks.any fun m => m.h == st.handle)
    || !st.nodes.isEmpty || (st.slot.map fun k => s.port.early.any fun e => e.1 == k).getD false

/-- A slot bound to, or about to be bound to, another stream. -/
def slotTaken (s : State) (slot h : Nat) : Bool :=
  (s.openStreams.any fun x => x.slot == some slot && x.handle != h)
    || s.sched.any fun e => match e.eff with | .bindS x sl _ => sl == some slot && x != h | _ => false

def bindOk (st : Stream) : Bool := st.phase == .inputOpen || st.phase == .answering || st.phase == .outputEnded

/-- BIND_SLOT without unbind. -/
def bindBody (d : Desc) (s : State) (c : Cmd) : State :=
  let slot := dfld d 2 13 0
  match s.stream? c.stream with
  | none => s.finish c { status := stBadStream }
  | some st =>
    if !bindOk st || slotTaken s slot st.handle || (st.slot.isSome && slotBusy s st) then s.finish c { status := stState }
    else if st.grammar.isSome && !s.fitsDeadlines s.adms then s.finish c { status := stDeadline }
    else (s.keep c (.bindS st.handle)).at s.nextB (.bindS st.handle (some slot) c.id)

/-- BIND_SLOT with unbind. -/
def unbindBody (_ : Desc) (s : State) (c : Cmd) : State :=
  match s.stream? c.stream with
  | none => s.finish c { status := stBadStream }
  | some st =>
    if !bindOk st || slotBusy s st then s.finish c { status := stState }
    else (s.keep c (.bindS st.handle)).at s.nextB (.bindS st.handle none c.id)

def execBindSlot (d : Desc) (s : State) : Host.Outcome State Fault Refusal :=
  .next (runDesc s d (d.opcode == 0x04 && !dbit d 2 16) (bindBody d))
def execUnbindSlot (d : Desc) (s : State) : Host.Outcome State Fault Refusal :=
  .next (runDesc s d (d.opcode == 0x04 && dbit d 2 16) (unbindBody d))

/-! Cancelling. -/

def cancelBody (_ : Desc) (s : State) (c : Cmd) : State :=
  (s.keep c (.cancelC c.stream)).askCancel c.stream vCancelled 0 false
def execCancel (d : Desc) (s : State) : Host.Outcome State Fault Refusal :=
  .next (runDesc s d (d.opcode == 0x05) (cancelBody d))

/-- Commands of a stream at its cancel: a CANCEL completes OK, every other BAD_STREAM (Table 3-11, R146). -/
def endCmd (s : State) (c : Cmd) : State :=
  match c.k with
  | .cancelC _ => s.finish c { status := stOK, verdict := vCancelled }
  | _ => s.abort c stBadStream

/-- A cancel of a stream at its boundary; the beat that starts there is the cancel beat (R146, R203). -/
def State.cancelAt (s : State) (st : Stream) (code flags : Nat) (event : Bool) : State :=
  let h := st.handle
  let s := { s with
    recs := s.recs.filter (fun r => r.h != h), masks := s.masks.filter (fun m => m.h != h || m.begun),
    port := { s.port with early := s.port.early.filter fun e => st.slot != some e.1 },
    stack := { s.stack with allowUsed := s.stack.allowUsed.filter fun k => st.allowSlot != some k } }
  let s := s.setRing st.ring fun r => { r with
    acc := r.acc.map (fun (x : Nat × (Nat × List (Nat × Nat × EgEntry))) => (x.1, x.2.1, x.2.2.filter fun e => !(e.1 == h && e.2.2.etype == 2))),
    loose := r.loose.filter (fun e => !(e.1 == h && e.2.2.etype == 2)),
    waited := r.waited.filter (fun e => !(e.1 == h && e.2.2.etype == 2)), next := r.next.filter fun e => e.1 != h }
  let s := (s.cmds.filter fun c => c.stream == h && namesStream c.opcode).foldl endCmd s
  let s := s.setStream h fun x => { x with phase := .closed, slot := none, held := [], pends := [], waiting := [], nodes := [], jobs := [] }
  if event then (s.postVerdict st 3 code flags s.nextB 0 st.charged []).count 109 1 else s

/-- The cancels of a stream that are due: an asked cancel wins over a FAIL_STREAM end (Table 6-10), which waits while the determining record
is unreleased (R203). -/
def State.takeCancel (s : State) (h : Nat) : State :=
  let asked (e : Eff) : Bool := match e with | .cancel x c _ _ => x == h && c == vCancelled | _ => false
  let any (e : Eff) : Bool := match e with | .cancel x _ _ _ => x == h | _ => false
  match (s.takeEff asked).orElse fun _ => s.takeEff any with
  | some (.cancel _ code flags event, s) =>
    let s := { s with sched := s.sched.filter fun e => !any e.eff }
    if code = vBlock && s.recs.any fun r => r.h == h && r.kind == .committed && hasFlag r.flags fGramDead then
      s.at (beatAdd s.nextB 1) (.cancel h code flags event)
    else
    match s.stream? h with | some st => s.cancelAt st code flags event | none => s
  | _ => s
def execCancelTakesEffect (h : W32) (s : State) : Host.Outcome State Fault Refusal := .next (s.takeCancel h.toNat)

end Sys2Proof.Machine
end

