-- ==== Sys2Proof/Machine/Intake.lean ====
section
/-! DEFINITION. Intake of request bytes: INGEST, its buffer reads, tokens, chunks and the token buffer (R149 to R173, R262). -/

namespace Sys2Proof.Machine

/-- Parts of a buffer between 4 KiB boundaries (R473). -/
def ingestParts (addr len : Nat) : Nat := if len = 0 then 0 else cdiv (addr % 4096 + len) 4096
/-- First byte and byte count of part k. -/
def ingestPart (addr len k : Nat) : Nat × Nat :=
  let a := if k = 0 then addr else (addr / 4096 + k) * 4096
  (a, min (addr + len) ((a / 4096 + 1) * 4096) - a)

/-- One part asked for: the 64-byte rows that hold it, at the ring's attribute (R150). -/
def askPart (s : State) (ring h cmd addr len k : Nat) : State :=
  let (a, n) := ingestPart addr len k
  let attr := ((s.ring ring).entry.map (·.attr)).getD 0
  s.read (.ingest ring h cmd k) (a / 64 * 64) (cdiv (a % 64 + n) 64) attr

/-- Bytes are still consumed: the stream takes input, or its output has ended and nothing more is screened (R120). -/
def inputTaken (st : Stream) : Bool := st.phase == .inputOpen || st.phase == .outputEnded

/-- Stop of a stream's tokenizing: nothing more is taken, the open chunk is dropped (R173, Table 5-5). -/
def stopTok (st : Stream) : Stream :=
  { st with stoppedTok := true, toks := st.toks.take (st.toks.length / 4096 * 4096) }

def setJob (s : State) (h cmd : Nat) (f : Ingest → Ingest) : State :=
  s.setStream h fun st => { st with jobs := st.jobs.map fun j => if j.cmd = cmd then f j else j }

/-- Once tokenizing has stopped, jobs not yet begun complete REFUSED_STATE (R173). -/
def refuseRest (s : State) (h : Nat) : State :=
  match s.stream? h with
  | some st =>
    if st.stoppedTok then
      (st.jobs.filter fun j => !j.ready).foldl (fun s j => match s.cmd? j.cmd with | some c => s.abort c stState | none => s) s
    else s
  | none => s

/-- Parts of a buffer from one on that have arrived with none missing before them. -/
def partsFrom (got : AMap (List Byte)) : Nat → Nat → List Byte
  | 0, _ => []
  | f + 1, k => match AMap.get? got k with | some bs => bs ++ partsFrom got f (k + 1) | none => []
/-- The bytes of a job that have arrived in order. -/
def jobBytes (j : Ingest) : List Byte := (partsFrom j.got (ingestParts j.addr j.len) 0).take j.len

/-- Slots of the active policies and pattern sets. -/
def State.activeGens (s : State) : List Nat :=
  (s.images.filter fun (x : Nat × Img) => x.2.status == 1 && (x.2.hdr.kind == 4 || x.2.hdr.kind == 10)).map (·.1)
/-- The machine with the generations that a chunk under way searches (Table 8-8). -/
def State.viewGen (s : State) (g : List Nat) : State :=
  { s with images := s.images.map fun (x : Nat × Img) =>
      if x.2.hdr.kind == 4 || x.2.hdr.kind == 10 then
        (x.1, { x.2 with status := if g.contains x.1 then 1 else if x.2.status = 1 then 0 else x.2.status })
      else x }
/-- The stream's policy as a chunk under way has it: image slot, generation, policy. -/
def chunkPol (s : State) (st : Stream) (k : Nat) : State × Nat × Nat × PolicyImg :=
  let v := match AMap.get? st.parts k with | some c => s.viewGen c.gens | none => s
  match v.policyOf st.policy with | some (slot, i, p) => (v, slot, i.hdr.gen, p) | none => (v, 0, 0, default)
/-- A token produced joins the open chunk; while input is open it is searched as the store then stands (R37, R151, R170, R247, R251). -/
def State.takeTok (s : State) (h : Nat) (t : TokOut) : State :=
  match s.stream? h with
  | none => s
  | some st =>
    let n := st.tokIdx + st.toks.length
    let st := if n % 4096 = 0 then { st with parts := AMap.set st.parts (n / 4096) ⟨s.activeGens, [], 0, [], s.beat, [], false⟩ } else st
    let (v, _, _, p) := chunkPol s st (n / 4096)
    let (f, c) := if st.phase = .inputOpen then screenInput v st.tenant p st.inCtx n t else (Found.none, st.inCtx)
    (s.searchFinds f.falseHits f.lost).setStream h fun x => { x with
      toks := x.toks ++ [t], inCtx := c
      parts := AMap.modify st.parts (n / 4096) fun q => { q with results := q.results ++ f.results, flags := q.flags ||| f.flags, at_ := s.beat } }

/-- Token words, in whole rows; words that are no tokens stand at the end of the last chunk (R170, R172). -/
def chunkRows (ts : List TokOut) : List Byte :=
  padTo 64 0xFF#8 (ts.flatMap fun t => natToBytes 4 (t.id + (if t.inv then 2 ^ 31 else 0)))
/-- The rows of the token buffer from token a of the stream's input up to token b, written; the write belongs to the chunk that holds a. -/
def State.writeToks (s : State) (h a b : Nat) : State :=
  match s.stream? h with
  | none => s
  | some st =>
    let ts := (st.toks.drop (a - st.tokIdx)).take (b - a)
    if ts.isEmpty then s
    else
      let attr := ((s.ring st.ring).entry.map (·.attr)).getD 0
      let (j, s) := s.write (.tokens st.ring) attr [(st.tokBase + 4 * a, chunkRows ts)] none []
      s.setStream h fun x => { x with parts := AMap.modify x.parts (a / 4096) fun q => { q with jobs := q.jobs ++ [j] } }
/-- The rows that tokens a up to b have filled, chunk by chunk: a row is written once its 16 words are produced (R170, R172; the model's
choice, log 56). -/
def State.writeRowsOf (s : State) (h a b : Nat) : State :=
  let lo := a / 16 * 16
  let hi := b / 16 * 16
  (List.range (cdiv hi 4096)).foldl (fun s k => if lo < 4096 * (k + 1) then s.writeToks h (max lo (4096 * k)) (min hi (4096 * (k + 1))) else s) s

/-- The tokens of a job's next segment appended to the stream's, up to the token buffer's capacity; the last one ends the job (R151, R167 to
R173). The carry before a buffer was consumed with the buffer it came from. When output has ended, the bytes still become tokens whose words
are written, searched by nothing and in no chunk: R120 leaves it open, so this is the model's choice (DESIGN CHOICE, log 18). -/
def segDone (s : State) (st : Stream) (j : Ingest) (ps : List PreTok) (last : Bool) (carry : List Byte) : State :=
  let ts := ps.flatMap (preTokOuts (s.vocabOf st))
  let a := st.tokIdx + st.toks.length
  let full := st.tokCap - a < ts.length
  let toks := ts.take (st.tokCap - a)
  let kept := j.consumed + (sumBy (·.bytes.length) toks - if j.did = 0 then st.carry.length else 0)
  let consumed := if full then min j.len kept else j.len
  let s := ((s.count 0 (if last || full then consumed else 0)).count 1 toks.length).count 2 (toks.filter (·.inv)).length
  let s := (toks.foldl (fun s t => s.takeTok st.handle t) s).writeRowsOf st.handle a (a + toks.length)
  let s := if full then s.setStream st.handle fun x => { stopTok x with carry := [] }
    else if last then s.setStream st.handle fun x => { x with carry := carry } else s
  let s := setJob s st.handle j.cmd fun j =>
    if full || last then { j with ready := true, full := full, consumed := consumed, posAfter := st.p0 + a + toks.length }
    else { j with did := j.did + ps.length, consumed := kept }
  refuseRest s st.handle

/-- Tiles of a vocabulary's encode part: it is taken to fill the image's first tiles (log 56). -/
def encodeTiles (v : VocabImg) : Nat := cdiv v.encodeBytes 4096

/-- In streamed mode a segment may need an encode tile that its unit's cache does not hold; which tile on which unit is a free choice. A tile
that the cache holds becomes the one most recently used (R156, log 4). -/
def needTile (s : State) (st : Stream) : Option (Nat × Nat) × State :=
  let n := encodeTiles (s.vocabOf st)
  if !s.streamed then (none, s)
  else
    let us := (List.range s.tokUnits).filter fun u => !s.integ.unitsOut.contains (3, u)
    let (x, s) := s.pick us.length
    let u := us.getD x 0
    let (k, s) := s.pick (n + 1)
    let held := AMap.getD s.tokCache u []
    if k = n then (none, s)
    else if held.contains (st.vocab, k) then
      (none, { s with tokCache := AMap.set s.tokCache u ((st.vocab, k) :: held.filter fun x => x != (st.vocab, k)) })
    else (some (u, k), s)

/-- What the beat's plan leaves for an encode tile's read on the channel it would take (R332, R335). -/
def intakeRoom (s : State) (off : Nat) : Bool := canIssue s .intake (.encode 0 0 0 0) 1 off 1 65
/-- Tokenizing of a stream stops at a job whose encode tile cannot come (R156, R173, R325, R327). -/
def State.stopJob (s : State) (h : Nat) (j : Ingest) (status : Nat) : State :=
  let s := s.setStream h stopTok
  refuseRest (match s.cmd? j.cmd with | some c => s.abort c status | none => s) h
/-- The head job of a stream goes on, segment by segment, as far as its bytes are in: a tile is fetched or a segment's tokens are produced
(R151, R156). -/
def State.runJobs : Nat → Nat → State → State
  | 0, _, s => s
  | f + 1, h, s =>
    match s.stream? h with
    | none => s
    | some st =>
      match st.jobs.find? fun j => !j.ready with
      | none => s
      | some j =>
        let (all, carry) := preToks (s.vocabOf st) st.carry (jobBytes j) (j.reads == 0) j.final
        let ps := all.drop j.did
        let seg := segPre 0 ps
        if j.miss || st.stoppedTok || !inputTaken st || (j.reads ≠ 0 && seg.isNone) then s
        else
          match if ps.isEmpty then (none, s) else needTile s st with
          | (some (u, k), t) =>
            if ((s.img? st.vocab).map (·.masterLost)).getD true then t.stopJob h j stInternal
            else if !intakeRoom t (tileOff t st.vocab k) then s
            else
              let s := ((t.count 14 1).issue .intake 1 (.encode u st.vocab k h) [w64 [(tileOff t st.vocab k, 0)]] [] 65).2
              setJob s h j.cmd fun j => { j with miss := true }
          | (none, s) =>
            let n := seg.getD ps.length
            State.runJobs f h (segDone s st j (ps.take n) (n = ps.length && j.reads = 0) carry)
/-- Jobs of a stream, as far as they go: no segment but a buffer's last is shorter than 512 bytes. -/
def State.runStream (s : State) (h : Nat) : State := s.runJobs (((s.stream? h).map fun st => sumBy (fun j => j.len / 512 + 2) st.jobs).getD 0) h

/-- INGEST after the shared checks. -/
def ingestBody (d : Desc) (s : State) (c : Cmd) : State :=
  let addr := dfld d 2 56 0
  let len := dfld d 3 25 0
  let fin := dbit d 3 32
  match s.stream? c.stream with
  | none => s.finish c { status := stBadStream }
  | some st =>
    if st.eoi || st.stoppedTok || !inputTaken st || !s.isFirst then s.finish c { status := stState }
    else
      let n := ingestParts addr len
      let j : Ingest := { cmd := c.id, addr := addr, len := len, final := fin, got := [], reads := n, did := 0, miss := false, ready := false,
                          full := false, consumed := 0 }
      let s := (s.keep c (.ingest st.handle)).setStream st.handle fun x => { x with jobs := x.jobs ++ [j], eoi := fin, ingested := true }
      let s := (List.range (min n 8)).foldl (fun s k => askPart s c.ring st.handle c.id addr len k) s
      s.runStream st.handle
def execIngest (d : Desc) (s : State) : Host.Outcome State Fault Refusal :=
  .next (runDesc s d (d.opcode == 0x03) (ingestBody d))

/-- A part of a buffer arrives; the next one is asked for. -/
def State.ingestData (s : State) (ring h cmd part : Nat) (data : List Byte) : State :=
  match (s.stream? h).bind fun st => st.jobs.find? fun j => j.cmd == cmd with
  | none => s
  | some j =>
    let (a, n) := ingestPart j.addr j.len part
    let s := setJob s h cmd fun j => { j with got := AMap.set j.got part (sliceB data (a % 64) n), reads := j.reads - 1 }
    let s := if part + 8 < ingestParts j.addr j.len then askPart s ring h cmd j.addr j.len (part + 8) else s
    s.runStream h

/-- An INGEST whose bytes are all consumed completes; the jobs behind it go on (R112, R173). -/
def State.ingestDone (s : State) (h : Nat) : State :=
  match s.stream? h with
  | none => s
  | some st =>
    match st.jobs with
    | j :: js =>
      if !j.ready || cancelDue s h then s
      else
        let s := s.setStream h fun x => { x with jobs := js }
        let s := match s.cmd? j.cmd with
          | some c => s.finish c { status := if j.full then stCapacity else stOK, resA := j.consumed, pos := j.posAfter }
          | none => s
        s.runStream h
    | [] => s
def execIngestComplete (h : W32) (s : State) : Host.Outcome State Fault Refusal :=
  .next (if s.complete then s.ingestDone h.toNat else s)

/-! Chunks. -/

/-- Tokens of the chunk whose last token is produced now: 4,096, or what remains at the end of input (R171). -/
def chunkReady (st : Stream) : Option (Nat × Bool) :=
  let allIn := st.eoi && !st.stoppedTok && st.jobs.all (·.ready)
  if st.phase ≠ .inputOpen || st.lastMade then none
  else if st.toks.length < 4096 then (if allIn then some (st.toks.length, true) else none)
  else some (4096, allIn && st.toks.length == 4096)

def Rec.blank : Rec :=
  { id := 0, h := 0, kind := .committed, slot := 0, step := 0, node := 0, parent := 0, token := 0, n := 0, feats := none,
    needFrame := false, arrived := false, arriveBeat := 0, stamp := none, rel := 0, brt := 0, sealBy := 0, pos := 0, polSlot := 0, polGen := 0, policy := 0,
    pd := none, td := none, ban := none, draw := 4, fits := true, shed := 0, bytes := [], models := [], results := [], flags := 0,
    compl := [], pend := [], off := 0, screened := false, waitTile := [], torn := false, tornN := 0, tornAt := 0, ext := false, redo := none, deadFound := false, spec := false,
    sealed := false, verdict := 0, maskDone := false, released := false, rows := [], path := [] }

/-- The chunk arrives as a record, once the writes of its words are under way; where a tile or the stream's record has failed, its work is to be
repeated (R402); one that would take the position past 4,194,304 is discarded
and ends the output (R58, R147, R171, R172). -/
def State.chunkDone (s : State) (h : Nat) : State :=
  match s.stream? h with
  | none => s
  | some st =>
    match chunkReady st with
    | none => s
    | some (n, last) =>
      if st.pos + n > 4194304 then (s.setStream h fun x => { stopTok x with toks := [] }).at s.nextB (.endOutput h vIncomplete)
      else
        let s := if n % 16 = 0 then s else s.writeToks h (st.tokIdx + n / 16 * 16) (st.tokIdx + n)
        let st := (s.stream? h).getD st
        let q := AMap.getD st.parts (st.tokIdx / 4096) ⟨s.activeGens, [], 0, [], s.beat, [], false⟩
        let (v, slot, gen, p) := chunkPol s st (st.tokIdx / 4096)
        let (rs, fl, ks) := chunkTiles v st p
        let ks := (ks ++ q.waits).eraseDups
        let (id, s) := s.fresh
        let r : Rec := { Rec.blank with
          id := id, h := h, kind := .chunk, token := st.chunkNo, n := n, step := b2n last, arrived := true, arriveBeat := s.beat,
          polSlot := slot, polGen := gen, policy := st.policy, results := q.results ++ rs, flags := q.flags ||| fl, waitTile := ks,
          pos := st.p0 + st.tokIdx + n, off := st.tokBase + 4 * st.tokIdx, screened := ks.isEmpty && !q.torn, torn := q.torn,
          tornAt := st.tornAt, ext := q.torn || !ks.isEmpty, rows := q.jobs }
        let s := { s with recs := s.recs ++ [r] }
        s.setStream h fun x => { x with
          toks := x.toks.drop n, parts := AMap.erase x.parts (st.tokIdx / 4096), tokIdx := x.tokIdx + n, chunkNo := x.chunkNo + 1,
          lastMade := last, pos := x.pos + n }
def execChunkComplete (h : W32) (s : State) : Host.Outcome State Fault Refusal :=
  .next (if s.complete then s.chunkDone h.toNat else s)

end Sys2Proof.Machine
end

