-- ==== Sys2Proof/Machine/Port.lean ====
section
/-! DEFINITION. Records on the feature-and-token in port: acceptance, steps, frames and slot faults (R121 to R128, R210, R211, R481,
R482). -/

namespace Sys2Proof.Machine

def tkToken (w : W64) : Nat := fld w 18 0
def tkSlot (w : W64) : Nat := fld w 32 19
def tkKind (w : W64) : Nat := fld w 35 33
def tkNode (w : W64) : Nat := fld w 41 36
def tkParent (w : W64) : Nat := fld w 47 42
def tkStep (w : W64) : Nat := fld w 63 48

/-- Step sequence a comes after b, modulo 2^16 within a window of 2^15 (R126). -/
def stepAfter (a b : Nat) : Bool := let d := (a + 65536 - b) % 65536; 0 < d && d < 32768

/-- The port takes transfers: after the start and in safe mode, where no slot is bound, while no stop holds (R481, Table 16-2). -/
def State.portOpen (s : State) : Bool := s.running

/-- A slot fault: counted; the stream's output ends INCOMPLETE at the next boundary (R128). -/
def State.slotFault (s : State) (st : Stream) : State :=
  let s := s.count 10 1
  if st.phase = .inputOpen || st.phase = .answering then s.at s.nextB (.endOutput st.handle vIncomplete) else s

/-- A field Table 4-3 gives as 0 is not 0, or a token id or count is out of range. -/
def badFields (voc : VocabImg) (k : Nat) (w : W64) : Bool :=
  match k with
  | 0 => tkNode w != 0 || tkParent w != 0 || tkToken w ≥ voc.nTokens
  | 1 => tkToken w ≥ voc.nTokens
  | 2 => fld w 18 7 != 0 || tkParent w != 0 || fld w 6 0 > 64
  | _ => tkToken w != 0 || tkNode w != 0 || tkParent w != 0

/-- Depth of a node from the parents received in a step (R210). -/
def nodeDepth (nodes : List (Nat × Nat)) : Nat → Nat → Nat
  | 0, _ => 0
  | f + 1, n =>
    match nodes.find? fun x => x.1 == n with
    | some (_, p) => if p = n then 1 else 1 + nodeDepth nodes f p
    | none => 0

/-- The conditions of R127, R210, R211 on a record of an open part. -/
def partFault (p : StepPart) (maxDraft k : Nat) (w : W64) : Bool :=
  let has (n : Nat) : Bool := p.nodes.any fun x => x.1 == n
  match k with
  | 0 => p.committed || (!p.nodes.isEmpty && p.marker.isNone)
  | 1 => p.committed || p.marker.isSome || has (tkNode w) || tkNode w ≥ maxDraft || !(tkParent w == tkNode w || has (tkParent w))
  | 2 =>
    let n := fld w 6 0
    p.committed || p.marker.isSome
      || (if n = 0 then tkNode w != 0 else !has (tkNode w) || nodeDepth p.nodes 65 (tkNode w) != n)
  | _ => false

/-- A part after it takes a record. -/
def StepPart.take (p : StepPart) (k : Nat) (w : W64) : StepPart :=
  match k with
  | 0 => { p with committed := true }
  | 1 => { p with nodes := p.nodes ++ [(tkNode w, tkParent w)] }
  | 2 => { p with marker := some (fld w 6 0, tkNode w) }
  | _ => p

/-- A switchback's place among the slot's records: an accept marker of count 0 (R220). -/
def switchRec (id h slot step beat : Nat) : Rec :=
  { Rec.blank with id := id, h := h, kind := .marker, slot := slot, step := step, arrived := true, arriveBeat := beat }

/-- A slot's part of a step closes; drafts without a marker are switched back (R126, R220). -/
def State.closePart (s : State) (h slot : Nat) (p : StepPart) : State :=
  let s := s.setStream h fun st => { st with step := none, lastClosed := some p.seq }
  let s := { s with port := { s.port with early := s.port.early.filter fun e => !(e.1 == slot && e.2.1 == p.seq) } }
  if !p.nodes.isEmpty && p.marker.isNone then
    let (id, s) := s.fresh
    { s with recs := s.recs ++ [switchRec id h slot p.seq s.beat] }
  else s

/-- The frame that came before its token. -/
def earlyFrame (s : State) (slot step key : Nat) : Option Feats :=
  (s.port.early.find? fun e => e.1 == slot && e.2.1 == step && e.2.2.1 == key).map (·.2.2.2)
/-- Key of a frame among a slot's frames of a step: use 00, or the node of use 10. -/
def frameKey (k node : Nat) : Nat := if k = 1 then 64 + node else 0

/-- The screening record of an accepted port record. -/
def portRec (s : State) (st : Stream) (k id : Nat) (w : W64) (retry : Bool) : Rec :=
  let tok := k == 0 || k == 1
  let need := tok && (s.streamPol st).tokCount != 0
  let fr := if need then earlyFrame s (tkSlot w) (tkStep w) (frameKey k (tkNode w)) else none
  { Rec.blank with
    id := id, h := st.handle, kind := if k = 0 then .committed else if k = 1 then .draft else if k = 2 then .marker else .stepEnd,
    slot := tkSlot w, step := tkStep w, node := tkNode w, parent := tkParent w, token := if tok then tkToken w else b2n retry,
    n := if k = 2 then fld w 6 0 else 0, feats := fr, needFrame := need, arrived := !need || fr.isSome, arriveBeat := s.beat, policy := st.policy }

/-- A frame's elements go to a feature-staging tile, for the record that reads them (R393). -/
def State.stageFrame (s : State) (rec : Nat) (f : Feats) : State := s.dynWrite (.staging rec) (f.raw.flatMap fun x => natToBytes (if f.ty = 0 || f.ty = 3 then 4 else 2) x)
/-- A record of the open part is taken: the part moves on and the record waits for its stamp. -/
def State.takeRec (s : State) (st : Stream) (p : StepPart) (k : Nat) (w : W64) : State :=
  let (id, s) := s.fresh
  let retry := !p.committed && (p.marker.map (·.1)).getD 0 == 0
  let r := portRec s st k id w retry
  let s := { s with port := { s.port with early := s.port.early.filter fun e =>
    !(r.feats.isSome && e.1 == r.slot && e.2.1 == r.step && e.2.2.1 == frameKey k r.node) } }
  let s := s.setStream st.handle fun x => { x with step := some (p.take k w) }
  let s := if k = 3 then s.closePart st.handle (tkSlot w) p else s
  let s := { s with recs := s.recs ++ [r] }
  match r.feats with | some f => s.stageFrame id f | none => s

/-- A record for a bound stream: the step it belongs to, the checks, then the record itself. -/
def State.partRecord (s : State) (st : Stream) (k : Nat) (w : W64) : State :=
  let seq := tkStep w
  if (match st.lastClosed with | some l => !stepAfter seq l | none => false)
      || (match st.step with | some p => p.seq != seq && !stepAfter seq p.seq | none => false) then s.slotFault st
  else
    let s := match st.step with
      | some p => if p.seq ≠ seq then s.closePart st.handle (tkSlot w) p else s
      | none => s
    let p : StepPart := match st.step with
      | some p => if p.seq = seq then p else ⟨seq, s.beat, [], none, false⟩
      | none => ⟨seq, s.beat, [], none, false⟩
    if partFault p (s.maxDraft st.rc) k w then s.slotFault st else s.takeRec st p k w

/-- A record of kind k at the port (R128). -/
def State.portRecord (s : State) (k : Nat) (w : W64) : State :=
  if !s.portOpen || !(tkKind w == k || tkKind w ≥ 5) then s
  else
    match s.bound? (tkSlot w) with
    | none => s.count 11 1
    | some st =>
      if st.phase = .closing then s.count 12 1
      else if tkKind w ≥ 5 || badFields (s.vocabOf st) k w then s.slotFault st
      else (s.count (5 + k) 1).partRecord st k w

/-- A committed token (R124). -/
def execCommittedToken (w : W64) (s : State) : Host.Outcome State Fault Refusal := .next (s.portRecord 0 w)
/-- A draft token (R210). -/
def execDraftToken (w : W64) (s : State) : Host.Outcome State Fault Refusal := .next (s.portRecord 1 w)
/-- An accept marker (R217). -/
def execAcceptMarker (w : W64) (s : State) : Host.Outcome State Fault Refusal := .next (s.portRecord 2 w)
/-- A step end (R126, R129). -/
def execStepEnd (w : W64) (s : State) : Host.Outcome State Fault Refusal := .next (s.portRecord 3 w)

/-! Feature frames. -/

/-- Chunks that hold the tokens of a span, counted from p0; the last span ends with the input, once that has ended (R125). -/
def spanChunks (st : Stream) (start : Nat) : List Nat :=
  let fin := if st.lastMade then st.p0 + st.tokIdx else start + 64
  ((List.range 64).map fun i => start + i).filterMap fun q => if st.p0 ≤ q && q < fin then some ((q - st.p0) / 4096) else none
/-- A span of tokens lies in chunks that passed. -/
def spanPassed (st : Stream) (start : Nat) : Bool :=
  st.p0 ≤ start + 63 && start < st.p0 + st.tokIdx && (spanChunks st start).all st.passed.contains

/-- A prefill frame (R125); one that no request-level classifier reads makes no record (R40). -/
def State.spanFrame (s : State) (st : Stream) (slot start : Nat) (f : Feats) : State :=
  let s := s.count 4 1
  if start % 64 ≠ 0 || !spanPassed st start then s.slotFault st
  else if st.spans.contains start then s.count 13 1
  else
    let (id, s) := s.fresh
    let r : Rec := { Rec.blank with
      id := id, h := st.handle, kind := .span, slot := slot, token := start, n := (start - st.spanBase) / 64, feats := some f,
      arrived := true, arriveBeat := s.beat, policy := st.policy }
    let s := s.setStream st.handle fun x => { x with spans := x.spans ++ [start] }
    if st.inVerdict.isSome || !spanRead s (s.streamPol st).inDir r.n then s else ({ s with recs := s.recs ++ [r] }).stageFrame id f

/-- A token frame joins the token that waits for it, or waits for its token (R124). One of a step at or before the slot's
    last closed step, or before its open part's, is a slot fault whether or not a token waits (Table 4-5). DESIGN CHOICE
    (log 19): a frame header of a later step neither closes the open part nor opens one, which only the records of Table 4-3's
    other kinds do. -/
def State.tokenFrame (s : State) (st : Stream) (slot step k node : Nat) (f : Feats) : State :=
  let isDraft := k == 1
  if (match st.lastClosed with | some l => !stepAfter step l | none => false)
      || (match st.step with | some p => p.seq != step && !stepAfter step p.seq | none => false) then s.slotFault st
  else match s.recs.find? fun r => r.h == st.handle && r.slot == slot && r.step == step && r.needFrame && !r.arrived
      && (if isDraft then r.kind == .draft && r.node == node else r.kind == .committed) with
  | some r => (s.setRec r.id fun r => { r with feats := some f, arrived := true }).stageFrame r.id f
  | none =>
    if (earlyFrame s slot step (frameKey k node)).isSome then s
    else { s with port := { s.port with early := s.port.early ++ [(slot, step, frameKey k node, f)] } }

/-- Data beats that a frame's header promises: 64 bytes each (R122). -/
def frameBeats (w : W64) : Nat := cdiv (fld w 14 0 * (if fld w 16 15 = 0 || fld w 16 15 = 3 then 4 else 2)) 64
/-- Every data beat the header promises followed, and none more (R122, R482). -/
def frameWhole (x : FrameIn) : Bool := x.whole && cdiv x.data.length 64 == frameBeats x.hdr
/-- A feature frame whole, or cut short (R122, R482). -/
def State.frame (s : State) (x : FrameIn) : State :=
  let w := x.hdr
  let count := fld w 14 0
  let ty := fld w 16 15
  let use := fld w 18 17
  let d0 := x.desc.headD 0#64
  let f : Feats := ⟨ty, frameElems ty count x.data, fld d0 15 0, fld d0 31 16⟩
  if !s.portOpen || tkKind w ≠ 4 then s
  else
    let s := if frameWhole x then s.count 9 1 else s
    match s.bound? (tkSlot w) with
    | none => s.count 11 1
    | some st =>
      let p := s.streamPol st
      let decl := if use = 1 then (p.spanCount, p.spanType) else (p.tokCount, p.tokType)
      if st.phase = .closing || st.phase = .outputEnded || (st.ended.isSome && use ≠ 1) then s.count 12 1
      else if !frameWhole x || use = 3 || (count, ty) ≠ decl || tkParent w ≠ 0 || (use ≠ 2 && tkNode w ≠ 0) || (use = 1 && tkStep w ≠ 0) then
        s.slotFault st
      else if use = 1 then s.spanFrame st (tkSlot w) (fld d0 55 32) f
      else if use = 2 && tkNode w ≥ s.maxDraft st.rc then s.slotFault st
      else s.tokenFrame st (tkSlot w) (tkStep w) (if use = 2 then 1 else 0) (tkNode w) f
def execFeatureFrame (f : FrameIn) (s : State) : Host.Outcome State Fault Refusal := .next (s.frame f)

/-! Timeouts. -/

/-- A slot's part open, or a token waiting for its frame, for 4,096 beats (Table 4-5). -/
def State.stepTimeout (s : State) (slot : Nat) : State :=
  match s.bound? slot with
  | none => s
  | some st =>
    let late := fun r : Rec => r.h == st.handle && r.needFrame && !r.arrived && beatLe (beatAdd r.arriveBeat 4096) s.beat
    let s1 := match st.step with
      | some p => if beatLe (beatAdd p.first 4096) s.beat then (s.closePart st.handle slot p).slotFault st else s
      | none => s
    if s1.recs.any late then ({ s1 with recs := s1.recs.filter fun r => !late r }).slotFault st else s1
def execStepOpenTimeout (slot : BitVec 14) (s : State) : Host.Outcome State Fault Refusal :=
  .next (if s.portOpen then s.stepTimeout slot.toNat else s)

end Sys2Proof.Machine
end

