-- ==== Sys2Proof/Machine/Stamp.lean ====
section
/-! DEFINITION. The beat boundary's intake: stamps, draws, masks determined, commits and switchbacks, output ends, and the beat plan
(R48, R57, R61 to R66, R79 to R82, R120, R124, R147, R201 to R208, R215 to R220, R348 to R350, R356, R357). -/

namespace Sys2Proof.Machine

/-! Output ends at a boundary. -/

/-- Output has ended with a verdict, unless it had already; the state leaves Input open only when the input verdict is final (Table 4-1). -/
def Stream.over (code : Nat) (x : Stream) : Stream :=
  let x := if x.ended.isNone then { x with ended := some code, tail := true } else x
  { x with phase := if x.phase = .answering then .outputEnded else x.phase }
/-- Output ends at a boundary with a verdict: nodes are freed, but for those of the step that is being committed, tokens that wait for a frame
are discarded (R128, R145, R147, R220, Table 7-2). -/
def State.endBut (s : State) (h code : Nat) (keep : Option Nat) : State :=
  match s.stream? h with
  | none => s
  | some st =>
    if st.phase ≠ .inputOpen && st.phase ≠ .answering then s
    else
      let s := { s with recs := s.recs.filter fun r => !(unstamped h r && r.maskDone) }
      let s := if keep.isNone then s.switchback h none
        else (((st.nodes.map (·.2.step)).eraseDups.filter fun k => keep != some k)).foldl (fun s k => s.switchback h (some k)) s
      s.setStream h (Stream.over code)
def State.endAt (s : State) (h code : Nat) : State := s.endBut h code none

/-! Masks. -/

/-- A mask determined at this boundary: kind and cause of Tables 6-8 and 6-9 (R204). An output-ended mask takes no MASK_COMBINE, so its m is 0
and it is ready one beat after its stamp (R86, R120; log 53). -/
def State.stampMask (s : State) (st : Stream) (slot step node kind cause : Nat) (rid : Option Nat) (g : Option Gram) : State :=
  if st.grammar.isNone || !s.isTail then s
  else
    let (id, s) := s.fresh
    let m : MaskJ := { id := id, h := st.handle, slot := slot, step := step, node := node, kind := kind, cause := cause, stamp := s.beat,
                       ready := beatAdd s.beat 1, deadline := s.maskDeadline st.rc, rid := rid, mask := Mask.none (s.vocabOf st).nTokens,
                       waiting := false, composed := false, taken := false, ban := (s.tenant st.tenant).ban, gram := g, left := 0, begun := false }
    { s with masks := s.masks ++ [m] }

/-- A binding takes effect; a constrained stream's start mask is determined (R112, Table 6-8). -/
def State.bindNow (s : State) (h : Nat) (slot : Option Nat) (cmd : Nat) : State :=
  match s.stream? h with
  | none => s
  | some st =>
    let s := s.setStream h fun x => { x with slot := slot, lastSlot := slot.getD x.lastSlot, step := none }
    let s := s.finishId cmd { status := stOK }
    match slot with
    | some k => s.stampMask st k (st.lastClosed.getD 0) 0 2 (if st.phase = .outputEnded || st.ended.isSome then 3 else 0) none st.ctx.gram
    | none => s

/-! Stamps. -/

/-- The policy generation a record stamped now is screened under, and the stream's D and B_rt from now on (R65, R66, R70, R341). -/
def stampPolicy (s : State) (st : Stream) : Nat × Nat × Nat × Nat :=
  match s.policyOf st.policy with
  | some (k, i, _) => (k, i.hdr.gen, max st.dMin i.fixedD, max st.brt i.brt)
  | none => (0, 0, st.dMin, st.brt)

/-- A record stamped with this beat. -/
def State.stampRec (s : State) (st : Stream) (r : Rec) (f : Rec → Rec) : State :=
  let (k, g, d, b) := stampPolicy s st
  let t := s.tenant st.tenant
  let s := s.setStream st.handle fun x => { x with dMin := d, brt := b }
  let s := s.setRec r.id fun x => f { x with
    stamp := some s.beat, sealBy := beatAdd s.beat ((if r.kind = .chunk then d else s.dRangeOf d) - 1),
    rel := beatAdd s.beat ((if r.kind = .chunk then d else s.dRangeOf d) - 1), brt := b,
    polSlot := if r.kind = .chunk then x.polSlot else k, polGen := if r.kind = .chunk then x.polGen else g, policy := st.policy, pd := t.pd, td := t.td, ban := t.ban }
  if r.kind = .chunk then s.ev 38 0x05 st.handle [(r.token, 0), (r.n, 10)]
  else s.ev 38 0x06 st.handle [(r.slot, 0), (r.step, 14), (r.node, 30), (match r.kind with | .draft => 1 | .marker => 2 | .stepEnd => 3 | _ => 0, 36)]

/-- A stream's delay never falls, whether a record is stamped under the larger D or not (R66); B_rt goes with it (R70). -/
def State.raiseDelays (s : State) : State :=
  s.openStreams.foldl (fun s st =>
    let (_, _, d, b) := stampPolicy s st
    s.setStream st.handle fun x => { x with dMin := d, brt := b }) s

/-- Members other than the path's first charge nothing (R359). -/
def State.charges (s : State) : Bool := s.isFirst

/-- The draw of a token record and the stream's charged count (R348, R349). -/
def State.drawRec (s : State) (st : Stream) : Nat × State :=
  if !s.charges then (4, s)
  else
    let (d, s) := s.draw st.tenant
    let s := s.count (64 + d) 1
    (d, s.setStream st.handle fun x => { x with charged := x.charged + (if d = 3 then 0 else 1) })

/-- A chunk's charge (Table 11-5). -/
def State.stampChunk (s : State) (st : Stream) (r : Rec) : State :=
  let s := (s.stampRec st r fun x => x).count 3 1
  if s.charges then (s.setTenant st.tenant fun t => t.chargeChunk r.n).setStream st.handle fun x => { x with charged := x.charged + r.n } else s

/-- The grammar after a token at its stamp, and whether the record meets a new dead end (R193, R202). -/
def gramAfter (s : State) (st : Stream) (g : Option Gram) (t : Nat) : Option Gram × Bool × Bool :=
  let g' := gramStep s st g t
  let was := (g.map (·.dead)).getD false
  let now := (g'.map (·.dead)).getD false
  (g', now && !was, was && !now)
def gramFlags (s : State) (died escaped : Bool) : State := (s.count 42 (b2n died)).count 43 (b2n escaped)

/-- A committed token's own part: the grammar advances and the mask is determined (R124, R202, Table 6-8). -/
def State.tokenPart (s : State) (st : Stream) (r : Rec) : State :=
  let (g, died, esc) := gramAfter s st st.ctx.gram r.token
  let s := (gramFlags s died esc).setStream st.handle fun x => { x with ctx := { x.ctx with gram := g } }
  let s := s.setRec r.id fun x => { x with maskDone := true, flags := if died then setFlag x.flags fGramDead else x.flags }
  s.stampMask st r.slot r.step 0 0 0 (some r.id) g

/-- A committed record stamped at the stream's position (R57, R61, R147, R203). -/
def State.committedPart (s : State) (st : Stream) (r : Rec) : State :=
  if st.pos ≥ 4194304 then ({ s with recs := s.recs.filter fun x => x.id != r.id }).endAt st.handle vIncomplete
  else
    let (d, s) := s.drawRec st
    let s := (s.stampRec st r fun x => { x with pos := st.pos, draw := d }).setStream st.handle fun x => { x with pos := x.pos + 1 }
    match s.rec? r.id, s.grammarOf st with
    | some x, some (_, _, gi) => if hasFlag x.flags fGramDead then s.failStream st gi x.rel else s
    | _, _ => s

/-- Node of a step by its number. -/
def nodeOf (st : Stream) (step num : Nat) : Option (Nat × Node) := st.nodes.find? fun x => x.2.step == step && x.2.num == num

/-- A draft's own part: its node is made with its tentative grammar state, and its mask is determined (R208). -/
def State.draftPart (s : State) (st : Stream) (r : Rec) : State :=
  let par := if r.parent = r.node then none else nodeOf st r.step r.parent
  let g0 := match par with | some (_, n) => n.ctx.gram | none => st.ctx.gram
  let (g, died, esc) := gramAfter s st g0 r.token
  let n : Node := ⟨r.step, r.node, par.map (·.1), { (match par with | some (_, n) => n.ctx | none => st.ctx) with gram := g }, false, 0, 0, 0, false⟩
  let s := (gramFlags s died esc).setStream st.handle fun x => { x with nodes := AMap.set x.nodes r.id n }
  let s := s.writeNode st.handle r.id
  let s := s.setRec r.id fun x => { x with maskDone := true, spec := true, flags := if died then setFlag x.flags fGramDead else x.flags }
  s.stampMask st r.slot r.step r.node 1 0 (some r.id) g

/-- Whether a draft may be stamped: its frame is in and its parent is stamped (the wait for the parent is the model's, log 53). -/
def draftReady (s : State) (st : Stream) (r : Rec) : Bool :=
  r.arrived && match (AMap.get? st.nodes r.id).bind (·.parent) with
    | some p => ((s.rec? p).map (·.stamp.isSome)).getD true
    | none => true

/-- Records on the path from the root to a node, root first. -/
def nodePath (st : Stream) : Nat → Nat → List Nat
  | 0, _ => []
  | f + 1, id =>
    match AMap.get? st.nodes id with
    | some n => (match n.parent with | some p => nodePath st f p | none => []) ++ [id]
    | none => []
/-- A draft record stamped and charged at its tentative position; the first fixes the speculation cairn's (R215, R216). -/
def State.draftStamp (s : State) (st : Stream) (r : Rec) : State :=
  let (d, s) := s.drawRec st
  let p := st.base.getD st.pos
  (s.stampRec st r fun x => { x with draw := d, pos := p + (nodePath st 65 r.id).length - 1 }).setStream st.handle fun x =>
    { x with base := some p }

/-! Markers. -/

def markerPath (st : Stream) (r : Rec) : List Nat :=
  match nodeOf st r.step r.node with | some (id, _) => nodePath st 65 id | none => []

/-- The marker has arrived: every node of its path is stamped (R217). -/
def markerReady (s : State) (st : Stream) (r : Rec) : Bool :=
  r.n == 0 || (markerPath st r).all fun id => ((s.rec? id).map (·.stamp.isSome)).getD false

/-- Accepted nodes become committed records at their positions; each is sealed in its own beat still (R212, R218, Table 4-10). -/
def commitNodes (beat d : Nat) : Nat → List Nat → List Rec → List Rec
  | _, [], rs => rs
  | p, id :: ids, rs =>
    commitNodes beat d (p + 1) ids (rs.map fun x =>
      if x.id = id then { x with kind := .committed, pos := p, rel := beatMax (beatAdd beat (d - 1)) x.rel } else x)

/-- The committed grammar state along an accepted path: a node that is dead, also by its mask, makes it dead at that node's record, and what
follows goes on from there (R193, R201, R208). -/
def pathGram (s : State) (st : Stream) : List Nat → Option Gram → Option Gram
  | [], g => g
  | id :: ids, g =>
    let dead := (((AMap.get? st.nodes id).bind (·.ctx.gram)).map (·.dead)).getD false
    let g := gramStep s st g (((s.rec? id).map (·.token)).getD 0)
    pathGram s st ids (if dead then g.map fun x => { x with dead := true } else g)
/-- A discarded record's charge taken back (R147). -/
def State.uncharge (s : State) (r : Rec) : State :=
  let s := (s.streams.find? fun x => x.2.handle == r.h).elim s fun x => s.setTenant x.2.tenant fun t => t.giveBack r.draw
  if r.draw ≤ 2 then s.setStream r.h fun x => { x with charged := x.charged - 1 } else s
/-- A dead end on an accepted path is a committed one (R203). -/
def State.deadPath (s : State) (st : Stream) (ids : List Nat) : State :=
  match (ids.find? fun id => ((s.rec? id).map fun x => hasFlag x.flags fGramDead).getD false).bind s.rec?, s.grammarOf st with
  | some x, some (_, _, gi) => s.failStream st gi x.rel
  | _, _ => s
/-- An accept marker at its boundary: a switchback, or the commit of a path; the compute phase adopts the node's state (R216 to R220). -/
def State.markerAt (s : State) (st : Stream) (r : Rec) : State :=
  let drop (s : State) : State := { s with recs := s.recs.filter fun x => x.id != r.id }
  if r.n = 0 then drop (s.switchback st.handle (some r.step))
  else
    let (_, _, d, _) := stampPolicy s st
    let path := markerPath st r
    let p := st.base.getD st.pos
    let ok := path.take (4194304 - min 4194304 p)
    let s := (s.stampRec st r fun x => { x with path := ok }).count 44 1
    let s := { s with recs := commitNodes s.beat (s.dRangeOf d) p ok s.recs }
    let lost := ((st.nodes.filter fun x => x.2.step == r.step).map (·.1)).filter fun id => !ok.contains id
    let s := (s.count 46 lost.length).dropMasks st.handle lost
    let s := (path.drop ok.length).foldl (fun s id => match s.rec? id with | some x => s.uncharge x | none => s) s
    let s := { s with recs := s.recs.filter fun x => !(x.h == st.handle && x.kind == RecK.draft && x.step == r.step) }
    let g := pathGram s st ok st.ctx.gram
    let s := { s with masks := s.masks.map fun (m : MaskJ) => if m.h = st.handle && (m.rid.map ok.contains).getD false then { m with taken := true } else m }
    let s := s.setStream st.handle fun x => { x with pos := p + ok.length, base := none, ctx := { x.ctx with gram := g } }
    let s := s.deadPath st ok
    if ok.length < path.length then s.endBut st.handle vIncomplete (some r.step) else s

/-! One boundary. -/

/-- A record whose stream's output has ended: discarded and counted; a constrained stream's mask is all-denied (R120). -/
def State.endedPart (s : State) (st : Stream) (r : Rec) : State :=
  let s := ({ s with recs := s.recs.filter fun x => x.id != r.id }).count 12 1
  if r.maskDone then s
  else
    match r.kind with
    | .committed => s.stampMask st r.slot r.step 0 0 3 none none
    | .draft => s.stampMask st r.slot r.step r.node 1 3 none none
    | .stepEnd => if r.token = 1 then s.stampMask st r.slot r.step 0 3 3 none none else s
    | _ => s

/-- One waiting record at the boundary; the handles whose marker waits block the slot's later records (R217), and a speculation cairn in use
holds back whatever would advance the committed state (R216). -/
def State.stampOne (acc : State × List Nat) (id : Nat) : State × List Nat :=
  let (s, blocked) := acc
  match s.rec? id with
  | none => (s, blocked)
  | some r =>
    match s.stream? r.h with
    | none => ({ s with recs := s.recs.filter fun x => x.id != id }, blocked)
    | some st =>
      if r.stamp.isSome || blocked.contains r.h then (s, blocked)
      else if st.phase = .outputEnded || (st.phase = .closing && r.kind != .chunk) || (st.ended.isSome && r.kind != .chunk && r.kind != .span) then (s.endedPart st r, blocked)
      else
        match r.kind with
        | .chunk => (s.stampChunk st r, blocked)
        | .span => (if stageReady s r then s.stampRec st r (fun x => x) else s, blocked)
        | .committed =>
          let s := if r.maskDone then s else s.tokenPart st r
          if r.arrived && stageReady s r && st.base.isNone then
            match s.stream? r.h with | some st => (s.committedPart st r, blocked) | none => (s, blocked)
          else (s, blocked)
        | .draft =>
          let s := if r.maskDone then s else s.draftPart st r
          match s.stream? r.h with
          | some st => if draftReady s st r && stageReady s r then (s.draftStamp st r, blocked) else (s, blocked)
          | none => (s, blocked)
        | .marker => if markerReady s st r then (s.markerAt st r, blocked) else (s, r.h :: blocked)
        | .stepEnd =>
          if !stageReady s r then (s, blocked)
          else
          let s := s.stampRec st r fun x => x
          if r.token = 1 then (s.stampMask st r.slot r.step 0 3 0 none st.ctx.gram, blocked) else (s, blocked)

def State.stampAll (s : State) : State := ((s.recs.map (·.id)).foldl State.stampOne (s, [])).1

/-! The plan. -/

/-- The plan of a beat before any work is placed: each item less the recovery reserve, and the reserve itself (R77, R79, Table 2-4). -/
def State.freePlan (s : State) : Plan :=
  { lane := plannable s.laneAllow, walk := plannable s.walkAllow, host := plannable s.gov.host,
    stack := s.liveChans.length * plannable s.gov.stFirst, banks := (List.range s.nBanks).map fun b => (b, plannable s.gov.assoc),
    steps := (List.range s.ridges).map fun r => (r, 5704),
    recLane := cdiv s.laneAllow 32, recWalk := cdiv s.walkAllow 32, recHost := cdiv s.gov.host 32,
    stFirst := s.gov.stFirst, stDep := s.gov.stDep
    recBanks := (List.range s.nBanks).map fun b => (b, cdiv s.gov.assoc 32), first := [], dep := [], resp := [] }

/-- A record's demand taken from the plan, if it fits. -/
def Plan.take (pl : Plan) (d : Demand) (banks : List Nat) (ridge : Nat) : Option Plan :=
  if d.lane ≤ pl.lane && d.walk ≤ pl.walk && d.host ≤ pl.host && d.firstReq ≤ pl.stack && d.steps ≤ AMap.getD pl.steps ridge 0
      && banks.all fun b => d.search ≤ AMap.getD pl.banks b 0 then
    some { pl with lane := pl.lane - d.lane, walk := pl.walk - d.walk, host := pl.host - d.host, stack := pl.stack - d.firstReq,
                   banks := pl.banks.map fun (x : Nat × Nat) => if banks.contains x.1 then (x.1, x.2 - d.search) else x,
                   steps := AMap.set pl.steps ridge (AMap.getD pl.steps ridge 0 - d.steps) }
  else none

/-- A channel still has room in the plan for an item: its first-round requests, its dependent ones, its response transfers (R332, R373). -/
def chanFits (s : State) (req dep resp c : Nat) : Bool :=
  AMap.getD s.plan.first c 0 + req ≤ plannable s.plan.stFirst && AMap.getD s.plan.dep c 0 + dep ≤ plannable s.plan.stDep
    && (s.chan c).respOf true + AMap.getD s.plan.resp c 0 + resp + 66 ≤ s.respWindow
/-- An item taken on a channel. -/
def Plan.onChan (p : Plan) (c req dep resp : Nat) : Plan :=
  { p with first := AMap.set p.first c (AMap.getD p.first c 0 + req), dep := AMap.set p.dep c (AMap.getD p.dep c 0 + dep),
           resp := AMap.set p.resp c (AMap.getD p.resp c 0 + resp) }
/-- The channels of a record's items, each on the least loaded one, the segments of staged vectors on different ones (R321, R332): none where one
has no room. -/
def planItems : State → List Nat → List Nat → Option (State × List Nat)
  | s, _, [] => some (s, [])
  | s, used, req :: rest =>
    match (sortAsc (fun c => firstLoad s c + depLoad s c) (s.liveChans.filter fun c => !used.contains c)).head? with
    | some c => if !chanFits s req 0 1 c then none else
        (planItems { s with plan := s.plan.onChan c req 0 1 } (c :: used) rest).map fun x => (x.1, c :: x.2)
    | none => none
/-- The stack part of a record in the plan: its round on one channel and each segment on one of its own (R321, R332). -/
def planStack (s : State) (r : Rec) (d : Demand) : Option (State × Option Nat × List Nat) :=
  if d.firstReq = 0 then some (s, none, [])
  else
    let p := (s.polOf r.polSlot).getD default
    let wide := (wideVectors s (if r.kind = .span then p.inDir else p.outDir)).map segReqs
    let narrow := d.firstReq - sumBy (fun n => n) wide.flatten
    let one : Option (State × Option Nat) :=
      if narrow = 0 then some (s, none)
      else match leastLoaded s with
        | some c => if chanFits s narrow 0 d.resp c then some ({ s with plan := s.plan.onChan c narrow 0 d.resp }, some c) else none
        | none => none
    one.bind fun x => (wide.foldl (fun (acc : Option (State × List Nat)) w => acc.bind fun a => (planItems a.1 [] w).map fun y => (y.1, a.2 ++ y.2))
      (some (x.1, []))).map fun y => (y.1, x.2, y.2)

/-- A record that gives way: best effort HOLD, else BUDGET_HOLD, with THROTTLED, its token returned (R82, R348, R357); a chunk, whose verdict is
never BUDGET_HOLD, takes HOLD, and its charge from k stands (R136, R349, log 53). -/
def State.shedRec (s : State) (r : Rec) (code : Nat) : State :=
  let s := (s.setRec r.id fun x => { x with fits := false, shed := code, flags := setFlag x.flags fThrottled }).count 69 1
  (s.count 68 (b2n (code = 1))).uncharge r

/-- A record of a best-effort tenant whose stack tier is held: it is screened without it and released HOLD with THROTTLED, its token returned
(R348, R356, step 4). -/
def State.holdStack (s : State) (r : Rec) : State :=
  ((s.setRec r.id fun x => { x with noStack := true, flags := setFlag x.flags fThrottled }).count 69 1).uncharge r

/-- Amounts of items lane, walk, search, stack and host. -/
def Demand.items (d : Demand) : List Nat := [d.lane, d.walk, d.search, d.firstReq, d.host]
/-- The plan as a best-effort record of a ring class sees it: reserved slots that their owners have not used are kept from it (Table 2-4,
order 5); used gives what each class has taken. -/
def Plan.unreserved (s : State) (used : AMap (List Nat)) (rc : Nat) (pl : Plan) : Plan :=
  let kept (i : Nat) : Nat := sumBy (fun k => if k = rc then 0 else reservedFor s i k - (AMap.getD used k []).getD i 0) (List.range 16)
  { pl with lane := pl.lane - kept 0, walk := pl.walk - kept 1, banks := pl.banks.map fun (x : Nat × Nat) => (x.1, x.2 - kept 2),
            stack := pl.stack - kept 3, host := pl.host - kept 4 }

/-- One new record placed in the plan (R79, R80, R356, R357). -/
def planOne (acc : State × AMap (List Nat)) (id : Nat) : State × AMap (List Nat) :=
  let (s, used) := acc
  match s.rec? id with
  | none => acc
  | some r =>
    match s.stream? r.h with
    | none => acc
    | some st =>
      let p := (s.polOf r.polSlot).getD default
      let d := recDemand s r
      let banks := if r.kind = .chunk then [] else polBanks s p
      let held := 4 ≤ s.gov.steps && s.commitC (s.tenant st.tenant) == 0 && d.firstReq != 0
      let d := if held then { d with firstReq := 0, depReq := 0, resp := 0 } else d
      let seen := if st.klass = 2 then s.plan.unreserved s used st.rc else s.plan
      match seen.take d banks st.ridge, planStack s r d with
      | some _, some (t, c, segs) =>
        let t := { t with plan := (t.plan.take d banks st.ridge).getD t.plan }
        let t := t.setRec id fun x => { x with chan := c, segs := segs }
        (if held then t.holdStack r else t, AMap.modifyD used st.rc [0, 0, 0, 0, 0] fun x => (x.zip d.items).map fun y => y.1 + y.2)
      | _, _ => (s.shedRec r (if st.klass = 2 || r.kind == .chunk then 1 else 2), used)

/-- A record that is new in this beat's plan: a token or span record that can be screened, or a chunk stamped now (R58, R79). -/
def isNew (s : State) (r : Rec) : Bool :=
  r.shed == 0 && (if r.kind = .chunk then r.stamp == some s.beat && !r.sealed
    else runsNow s r && (r.kind == .committed || r.kind == .draft || r.kind == .span) && !r.ext)
/-- A stream's place in the plan's order: class, then resident index (Table 2-4, R350, R357). -/
def planKey (s : State) (h : Nat) : Nat := ((s.stream? h).map fun st => st.klass * 2 ^ 14 + hIndex st.handle).getD 0
/-- New records in the plan's order. -/
def planOrder (s : State) : List Nat := (sortAsc (planKey s ·.h) (s.recs.filter (isNew s))).map (·.id)
/-- This beat's masks of some kind in the plan's order. -/
def planMasks (s : State) (f : MaskJ → Bool) : List MaskJ := sortAsc (planKey s ·.h) (s.masks.filter fun m => m.stamp == s.beat && f m)
/-- A mask's MASK_COMBINE placed on a channel (R332, R357). -/
def planMask (s : State) (m : MaskJ) : State :=
  let n := 1 + maskResp (((s.stream? m.h).map fun st => (s.vocabOf st).nTokens).getD 0)
  match leastLoaded s with
  | some c => if chanFits s 2 0 n c then
      ({ s with plan := { s.plan.onChan c 2 0 n with stack := s.plan.stack - 2 } } : State).setMask m.id fun x => { x with chan := some c }
    else s
  | none => s
/-- Work of a record in flight that finds no allowance: its result is absent and the record INDETERMINATE (R327, R357). -/
def State.lateLost (s : State) (rid mi : Nat) : State :=
  s.setRec rid fun x => { x with models := x.models.filter fun y => y.mi != mi, results := x.results ++ [vIndet], flags := setFlag x.flags fTimeout }
/-- Work of one model of a record in flight that falls in this beat: its dependent read, or the lane work behind its last round (Table 2-4,
order 2). -/
def planLate (s : State) (r : Rec) (m : ModelR) : State :=
  if m.st = 1 && m.due = s.beat then
    let ops := readOps s r m.mi m.img 0 0
    let c := (m.chans.head?.map (·.1)).getD 0
    let n := sumBy (fun x => 1 + x.2.2.2) ops
    if chanFits s 0 ops.length n c then { s with plan := s.plan.onChan c 0 ops.length n } else s.lateLost r.id m.mi
  else if m.st = 4 && !m.parts.isEmpty && lateBeat s r m = s.beat then
    let n := lateLane s m
    if n ≤ s.plan.lane then { s with plan := { s.plan with lane := s.plan.lane - n } } else s.lateLost r.id m.mi
  else s

/-- The beat plan: windows of every channel cleared; records in flight, the masks that need a MASK_COMBINE, then the new records (R79, R332,
R357). -/
def State.planBeat (s : State) : State :=
  let s := { s with stack := { s.stack with chans := s.stack.chans.map fun (x : Nat × Chan) =>
    (x.1, { x.2 with planFirst := 0, planDep := 0, planRec := 0, planBack := 0 }) } }
  let s := { s with plan := s.freePlan }
  let s := (sortAsc (planKey s ·.h) (s.recs.filter fun r => !r.sealed)).foldl (fun s r => r.models.foldl (fun s m => planLate s r m) s) s
  let s := (planMasks s (needsCombine s)).foldl planMask s
  ((planOrder s).foldl planOne (s, [])).1

/-! The mask port. -/

/-- Order in which masks ready by now are written: deadline first, then the earlier ready, slot, committed path, node (R87, log 53). -/
def maskKey (now : Nat) (m : MaskJ) : Nat :=
  ((m.deadline * 2 ^ 48 + (2 ^ 47 - min (2 ^ 47) (beatsFrom m.ready now))) * 2 ^ 15 + 2 * m.slot + b2n (m.kind = 1)) * 64 + m.node
def readyMasks (s : State) : List MaskJ :=
  let rs := s.masks.filter fun m => m.composed && beatLe m.ready s.beat
  rs.filter (·.begun) ++ sortAsc (maskKey s.beat) (rs.filter fun m => !m.begun)

/-- A mask written whole (Table 6-9). -/
def State.maskOut (s : State) (m : MaskJ) : State :=
  let n := m.mask.words
  let s := { s with masks := s.masks.filter fun x => x.id != m.id }
  let s := ((s.count (32 + m.kind) 1).count (36 + m.cause) 1).count 40 (8 * n)
  let s := s.ev 36 0x09 m.h [(m.slot, 0), (m.step, 14), (m.node, 30), (m.kind, 36), (m.cause, 38), (n, 40)]
  s.emit (.mask m.slot m.step m.node m.kind m.cause n m.mask.encode)

/-- Masks written with the words the port carries, one after another (R87, R483). -/
def writeMasks : Nat → Nat → State → State × Nat
  | 0, w, s => (s, w)
  | f + 1, w, s =>
    match (readyMasks s).head? with
    | none => (s, w)
    | some m =>
      let need := if m.begun then m.left else m.mask.words
      if w = 0 then (s, w)
      else if need ≤ w then writeMasks f (w - need) (s.maskOut m)
      else (s.setMask m.id fun x => { x with begun := true, left := need - w }, 0)

/-- The mask port through one beat: 235 cycles of 16 words while credit lasts; a stall is counted and its first logged (R484). -/
def State.maskBeat (s : State) : State :=
  let cyc := min 235 s.port.credit
  let (s, left) := writeMasks (s.masks.length + 1) (16 * cyc) s
  let used := cyc - left / 16
  let s := { s with port := { s.port with credit := s.port.credit - used } }
  if cyc < 235 && !(readyMasks s).isEmpty then
    let s := { s with port := { s.port with stall := s.port.stall + (235 - cyc) } }
    if s.port.stallLogged then s
    else ({ s with port := { s.port with stallLogged := true } }).log (unlistedLog 1) 1 36 (w64 [(235 - cyc, 0)]) 0#64 0#64
  else s

end Sys2Proof.Machine
end

