-- ==== Sys2Proof/Machine/Seal.lean ====
section
/-! DEFINITION. The compute and seal phases: screening of the records stamped with the beat, dependent stack rounds, and the verdict
of every record whose beat it is (R35, R36, R56, R62, R131, R135, R212, R217, R277, R289, R290, R321, R327, R344). -/

namespace Sys2Proof.Machine

/-! Compute. -/

/-- The accept marker's node state becomes the committed state; the grammar was adopted at the stamp (R217). -/
def State.adoptPath (s : State) (st : Stream) (r : Rec) : State :=
  let s := { s with recs := s.recs.filter fun x => x.id != r.id }
  let sealedNode := r.path.reverse.find? fun id => ((s.rec? id).map (·.sealed)).getD false
  let accs := match sealedNode.bind (AMap.get? st.nodes ·) with | some n => (n.ctx.accs, n.ctx.accN) | none => (st.ctx.accs, st.ctx.accN)
  s.setStream st.handle fun x => { x with
    ctx := match r.path.getLast?.bind (AMap.get? st.nodes ·) with
      | some n => { n.ctx with gram := x.ctx.gram, accs := accs.1, accN := accs.2 }
      | none => x.ctx
    nodes := x.nodes.filter fun n => n.2.step != r.step }

/-- The state a token record is screened from: a draft's parent, or the committed state (R212). -/
def parentNode (st : Stream) (r : Rec) : Option Node :=
  if r.spec then ((AMap.get? st.nodes r.id).bind (·.parent)).bind (AMap.get? st.nodes ·) else none
def startCtx (st : Stream) (r : Rec) : Ctx := match parentNode st r with | some n => n.ctx | none => st.ctx

/-- The screening state after a record: into its node state, or the committed one. -/
def State.putCtx (s : State) (r : Rec) (c : Ctx) : State :=
  s.setStream r.h fun st =>
    if r.spec then { st with nodes := AMap.modify st.nodes r.id fun n => { n with ctx := { c with gram := n.ctx.gram } } }
    else { st with ctx := { c with gram := st.ctx.gram } }

/-- Images whose tiles a token's own screening uses: the vocabulary and the output automata. -/
def tokImgs (s : State) (st : Stream) (p : PolicyImg) : List (Nat × Img) :=
  slotImgs s [st.vocab] ++ p.outDir.autos.filterMap fun id => s.activeOf 5 id

/-- A token record in its compute phase; a shed record is screened by nothing, and a pattern that is pending stays so (R82, R140, R174, R212,
R251, R269). -/
def State.screenTok (s : State) (st : Stream) (r : Rec) : State :=
  let c := startCtx st r
  if r.shed ≠ 0 then (s.setRec r.id fun x => { x with screened := true, off := c.off, pend := c.pend }).putCtx r (skipToken c r.token)
  else
    let p := (s.polOf r.polSlot).getD default
    let (f, c', bs) := screenToken s st p c r.token r.pos
    let bad := tilesLost s (tokImgs s st p) || (parentNode st r).any (·.corrupt)
    let (s, ms, fl, rs) := match r.feats with
      | some x => runModels s r p.outDir x
      | none => (s, [], 0, [])
    let s := (s.searchFinds f.falseHits f.lost).setRec r.id fun x => { x with
      screened := true, bytes := bs, results := x.results ++ f.results ++ rs ++ (if bad then [vIndet] else []), flags := x.flags ||| f.flags ||| fl, compl := f.compl,
      pend := c'.pend, off := c.off, models := ms }
    s.putCtx r c'

/-- A prefill span in its compute phase (R290). -/
def State.screenSpan (s : State) (r : Rec) : State :=
  if r.shed ≠ 0 then s.setRec r.id fun x => { x with screened := true }
  else
    let p := (s.polOf r.polSlot).getD default
    let (s, ms, fl, rs) := match r.feats with
      | some x => runModels s r p.inDir x
      | none => (s, [], 0, [])
    s.setRec r.id fun x => { x with screened := true, results := x.results ++ rs, flags := x.flags ||| fl, models := ms }

/-- A whole record waits for tiles; it keeps its place in the plan. -/
def State.waitRec (s : State) (id : Nat) (ks : List (Nat × Nat)) : State := (s.waitFor id ks).setRec id fun x => { x with ext := true }

/-- One record of the beat in its compute phase. -/
def State.computeRec (s : State) (id : Nat) : State :=
  match s.rec? id with
  | none => s
  | some r =>
    match s.stream? r.h with
    | none => s
    | some st =>
      let (fits, s) := if r.ext && r.stamp ≠ some s.beat && runsNow s r && !recBlocked s r && r.shed = 0 then s.fitRedo r true else (true, s)
      if !runsNow s r || recBlocked s r || !fits then s
      else
        let is := tokImgs s st ((s.polOf r.polSlot).getD default)
        let wait := r.shed = 0 && !tilesLost s is && !(tileWaits is).isEmpty
        match r.kind with
        | .committed => if wait then s.waitRec id (tileWaits is) else s.screenTok st r
        | .draft => if wait then s.waitRec id (tileWaits is) else s.screenTok st r
        | .span => s.screenSpan r
        | .marker => s.adoptPath st r
        | .chunk => s.setRec id fun x => { x with screened := true }
        | _ => s

/-- Masks first (R357), then work repeated on tiles that are back, then the records, all in the plan's order (R332); what the plan held for
rounds is then asked for or lost. -/
def State.computeBeat (s : State) : State :=
  let s := (planMasks s fun m => !m.composed && !m.waiting).foldl composeOne s
  let s := s.toPhase 1
  let s := (s.recs.map (·.id)).foldl State.rerunRec s
  let s := ((sortAsc (planKey s ·.h) s.recs).map (·.id)).foldl State.computeRec s
  { s with plan := { s.plan with resp := [] } }

/-! Dependent rounds. -/

/-- The stage map of R321. -/
def stageMap (chans : List (Nat × Nat)) : Nat :=
  pack (((List.range chans.length).zip chans).map (fun x => (x.2.1 + 8 * x.2.2, 5 * x.1)) ++ [(chans.length - 1, 40), (1, 43)])

/-- The stack master that a model reads, its image's or its tree delta's, is lost (R325). -/
def masterGone (s : State) (r : Rec) (img : Nat) : Bool :=
  match s.img? img with
  | some i => i.masterLost || match tDeltaFor s r.td i with | some (b, _) => ((s.img? b).map (·.masterLost)).getD false | none => false
  | none => true
/-- A model whose segments are all staged is read in a dependent round; one with a segment missing is absent (R321, R327). -/
def State.depRound (s : State) (r : Rec) (m : ModelR) : State :=
  if m.st ≠ 1 || m.due ≠ s.beat then s
  else if m.stagesLeft ≠ 0 then s.modelAbsent r.id m.mi
  else if masterGone s r m.img then s.modelAbsent r.id m.mi
  else
    let ops := readOps s r m.mi m.img 0 (stageMap m.chans)
    let (s, ok) := issueAll s ((m.chans.head?.map (·.1)).getD 0) (.dep r.brt) ops
    if ok then
      s.setRec r.id fun x => { x with models := x.models.map fun y => if y.mi = m.mi then { y with st := 2, stagesLeft := ops.length } else y }
    else s.modelAbsent r.id m.mi
def State.depRounds (s : State) : State :=
  (sortAsc (planKey s ·.h) s.recs).foldl (fun s r => r.models.foldl (fun s m => s.depRound r m) s) s

/-! Seal. -/

/-- Whether a score rule fires; a NaN never does (R343, R344). -/
def ruleFires (c : Nat) (x t : W32) : Bool :=
  match fLt? x t, fLt? t x with
  | some lt, some gt => if c = 0 then !lt else if c = 1 then gt else if c = 2 then lt else !gt
  | _, _ => false
/-- Verdicts of the score rules that fire on the values present. -/
def scoreRules (d : PolDir) (vals : List (Nat × List W32)) : List Nat :=
  d.scoreRules.filterMap fun r =>
    match vals.find? fun v => v.1 == r.model with
    | some (_, ys) => match ys[r.output]? with
      | some y => if ruleFires r.cmp y r.t then some r.verdict else none
      | none => none
    | none => none

/-- The accumulator state a record folds into: the input's, its node's from its parent's, or the committed one (R290). -/
def accCtx (st : Stream) (r : Rec) : Ctx :=
  if r.kind = .span then st.inCtx else if r.kind = .draft then startCtx st r else st.ctx

/-- Present results of a record's models in order, accumulators folded: values, NaN seen, and the folded state. -/
def foldModels (s : State) (r : Rec) : Ctx → List ModelR → List (Nat × List W32) × Bool × Ctx
  | c, [] => ([], false, c)
  | c, m :: ms =>
    if m.st ≠ 4 then foldModels s r c ms
    else
      let (ys, nan) := if m.parts.isEmpty then (m.scores, m.nan) else stackScores s r m
      let (c, read) := match (s.img? m.img).bind Img.head? with
        | some h => foldHead h c ys
        | none => (c, ys)
      let (vs, n2, c) := foldModels s r c ms
      ((m.mi, read) :: vs, nan || n2, c)

/-- A policy's score rules read a result to which a delta was applied (R305). -/
def readsDelta (s : State) (r : Rec) (d : PolDir) (vals : List (Nat × List W32)) : Bool :=
  r.models.any fun m => vals.any (fun v => v.1 == m.mi) && d.scoreRules.any (fun x => x.model == m.mi) && deltaBound s r m.img
/-- Accumulators kept where they were folded. -/
def State.putAccs (s : State) (r : Rec) (c : Ctx) : State :=
  s.setStream r.h fun st =>
    if r.kind = .span then { st with inCtx := { st.inCtx with accs := c.accs, accN := c.accN } }
    else if r.kind = .draft then
      { st with nodes := AMap.modify st.nodes r.id fun n => { n with ctx := { n.ctx with accs := c.accs, accN := c.accN } } }
    else { st with ctx := { st.ctx with accs := c.accs, accN := c.accN } }

/-- The accumulators reset at this beat's start, as the records stamped with it have folded into them. -/
def newAccs (s : State) (st : Stream) : Ctx :=
  match st.accNew with
  | some (b, accs, n) => if b = s.beat then { st.ctx with accs := accs, accN := n } else { st.ctx with accN := [0, 0, 0] }
  | none => { st.ctx with accN := [0, 0, 0] }
/-- A committed record stamped while the input verdict is still open also folds into accumulators of its own, reset at each boundary: those the
output direction goes on from when the verdict becomes final in this beat (Table 9-13). -/
def State.foldNew (s : State) (r : Rec) : State :=
  match s.stream? r.h with
  | some st =>
    if r.kind = .committed && st.phase = .inputOpen && r.stamp = some s.beat then
      let (_, _, c) := foldModels s r (newAccs s st) r.models
      s.setStream r.h fun x => { x with accNew := some (s.beat, c.accs, c.accN) }
    else s
  | none => s
/-- Heads whose scores accumulate over spans are read at the input verdict, not on their spans. -/
def spanVals (s : State) (d : PolDir) (vs : List (Nat × List W32)) : List (Nat × List W32) :=
  vs.filter fun v => 8 ≤ v.1 || (((s.activeOf 6 (d.heads.getD v.1 0)).bind fun x => x.2.head?).map (·.accumulate == 0)).getD true

/-- Trace of the scores of a record's models (Table 15-13). -/
def traceScores (s : State) (r : Rec) (vs : List (Nat × List W32)) : State :=
  vs.foldl (fun s v => ((List.range v.2.length).zip v.2).foldl (fun s y =>
    s.trace (((s.stream? r.h).map (·.ridge)).getD 0) 0x0B 0 ((r.feats.map (·.layerId)).getD 0) ((r.feats.map (·.opId)).getD 0) r.policy r.h
      (w64 [(v.1 % 8, 0), (y.1, 4), (b2n (r.kind != .span), 8), (y.2.toNat, 32)])) s) s

/-- First tokens of the spans needed before the input verdict is final. -/
def neededSpans (s : State) (st : Stream) (d : PolDir) : List Nat :=
  let fin := st.p0 + st.tokIdx
  let from0 := max (cdiv st.spanBase 64) (cdiv st.p0 64)
  let all := (List.range (cdiv fin 64 - from0)).map fun i => 64 * (from0 + i)
  match spanNeed s d with
  | none => all
  | some n => all.filter fun q => (q - st.spanBase) / 64 < n
/-- The input verdict becomes final in this beat: what it still waits for is sealed and released in it (R40, Table 9-13). -/
def inputEnds (s : State) (st : Stream) : Bool :=
  let open_ := s.recs.filter fun r => r.h == st.handle && (r.kind == .span || r.kind == .chunk)
  st.inVerdict.isNone && (open_.all fun r => r.sealed && beatLe r.rel s.beat)
    && (st.lastChunk.isSome || open_.any fun r => r.kind == .chunk && r.step == 1)
    && (neededSpans s st (s.streamPol st).inDir).all st.spans.contains
/-- The accumulators that a record folds into and its score rules read: a committed record stamped in the beat in which the input verdict becomes
final folds into the reset ones (R290, Table 9-13). -/
def foldStart (s : State) (st : Stream) (r : Rec) : Ctx :=
  if r.kind = .committed && st.phase = .inputOpen && r.stamp = some s.beat && inputEnds s st then newAccs s st else accCtx st r
/-- Heads whose accumulated result a span reads a current delta for (R305). -/
def spanDeltas (s : State) (r : Rec) (read : List (Nat × List W32)) : List Nat :=
  if r.kind = .span then (r.models.filter fun m => m.st == 4 && !(read.any fun v => v.1 == m.mi) && deltaBound s r m.img).map (·.mi) else []

/-- A record's verdict sealed (R35, R36, R131, R344); a mismatch of the two check codes makes it INDETERMINATE (R135), and a
residue mismatch in its lane work does whatever its ensembles give (R282, Table 9-13). -/
def State.sealRec (s : State) (mismatch : List (W32 × Nat)) (id : Nat) : State :=
  match s.rec? id with
  | none => s
  | some r =>
    match s.stream? r.h with
    | none => s
    | some st =>
      let p := (s.polOf r.polSlot).getD default
      let d := if r.kind = .span || r.kind = .chunk then p.inDir else p.outDir
      let (vs, nan, c) := foldModels s r (foldStart s st r) r.models
      let late := !s.isFirst && s.isTail && r.models.any fun m => m.st == 1 || m.st == 2
      let absent := r.models.any fun m => m.st != 4 && !(late && (m.st == 1 || m.st == 2))
      let pred := predRes s r
      let read := if r.kind = .span then spanVals s d vs else vs
      let flags := (((r.flags ||| (if beatLt r.sealBy s.beat then fRecExt else 0)) ||| (if nan then fNanSeen else 0)) ||| (if absent then fTimeout else 0)) ||| pred.2
      let flags := if readsDelta s r d read then setFlag flags fDelta else flags
      let res := r.results ++ pred.1 ++ (if late then [vIncomplete] else []) ++ scoreRules d (if r.residue then read.filter fun v => v.1 < 8 else read) ++ (if absent then [p.mapTimeout] else []) ++ (if hasFlag flags fNanSeen then [p.mapNan] else [])
        ++ (if r.draw = 3 then [vBudget] else []) ++ (if r.noStack then [vHold] else []) ++ (if r.shed = 1 then [vHold] else if r.shed = 2 then [vBudget] else [])
      let bad := mismatch.any fun x => x.1.toNat == r.h && x.2 == r.pos && (r.kind == .committed || r.kind == .draft)
      let v := if bad then vIndet else combine res
      let deltas := spanDeltas s r read
      let s := ((s.putAccs r c).foldNew r).count 29 (b2n bad)
      let s := if deltas.isEmpty then s else s.setStream r.h fun x => { x with inDeltas := (x.inDeltas ++ deltas).eraseDups }
      let s := s.setRec id fun x => { x with sealed := true, verdict := v, flags := flags, rel := beatMax x.rel s.beat }
      let s := traceScores s r vs
      s.ev 37 0x07 r.h [(v, 0), (if r.spec then setFlag flags fSpec else flags, 4), (r.pos, 16)]

/-- A record sealed with a verdict in place of its screening; the screening state moves on without its results (R35). -/
def State.giveUp (s : State) (id v : Nat) : State :=
  match s.rec? id with
  | none => s
  | some r =>
    match s.stream? r.h with
    | none => s
    | some st =>
      let s := s.setRec id fun x => { x with
        screened := true, results := x.results ++ [v], waitTile := [], torn := false, models := x.models.filter fun m => m.st != 5 }
      if r.screened || r.kind = .span || r.kind = .chunk then s
      else if r.kind = .marker then s.adoptPath st r
      else
        let p := (s.polOf r.polSlot).getD default
        let (f, c, bs) := screenToken s st p (startCtx st r) r.token r.pos
        (s.setRec id fun x => { x with bytes := bs, compl := f.compl, pend := c.pend, off := (startCtx st r).off }).putCtx r c
/-- At a tail, a record whose predecessor's result is not in by its seal (R428). -/
def State.sealMissing (s : State) (id : Nat) : State := s.giveUp id vIncomplete
def missingAt (s : State) (r : Rec) : Bool :=
  s.isTail && !s.isFirst && r.stamp.isSome && !r.screened && beatLe r.sealBy s.beat && (r.kind == .committed || r.kind == .draft || r.kind == .span)
/-- A record whose recovery has not finished by the end of the second extension beat (R74). -/
def expired (s : State) (r : Rec) : Bool :=
  r.stamp.isSome && !r.sealed && beatLe (beatAdd r.sealBy 2) s.beat && !(r.kind == .stepEnd)
    && (!r.waitTile.isEmpty || !r.screened || r.models.any fun m => m.st == 5)
def State.expire (s : State) (id : Nat) : State := (s.setRec id fun x => { x with flags := setFlag x.flags fRecExt }).giveUp id vIndet
def execRecoveryExtExpiry (rec : Nat) (s : State) : Host.Outcome State Fault Refusal :=
  .next (if s.complete && !s.clk.stopped && ((s.rec? rec).map (expired s)).getD false then s.expire rec else s)

/-- Whether a record is sealed in this beat: due, screened, and no recovery outstanding (R35, R74). -/
def sealDue (s : State) (r : Rec) : Bool :=
  r.stamp.isSome && !r.sealed && beatLe r.sealBy s.beat && r.screened && r.waitTile.isEmpty && r.models.all (fun m => m.st != 5)
    && (r.kind == .committed || r.kind == .draft || r.kind == .span || r.kind == .chunk)

/-- What the input verdict waits for is sealed before the records that a final one lets fold anew (Table 9-13). -/
def sealOrder (s : State) : List Nat :=
  let due := s.recs.filter (sealDue s)
  let inp (r : Rec) : Bool := r.kind == .span || r.kind == .chunk
  (due.filter inp ++ due.filter fun r => !inp r).map (·.id)
/-- The seal phase (R35, R56, R62). -/
def State.sealBeat (s : State) (mismatch : List (W32 × Nat)) : State :=
  let s := s.toPhase 2
  let s := { s with integ := { s.integ with mismatch := mismatch.map fun (x : W32 × Nat) => (x.1.toNat, x.2) } }
  let s := s.depRounds
  let s := ((s.recs.filter (missingAt s)).map (·.id)).foldl State.sealMissing s
  let s := ((s.recs.filter (expired s)).map (·.id)).foldl State.expire s
  (sealOrder s).foldl (fun s id => s.sealRec mismatch id) s

end Sys2Proof.Machine
end

