-- ==== Sys2Proof/Machine/Release.lean ====
section
/-! DEFINITION. The release phase: chunk and input verdicts, released records, egress batches, closes and completion entries (R40 to R48,
R106 to R110, R112, R129, R136 to R145). -/

namespace Sys2Proof.Machine

/-! Input verdicts. -/

def State.dropRec (s : State) (id : Nat) : State := { s with recs := s.recs.filter fun r => r.id != id }

/-- A chunk verdict released (R107, R136, R172); one whose token words could not be written is not (R388, R478). -/
def State.releaseChunk (s : State) (st : Stream) (r : Rec) : State :=
  let s := (s.dropRec r.id).count (if r.verdict = vPass then 25 else 26) 1
  let s := s.setStream st.handle fun x => { x with
    inRes := [combine (x.inRes ++ [r.verdict])], inFlags := x.inFlags ||| r.flags,
    passed := if r.verdict = vPass then x.passed ++ [r.token] else x.passed,
    lastChunk := if r.step = 1 then some r.token else x.lastChunk }
  if r.rows.any s.host.failed.contains then s
  else if s.isTail then s.postVerdict st 1 r.verdict r.flags s.beat r.token r.pos r.rows else s.relayChunk st r

/-- A span's results released into the input verdict. -/
def State.releaseSpan (s : State) (st : Stream) (r : Rec) : State :=
  (s.dropRec r.id).setStream st.handle fun x => { x with inRes := [combine (x.inRes ++ [r.verdict])], inFlags := x.inFlags ||| r.flags }

/-- The input verdict can be final: the last chunk's verdict is released and every needed span has been (R40). -/
def inputReady (s : State) (st : Stream) (d : PolDir) : Bool :=
  let open_ := s.recs.filter fun r => r.h == st.handle && (r.kind == .span || r.kind == .chunk)
  st.inVerdict.isNone && st.lastChunk.isSome && open_.isEmpty && (neededSpans s st d).all st.spans.contains

/-- Values of the accumulating span heads at the input verdict (R289, R290). -/
def headVals (s : State) (d : PolDir) (c : Ctx) : List (Nat × List W32) :=
  ((List.range d.heads.length).zip d.heads).filterMap fun x =>
    match (s.activeOf 6 x.2).bind fun y => y.2.head? with
    | some h =>
      if h.accumulate = 0 || h.source = 0 then none
      else
        let n := c.accN.getD h.accIndex 0
        let ys := if n = 0 then List.replicate h.nOut (accIni h.accumulate) else (c.accs.drop (16 * h.accIndex)).take h.nOut
        some (x.1, if h.accumulate = 3 then ys.map fun a => fDivN a n else ys)
    | none => none

/-- A slot number for a stream's section. -/
def Stream.slotNo (st : Stream) : Nat := st.slot.getD st.lastSlot

/-- Positions of a stream's entries whose check code differed in this beat's seal phase (R135). -/
def State.badAt (s : State) (h : Nat) : List Nat := (s.integ.mismatch.filter fun x => x.1 == h).map (·.2)

/-- The input verdict becomes final (R42, R137, R138): under any verdict but PASS the entries that waited for it are discarded. -/
def State.finishInput (s : State) (st : Stream) : State :=
  let d := (s.streamPol st).inDir
  if !inputReady s st d then s
  else
    let vals := headVals s d st.inCtx
    let v := combine (st.inRes ++ scoreRules d vals)
    let flags := if vals.any fun x => d.scoreRules.any (fun r => r.model == x.1) && st.inDeltas.contains x.1 then setFlag st.inFlags fDelta else st.inFlags
    let s := s.count (if v = vPass then 27 else 28) 1
    let s := if s.isTail then s.postVerdict st 2 v flags s.beat (st.lastChunk.getD 0) (st.p0 + st.tokIdx) [] else s
    if v = vPass then s.setStream st.handle fun x => { x with inVerdict := some v, inFlags := flags }
    else
      s.setStream st.handle fun x => { x with
        inVerdict := some v, inFlags := flags, waiting := [], held := [], pends := [], tail := false, e10 := false }
/-- The entries that waited for an input verdict that is PASS now go out together; a mismatch of their check codes in this beat leaves them
without bytes (R135, R138). -/
def State.sendWaiting (s : State) (h : Nat) : State :=
  match s.stream? h with
  | none => s
  | some st =>
    if st.inVerdict ≠ some vPass || st.waiting.isEmpty then s
    else
      let bad := s.badAt h
      let es := st.waiting.map fun e =>
        if e.etype = 2 then endEntry st bad (endVerdict st) (stampPolicy s st).2.1 else if bad.contains e.pos then e.as h vIndet [] else e
      (s.setRing st.ring fun r => { r with waited := r.waited ++ (orderEntries es).map fun e => (h, st.slotNo, e) }).setStream h fun x => { x with waiting := [] }

/-! Released records. -/

/-- An entry put into a step's batch, with the latest release beat of its records (R129). -/
def Ring.addStep (r : Ring) (step due : Nat) (es : List (Nat × Nat × EgEntry)) : Ring :=
  match AMap.get? r.acc step with
  | some old => { r with acc := AMap.set r.acc step (beatMax old.1 due, old.2 ++ es) }
  | none => { r with acc := AMap.set r.acc step (due, es) }

/-- Records of a stream that the gate takes now: in position order, up to the first that is not due. -/
def gateDue (s : State) (h : Nat) : List Rec :=
  (sortAsc (·.pos) (s.recs.filter fun r => r.h == h && r.kind == .committed && r.stamp.isSome)).takeWhile fun r => r.sealed && beatLe r.rel s.beat

/-- Bytes waiting at the gate before the input verdict is final (R138). -/
def waitingBytes (st : Stream) : Nat := sumBy (·.bytes.length) st.waiting

/-- The verdict a record leaves the gate with: HOLD when its bytes do not fit before the input verdict is final (R138). -/
def gateVerdict (final : Bool) (st : Stream) (g : Gate) (p : PolicyImg) (r : Rec) : Nat :=
  let eff := effectOf p r.verdict
  let kept := (g.bytes.filter fun x => x.fate ≤ 1).length
  if !final && releases eff && waitingBytes st + kept + r.bytes.length > 384 then vHold else r.verdict

/-- Whether a stream's grammar ends it at a dead end (Table 6-7). -/
def State.failsDead (s : State) (st : Stream) : Bool :=
  match s.grammarOf st with | some (_, _, gi) => gi.deadPolicy == .failStream | none => false

/-- Records taken one after another, up to one that ends the output, whose step is answered; behind a FAIL_STREAM dead end its step writes
nothing more (R203, R219, Table 7-2). A position of bad has a check-code mismatch now (R135). -/
def gateStep (s : State) (bad : List Nat) (final : Bool) : Option Nat → Gate → Stream → List Rec → Gate × Stream × Option Nat
  | _, g, st, [] => (g, st, none)
  | skip, g, st, r :: rs =>
    if skip = some r.step then gateStep s bad final skip g st rs
    else
      let p := (s.polOf r.polSlot).getD default
      let last := hasFlag r.flags fGramDead && s.failsDead st
      let r : Rec := { r with flags := r.flags ||| st.nextFlags }
      let v := if bad.contains r.pos then vIndet else gateVerdict final st g p r
      let st : Stream := { st with nextFlags := 0, outRes := [combine (st.outRes ++ [v])], outFlags := st.outFlags ||| r.flags }
      let g := g.take p r v
      if effectOf p v = vBlock then (g, st, some r.step) else gateStep s bad final (if last then some r.step else skip) g st rs

/-- Released entries go to their step's batch, or wait for the input verdict; what joins a waiting entry takes its place, also in the beat in
which the verdict becomes final (R138, Table 1-3). -/
def State.gatePut (s : State) (st : Stream) (step due : Nat) (es : List EgEntry) : State :=
  if st.inVerdict = some vPass then
    let joins (e : EgEntry) : Bool := e.etype == 0 && st.waiting.any fun w => w.pos == e.pos && w.etype == 0
    (s.setStream st.handle fun x => { x with waiting := joinWaiting x.waiting (es.filter joins) }).setRing st.ring fun r =>
      r.addStep step due ((es.filter fun e => !joins e).map fun e => (st.handle, st.slotNo, e))
  else
    (s.setStream st.handle fun x => { x with waiting := joinWaiting x.waiting es }).setRing st.ring fun r => r.addStep step due []

/-- No entry of a stream is written any more: its last one is, or its input verdict is not PASS (R42, R145). -/
def gateShut (st : Stream) : Bool := st.e10 || (st.inVerdict.isSome && st.inVerdict != some vPass)
/-- A stream's due records through the gate, all of one beat together; each step's entries go with that step (R140 to R145, R219). -/
def State.gateStream (s : State) (h : Nat) : State :=
  match s.stream? h, gateDue s h with
  | _, [] => s
  | none, _ => s
  | some st, rs =>
    let s := rs.foldl (fun s r => (s.dropRec r.id).dropPred r) s
    let steps := (rs.map (·.step)).eraseDups
    let due (k : Nat) : Nat := (rs.filter fun r => r.step == k).foldl (fun b r => beatMax b r.rel) ((rs.headD Rec.blank).rel)
    if gateShut st then steps.foldl (fun s k => s.setRing st.ring fun x => x.addStep k (due k) []) s
    else
      let bad := s.badAt h
      let (g, st1, ended) := gateStep s bad st.inVerdict.isSome none (Gate.ofHeld st) st rs
      let (es, held) := g.close h bad st.waiting
      let s := (s.count 30 g.forced).count 31 (mergeSpans (sortAsc (·.lo) g.spans)).length
      let s := ((es.filter fun e => e.2.etype == 0).foldl (fun s e => s.count (16 + e.2.verdict) 1) s)
      let pol := (stampPolicy s st1).2.1
      let st2 : Stream := { st1 with held := held, pends := g.pends, forced := g.gone, gateTail := g.before }
      let st3 : Stream := if ended.isSome then { st2 with ended := some (endVerdict st1), tail := false, e10 := true } else st2
      let s := s.setStream h fun _ => st3
      let es := es ++ (match ended with | some k => [(k, endEntry st3 bad (endVerdict st3) pol)] | none => [])
      steps.foldl (fun s k => s.gatePut st3 k (due k) (orderEntries ((es.filter fun e => e.1 == k).map (·.2)))) s

/-- Step ends whose beat has come (R129). -/
def State.releaseEnds (s : State) : State :=
  let due := s.recs.filter fun r => r.kind == .stepEnd && r.stamp.isSome && beatLe r.rel s.beat
  due.foldl (fun s r =>
    let s := s.dropRec r.id
    match s.stream? r.h with | some st => s.setRing st.ring fun x => x.addStep r.step r.rel [] | none => s) s

/-- Output that ended at a boundary: its last entries once no record stamped before is unreleased (R46, R145). -/
def State.releaseTail (s : State) (h : Nat) : State :=
  match s.stream? h with
  | none => s
  | some st =>
    if !st.tail || gateShut st || s.recs.any fun r => r.h == h && r.kind == .committed && r.stamp.isSome then s
    else
      let es := freeHeld h (s.badAt h) st.waiting st.held ++ [endEntry st (s.badAt h) (endVerdict st) (stampPolicy s st).2.1]
      let s := s.setStream h fun x => { x with tail := false, e10 := true, held := [], pends := [] }
      if !s.isTail then s
      else if st.inVerdict ≠ some vPass then s.setStream h fun x => { x with waiting := joinWaiting x.waiting es }
      else
        let joins (e : EgEntry) : Bool := e.etype == 0
        let s := s.setStream h fun x => { x with waiting := joinWaiting x.waiting (es.filter joins) }
        let out := (es.filter fun e => !joins e).map fun e => (h, st.slotNo, e)
        s.setRing st.ring fun r =>
          match (r.acc.filter fun (x : Nat × (Nat × List (Nat × Nat × EgEntry))) => x.2.2.any fun e => e.1 == h).getLast? with
          | some x => { r with acc := AMap.set r.acc x.1 (x.2.1, x.2.2 ++ out) }
          | none => { r with next := r.next ++ out }

/-! Closing. -/

/-- A closing stream whose records are all released gives its last entries; one whose input verdict is not PASS, or never came, gives the
entry of etype 10 alone (R42, R43, R46, R145; log 54). -/
def State.releaseClose (s : State) (h : Nat) : State :=
  match s.stream? h with
  | none => s
  | some st =>
    if st.phase ≠ .closing || !(s.recsOf h).isEmpty then s
    else
      let s := s.setRing st.ring fun r => { r with
        loose := r.loose ++ r.next.filter (fun e => e.1 == h), next := r.next.filter fun e => e.1 != h }
      if (st.e10 && !(st.waiting.any fun e => e.etype == 2)) || !s.isTail then s.setStream h fun x => { x with waiting := [], held := [], pends := [], tail := false, e10 := true }
      else
        let free := if st.inVerdict = some vPass then freeHeld h (s.badAt h) [] st.held else []
        let es := (free ++ [endEntry st (s.badAt h) (outVerdict st) (stampPolicy s st).2.1]).map fun e => (h, st.slotNo, e)
        let s := s.setStream h fun x => { x with e10 := true, tail := false, waiting := [], held := [], pends := [] }
        s.setRing st.ring fun r =>
          match (r.acc.filter fun (x : Nat × (Nat × List (Nat × Nat × EgEntry))) => x.2.2.any fun e => e.1 == h).getLast? with
          | some x => { r with acc := AMap.set r.acc x.1 (x.2.1, x.2.2 ++ es) }
          | none => { r with loose := r.loose ++ es }

/-- Entries of a stream not yet written. -/
def entriesLeft (r : Ring) (h : Nat) : Bool :=
  let has (es : List (Nat × Nat × EgEntry)) : Bool := es.any fun e => e.1 == h
  r.acc.any (fun x => has x.2.2) || has r.loose || has r.waited || has r.next || r.egPend.any fun b => b.sections.any fun x => x.stream == h

/-- The close completes once the stream's last batch is written (R112, R119); the stream is Closed from the next boundary (R118). At a member
that is not the range's tail, which has no output results of its own, the completion carries the same verdict over what it has (R54 leaves it
open: the model's choice, log 65). -/
def State.finishClose (s : State) (h : Nat) : State :=
  match s.stream? h with
  | none => s
  | some st =>
    if st.phase ≠ .closing || st.closing.isNone || !(s.recsOf h).isEmpty || !st.e10 || entriesLeft (s.ring st.ring) h then s
    else
      let s := s.count 108 1
      let s := match st.closing with
        | some c => s.finishId c { status := stOK, verdict := outVerdict st, flags := outFlagsOf st, resB := st.charged, pos := st.pos, after := st.lastBatch.toList }
        | none => s
      let s := { s with stack := { s.stack with allowUsed := s.stack.allowUsed.filter fun k => st.allowSlot != some k } }
      s.setStream h fun x => { x with closing := none }

/-! Batches. -/

/-- Whether a record still holds back its step's batch (R129). -/
def holdsStep (s : State) (r : Rec) : Bool :=
  match r.kind with
  | .draft => r.stamp.isNone || !r.sealed || beatLt s.beat r.rel
  | .chunk => false
  | .span => false
  | _ => true
/-- A step's batch is due on a ring: its records are released and its slots' parts are closed (R129). -/
def stepReady (s : State) (k step : Nat) : Bool :=
  let onRing (h : Nat) : Bool := ((s.stream? h).map (·.ring)) == some k
  !(s.recs.any fun r => onRing r.h && r.step == step && holdsStep s r)
    && !((streamsOf s k).any fun st => (st.step.map (·.seq)) == some step)

/-- Steps of a ring with anything to come, in step order from the last one written. -/
def ringSteps (s : State) (k : Nat) : List Nat :=
  let r := s.ring k
  let recs := (s.recs.filter fun x => ((s.stream? x.h).map (·.ring)) == some k && holdsStep s x).map (·.step)
  let parts := (streamsOf s k).filterMap fun st => st.step.map (·.seq)
  sortAsc (fun x => (x + 65536 - r.lastStep + 32768) % 65536) ((AMap.keys r.acc ++ recs ++ parts).eraseDups)

/-- Ready steps, none passing an earlier one that waits (Table 2-9). -/
def readySteps (s : State) (k : Nat) : List Nat := (ringSteps s k).takeWhile fun x => stepReady s k x

/-- Slots a batch may take: 256 and half the ring (R109). -/
def batchLimit (e : RingEntry) : Nat := min 256 (ringSize e.egSize / 2)

/-- The batches of a ring formed in this release phase: one per ready step; entries that waited for an input verdict go with the first of them,
the other loose ones with the last, or all of them out of step (R45, R138, R139). -/
def State.formBatches (s : State) (k : Nat) : State :=
  let r := s.ring k
  match r.entry with
  | none => s
  | some e =>
    let steps := readySteps s k
    let full := steps.filterMap fun x => match AMap.get? r.acc x with
      | some (due, es) => if es.isEmpty then none else some (x, due, es)
      | none => none
    let acc := r.acc.filter fun (x : Nat × (Nat × List (Nat × Nat × EgEntry))) => !steps.contains x.1
    let lim := batchLimit e
    let cut (x : Nat × Nat × List (Nat × Nat × EgEntry)) : List Batch := cutBatches lim x.2.1 x.1 s.beat [] (orderBatch x.2.2)
    if !full.isEmpty then
      let extra := r.loose ++ r.next
      let last := full.getLastD (0, 0, [])
      let all := full.dropLast ++ [(last.1, last.2.1, last.2.2 ++ extra)]
      let all := match all with | [] => [] | x :: xs => (x.1, x.2.1, r.waited ++ x.2.2) :: xs
      s.setRing k fun x => { x with acc := acc, loose := [], waited := [], next := [], lastStep := last.1, egPend := x.egPend ++ all.flatMap cut }
    else if !r.loose.isEmpty || !r.waited.isEmpty then
      s.setRing k fun x => { x with
        acc := acc, loose := [], waited := [], next := [], egPend := x.egPend ++ cut (r.lastStep, s.beat, r.waited ++ r.loose ++ r.next) }
    else s.setRing k fun x => { x with acc := acc }

/-- One batch written, behind a pad batch when it would wrap; none while too few slots are returned (R109, R110). -/
def State.writeBatch (s : State) (k : Nat) (e : RingEntry) (b : Batch) : Option State :=
  let r := s.ring k
  let n := ringSize e.egSize
  let m := batchSlots b.sections
  let left := n - r.egTail
  let pad := if left < m then left else 0
  if n - r.egUsed < pad + m then none
  else
    let s := if pad = 0 then s else
      let (d, c) := batchWrite e.egBase r.egTail s.beat r.egPhase true false pad ⟨s.beat, b.step, false, s.beat, []⟩
      let s := (s.write' (.batch k pad) e.attr d (some c)).count 100 1
      s.setRing k fun x => { x with egTail := 0, egPhase := !x.egPhase, egUsed := x.egUsed + pad }
    let r := s.ring k
    let late := beatLt b.since s.beat
    let (d, c) := batchWrite e.egBase r.egTail s.beat r.egPhase false late m b
    let (j, s) := s.write (.batch k m) e.attr d (some c) []
    let s := (s.count 98 1).count 99 (b2n late)
    let s := s.ev 37 0x08 0 [(k, 0), (b.step, 10), (m, 26), (b2n late, 35)]
    let t := r.egTail + m
    let s := s.setRing k fun x => { x with
      egTail := if t = n then 0 else t, egPhase := if t = n then !x.egPhase else x.egPhase, egUsed := x.egUsed + m }
    some (b.sections.foldl (fun s x => s.setStream x.stream fun st => { st with lastBatch := some j }) s)

/-- Waiting batches of a ring in order, as far as slots allow. -/
def State.writeBatches : Nat → Nat → State → State
  | 0, _, s => s
  | f + 1, k, s =>
    let r := s.ring k
    match r.entry, r.egPend with
    | some e, b :: bs =>
      match s.writeBatch k e b with
      | some s => State.writeBatches f k (s.setRing k fun x => { x with egPend := bs })
      | none => s
    | _, _ => s

/-! Completion entries. -/

/-- Words 0 to 3 of a completion entry (Table 3-4). -/
def cplWords (c : Cpl) (phase : Bool) : List W64 :=
  [w64 [(c.tag, 0), (c.index, 16), (c.opcode, 32), (c.kind, 40)], w64 [(c.stream, 0), (c.resA, 32)], w64 [(c.resB, 0)],
   w64 [(c.status, 0), (c.verdict, 8), (c.flags, 12), (c.pos, 24), (b2n phase, 63)]]

/-- An admission's completion waits for the end of its beat, when its checks are settled (R70). -/
def Cpl.unsettled (s : State) (c : Cpl) : Bool :=
  s.running && c.kind == 0 && c.status == stOK && c.since == s.beat && [0x01, 0x11, 0x1A].contains c.opcode
/-- Completion entries written while the ring has returned entries (R106, R110). -/
def State.writeCpls : Nat → Nat → State → State
  | 0, _, s => s
  | f + 1, k, s =>
    let r := s.ring k
    match r.entry, r.cqPend with
    | some e, c :: cs =>
      let n := ringSize e.cqSize
      if n ≤ r.cqUsed || c.unsettled s then s
      else
        let a := e.cqBase + 32 * r.cqTail
        let ws := cplWords c r.cqPhase
        let (_, s) := s.write (.cpl k c.irq 0) e.attr [(a, wordsBytes (ws.take 3))] (some (a + 24, wordsBytes (ws.drop 3))) c.after
        let t := r.cqTail + 1
        let s := (s.count 97 1).setRing k fun x => { x with
          cqPend := cs, cqTail := if t = n then 0 else t, cqPhase := if t = n then !x.cqPhase else x.cqPhase, cqUsed := x.cqUsed + 1 }
        State.writeCpls f k s
    | _, _ => s

/-! The phase. -/

/-- A member that is not the tail forwards a result and drops the record; a draft's stays for its marker (R54, R428). -/
def State.forwardRec (s : State) (r : Rec) : State :=
  let s := if r.released then s else s.relayRec r
  if r.kind = .draft then s.setRec r.id fun x => { x with released := true } else s.dropRec r.id
/-- Results of a member that is not the tail, in record order. -/
def State.forwardAll (s : State) : State :=
  let due := s.recs.filter fun r => r.stamp.isSome && beatLe r.rel s.beat && match r.kind with
    | .committed => r.sealed
    | .draft => r.sealed && !r.released
    | .stepEnd => true
    | _ => false
  due.foldl State.forwardRec s

/-- Chunk and span records whose beat has come; before the tail, a chunk's words are in the token buffer first (R172). -/
def State.releaseInputs (s : State) : State :=
  let due := s.recs.filter fun r => (r.kind == .chunk || r.kind == .span) && r.sealed && beatLe r.rel s.beat
    && (s.isTail || r.rows.all fun j => !AMap.has s.host.jobs j)
  due.foldl (fun s r => match s.stream? r.h with
    | some st =>
      if r.kind = .chunk then s.releaseChunk st r else (if s.isTail then s.dropPred r else s.relayRec r).releaseSpan st r
    | none => s) s

/-- Everything released in one beat, up to the writes of the rings. -/
def State.releaseRecs (s : State) : State :=
  let s := s.releaseInputs
  let hs := s.openStreams.map (·.handle)
  let s := hs.foldl (fun s h => match s.stream? h with | some st => s.finishInput st | none => s) s
  let s := if s.isTail then hs.foldl State.gateStream s else s.forwardAll
  let s := if s.isTail then s.releaseEnds else s
  let s := (hs.foldl State.releaseTail s)
  let s := if s.isTail then hs.foldl State.sendWaiting s else s
  hs.foldl State.releaseClose s
/-- The rings' batches and completion entries. -/
def State.releaseRings (s : State) : State :=
  let ks := AMap.keys s.rings
  let s := ks.foldl State.formBatches s
  let s := ks.foldl (fun s k => s.writeBatches (s.ring k).egPend.length k) s
  let s := (s.openStreams.map (·.handle)).foldl State.finishClose s
  let s := ks.foldl (fun s k => s.writeCpls (s.ring k).cqPend.length k) s
  ks.foldl State.fetchRing s

/-- A batch or completion entry of a ring pending 4,000 beats cancels its streams (R110). -/
def State.egressStall (s : State) (k : Nat) : State :=
  let r := s.ring k
  if r.egPend.any (fun b => beatLe (beatAdd b.since 4000) s.beat) || r.cqPend.any (fun c => beatLe (beatAdd c.since 4000) s.beat) then
    (streamsOf s k).foldl (fun s st => s.askCancel st.handle vCancelled 0 true) s
  else s
def execEgressStallTimeout (ring : BitVec 10) (s : State) : Host.Outcome State Fault Refusal :=
  .next (if s.complete && !s.clk.stopped then s.egressStall ring.toNat else s)

end Sys2Proof.Machine
end

