-- ==== Sys2Proof/Machine/Cairns.lean ====
section
/-! DEFINITION. Prefix cairns: saving, resuming and retiring (R169, R223 to R233, R324). -/

namespace Sys2Proof.Machine

/-! The record (Tables 6-6 and 7-3); the inside of rows 1, 2, 4 and 5 to 7 is the model's (log 5). -/

def read32 (bs : List Byte) (off n : Nat) : List Nat := (List.range n).map fun i => rdN bs (off + 4 * i) 4

/-- Generation of an image slot, 0 for none. -/
def genOf (s : State) (slot : Option Nat) : Nat := ((slot.bind s.img?).map (·.hdr.gen)).getD 0
/-- Words 1 to 4 of row 0: what a resume compares with its stream (R228). -/
def cairnId (s : State) (st : Stream) : List W64 :=
  let t := s.tenant st.tenant
  [w64 [(st.tenant, 0), (st.policy, 12), ((s.vocabOf st).vocabIdx, 22), (b2n st.grammar.isSome, 26)],
   w64 [(((s.policyOf st.policy).map (·.2.1.hdr.gen)).getD 0, 0), (genOf s (some st.vocab), 32)],
   w64 [(genOf s st.grammar, 0)],
   w64 [(genOf s t.pd, 0), (genOf s t.td, 32)]]

/-- The context a cairn saves: the input's in Input open, the output's in Answering. -/
def savedCtx (st : Stream) : Ctx := if st.phase = .inputOpen then st.inCtx else st.ctx

/-- The record of a stream at a quiet boundary (Table 7-3). -/
def cairnRecord (s : State) (st : Stream) (handle gen : Nat) : List Byte :=
  let c := savedCtx st
  let ans := b2n (st.phase != .inputOpen)
  let idw := cairnId s st
  let words := BitVec.ofNat 64 handle :: ((idw.take 1).map fun w => BitVec.ofNat 64 (w.toNat + ans * 2 ^ 27)) ++ idw.drop 1
    ++ [w64 [(st.pos, 0)]]
  let rows := List.replicate 64 0#8 ++ words32 16 c.autos ++ gramRow st.ctx.gram 0 ++ words32 16 c.window
    ++ words32 48 (c.accs.map (·.toNat))
  let crc := crc32c (wordsBytes words ++ natToBytes 4 gen ++ rows)
  wordsBytes (words ++ [w64 [(gen, 0), (crc.toNat, 32)], w64 [(gen, 0), (1, 63)]]) ++ rows

/-! Saving. -/

def cairnPairs (s : State) : Nat := (s.region 1).2 / 1056
def freePairs (s : State) : List Nat := (List.range (cairnPairs s)).filter fun p => !(AMap.vals s.cairns).any fun c => c.pair == p

/-- Chunk verdicts released so far are all PASS (R225). -/
def chunksPass (s : State) (st : Stream) : Bool :=
  st.passed.length + (s.recs.filter fun r => r.h == st.handle && r.kind == RecK.chunk).length == st.chunkNo

/-- The static conditions of SAVE_CAIRN (R225). -/
def saveStatic (s : State) (st : Stream) : Bool :=
  match st.phase with
  | .inputOpen => (st.tokIdx + st.toks.length) % 4096 == 0 && chunksPass s st
  | .answering => st.inVerdict == some vPass
  | _ => false

/-- Frames of spans before the position that the policy reads have been taken in (R225). -/
def spansIn (s : State) (st : Stream) : Bool :=
  (neededSpans s st (s.streamPol st).inDir).all st.spans.contains

/-- The dynamic conditions: a quiet boundary (R169, R225). -/
def quiet (s : State) (st : Stream) : Bool :=
  (s.recsOf st.handle).isEmpty && st.waiting.isEmpty && st.nodes.isEmpty && st.carry.isEmpty && st.ctx.carry.isEmpty && st.held.isEmpty && st.pends.isEmpty
    && st.ctx.pend.isEmpty && (st.phase != .inputOpen || spansIn s st)

/-- A retire of a handle is under way. -/
def retiring (s : State) (handle : Nat) : Bool :=
  s.cmds.any fun c => match c.k with | .retireC x _ => x == handle | _ => false
/-- A save or retire of a handle that Yogimen executed before a command, and that is not over (R233). -/
def handleBusy (s : State) (id handle : Nat) : Bool :=
  s.cmds.any fun c => decide (c.id < id) && match c.k with
    | .saveC _ x _ _ _ _ => x == handle | .retireC x _ => x == handle | _ => false
/-- A new directory entry on one of the free pairs given, whose choice is Yogimen's (log 4). -/
def State.newCairn (s : State) (handle tenant : Nat) (ps : List Nat) : Option Cairn × State :=
  let (i, s) := s.pick ps.length
  match ps[i]? with
  | some p => let k : Cairn := ⟨tenant, p, none, none⟩; (some k, { s with cairns := AMap.set s.cairns handle k })
  | none => (none, s)

/-- The tenant whose save of a handle waits behind a retire of it, the first one's: it is the owner of the cairn to come (R223, R233). -/
def heirOf (s : State) (handle : Nat) : Option (Nat × Nat) :=
  s.cmds.findSome? fun c => match c.k with
    | .saveC h x _ 0 _ _ => if x = handle then (s.stream? h).map fun st => (c.id, st.tenant) else none
    | _ => none
/-- SAVE_CAIRN after the shared checks. The first save of a handle makes the stream's tenant its owner (R223); behind a retire of the handle it
is a save of a new one (R233). While a save waits, its generation field holds replace. -/
def saveBody (d : Desc) (s : State) (c : Cmd) : State :=
  let h := dfld d 2 63 0
  let rp := dbit d 3 0
  match s.stream? c.stream with
  | none => s.finish c { status := stBadStream }
  | some st =>
    if !saveStatic s st then s.finish c { status := stState }
    else if retiring s h then
      match heirOf s h with
      | some (_, t) => if t ≠ st.tenant || !rp then s.finish c { status := stState } else s.keep c (.saveC st.handle h s.beat 0 0 1)
      | none => s.keep c (.saveC st.handle h s.beat 0 0 (b2n rp))
    else
      match AMap.get? s.cairns h with
      | some k =>
        if k.tenant ≠ st.tenant || !rp then s.finish c { status := stState } else s.keep c (.saveC st.handle h s.beat 0 0 1)
      | none =>
        let x := s.newCairn h st.tenant (freePairs s)
        if x.1.isNone then x.2.finish c { status := stCapacity } else x.2.keep c (.saveC st.handle h s.beat 0 0 1)
def execSaveCairn (d : Desc) (s : State) : Host.Outcome State Fault Refusal :=
  .next (runDesc s d (d.opcode == 0x06) (saveBody d))

/-- The directory entry a save writes: the handle's, or a new one after a retire. -/
def State.cairnFor (s : State) (handle tenant : Nat) : Option Cairn × State :=
  match AMap.get? s.cairns handle with
  | some k => (some k, s)
  | none => s.newCairn handle tenant (freePairs s)

/-- The record of a quiet boundary, for the location that is not current (R227): it is staged in a work tile (R393). -/
def State.saveAt (s : State) (c : Cmd) (st : Stream) (handle replace : Nat) : State :=
  match s.cairnFor handle st.tenant with
  | (none, s) => s.finish c { status := stCapacity }
  | (some k, s) =>
    if k.tenant ≠ st.tenant || (k.current.isSome && replace = 0) then s.finish c { status := stState }
    else
      let (loc, gen) : Nat × Nat := match k.current with | some (l, g) => (1 - l, (g + 1) % 2 ^ 32) | none => (0, 1)
      (s.dynWrite (.cairn c.id) (cairnRecord s st handle gen)).keep c (.saveC st.handle handle st.pos 3 loc gen)
/-- A staged record is sent once its work tile reads good; one that reads torn is read again in the next beat, and of a corrupt one no commit word
is written (R233, R393 to R395, R401). -/
def State.sendSave (s : State) (c : Cmd) : State :=
  match c.k with
  | .saveC h handle pos 3 loc gen =>
    match s.tileOf (.cairn c.id), AMap.get? s.cairns handle with
    | some (i, t), some k =>
      if c.paused || tileClass (t.read i s.free) = .torn || t.tornAt = some s.beat then s
      else if tileClass (t.read i s.free) ≠ .good then s.abort c stCorrupt
      else (s.keep c (.saveC h handle pos 1 loc gen)).firm 7 (.cairnSave c.id) [w64 [(cairnOff s k.pair loc, 0)]] t.payload 0
    | _, _ => s
  | _ => s
def State.pumpSaves (s : State) : State := s.cmds.foldl State.sendSave s

/-- A save of a stream that still waits for its boundary. -/
def waitingSave (s : State) (h : Nat) : Option (Cmd × Nat × Nat × Nat) :=
  s.cmds.findSome? fun c => match c.k with
    | .saveC x handle since 0 _ rp => if x = h then some (c, handle, since, rp) else none
    | _ => none

/-- The boundary tried for a waiting save: taken when it is quiet and no earlier save or retire of the handle is under way (R225, R233). -/
def State.saveQuiet (s : State) (h : Nat) : State :=
  match s.stream? h, waitingSave s h with
  | some st, some (c, handle, _, rp) =>
    if !s.clk.stopped && quiet s st && !handleBusy s c.id handle then s.saveAt c st handle rp else s
  | _, _ => s
def execSaveCairnQuietBoundary (h : W32) (s : State) : Host.Outcome State Fault Refusal :=
  .next (if s.atEnd && !s.clk.stopped then s.saveQuiet h.toNat else s)

/-- No quiet boundary within 4,000 beats (R225). -/
def State.saveTimeout (s : State) (h : Nat) : State :=
  match waitingSave s h with
  | some (c, handle, since, _) =>
    if beatLe (beatAdd since 4000) s.beat then (s.finish c { status := stState }).dropNewCairn c.id handle else s
  | none => s
def execSaveCairnTimeout (h : W32) (s : State) : Host.Outcome State Fault Refusal := .next (s.saveTimeout h.toNat)

/-- A save's record is written: the other location's valid bit is cleared (R227). -/
def State.cairnWritten (s : State) (cmd : Nat) : State :=
  match s.cmd? cmd with
  | none => s
  | some c =>
    match c.k with
    | .saveC h handle since _ loc gen =>
      match AMap.get? s.cairns handle with
      | some k =>
        (s.setCmd cmd fun x => { x with k := .saveC h handle since 2 loc gen }).firm 7 (.cairnClear cmd) [w64 [(cairnOff s k.pair (1 - loc), 0), (1, 40)]] [] 0
      | none => s.finish c { status := stInternal }
    | _ => s

/-- The other location is cleared: the record written is the current one, and the save completes with the position saved. -/
def State.cairnCleared (s : State) (cmd : Nat) : State :=
  match s.cmd? cmd with
  | none => s
  | some c =>
    match c.k with
    | .saveC _ handle pos _ loc gen =>
      let s := { s with cairns := AMap.modify s.cairns handle fun k =>
        if loc = 0 then { k with gen0 := some gen, gen1 := none } else { k with gen0 := none, gen1 := some gen } }
      s.finish c { status := stOK, pos := pos }
    | _ => s

/-! Resuming. -/

/-- A location is committed (R228). -/
def cairnCommitted (bs : List Byte) : Bool :=
  bit (rd64 bs 56) 63 && fld (rd64 bs 56) 31 0 == fld (rd64 bs 48) 31 0
def cairnGen (bs : List Byte) : Nat := fld (rd64 bs 48) 31 0
def cairnCrcOk (bs : List Byte) : Bool :=
  (crc32c (sliceB bs 0 52 ++ sliceB bs 64 448)).toNat == fld (rd64 bs 48) 63 32
/-- The location a resume uses. -/
def chooseCairn (a b : List Byte) : Option (Nat × List Byte) :=
  match cairnCommitted a, cairnCommitted b with
  | true, true => if genNewer (cairnGen b) (cairnGen a) then some (1, b) else some (0, a)
  | true, false => some (0, a)
  | false, true => some (1, b)
  | false, false => none

/-- Spans folded before a position by the span head of each accumulator (R289, R290). -/
def spansFolded (s : State) (d : PolDir) (pos : Nat) : List Nat :=
  (List.range 3).map fun i =>
    maxBy (fun id => match (s.activeOf 6 id).bind fun x => x.2.head? with
      | some h => if h.source = 1 && h.accumulate ≠ 0 && h.accIndex = i then (if h.spanLimit = 0 then cdiv pos 64 else min (cdiv pos 64) h.spanLimit) else 0
      | none => 0) d.heads

/-- A chosen, sound and matching record restored into the stream (R229, R230). Where the numbering of spans and span_limit begin is the
model's choice: at 0 after a save in Input open, at the first multiple of 64 from p0 on after one in Answering (log 58). -/
def restoreCairn (s : State) (st : Stream) (bs : List Byte) : Stream :=
  let p := s.streamPol st
  let pos := fld (rd64 bs 40) 23 0
  let ans := bit (rd64 bs 8) 27
  let st : Stream := { st with
    pos := pos, p0 := pos,
    spanBase := if ans then cdiv pos 64 * 64 else 0,
    ctx := { st.ctx with gram := if st.grammar.isSome then some (readGram (sliceB bs 192 64)) else none } }
  if ans then { st with inCtx := freshCtx s p p.inDir none }
  else
    { st with inCtx := { st.inCtx with
        autos := (read32 bs 128 16).take p.inDir.autos.length, window := read32 bs 256 14,
        accs := (read32 bs 320 48).map (BitVec.ofNat 32), accN := spansFolded s p.inDir pos } }

/-- Both locations read: the status of the resume, and the restored stream (R228). -/
def resumeWith (s : State) (st : Stream) (a b : List Byte) : Except (Nat × Nat) Stream :=
  match chooseCairn a b with
  | none => .error (stNotFound, 2)
  | some (loc, bs) =>
    if !cairnCrcOk bs then .error (stCorrupt, loc)
    else
      let w1 := rd64 bs 8
      let ids := [setFld w1 27 27 0, rd64 bs 16, rd64 bs 24, rd64 bs 32]
      if ids ≠ cairnId s st then .error (stState, 2) else .ok (restoreCairn s st bs)

/-- RESUME_CAIRN after the shared checks. -/
def resumeBody (d : Desc) (s : State) (c : Cmd) : State :=
  let h := dfld d 2 63 0
  match s.stream? c.stream with
  | none => s.finish c { status := stBadStream }
  | some st =>
    if st.pos ≠ 0 || st.ingested || st.phase ≠ .inputOpen || st.p0 ≠ 0 then s.finish c { status := stState }
    else
      match AMap.get? s.cairns h with
      | none => s.finish c { status := stNotFound }
      | some k =>
        if k.tenant ≠ st.tenant then s.finish c { status := stState }
        else
          loadCairn (s.keep c (.resumeC st.handle h [])) c.id k
def execResumeCairn (d : Desc) (s : State) : Host.Outcome State Fault Refusal :=
  .next (runDesc s d (d.opcode == 0x07) (resumeBody d))

/-! Retiring. -/

/-- A resume from a cairn is in progress. -/
def resuming (s : State) (handle : Nat) : Bool :=
  s.cmds.any fun c => match c.k with
    | .resumeC _ x _ => x == handle
    | .openS _ (some x) _ _ _ => x == handle
    | _ => false

/-- Retires whose resumes are over clear both locations (R112, R231). -/
def State.pumpRetires (s : State) : State :=
  s.cmds.foldl (fun s c =>
    match c.k with
    | .retireC handle 0 =>
      if resuming s handle || handleBusy s c.id handle then s
      else
        match AMap.get? s.cairns handle with
        | none => s.finish c { status := stNotFound }
        | some k =>
          ((s.keep c (.retireC handle 2)).firm 7 (.retireClear c.id) [w64 [(cairnOff s k.pair 0, 0), (1, 40)]] [] 0).firm
            7 (.retireClear c.id) [w64 [(cairnOff s k.pair 1, 0), (1, 40)]] [] 0
    | _ => s) s

/-- RETIRE_CAIRN after the shared checks. -/
def retireBody (d : Desc) (s : State) (c : Cmd) : State :=
  let h := dfld d 2 63 0
  let t := dfld d 3 11 0
  match (s.ring c.ring).entry with
  | none => s.finish c { status := stBadTenant }
  | some e =>
    if !e.admin && e.tenant ≠ t then s.finish c { status := stBadTenant }
    else
      match AMap.get? s.cairns h with
      | none => s.finish c { status := stNotFound }
      | some k =>
        if k.tenant ≠ t then s.finish c { status := stBadTenant }
        else (s.keep c (.retireC h 0)).pumpRetires
def execRetireCairn (d : Desc) (s : State) : Host.Outcome State Fault Refusal :=
  .next (runDesc s d (d.opcode == 0x08) (retireBody d))

/-- A retired pair and its directory entry are free (R231). -/
def State.dropCairn (s : State) (handle : Nat) : State := { s with cairns := AMap.erase s.cairns handle }
/-- A save that waited for a retire of its handle has an entry of its own (R223, R233). -/
def State.giveHeir (s : State) (handle : Nat) : State :=
  (heirOf s handle).elim s fun x => (s.newCairn handle x.2 (freePairs s)).2
/-- One location of a retired pair is cleared; with the second the pair and its entry are free, and a save that waits for the handle has an
entry of its own (R223, R231, R233). -/
def State.retireCleared (s : State) (cmd : Nat) : State :=
  match s.cmd? cmd with
  | none => s
  | some c =>
    match c.k with
    | .retireC handle n =>
      if n ≤ 1 then
        (s.dropCairn handle).giveHeir handle |>.finish c { status := stOK }
      else s.keep c (.retireC handle (n - 1))
    | _ => s

/-- The end of a resume that failed; a corrupt record is logged (Table 15-6). -/
def cairnFailLog (s : State) (handle : Nat) (e : Nat × Nat) : State :=
  if e.1 = stCorrupt then s.log 0x0035 1 51 (BitVec.ofNat 64 handle) (w64 [(e.2, 0)]) 0#64 else s

/-- A step of an open's stack traffic is done; at the last one the cairn is restored and the stream opens (R197, R228). -/
def State.openStep (s : State) (cmd : Nat) (load : Option (Nat × List Byte)) : State :=
  match s.cmd? cmd with
  | none => s
  | some c =>
    match c.k with
    | .openS h cairn left loads bad =>
      let loads := loads ++ load.toList
      if 1 < left then s.keep c (.openS h cairn (left - 1) loads bad)
      else
        match cairn, AMap.get? s.streams (hIndex h) with
        | none, _ => s.opened c h
        | some handle, some st =>
          match resumeWith s.soon st (AMap.getD loads 0 []) (AMap.getD loads 1 []) with
          | .ok st' => (({ s with streams := AMap.set s.streams (hIndex h) st' }).opened c h).pumpRetires
          | .error e => ((((cairnFailLog s handle e).unopen h).finish c { status := e.1 })).pumpRetires
        | some _, none => s.finish c { status := stInternal }
    | _ => s

/-- A location of a cairn arrives (R228). -/
def State.cairnLoaded (s : State) (cmd loc : Nat) (bs : List Byte) : State :=
  match s.cmd? cmd with
  | none => s
  | some c =>
    match c.k with
    | .resumeC h handle loads =>
      let loads := AMap.set loads loc bs
      if loads.length < 2 then s.keep c (.resumeC h handle loads)
      else
        match s.stream? h with
        | none => s.finish c { status := stBadStream }
        | some st =>
          match resumeWith s st (AMap.getD loads 0 []) (AMap.getD loads 1 []) with
          | .ok st' => (((s.setStream h fun _ => st').finish c { status := stOK, pos := st'.pos })).pumpRetires
          | .error e => ((cairnFailLog s handle e).finish c { status := e.1 }).pumpRetires
    | .openS _ _ _ _ _ => s.openStep cmd (some (loc, bs))
    | _ => s

end Sys2Proof.Machine
end

