-- ==== Sys2Proof/Machine/Crypto.lean ====
section
/-! DEFINITION. SHA-512 and Ed25519ph verification with an empty context (R25, R449, R450); the algorithms are those of the
standards the manual names (PRESUMED: FIPS 180-4 and RFC 8032, log 11). -/

namespace Sys2Proof.Machine

/-! SHA-512. -/

/-- Greatest r below 2^(f) with r^k ≤ n, bit by bit. -/
def iroot (k n : Nat) : Nat → Nat → Nat
  | 0, r => r
  | f + 1, r => let t := r + 2 ^ f; iroot k n f (if t ^ k ≤ n then t else r)

/-- The first primes, by trial division. -/
def isPrime (n : Nat) : Bool := 2 ≤ n && (List.range n).all fun d => d < 2 || n % d ≠ 0

def primes : Nat → Nat → List Nat
  | 0, _ => []
  | f + 1, n => if isPrime n then n :: primes f (n + 1) else primes f (n + 1)

def first80 : List Nat := primes 410 2

/-- Round constants: fractional bits of the cube roots of the first 80 primes. -/
def sha512K : List W64 := first80.map fun p => BitVec.ofNat 64 (iroot 3 (p * 2 ^ 192) 68 0)
/-- Initial state: fractional bits of the square roots of the first 8 primes. -/
def sha512Init : List W64 := (first80.take 8).map fun p => BitVec.ofNat 64 (iroot 2 (p * 2 ^ 128) 68 0)

def sig0 (x : W64) : W64 := x.rotateRight 1 ^^^ x.rotateRight 8 ^^^ (x >>> 7)
def sig1 (x : W64) : W64 := x.rotateRight 19 ^^^ x.rotateRight 61 ^^^ (x >>> 6)
def big0 (x : W64) : W64 := x.rotateRight 28 ^^^ x.rotateRight 34 ^^^ x.rotateRight 39
def big1 (x : W64) : W64 := x.rotateRight 14 ^^^ x.rotateRight 18 ^^^ x.rotateRight 41

/-- Message schedule, newest word first. -/
def shaSched : Nat → List W64 → List W64
  | 0, w => w
  | f + 1, w =>
    let g := fun i => w.getD i 0
    shaSched f ((sig1 (g 1) + g 6 + sig0 (g 14) + g 15) :: w)

structure ShaSt where
  a : W64
  b : W64
  c : W64
  d : W64
  e : W64
  f : W64
  g : W64
  h : W64

def shaRound (s : ShaSt) (kw : W64 × W64) : ShaSt :=
  let t1 := s.h + big1 s.e + ((s.e &&& s.f) ^^^ (~~~s.e &&& s.g)) + kw.1 + kw.2
  let t2 := big0 s.a + ((s.a &&& s.b) ^^^ (s.a &&& s.c) ^^^ (s.b &&& s.c))
  ⟨t1 + t2, s.a, s.b, s.c, s.d + t1, s.e, s.f, s.g⟩

def be64 (bs : List Byte) : W64 := BitVec.ofNat 64 (bs.foldl (fun a b => a * 256 + b.toNat) 0)

def shaBlock (h : List W64) (blk : List Byte) : List W64 :=
  let w0 := (List.range 16).map fun i => be64 (sliceB blk (8 * i) 8)
  let w := (shaSched 64 w0.reverse).reverse
  let g := fun i => h.getD i 0
  let s := (sha512K.zip w).foldl shaRound ⟨g 0, g 1, g 2, g 3, g 4, g 5, g 6, g 7⟩
  [g 0 + s.a, g 1 + s.b, g 2 + s.c, g 3 + s.d, g 4 + s.e, g 5 + s.f, g 6 + s.g, g 7 + s.h]

def shaBlocks : Nat → List W64 → List Byte → List W64
  | 0, h, _ => h
  | k + 1, h, bs => shaBlocks k (shaBlock h (bs.take 128)) (bs.drop 128)

/-- SHA-512 digest, 64 bytes. -/
def sha512 (msg : List Byte) : List Byte :=
  let n := msg.length
  let z := (239 - n % 128) % 128
  let padded := msg ++ [0x80#8] ++ List.replicate z 0#8 ++ (natToBytes 16 (8 * n)).reverse
  (shaBlocks (padded.length / 128) sha512Init padded).flatMap fun w => (w64Bytes w).reverse

/-! Ed25519. -/

def edP : Nat := 2 ^ 255 - 19
def edL : Nat := 2 ^ 252 + 27742317777372353535851937790883648493

def powMod (m : Nat) : Nat → Nat → Nat → Nat → Nat
  | 0, _, _, acc => acc
  | f + 1, b, e, acc => powMod m f (b * b % m) (e / 2) (if e % 2 = 1 then acc * b % m else acc)

def fpPow (b e : Nat) : Nat := powMod edP 256 (b % edP) e 1
def fpInv (x : Nat) : Nat := fpPow x (edP - 2)
def fpSub (a b : Nat) : Nat := (a + edP - b % edP) % edP
def edD : Nat := fpSub 0 (121665 * fpInv 121666 % edP)

structure EdPt where
  x : Nat
  y : Nat
  z : Nat
  t : Nat

def edZero : EdPt := ⟨0, 1, 1, 0⟩

/-- Addition in extended coordinates. -/
def edAdd (d : Nat) (p q : EdPt) : EdPt :=
  let a := fpSub p.y p.x * fpSub q.y q.x % edP
  let b := (p.y + p.x) * (q.y + q.x) % edP
  let c := 2 * p.t * q.t * d % edP
  let dd := 2 * p.z * q.z % edP
  let e := fpSub b a
  let f := fpSub dd c
  let g := (dd + c) % edP
  let h := (b + a) % edP
  ⟨e * f % edP, g * h % edP, f * g % edP, e * h % edP⟩

def edMul (d : Nat) : Nat → Nat → EdPt → EdPt → EdPt
  | 0, _, _, acc => acc
  | f + 1, k, p, acc => edMul d f (k / 2) (edAdd d p p) (if k % 2 = 1 then edAdd d acc p else acc)

def edScalar (k : Nat) (p : EdPt) : EdPt := edMul edD 512 k p edZero

def edEq (p q : EdPt) : Bool :=
  p.x * q.z % edP = q.x * p.z % edP && p.y * q.z % edP = q.y * p.z % edP

/-- Point decoding of RFC 8032 5.1.3. -/
def edDecode (bs : List Byte) : Option EdPt :=
  let n := bytesToNat (bs.take 32)
  let y := n % 2 ^ 255
  let sgn := n / 2 ^ 255
  if y ≥ edP then none
  else
    let u := fpSub (y * y) 1
    let v := (edD * (y * y % edP) + 1) % edP
    let x0 := u * fpPow v 3 % edP * fpPow (u * fpPow v 7) ((edP - 5) / 8) % edP
    let vx := v * (x0 * x0 % edP) % edP
    let x? : Option Nat :=
      if vx = u then some x0
      else if vx = fpSub 0 u then some (x0 * fpPow 2 ((edP - 1) / 4) % edP)
      else none
    match x? with
    | none => none
    | some x =>
      if x = 0 ∧ sgn = 1 then none
      else
        let x' := if x % 2 = sgn then x else edP - x
        some ⟨x', y, 1, x' * y % edP⟩

/-- The base point: y = 4/5, x even. -/
def edBase : Option EdPt := edDecode (natToBytes 32 (4 * fpInv 5 % edP))

/-- dom2 of RFC 8032 with phflag 1 and an empty context. -/
def edDom2 : List Byte :=
  ("SigEd25519 no Ed25519 collisions".toList.map fun c => BitVec.ofNat 8 c.toNat) ++ [1#8, 0#8]

/-- Ed25519ph verification over the prehash (R449), by the cofactored group equation. -/
def ed25519phVerify (pub sig prehash : List Byte) : Bool :=
  let s := bytesToNat (sig.drop 32)
  match edDecode pub, edDecode sig, edBase with
  | some a, some r, some b =>
    s < edL && sig.length = 64 && pub.length = 32 &&
      (let k := bytesToNat (sha512 (edDom2 ++ sig.take 32 ++ pub ++ prehash)) % edL
       edEq (edScalar (8 * s) b) (edAdd edD (edScalar 8 r) (edScalar 8 (edScalar k a))))
  | _, _, _ => false

end Sys2Proof.Machine
end

