-- ==== Sys2Proof/Machine/ImageParse.lean ====
section
/-! DEFINITION. Reading images from bytes and the checks an image's own bytes decide (R154, R157, R183, R186 to R188, R243, R244, R265,
R266, R283, R291, R292, R298 to R304, R307, R342, R343, R345, R448). -/

namespace Sys2Proof.Machine

def rd32s (bs : List Byte) (off n : Nat) : List W32 := (List.range n).map fun i => rd32 bs (off + 4 * i)
def rd64s (bs : List Byte) (off n : Nat) : List W64 := (List.range n).map fun i => rd64 bs (off + 8 * i)

def kindOf (k : Nat) : Option ImgKind :=
  match k with
  | 1 => some .vocabulary | 2 => some .maskDictionary | 3 => some .grammar | 4 => some .patternSet | 5 => some .automaton
  | 6 => some .probeHead | 7 => some .treeEnsemble | 8 => some .probeDelta | 9 => some .treeDelta | 10 => some .policy
  | _ => none

/-- The common image header (Table 15-7). -/
def parseHdr (bs : List Byte) : ImgHdr :=
  let w (i : Nat) := rd64 bs (8 * i)
  { magic := fld (w 0) 31 0, kind := fld (w 0) 39 32, hdrVersion := fld (w 0) 47 40, keySlot := fld (w 0) 49 48,
    raise := bit (w 0) 56, liveUpdate := bit (w 0) 57, imageId := fld (w 1) 31 0, gen := fld (w 1) 63 32,
    length := fld (w 2) 31 0, rbVersion := fld (w 2) 38 32, blockVersion := fld (w 3) 15 0,
    sectionLength := fld (w 3) 63 32, crc := BitVec.ofNat 32 (fld (w 4) 31 0),
    reservedOk := fld (w 0) 55 50 == 0 && fld (w 0) 63 58 == 0 && fld (w 2) 63 39 == 0 && fld (w 3) 31 16 == 0
      && fld (w 4) 63 32 == 0 && rdN bs 40 24 == 0 && rdN bs 160 96 == 0 }

/-- Step 1 of Table 15-9. -/
def hdrOk (h : ImgHdr) (descLen actual : Nat) : Bool :=
  h.magic == 0x325A5349 && h.hdrVersion == 1 && (kindOf h.kind).isSome && h.blockVersion == 0x0203 && h.length == descLen
  && h.length % 4096 == 0 && actual == descLen && 256 + h.sectionLength ≤ h.length && h.reservedOk
  && 1 ≤ h.imageId && 1 ≤ h.gen && h.rbVersion ≤ 64

def parseAuto (s : List Byte) : AutoImg :=
  let w0 := rd64 s 0; let w1 := rd64 s 8; let w2 := rd64 s 16; let w3 := rd64 s 24
  let nS := fld w0 16 0; let nC := fld w1 31 0; let nA := fld w1 43 32
  let st := rd64s s (fld w2 63 32) nS
  let cl := rd32s s (fld w3 31 0) nC
  let ac := rd64s s (fld w3 63 32) nA
  { nStates := nS, nClasses := fld w0 25 17, direction := fld w0 27 26, startState := fld w0 43 28, resyncState := fld w0 59 44,
    nCells := nC, nAccepts := nA,
    reservedOk := fld w0 63 60 == 0 && fld w1 63 44 == 0 && rdN s 32 32 == 0 && fld w2 31 0 + 256 ≤ s.length
      && fld w2 63 32 + 8 * nS ≤ s.length && fld w3 31 0 + 4 * nC ≤ s.length && fld w3 63 32 + 8 * nA ≤ s.length,
    classMap := (sliceB s (fld w2 31 0) 256).map (·.toNat),
    states := st.map fun w => ⟨fld w 23 0, fld w 39 24, fld w 51 40, fld w 54 52, fld w 63 55⟩,
    cells := cl.map fun c => (fld c 15 0, fld c 31 16),
    accepts := ac.map fun w => ⟨fld w 31 0, fld w 43 32, fld w 55 44, fld w 63 56⟩ }

/-- The first three checks of R266; the reserved bits and the offsets, whose structures lie in the section, are read with the image. -/
def autoOk (a : AutoImg) : Bool :=
  a.reservedOk && 1 ≤ a.nStates && a.nStates ≤ 65536 && 1 ≤ a.nClasses && a.nClasses ≤ 256 && a.direction != 0
  && a.startState < a.nStates && a.resyncState < a.nStates && a.classMap.length == 256 && a.classMap.all (· < a.nClasses)
  && a.states.all (fun s => s.base + a.nClasses - 1 < a.nCells)
  && a.cells.all (fun c => c.1 < a.nStates && c.2 < a.nStates)
  && a.states.all (fun s => s.dflt < a.nStates && s.accFirst + s.accCount ≤ a.nAccepts)
  && a.states.all (fun s => s.hold ≤ 384)

def round64 (n : Nat) : Nat := cdiv n 64 * 64
/-- Bytes of an automaton in the tree and automaton region (R517). -/
def autoBytes (a : AutoImg) : Nat := round64 (256 + 8 * a.nStates + 4 * a.nCells + 8 * a.nAccepts)

/-- A vocabulary section (Table 5-2); the string pool begins directly after the decode table (the model's choice, log 56). -/
def parseVocab (s : List Byte) : VocabImg :=
  let w0 := rd64 s 0; let w1 := rd64 s 8; let w2 := rd64 s 16; let w3 := rd64 s 24; let w4 := rd64 s 32; let w5 := rd64 s 40
  let n := fld w0 19 0
  let dt := Config.decodeTableAt s
  let bt := rd32s s 64 256
  { nTokens := n, vocabIdx := fld w0 23 20, longest := bit w0 24, eos := fld w1 18 0, nMerges := fld w2 31 0,
    decodeBytes := fld w2 63 32, pretokenStates := fld w3 16 0, encodeBytes := fld w4 31 0,
    byteTokens := bt.map fun e => fld e 18 0,
    decode := (rd32s s dt n).map fun e => sliceB s (dt + 4 * n + fld e 25 0) (fld e 31 26),
    enc := Config.encTables s,
    pretoken := parseAuto (s.drop (fld w5 31 0)),
    reservedOk := fld w0 63 25 == 0 && fld w1 63 19 == 0 && fld w3 63 17 == 0 && fld w4 63 32 == 0 && fld w5 63 32 == 0
      && rdN s 48 16 == 0 && bt.all fun e => fld e 31 19 == 0 }

/-- The BAD_DESCRIPTOR rows of Table 5-3; lim is 4 or 16 by the vocabulary mode. Reserved fields and n_merges of a longest-match image that are
not 0 are refused with them (the model's choice, log 56). -/
def vocabOk (v : VocabImg) (lim : Nat) : Bool :=
  v.reservedOk && 256 ≤ v.nTokens && v.nTokens ≤ 524288 && v.eos < v.nTokens && v.vocabIdx < lim
  && (v.longest == false || v.nMerges == 0)
  && nodupNat v.byteTokens && v.byteTokens.all (· < v.nTokens)
  && (List.range 256).all (fun b => v.decode.getD (v.byteTokens.getD b 0) [] == [BitVec.ofNat 8 b])
  && v.decode.all (fun d => d.length ≤ 63)
  && v.enc.merges.all (fun (a, b, r) => v.decode.getD r [] == v.decode.getD a [] ++ v.decode.getD b [])
  && autoOk v.pretoken && v.pretoken.nStates == v.pretokenStates && v.pretoken.direction == 1
  && v.pretoken.states.all (fun s => s.hold == 0)
  && v.pretoken.accepts.all (fun a => a.pattern == 0 && a.priority == 0 && a.rule == 0 && a.len == 0)

/-- A dictionary's fields; the masks are read once the reference vocabulary is known. -/
def parseDict (s : List Byte) : DictImg :=
  let w0 := rd64 s 0; let w1 := rd64 s 8; let w2 := rd64 s 16
  let n := fld w0 18 0
  let dir := rd64s s (fld w2 31 0) n
  let ban := rd32s s (fld w2 63 32) (fld w1 12 0)
  { nMasks := n, vocabIdx := fld w0 22 19,
    raw := dir.map fun e => sliceB s (fld e 39 0) (8 * fld e 53 40),
    offs := dir.map fun e => fld e 39 0, masks := [], ban := ban.map fun e => fld e 17 0,
    dirOk := fld w2 31 0 + 8 * n ≤ s.length && fld w2 63 32 + 4 * fld w1 12 0 ≤ s.length
      && dir.all fun e => fld e 39 0 + 8 * fld e 53 40 ≤ s.length,
    reservedOk := fld w0 63 23 == 0 && fld w1 63 13 == 0 && rdN s 24 40 == 0 && dir.all (fun e => fld e 63 54 == 0)
      && ban.all (fun e => fld e 31 18 == 0) && 1 ≤ n && n ≤ 262144 && fld w1 12 0 ≤ 4096,
    refSlot := 0, refN := 0, refEos := 0, refGen := 0 }

/-- A grammar section (Tables 6-2 to 6-4). A class map, table or pinned list that runs past the section's end reads 0 there: the manual names
no check for it, so this is the model's choice (DESIGN CHOICE, log 65). -/
def parseGrammar (s : List Byte) (nTokens : Nat) : GrammarImg :=
  let w (i : Nat) := rd64 s (8 * i)
  let nS := fld (w 0) 22 0
  let nT := fld (w 3) 63 32
  let st := rd64s s (fld (w 4) 63 32) nS
  let tr := rd64s s (fld (w 5) 31 0) nT
  let rt := rd32s s (fld (w 5) 63 32) (fld (w 3) 25 17)
  let pn := rd32s s (fld (w 6) 31 0) (fld (w 2) 50 32)
  { nStates := nS, vocabIdx := fld (w 0) 26 23, maxDepth := fld (w 0) 32 27, deadCode := fld (w 0) 34 33,
    maxMixed := fld (w 0) 45 35, startState := fld (w 1) 21 0, escapeState := fld (w 1) 43 22, escapeMask := fld (w 1) 61 44,
    dictGen := fld (w 2) 31 0, dictSlot := 0, nPinned := fld (w 2) 50 32, allPinned := bit (w 2) 51, nClasses := fld (w 3) 16 0,
    nReturns := fld (w 3) 25 17, nTrans := nT, residentBytes := fld (w 6) 63 32, pinnedBytes := fld (w 7) 31 0,
    classMap := (List.range nTokens).map fun i => rdN s (fld (w 4) 31 0 + 2 * i) 2,
    states := st.map fun x => ⟨fld x 17 0, bit x 18, fld x 50 19, fld x 62 51⟩,
    trans := tr.map fun x => ⟨fld x 15 0, fld x 37 16, fld x 39 38, fld x 47 40⟩,
    returns := rt.map fun x => fld x 21 0,
    pinned := pn.map fun x => fld x 17 0,
    reservedOk := fld (w 0) 63 46 == 0 && fld (w 1) 63 62 == 0 && fld (w 2) 63 52 == 0 && fld (w 3) 31 26 == 0
      && fld (w 7) 63 32 == 0 && st.all (fun x => fld x 63 63 == 0) && tr.all (fun x => fld x 63 48 == 0)
      && rt.all (fun x => fld x 31 22 == 0) && pn.all (fun x => fld x 31 18 == 0) }

/-- Row 1 of Table 6-5. -/
def grammarOk1 (g : GrammarImg) (vlim : Nat) : Bool :=
  g.reservedOk && 1 ≤ g.nStates && g.nStates ≤ 4194304 && g.maxDepth ≤ 48 && g.vocabIdx < vlim && g.deadCode < 3
  && g.maxMixed ≤ 1024 && 1 ≤ g.nClasses && g.nClasses ≤ 65536 && g.nReturns ≤ 256 && g.trans.all (fun t => t.action < 3)

def ascending : List Nat → Bool
  | a :: b :: r => a < b && ascending (b :: r)
  | _ => true

/-- Row 2 of Table 6-5 (R187). -/
def grammarOk2 (g : GrammarImg) : Bool :=
  g.classMap.all (· < g.nClasses) && g.startState < g.nStates && g.escapeState < g.nStates
  && g.states.all (fun s => s.first + s.count ≤ g.nTrans && ascending (((g.trans.drop s.first).take s.count).map (·.cls)))
  && g.trans.all (fun t => t.cls < g.nClasses && t.next < g.nStates && t.sym < max g.nReturns 1
      && (t.action != 2 || (t.next == 0 && t.sym == 0)) && (t.action != 1 || (g.maxDepth != 0 && t.sym < g.nReturns)))
  && g.returns.all (· < g.nStates)

def parseEntry (width : Nat) (s : List Byte) : EntryRec :=
  let w0 := rd64 s 0
  let unit (u : Nat) : Nat × Nat × Bool :=
    let b := 16 + 32 * u
    (rdN s b 8 + rdN s (b + 8) 1 * 2 ^ 64, rdN s (b + 16) 8 + rdN s (b + 24) 1 * 2 ^ 64,
     rdN s (b + 9) 7 == 0 && rdN s (b + 25) 7 == 0)
  let us := (List.range width).map unit
  { priority := fld w0 11 0, rule := fld w0 23 12, isPrefix := bit w0 24, length := fld w0 28 25, set := fld w0 30 29,
    pattern := fld w0 63 32,
    value := (us.mapIdx fun i u => u.1 * 2 ^ (72 * i)).foldl (· + ·) 0,
    care := (us.mapIdx fun i u => u.2.1 * 2 ^ (72 * i)).foldl (· + ·) 0,
    reservedOk := !bit w0 31 && rdN s 8 8 == 0 && us.all (·.2.2) && s.length == 16 + 32 * width }

def dictEntryBytes (width : Nat) : Nat := 16 + 32 * width
def parseEntries (width count : Nat) (s : List Byte) : List EntryRec :=
  (List.range count).map fun i => parseEntry width (sliceB s (dictEntryBytes width * i) (dictEntryBytes width))

def parsePatSet (s : List Byte) : PatSetImg :=
  let h := Config.patSetHdr s
  ⟨h, parseEntries h.width h.count (s.drop h.recordOffset)⟩
def patSetOk (p : PatSetImg) : Bool :=
  (p.hdr.width == 1 || p.hdr.width == 2 || p.hdr.width == 4) && 1 ≤ p.hdr.copies && p.entries.all (entryOk p.hdr.width)

def parsePwl (s : List Byte) (off : Nat) : PwlTable := ⟨rd32s s off 65, rd32s s (off + 260) 65, rd32s s (off + 520) 64⟩
def ascF : List W32 → Bool
  | a :: b :: r => fLt? a b == some true && ascF (b :: r)
  | _ => true
def pwlOk (t : PwlTable) : Bool := !(t.xs.any fIsNan) && !(t.ys.any fIsNan) && !(t.ss.any fIsNan) && ascF t.xs

def parseLayer (s : List Byte) (off : Nat) : LayerD :=
  let w0 := rd64 s off; let w1 := rd64 s (off + 8); let w2 := rd64 s (off + 16)
  { inWidth := fld w0 14 0, outWidth := fld w0 27 15, format := fld w0 30 28, rowCode := fld w0 32 31, act := fld w0 34 33,
    mode := fld w0 36 35, invScale := BitVec.ofNat 32 (fld w1 31 0), tileIndex := fld w2 31 0, paramOffset := fld w2 63 32,
    reservedOk := fld w0 63 37 == 0 && fld w1 63 32 == 0 && rdN s (off + 24) 8 == 0 }

def parseHead (s : List Byte) : HeadImg :=
  let w0 := rd64 s 0; let w1 := rd64 s 8
  let nl := fld w0 1 0 + 1
  { layers := (List.range (min nl 3)).map fun i => parseLayer s (16 + 32 * i),
    inWidth := fld w0 16 2, nOut := fld w0 21 17, link := fld w0 24 22, source := fld w0 26 25, accumulate := fld w0 28 27,
    accIndex := fld w0 30 29, spanLimit := fld w0 47 32, tileOffset := fld w1 63 32, pwl := parsePwl s (fld w1 31 0),
    reservedOk := nl ≤ 3 && !bit w0 31 && fld w0 63 48 == 0 && (fld w0 24 22 == 4 || fld w1 31 0 == 0)
      && rdN s (16 + 32 * nl) (32 * (3 - nl)) == 0,
    sect := s }

def chainOk : Nat → List LayerD → Bool
  | _, [] => true
  | w, l :: ls => l.inWidth == w && chainOk l.outWidth ls

/-- E8M0 exponents, multipliers, groups and biases of a layer hold no NaN (Table 9-12). -/
def paramsOk (s : List Byte) (l : LayerD) : Bool :=
  (!l.isFp8 || (sliceB s l.paramOffset (l.outWidth * l.groups)).all (· != 0xFF#8))
  && (rd32s s l.mulOff (l.mulCount + l.outWidth)).all (fun v => !fIsNan v)
  && !fIsNan l.invScale

/-- Rows 1 to 3 of Table 9-12 for a head, and R290's accumulation rule. -/
def headOk (h : HeadImg) : Bool :=
  h.reservedOk && 1 ≤ h.inWidth && h.inWidth ≤ 16384 && 1 ≤ h.nOut && h.nOut ≤ 16 && h.link ≤ 4 && h.source ≤ 1
  && h.accIndex ≤ 2 && h.tileOffset % 4096 == 0 && chainOk h.inWidth h.layers
  && (h.layers.getLast?.map fun l => l.outWidth == h.nOut && l.act == 0).getD false
  && h.layers.all (fun l => l.reservedOk && 1 ≤ l.inWidth && l.inWidth ≤ 16384 && 1 ≤ l.outWidth && l.outWidth ≤ 4096
      && l.format ≤ 5 && l.rowCode ≤ 2 && l.mode ≤ 2 && (l.format != 5 || l.mode == 2)
      && (l.mode != 2 || l.format == 4 || l.format == 5)
      && (!l.isFp8 || l.rowCode ≤ 1) && (l.format ≤ 1 || l.invScale == 0#32))
  && (h.layers.drop 1).all (fun l => l.mode == 0)
  && h.layers.all (paramsOk h.sect) && (h.link != 4 || pwlOk h.pwl)
  && (h.source != 1 || h.accumulate != 0)

/-- Critical path of a head in cycles (R286). -/
def linkLat (c : Nat) : Nat := if c = 2 then 12 else 4
def headPath (h : HeadImg) : Nat :=
  sumBy (fun l => if l.mode = 2 then 0 else l.rowBytes + 2 * clog2 l.colTiles + 6) h.layers + 8 + linkLat h.link
def residentWeights (h : HeadImg) : Nat := sumBy (fun l => if l.mode = 2 then 0 else l.inWidth * l.outWidth) h.layers
/-- Tiles of a head's resident layers with its parameters, in 4 KiB tiles. -/
def headTiles (h : HeadImg) : Nat :=
  sumBy (fun l => if l.mode = 2 then 0 else l.rowTiles * l.colTiles) h.layers + cdiv (sumBy (fun l => l.biasOff + 4 * l.outWidth - l.paramOffset) h.layers) 4096

def parseEns (s : List Byte) : EnsImg :=
  let w0 := rd64 s 0; let w1 := rd64 s 8; let w2 := rd64 s 16
  let dir := rd32s s (fld w1 63 32) (fld w0 43 27)
  { nNodes := fld w0 26 0, nTrees := fld w0 43 27, nClasses := fld w0 48 44, maxDepth := fld w0 54 49, integer := bit w0 55,
    streamed := bit w0 56, link := fld w0 59 57, nFeatures := fld w1 14 0,
    nodes := rd64s s (fld w2 31 0) (fld w0 26 0), dir := dir.map fun e => (fld e 26 0, fld e 30 27),
    base := rd32s s 32 16, pwl := parsePwl s (fld w2 63 32),
    reservedOk := fld w0 63 60 == 0 && fld w1 31 15 == 0 && rdN s 24 8 == 0 && dir.all (fun e => fld e 31 31 == 0)
      && (fld w0 59 57 == 4 || fld w2 63 32 == 0) }

/-- The nodes of the subtree at n in pre-order with its depth, or none on a broken structure (R291, Table 9-12). -/
def treeShape (e : EnsImg) : Nat → Nat → Option (Nat × Nat)
  | 0, _ => none
  | f + 1, n =>
    match e.nodes[n]? with
    | none => none
    | some w =>
      if bit w 15 then none
      else if bit w 0 then (if fld w 31 1 == 0 && !fIsNan (BitVec.ofNat 32 (fld w 63 32)) then some (1, 0) else none)
      else if fld w 14 1 ≥ e.nFeatures || fld w 31 16 < 2
          || (!e.integer && fIsNan (BitVec.ofNat 32 (fld w 63 32))) then none
      else
        match treeShape e f (n + 1), treeShape e f (n + fld w 31 16) with
        | some (a, da), some (b, db) => if a + 1 = fld w 31 16 then some (a + b + 1, max da db + 1) else none
        | _, _ => none

/-- Trees, by root and size in rising order, that cover the nodes from one on without a gap or an overlap. -/
def tiled (n : Nat) : Nat → List (Nat × Nat) → Bool
  | a, [] => a == n
  | a, (r, k) :: xs => r == a && tiled n (a + k) xs
def ensShapes (e : EnsImg) : List (Option (Nat × Nat)) := e.dir.map fun (r, _) => treeShape e 34 r
/-- Rows 1 to 4 of Table 9-12 for an ensemble: every node reached exactly once. -/
def ensOk (e : EnsImg) : Bool :=
  e.reservedOk && 1 ≤ e.nNodes && e.nNodes ≤ 67108864 && 1 ≤ e.nTrees && e.nTrees ≤ 65536 && 1 ≤ e.nClasses && e.nClasses ≤ 16
  && 1 ≤ e.maxDepth && e.maxDepth ≤ 32 && e.link ≤ 4 && 1 ≤ e.nFeatures && e.nFeatures ≤ 16384
  && !(e.base.any fIsNan) && (e.link != 4 || pwlOk e.pwl)
  && e.dir.all (fun (_, c) => c < e.nClasses)
  && (ensShapes e).all (fun x => match x with | some (_, d) => d ≤ e.maxDepth | none => false)
  && tiled e.nNodes 0 (sortAsc (·.1) ((e.dir.map (·.1)).zip ((ensShapes e).map fun x => (x.map (·.1)).getD 0)))
/-- W of R295. -/
def ensW (e : EnsImg) : Nat := sumBy (fun x => (x.map (·.2)).getD 0 + 1) (ensShapes e)
def ensPath (e : EnsImg) : Nat := cdiv (ensW e) 64 + 33 + 2 * clog2 e.nTrees + linkLat e.link
/-- Bytes of a resident ensemble in the tree and automaton region (R517). -/
def ensBytes (e : EnsImg) : Nat := round64 (8 * e.nNodes + 4 * e.nTrees + 64)

def parseProbeDelta (s : List Byte) : List PDeltaBase :=
  (Config.probeDeltaBases s).map fun (id, gen, dirOff, n, gather) =>
    { imageId := id, gen := gen, gather := gather,
      tiles := (rd64s s dirOff n).map fun d =>
        { layer := fld d 1 0, tile := fld d 25 2,
          entries := (rd64s s (fld d 63 32) (fld d 31 26 + 1)).map fun x =>
            ⟨fld x 5 0, fld x 12 6, bit x 13, BitVec.ofNat 32 (fld x 63 32)⟩ },
      reservedOk := dirOff + 8 * n ≤ s.length && (rd64s s dirOff n).all fun d => fld d 63 32 + 8 * (fld d 31 26 + 1) ≤ s.length
        && (rd64s s (fld d 63 32) (fld d 31 26 + 1)).all fun x => fld x 31 14 == 0 }
def parseTreeDelta (s : List Byte) : List TDeltaBase :=
  (Config.treeDeltaBases s).map fun (id, gen, mult, off) => ⟨id, gen, mult, rd64s s off 8192⟩

/-- A delta table by itself: odd multiplier, 8,192 buckets with at most 4,096 entries, reserved bits 0 (R304). -/
def tableOk (d : TDeltaBase) : Bool :=
  d.mult % 2 == 1 && d.mult < 2 ^ 32 && d.buckets.length == 8192 && d.buckets.all (fun w => fld w 31 29 == 0)
    && (d.buckets.filter fun w => bit w 27).length ≤ 4096
/-- Each entry in its own bucket, kinds matching node types (R304). -/
def treeDeltaOk (d : TDeltaBase) (e : EnsImg) : Bool :=
  (List.range 8192).all fun i =>
    match d.buckets[i]? with
    | none => true
    | some w =>
      !bit w 27 ||
        ((fld w 26 0 * d.mult % 2 ^ 32) >>> 19 == i
         && (match e.nodes[fld w 26 0]? with | some nd => bit nd 0 == bit w 28 | none => false))

def parseDir (s : List Byte) (off : Nat) : PolDir :=
  let c := rd64 s off
  let nh := fld c 3 0; let ne := fld c 7 4; let na := fld c 10 8; let ns := fld c 13 11
  let nr := fld c 21 14; let nm := fld c 34 22; let nt := fld c 41 35
  let ml := rd64s s (off + 8) 16
  let al := rd64s s (off + 136) 4
  let sl := rd64s s (off + 168) 4
  let dm := (rd64s s (off + 200) 9).map (·.toNat)
  let ro := off + 272
  let sr := rd64s s ro nr
  let mo := ro + 8 * nr
  let mr := rd32s s mo nm
  let so := mo + 4 * nm
  let strs := (List.range nt).map fun i => sliceB s (so + 64 * i) 64
  let g (i : Nat) := dm.getD i 0
  { heads := (ml.take (min nh 8)).map fun w => fld w 31 0, ens := ((ml.drop 8).take (min ne 8)).map fun w => fld w 31 0,
    autos := (al.take (min na 4)).map fun w => fld w 31 0,
    sets := (sl.take (min ns 4)).map fun w => (fld w 31 0, fld w 33 32 + 1),
    scoreRules := sr.map fun w => ⟨fld w 3 0, fld w 7 4, fld w 9 8, fld w 13 10, BitVec.ofNat 32 (fld w 63 32), fld w 31 14 == 0⟩,
    matchRules := mr.map fun w => ⟨fld w 3 0, fld w 9 4, fld w 31 10 == 0⟩,
    strings := strs.map fun b => sliceB b 1 (b.getD 0 0).toNat,
    demand := ⟨g 0, g 1, g 2, g 3, g 4, g 5, g 6, g 7, g 8⟩,
    countsOk := nh ≤ 8 && ne ≤ 8 && na ≤ 4 && ns ≤ 4 && nr ≤ 255 && nm ≤ 4096 && nt ≤ 64 && fld c 63 42 == 0 && decide (so + 64 * nt ≤ s.length)
      && (ml ++ al).all (fun w => fld w 63 32 == 0) && sl.all (fun w => fld w 63 34 == 0)
      && strs.all (fun b => (b.getD 0 0).toNat ≤ 32 && rdN b (1 + (b.getD 0 0).toNat) (63 - (b.getD 0 0).toNat) == 0) }

def parsePolicy (s : List Byte) : PolicyImg :=
  let w0 := rd64 s 0; let w1 := rd64 s 8; let w2 := rd64 s 16; let w3 := rd64 s 24
  { nRounds := fld w0 1 0, align := fld w0 2 2, mapIndet := fld w0 11 8, mapIncomplete := fld w0 15 12, mapTimeout := fld w0 19 16,
    mapNan := fld w0 23 20, fillToken := fld w1 18 0, tokCount := fld w2 14 0, tokType := fld w2 16 15, spanCount := fld w2 46 32,
    spanType := fld w2 48 47, inDir := parseDir s (fld w3 31 0), outDir := parseDir s (fld w3 63 32),
    reservedOk := fld w0 7 3 == 0 && fld w0 63 24 == 0 && fld w1 63 19 == 0 && fld w2 31 17 == 0 && fld w2 63 49 == 0
      && rdN s 32 32 == 0 }

def hb (v : Nat) : Bool := v == 1 || v == 3
def dirRulesOk (d : PolDir) (input : Bool) : Bool :=
  d.scoreRules.all (fun r => r.reservedOk && hb r.verdict
    && (if r.model < 8 then r.model < d.heads.length else r.model - 8 < d.ens.length))
  && d.matchRules.all (fun r => r.reservedOk && r.verdict ≤ 3 && (r.verdict != 2 || (!input && r.replace < d.strings.length)))

/-- Rows 1 and 2 of Table 11-4. -/
def policyOk (p : PolicyImg) : Bool :=
  p.reservedOk && p.inDir.countsOk && p.outDir.countsOk && hb p.mapIndet && hb p.mapIncomplete && hb p.mapTimeout
  && (p.mapNan == 5 || hb p.mapNan) && (p.nRounds != 0 || p.align == 0) && p.tokCount ≤ 16384 && p.spanCount ≤ 16384
  && dirRulesOk p.inDir true && dirRulesOk p.outDir false

/-- The section of an image read by its kind; a grammar's class map needs the vocabulary's size. -/
def parseBody (k : ImgKind) (s : List Byte) (nTokens : Nat) : ImgBody :=
  match k with
  | .vocabulary => .vocabulary (parseVocab s)
  | .maskDictionary => .maskDictionary (parseDict s)
  | .grammar => .grammar (parseGrammar s nTokens)
  | .patternSet => .patternSet (parsePatSet s)
  | .automaton => .automaton (parseAuto s)
  | .probeHead => .probeHead (parseHead s)
  | .treeEnsemble => .treeEnsemble (parseEns s)
  | .probeDelta => .probeDelta (parseProbeDelta s)
  | .treeDelta => .treeDelta (parseTreeDelta s)
  | .policy => .policy (parsePolicy s)

end Sys2Proof.Machine
end

