-- ==== Sys2Proof/Machine/Placement.lean ====
section
/-! DEFINITION. Where images lie: tiles on cells, structures in the tree and automaton regions, pinned masks, entries in banks, runs of the
images region (R155, R183, R189, R191, R235, R245, R260, R266, R287, R295, R299, R304, R310, R517). -/

namespace Sys2Proof.Machine

/-! Tile memory: 64 tiles of 4 KiB in each cell. A tile placed in several ridges has the key tile + 2^20 × ridge. -/

def tileKey (ridge tile : Nat) : Nat := ridge * 2 ^ 20 + tile
def keyTile (k : Nat) : Nat := k % 2 ^ 20
/-- Tiles in use on a cell. -/
def cellUsed (s : State) (c : Nat) : Nat := sumBy (fun (x : Nat × Img) => (x.2.cells.filter fun y => y.2 == c).length) s.images
def cellRoom (s : State) (c : Nat) : Nat := if s.integ.cellsOut.contains c then 0 else 64 - cellUsed s c
/-- Rooms of the cells of some ridges. -/
def rooms (s : State) (ridges : List Nat) : List (Nat × Nat) :=
  (ridges.flatMap fun r => (List.range 16).map fun i => 16 * r + i).map fun c => (c, cellRoom s c)

/-- n tiles put into rooms in order, under keys from a ridge's first. -/
def placeTiles (room : List (Nat × Nat)) (ridge n : Nat) : Option (AMap Nat) :=
  let flat := room.flatMap fun x => List.replicate x.2 x.1
  if n ≤ flat.length then some (((List.range n).map (tileKey ridge)).zip flat) else none

/-- One copy of n tiles on some ridges, the first cell a free choice. -/
def placeOnce (s : State) (ridges : List Nat) (n : Nat) : Option (AMap Nat) × State :=
  let rs := rooms s ridges
  let (k, s) := s.pick rs.length
  (placeTiles (rs.drop k ++ rs.take k) 0 n, s)
/-- A copy of n tiles on each ridge. -/
def placeEach (s : State) (ridges : List Nat) (n : Nat) : Option (AMap Nat) :=
  ridges.foldl (fun (acc : Option (AMap Nat)) r =>
    match acc, placeTiles (rooms s [r]) r n with
    | some a, some b => some (a ++ b)
    | _, _ => none) (some [])

def tilesFor (bytes : Nat) : Nat := cdiv bytes 4096
/-- A probe delta beside its bases: on each of their ridges the tiles that its directory and entries for the bases there fill (R299, log 4). -/
def placeDelta (s : State) (bs : List PDeltaBase) (ridges : List Nat) : Option (AMap Nat) :=
  let bytes (r : Nat) : Nat := sumBy (fun (b : PDeltaBase) =>
    if s.images.any fun x => x.2.loaded && x.2.hdr.kind == 6 && x.2.hdr.imageId == b.imageId && x.2.hdr.gen == b.gen && x.2.ridges.contains r then
      8 * (b.tiles.length + sumBy (·.entries.length) b.tiles) else 0) bs
  ridges.foldl (fun (acc : Option (AMap Nat)) r =>
    match acc, placeTiles (rooms s [r]) r (tilesFor (bytes r)) with
    | some a, some b => some (a ++ b)
    | _, _ => none) (some [])
def allRidges (s : State) : List Nat := List.range s.ridges
/-- Ridges that hold an image's structures. -/
def onRidge (i : Img) (r : Nat) : Bool := i.ridges.contains r

/-! The tree and automaton region: 2 MiB a ridge (R517). -/

def treeBytes (b : ImgBody) : Nat :=
  match b with
  | .automaton a => autoBytes a
  | .vocabulary v => autoBytes v.pretoken
  | .treeEnsemble e => if e.streamed then 0 else ensBytes e
  | _ => 0
/-- Base images of a delta that are loaded. -/
def basesOf (s : State) (b : ImgBody) : List (Nat × Img) :=
  let find (id gen : Nat) : List (Nat × Img) := s.images.filter fun x => x.2.loaded && x.2.hdr.imageId == id && x.2.hdr.gen == gen
  match b with
  | .probeDelta bs => bs.flatMap fun x => (find x.imageId x.gen).filter fun y => y.2.hdr.kind == 6
  | .treeDelta bs => bs.flatMap fun x => (find x.imageId x.gen).filter fun y => y.2.hdr.kind == 7
  | _ => []
/-- Bytes of 64 KiB delta tables beside the resident bases on a ridge. -/
def deltaTree (s : State) (b : ImgBody) (r : Nat) : Nat :=
  match b with
  | .treeDelta _ => 65536 * ((basesOf s b).filter fun x => onRidge x.2 r && !((x.2.ens?.map (·.streamed)).getD true)).length
  | _ => 0
def treeUsed (s : State) (r : Nat) : Nat :=
  sumBy (fun (x : Nat × Img) => (if onRidge x.2 r then treeBytes x.2.body else 0) + deltaTree s x.2.body r) s.images
def treeFits (s : State) (b : ImgBody) (ridges : List Nat) : Bool :=
  ridges.all fun r => treeUsed s r + treeBytes b + deltaTree s b r ≤ 2 * 1024 * 1024

/-! Pinned masks: 768 KiB a ridge (R184, R191). -/

def banBytes (d : DictImg) : Nat := sumBy (fun id => 8 * (d.masks.getD id default).words) d.ban
def pinnedOf (b : ImgBody) : Nat :=
  match b with
  | .grammar g => g.pinnedBytes
  | .maskDictionary d => banBytes d
  | _ => 0
/-- A mask that two images pin counts for each of them: the manual does not say whether they share its place, so this is the model's choice
(DESIGN CHOICE, log 65). -/
def pinnedFits (s : State) (b : ImgBody) : Bool :=
  sumBy (fun (x : Nat × Img) => pinnedOf x.2.body) s.images + pinnedOf b ≤ 768 * 1024

/-! The images region: runs of consecutive tile records (Table 10-1). -/

def regionTiles (s : State) : Nat := (s.region 0).2 / 4160
def runFree (s : State) (at_ n : Nat) : Bool :=
  at_ + n ≤ regionTiles s && s.stack.imgRuns.all fun x => x.2.1 + x.2.2 ≤ at_ || at_ + n ≤ x.2.1
/-- Places a run can begin at: the region's start and the ends of the runs in use. -/
def runStarts (s : State) (n : Nat) : List Nat :=
  (0 :: s.stack.imgRuns.map fun x => x.2.1 + x.2.2).eraseDups.filter fun a => runFree s a n

/-! Pattern sets (R235, R245, R260). -/

def bankAllInvalid (b : Bank) : Bool := b.entries.all fun e => !e.valid && !e.shadowBad
def targetUnits (w first n : Nat) : List Nat := (List.range n).map fun i => first + w * i
/-- Units of a running shift: its block and the place it vacates into (Table 3-11). -/
def Shift.units (w : Nat) (h : Shift) : List Nat :=
  targetUnits w h.first h.count ++ [if h.up then h.first + w * h.count else h.first - w]
/-- Whether a bank can take a set of width w. -/
def bankTakes (b : Bank) (w : Nat) : Bool := b.width == w || (bankAllInvalid b && b.shift.isNone)
def setsUsed (s : State) (bank : Nat) : List Nat :=
  s.images.flatMap fun (x : Nat × Img) => (x.2.placed.filter fun y => y.2.1 == bank).map fun y => y.2.2
def freeSet (s : State) (bank : Nat) : Option Nat := (List.range 4).find? fun n => !(setsUsed s bank).contains n
/-- First units of a bank's invalid entries at width w, outside a running shift; an entry that waits for its reload keeps its unit (R245, R256,
R259). -/
def freeUnits (b : Bank) (w : Nat) : List Nat :=
  let used := (b.entries.filter fun e => e.valid || e.shadowBad).map (·.unit) ++ (match b.shift with | some h => h.units b.width | none => [])
  ((List.range (2048 / w)).map fun k => w * k).filter fun u => !used.contains u

/-- A bank offered to a set: its number, the free set number, its free units. -/
abbrev Offer := Nat × Nat × List Nat
/-- What the banks offer a set of width w, at the coming boundary. -/
def offers (s : State) (w : Nat) (banks : List Nat) : List Offer :=
  banks.filterMap fun k =>
    let b := bankSoon s k
    if !bankTakes b w || s.integ.unitsOut.contains (2, k) then none
    else match freeSet s k with
      | some n => let us := freeUnits b w; if us.isEmpty then none else some (k, n, us)
      | none => none

/-- A copy under placement: entries still without a place, and the offers taken. -/
abbrev Filling := Nat × List Offer
/-- Copies that may take a bank next: short of room, on no other copy's ridge where the set is dual, the first of those still alike. -/
def takers (dual : Bool) (k : Nat) (cs : List Filling) : List Nat :=
  (List.range cs.length).filter fun i =>
    let c := cs.getD i (0, [])
    0 < c.1 && !(dual && (List.range cs.length).any fun j => j != i && (cs.getD j (0, [])).2.any fun o => o.1 / 2 == k / 2)
      && !((List.range i).any fun j => cs.getD j (0, []) == c)
/-- Banks shared out among the copies so that every copy fits, if they can be: each bank serves one copy (R245, R260). -/
def shareOut (dual : Bool) : List Offer → List Filling → Option (List Filling)
  | os, cs =>
    if cs.all fun c => c.1 == 0 then some cs
    else if sumBy (fun o => o.2.2.length) os < sumBy (fun (c : Filling) => c.1) cs then none
    else match os with
      | [] => none
      | o :: os =>
        match (takers dual o.1 cs).findSome? fun i =>
            shareOut dual os (cs.modify i fun c => (c.1 - o.2.2.length, c.2 ++ [o])) with
        | some r => some r
        | none => shareOut dual os cs

/-- The entries of a copy in the units of its offers. -/
def fillOffers (nextTag : Nat) : List Offer → List (Nat × EntryRec) → List (Nat × Nat × List BEntry)
  | [], _ => []
  | (k, n, us) :: os, rs =>
    let here := (us.zip rs).map fun x => BEntry.put x.1 { x.2.2 with set := n } true (nextTag + x.2.1) x.2.1
    (k, n, here) :: fillOffers nextTag os (rs.drop us.length)
/-- The entries of one copy go into their banks at the next boundary, each under a tag of its own. -/
def State.putCopy (s : State) (w : Nat) (rs : List EntryRec) (os : List Offer) : State :=
  let parts := fillOffers s.nextId os ((List.range rs.length).zip rs)
  parts.foldl (fun s x => (s.bankAt x.1 (.bankWidth x.1 w)).bankAt x.1 (.writeE x.1 x.2.2)) { s with nextId := s.nextId + rs.length }

/-- Every copy of a set placed; of a dual set, on two different ridges. The first bank tried is a free choice (log 4). -/
def placeSet (s : State) (p : PatSetImg) (banks : List Nat) : Option (List (Nat × Nat × Nat) × State) :=
  let (k, s) := s.pick banks.length
  let order := banks.drop k ++ banks.take k
  let n := if p.hdr.dual then 2 else p.hdr.copies
  (shareOut p.hdr.dual (offers s p.hdr.width order) (List.replicate n (p.entries.length, []))).map fun cs =>
    let cs := (List.range cs.length).zip cs
    (cs.flatMap fun c => c.2.2.map fun o => (c.1, o.1, o.2.1), cs.foldl (fun s c => s.putCopy p.hdr.width p.entries c.2.2) s)

end Sys2Proof.Machine
end

