-- ==== Sys2Proof/Machine/Images.lean ====
section
/-! DEFINITION. Images: load, activate, retire, query, and the boundary of an activation (R65, R66, R158, R184, R188, R244, R245, R264 to
R266, R299, R300, R307, R345, R386, R392, R426, R443, R448 to R453, R517 to R519). -/

namespace Sys2Proof.Machine

/-! Checks of a policy against the images it names (Tables 9-12, 11-4). -/

/-- What a direction of a policy asks of a named image at place i of its list. -/
def headNamed (p : PolicyImg) (d : PolDir) (i : Nat) (h : HeadImg) : Bool :=
  h.inWidth ≤ (if h.source = 0 then p.tokCount else p.spanCount)
    && d.scoreRules.all fun r => r.model != i || r.output < h.nOut
/-- Type code 3 of Table 4-3 is INT32. -/
def ensNamed (p : PolicyImg) (d : PolDir) (isIn : Bool) (i : Nat) (e : EnsImg) : Bool :=
  e.nFeatures ≤ (if isIn then p.spanCount else p.tokCount) && (!e.integer || (if isIn then p.spanType else p.tokType) == 3)
    && d.scoreRules.all fun r => r.model != 8 + i || r.output < e.nClasses
def autoNamed (d : PolDir) (a : AutoImg) : Bool :=
  a.accepts.all fun x => x.rule < d.matchRules.length && !((d.matchRules[x.rule]?.map (·.verdict)) == some 2 && x.len == 0)
def setNamed (p : PolicyImg) (d : PolDir) (isIn : Bool) (q : PatSetImg) : Bool :=
  q.entries.all fun e => e.rule < d.matchRules.length && !(isIn && e.isPrefix) && !holdsFill q.hdr.width p.fillToken e
/-- A generation of an image against one direction of a policy. -/
def namedIn (p : PolicyImg) (d : PolDir) (isIn : Bool) (id : Nat) (b : ImgBody) : Bool :=
  let places (xs : List Nat) : List Nat := ((List.range xs.length).zip xs).filterMap fun x => if x.2 = id then some x.1 else none
  match b with
  | .probeHead h => (places d.heads).all fun i => headNamed p d i h
  | .treeEnsemble e => (places d.ens).all fun i => ensNamed p d isIn i e
  | .automaton a => !d.autos.contains id || autoNamed d a
  | .patternSet q => !(d.sets.map (·.1)).contains id || setNamed p d isIn q
  | _ => true
/-- An image's body; of a placed pattern set, with the entries it has in the store now, the written ones too (R241, R254, R255). -/
def liveEntries (s : State) (i : Img) : ImgBody :=
  match i.body with
  | .patternSet p =>
    if i.placed.isEmpty then i.body
    else
      let es := i.placed.flatMap fun y => (bankSoon s y.2.1).entries.filter fun e => e.rec_.set == y.2.2 && (e.valid || e.written || e.shadowBad)
      .patternSet { p with entries := es.map (·.rec_) }
  | b => b
def namedOk (p : PolicyImg) (id : Nat) (b : ImgBody) : Bool := namedIn p p.inDir true id b && namedIn p p.outDir false id b

/-- Kind and image id of everything a policy names. -/
def policyNames (p : PolicyImg) : List (Nat × Nat) :=
  let dir (d : PolDir) : List (Nat × Nat) :=
    d.heads.map (fun x => (6, x)) ++ d.ens.map (fun x => (7, x)) ++ d.autos.map (fun x => (5, x)) ++ d.sets.map fun x => (4, x.1)
  (dir p.inDir ++ dir p.outDir).eraseDups
/-- Loaded policies against a generation about to be loaded (R345). -/
def policiesTake (s : State) (id : Nat) (b : ImgBody) : Bool :=
  (AMap.vals s.images).all fun i => match i.policy? with | some p => namedOk p id b | none => true

/-! Capacity of one record (Table 2-5, R63, R333, R518, R519). -/

/-- Elements of the vectors a direction of a policy stages in segments, by model: the widest of the loaded generations (R321). -/
def wideLoaded (s : State) (d : PolDir) : List Nat :=
  ((d.heads.map fun id => maxBy (fun n => n) ((s.loadedOf 6 id).filterMap fun x => x.2.head?.bind fun h =>
      let l := h.layers.headD default
      if l.mode = 2 && 2048 < l.inWidth then some l.inWidth else none))
    ++ d.ens.map fun id => maxBy (fun n => n) ((s.loadedOf 7 id).filterMap fun x => x.2.ens?.bind fun e =>
      if e.streamed && 2048 < e.nFeatures then some e.nFeatures else none)).filter (· ≠ 0)
def enabledChans (s : State) : Nat := ((List.range s.channels).filter s.chanEn).length
/-- A direction's record fits an empty beat: each item, one channel for its round and one for each segment of a staged vector, and the response
window (R261, R321, R333). A policy image names no mask, so the mask's own part of that check is made where a stream's mask is known, by the
largest item of R333 at its open (DESIGN CHOICE, log 66). -/
def dirFits (s : State) (d : PolDir) : Bool :=
  let m := d.demand
  let wide := wideLoaded s d
  let segs := wide.flatMap segReqs
  m.lane ≤ plannable (184 * 64 * s.cells) && m.walk ≤ plannable (184 * s.cells) && m.host ≤ plannable 30080
    && wide.all (fun n => cdiv n 2048 ≤ enabledChans s) && m.firstReq - sumBy (fun n => n) segs ≤ plannable 184 && m.depReq ≤ plannable 35
    && m.resp ≤ s.respWindow - 66
def policyFits (s : State) (p : PolicyImg) : Bool :=
  dirFits s p.inDir && dirFits s p.outDir && p.outDir.demand.search ≤ plannable 235 && p.outDir.demand.steps ≤ 5704

/-! Kind-specific checks. -/

def firstFail (cs : List (Bool × Nat)) : Option Nat := (cs.find? fun c => !c.1).map (·.2)

/-- The vocabulary generation a dictionary refers to: the active one of its index, else the one loaded last (R184). A generation that is
retiring counts as no loaded one: the manual does not say, so this is the model's choice (DESIGN CHOICE, log 65). -/
def refVocab (s : State) (idx : Nat) : Option (Nat × Img × VocabImg) :=
  let vs := s.images.filterMap fun (x : Nat × Img) => match x.2.vocab? with
    | some v => if v.vocabIdx = idx && x.2.loaded then some (x.1, x.2, v) else none
    | none => none
  match vs.find? fun x => x.2.1.status == 1 with
  | some x => some x
  | none => (sortAsc (fun x => x.2.1.order) vs).getLast?

/-- A dictionary's masks read with its reference vocabulary (Table 6-11). -/
def readDict (s : State) (d : DictImg) : Except Nat DictImg :=
  if !d.reservedOk || d.vocabIdx ≥ s.vocabLim then .error stBadDesc
  else
    match refVocab s d.vocabIdx with
    | none => .error stNotFound
    | some (k, i, v) =>
      let ms := d.raw.map fun bs => canonicalMask v.nTokens bs
      let d' : DictImg := { d with masks := ms.filterMap fun x => x, refSlot := k, refN := v.nTokens, refEos := v.eos, refGen := i.hdr.gen }
      match firstFail [(d.dirOk && ms.all (·.isSome), stBadDesc), (nodupNat d.ban && d.ban.all (· < d.nMasks), stBadDesc),
          (pinnedFits s (.maskDictionary d'), stCapacity)] with
      | some e => .error e
      | none => .ok d'

/-- A grammar read against its dictionary (Table 6-5); its pinned masks are weighed by their own lengths. -/
def readGrammar (s : State) (sect : List Byte) : Except Nat GrammarImg :=
  let g0 := parseGrammar sect 0
  match firstFail [(grammarOk1 g0 s.vocabLim, stBadDesc), (grammarOk2 g0, stBadDesc)] with
  | some e => .error e
  | none =>
    match s.dictFor g0 with
    | none => .error stNotFound
    | some (k, _, d) =>
      let g := { parseGrammar sect d.refN with dictSlot := k }
      let used := g.states.map (·.mask)
      let ids := used ++ g.pinned ++ [g.escapeMask]
      let mixed (id : Nat) : Nat := (dictMask d id).mixed
      let needed := max (maxBy mixed (used ++ [g.escapeMask])) (if g.deadPolicy = .failStream then 0 else 1)
      match firstFail [(grammarOk2 g, stBadDesc), (ids.all (· < d.nMasks), stNotFound),
          (g.maxMixed ≤ maskBlocks d.refN && needed ≤ g.maxMixed && g.states.all (fun x => x.dead == (dictMask d x.mask).empty)
            && (g.deadPolicy ≠ .escapeSet || (g.pinned.contains g.escapeMask && !(dictMask d g.escapeMask).empty))
            && g.allPinned == used.all g.pinned.contains, stBadDesc)] with
      | some e => .error e
      | none => .ok { g with pinnedBytes := sumBy (fun id => 8 * (dictMask d id).words) g.pinned.eraseDups }

/-- The bases a delta names, as (kind, id, generation). -/
def deltaBases (b : ImgBody) : List (Nat × Nat × Nat) :=
  match b with
  | .probeDelta bs => bs.map fun x => (6, x.imageId, x.gen)
  | .treeDelta bs => bs.map fun x => (7, x.imageId, x.gen)
  | _ => []
def baseLoaded (s : State) (k id gen : Nat) : Bool := (s.loadedOf k id).any fun x => x.2.hdr.gen == gen

/-- At most 64 entries on a tile (R302). -/
def deltaTilesOk (b : PDeltaBase) : Bool :=
  b.tiles.all fun t => sumBy (fun x => if x.layer = t.layer && x.tile = t.tile then x.entries.length else 0) b.tiles ≤ 64
/-- An entry within its base's layer, no scale of it NaN (Tables 9-11, 9-12). -/
def pEntryOk (l : LayerD) (x : PDeltaEntry) : Bool :=
  let bits := if l.format = 1 then 4 else if l.format = 4 then 16 else 8
  x.elem < (if l.format = 1 then 128 else if l.format = 4 then 32 else 64)
    && (if !x.scale then x.value.toNat < 2 ^ bits
        else if l.isFp8 then x.value.toNat < 0xFF
        else (l.format = 1 || x.elem = 0) && !fIsNan x.value)
/-- A probe delta's section for one base against that head: rows 1 to 3 of Table 9-12. -/
def probeDeltaOk (b : PDeltaBase) (h : HeadImg) : Bool :=
  (b.tiles.all fun t => match h.layers[t.layer]? with
      | some l => l.mode != 2 && t.tile < l.rowTiles * l.colTiles && t.entries.all (pEntryOk l)
      | none => false)
    && (b.gather.isEmpty || match h.layers.head? with
      | some l => l.mode == 1 && b.gather.all fun g => g.1 < l.inWidth && g.2.length ≤ l.outWidth
      | none => false)
/-- Row 3 of Table 9-12 for a tree delta: no replacement value is NaN, where it is an FP32. -/
def bucketsOk (d : TDeltaBase) (e : EnsImg) : Bool :=
  d.buckets.all fun w => !bit w 27 || (e.integer && !bit w 28) || !fIsNan (BitVec.ofNat 32 (fld w 63 32))
/-- Loaded images of a delta's base. -/
def basesAt (s : State) (k id gen : Nat) : List Img := ((s.loadedOf k id).filter fun x => x.2.hdr.gen == gen).map (·.2)

/-- The checks of a kind up to those of placement, and the body as loaded. -/
def kindCheck (s : State) (h : ImgHdr) (k : ImgKind) (sect : List Byte) : Except Nat ImgBody :=
  let b := parseBody k sect 0
  let ok (b : ImgBody) (cs : List (Bool × Nat)) : Except Nat ImgBody :=
    match firstFail cs with | some e => .error e | none => .ok b
  match b with
  | .vocabulary v => ok b [(vocabOk v s.vocabLim, stBadDesc), (s.streamed || v.nTokens ≤ 131072, stCapacity)]
  | .maskDictionary d => (readDict s d).map ImgBody.maskDictionary
  | .grammar _ => (readGrammar s sect).map ImgBody.grammar
  | .patternSet p => ok b [(patSetOk p, stBadDesc), (policiesTake s h.imageId b, stBadDesc)]
  | .automaton a => ok b [(autoOk a, stBadDesc), (policiesTake s h.imageId b, stBadDesc)]
  | .probeHead x => ok b [(headOk x, stBadDesc), (policiesTake s h.imageId b, stBadDesc), (headPath x ≤ 184, stLatency),
      (residentWeights x ≤ 16777216, stCapacity)]
  | .treeEnsemble e => ok b [(ensOk e, stBadDesc), (policiesTake s h.imageId b, stBadDesc), (e.streamed || ensPath e ≤ 184, stLatency)]
  | .probeDelta bs => ok b [(1 ≤ bs.length && bs.length ≤ 8 && bs.all (·.reservedOk), stBadDesc),
      (bs.all fun x => (basesAt s 6 x.imageId x.gen).all fun i => match i.head? with | some h => probeDeltaOk x h | none => false, stBadDesc),
      ((deltaBases b).all fun x => baseLoaded s x.1 x.2.1 x.2.2, stNotFound), (bs.all deltaTilesOk, stCapacity)]
  | .treeDelta bs =>
    ok b [(1 ≤ bs.length && bs.length ≤ 8 && bs.all tableOk, stBadDesc),
      (bs.all fun x => (basesAt s 7 x.imageId x.gen).all fun i => match i.ens? with | some e => bucketsOk x e | none => false, stBadDesc),
      ((deltaBases b).all fun x => baseLoaded s x.1 x.2.1 x.2.2, stNotFound),
      (bs.all fun x => (basesAt s 7 x.imageId x.gen).all fun i => match i.ens? with | some e => treeDeltaOk x e | none => false, stBadDesc)]
  | .policy p =>
    ok b [(policyOk p, stBadDesc), ((policyNames p).all fun x => !(s.loadedOf x.1 x.2).isEmpty, stNotFound),
      ((policyNames p).all fun x => (s.heldOf x.1 x.2).all fun y => namedOk p x.2 (liveEntries s y.2), stBadDesc),
      (!Config.workBetweenRounds sect, stLatency), (policyFits s p, stCapacity)]

/-! Loading. -/

/-- Key slot and signature (R449, R450). -/
def keyUsable (s : State) (h : ImgHdr) (img : List Byte) : Bool :=
  s.start.fuseCopy.keyState.getD h.keySlot 0 == 1
    && s.start.fuseCopy.keyHash.getD h.keySlot 0 == bytesToNat ((sha512 (sliceB img 64 32)).take 32)
def signatureOk (img : List Byte) : Bool :=
  ed25519phVerify (sliceB img 64 32) (sliceB img 96 64) (sha512 (img.take 96 ++ img.drop 160))

/-- Steps 1 to 7 of Table 15-9 before placement: header, kind and body. -/
def loadCheck (s : State) (descLen : Nat) (img : List Byte) : Except Nat (ImgHdr × ImgBody) :=
  let h := parseHdr img
  match kindOf h.kind with
  | none => .error stBadDesc
  | some k =>
    let dup := s.images.any fun (x : Nat × Img) => x.2.hdr.imageId == h.imageId && x.2.hdr.gen == h.gen
    match firstFail [(hdrOk h descLen img.length, stBadDesc), (keyUsable s h img, stSigBad), (signatureOk img, stSigBad),
        (s.fuses.rollback.getD (h.kind - 1) 0 ≤ h.rbVersion, stRollback), (!dup, stState),
        (crc32c (img.drop 256) == h.crc, stCorrupt)] with
    | some e => .error e
    | none => (kindCheck s h k (sliceB img 256 h.sectionLength)).map fun b => (h, b)

/-- Ridges that hold any of the bases of a delta. -/
def baseRidges (s : State) (b : ImgBody) : List Nat := ((basesOf s b).flatMap fun x => x.2.ridges).eraseDups

/-- An image put in its place on the die: cells, ridges, placed set (R155, R189, R245, R287, R295, R299). -/
def placeBody (s : State) (b : ImgBody) (ridges : List Nat) : Option ((AMap Nat × List Nat × List (Nat × Nat × Nat)) × State) :=
  let once (n : Nat) (tree : Bool) : Option ((AMap Nat × List Nat × List (Nat × Nat × Nat)) × State) :=
    match placeOnce s ridges n with
    | (some m, s) => some ((m, if tree then ridges else (m.map fun x => x.2 / 16).eraseDups, []), s)
    | _ => none
  match b with
  | .vocabulary v =>
    if treeFits s b ridges then once (tilesFor v.decodeBytes + if s.streamed then 0 else tilesFor v.encodeBytes) true else none
  | .maskDictionary _ => some (([], [], []), s)
  | .grammar g =>
    if pinnedFits s b then (placeEach s ridges (tilesFor g.residentBytes)).map fun m => ((m, ridges, []), s) else none
  | .patternSet p => (placeSet s p (ridges.flatMap fun r => [2 * r, 2 * r + 1])).map fun x => (([], [], x.1), x.2)
  | .automaton _ => if treeFits s b ridges then some (([], ridges, []), s) else none
  | .probeHead h => once (headTiles h) false
  | .treeEnsemble e => if e.streamed || treeFits s b ridges then some (([], if e.streamed then [] else ridges, []), s) else none
  | .probeDelta bs => (placeDelta s bs (baseRidges s b)).map fun m => ((m, baseRidges s b, []), s)
  | .treeDelta _ => if treeFits s b (baseRidges s b) then some (([], baseRidges s b, []), s) else none
  | .policy _ => some (([], [], []), s)

/-- The tile record of an image's tile: header row, then 4 KiB, of the image or as read for it (R311, R391). -/
def tileRec (i : Img) (t : Nat) (body : List Byte) : List Byte :=
  let body := body ++ List.replicate (4096 - body.length) 0#8
  let h := wordsBytes [w64 [(i.hdr.imageId, 0), (i.hdr.gen, 32)], w64 [(t, 0)], 0#64]
  h ++ natToBytes 4 (crc32c (body ++ h)).toNat ++ List.replicate 36 0#8 ++ body
def tileRecord (i : Img) (t : Nat) : List Byte := tileRec i t (sliceB i.bytes (4096 * t) 4096)

/-- Tiles of an image being loaded written to its master while credit lasts (R315, R319). -/
def pumpLoad : Nat → Nat → State → State
  | 0, _, s => s
  | f + 1, cmd, s =>
    match s.cmd? cmd with
    | none => s
    | some c =>
      match c.k with
      | .loadI slot next acked parts =>
        match s.img? slot with
        | none => s
        | some i =>
          if c.paused || i.bytes.length / 4096 ≤ next || !bgRoom s 66 2 (tileOff s slot next) then s
          else
            let s := s.keep c (.loadI slot (next + 1) acked parts)
            pumpLoad f cmd (s.issue .back 2 (.imgWrite cmd) [w64 [(tileOff s slot next, 0)]] (tileRecord i next) 0).2
      | _ => s
/-- A load is complete once every tile is acknowledged and every part committed (R443); while
the block is stopped it only counts them (Table 3-11). -/
def State.loadStep (s : State) (cmd tiles parts : Nat) : State :=
  match s.cmd? cmd with
  | none => s
  | some c =>
    match c.k with
    | .loadI slot next acked left =>
      let acked := acked + tiles
      let left := left - parts
      match s.img? slot with
      | none => s
      | some i =>
        if c.paused then s.keep c (.loadI slot next acked left)
        else if i.bytes.length / 4096 ≤ acked && left = 0 then
          (s.setImg slot fun i => { i with status := 0, committed := true }).finish c { status := stOK, resA := i.hdr.imageId }
        else pumpLoad 64 cmd (s.keep c (.loadI slot next acked left))
    | _ => s
/-- Loads under way go on (R443). -/
def State.pumpLoads (s : State) : State :=
  if s.start.halted then s
  else (s.cmds.filter fun c => match c.k with | .loadI .. => true | _ => false).foldl (fun s c => s.loadStep c.id 0 0) s

/-- Bytes of one image part: a segment less 3 rows (R443). -/
def partBytes (s : State) : Nat := 64 * (s.segRows - 3)

/-- The image parts written to the store (R443). -/
def writeParts (s : State) (slot : Nat) (i : Img) : State :=
  let n := cdiv i.bytes.length (partBytes s)
  (List.range n).foldl (fun s k =>
    let q := s.persist.entrySeq
    let p : Part := ⟨slot, i.hdr.imageId, i.hdr.gen, k, n, sliceB i.bytes (k * partBytes s) (partBytes s), q, 64, 0, false⟩
    let s := { s with persist := { s.persist with entrySeq := q + 1, parts := s.persist.parts ++ [p] } }
    s.placeRows 3 q (partRows p)) s

def Img.fresh (s : State) (h : ImgHdr) (b : ImgBody) (img : List Byte) : Img :=
  { hdr := h, body := b, bytes := img, status := 3, fixedD := 0, brt := 0, ridges := [], pinned := none, cells := [], badTiles := [],
    masterLost := false, placed := [], badMasks := [], committed := false, retireBeat := 0, order := s.nextId }

/-- A checked image put into its slot, where there is room (Table 6-11, its last row): a run of the images region and its place on the die. -/
def State.installImage (s : State) (slot : Nat) (h : ImgHdr) (b : ImgBody) (img : List Byte) : Option State :=
  match (if (runStarts s (img.length / 4096)).isEmpty then none else placeBody s b (allRidges s)) with
  | none => none
  | some ((cells, ridges, placed), s) =>
    let n := img.length / 4096
    let starts := runStarts s n
    let (k, s) := s.pick starts.length
    let i : Img := { Img.fresh s h b img with ridges := ridges, cells := cells, placed := placed }
    some { s with images := AMap.set s.images slot i, nextId := s.nextId + 1,
                  stack := { s.stack with imgRuns := AMap.set s.stack.imgRuns slot (starts.getD k 0, n) } }

/-- LOAD_IMAGE after the shared checks; image bytes that do not reach the length stand for a read with poisoned data (R407). -/
def loadBody (d : Desc) (image : List Byte) (s : State) (c : Cmd) : State :=
  let len := dfld d 3 31 0
  let slot := dfld d 4 7 0
  if AMap.has s.images slot then s.finish c { status := stState }
  else if image.length < len then s.haltRing c.ring (dfld d 2 56 0)
  else
    match loadCheck s len image with
    | .error e => s.finish c { status := e }
    | .ok (h, b) =>
      match s.installImage slot h b image with
      | none => s.finish c { status := stCapacity }
      | some s' =>
        if storeRows s < liveRows s + len / 64 then s.finish c { status := stCapacity }
        else
          let i := Img.fresh s h b image
          let n := cdiv len (partBytes s)
          (writeParts (s'.keep c (.loadI slot 0 0 n)) slot i).pumpLoads
def execLoadImage (d : Desc) (image : List Byte) (s : State) : Host.Outcome State Fault Refusal :=
  .next (runDesc s d (d.opcode == 0x10) (loadBody d image))

/-! Activation. -/

/-- Delta images bound to a tenant that name a base id (R300). -/
def deltaNames (s : State) (slot : Option Nat) (k id : Nat) (gen : Option Nat) : Bool :=
  match slot.bind s.img? with
  | some (i : Img) => (deltaBases i.body).any fun x => x.1 == k && x.2.1 == id && (gen.isNone || gen == some x.2.2)
  | none => false
/-- An enabled tenant's current delta names the base id and none pending names the new generation (R300). -/
def deltaBlocks (s : State) (h : ImgHdr) : Bool :=
  s.tenants.any fun (x : Nat × Tenant) =>
    let t := x.2
    let bad (cur nxt : Option Nat) : Bool := deltaNames s cur h.kind h.imageId none
      && !deltaNames s nxt h.kind h.imageId (some h.gen)
    t.enabled && (bad t.pd t.pdNext || bad t.td t.tdNext)

/-- Open streams under policy ids bound to a policy image id. -/
def streamsUnder (s : State) (imageId : Nat) : List Stream :=
  s.openStreams.filter fun st => match AMap.get? s.policies st.policy with | some b => b.enabled && b.imageId == imageId | none => false

/-- The largest D of a member's enabled policies (R426). -/
def largestD (s : State) : Nat :=
  maxBy (fun (x : Nat × PolBind) => match s.policyOf x.1 with | some (_, i, _) => i.fixedD | none => 0) s.policies
/-- In a range a new D may not exceed the largest of the join. -/
def rangeDOk (s : State) (d : Nat) : Bool := !s.range.joined || d ≤ max (largestD s) s.range.dOwn
/-- Open streams under a policy id. -/
def streamsOnPolicy (s : State) (pid : Nat) : List Stream := s.openStreams.filter fun st => st.policy == pid
/-- D of an active policy image with the B_rt in force (R70). -/
def liveD (s : State) (i : Img) : Nat := match i.policy? with | some p => max i.fixedD (s.delayOf p) | none => i.fixedD
/-- The latency check of a policy image for the streams under a policy id (Table 2-5, R426). -/
def policyLate (s : State) (pid : Nat) (i : Img) : Bool :=
  !rangeDOk s (liveD s i) || (streamsOnPolicy s pid).any fun st => s.latBound st.rc < s.dRangeOf (liveD s i) + 1

/-- Latency and capacity of a policy for the open streams it would serve (Table 2-5, R426). -/
def policyAdmit (s : State) (p : PolicyImg) (served : List Stream) (enabled : Bool) : Option Nat :=
  let d := s.delayOf p
  let as := s.openStreams.map fun st => if served.contains st then s.admWith st p none else s.admOf st
  if enabled && !rangeDOk s d then some stLatency
  else if served.any fun st => s.latBound st.rc < s.dRangeOf d + 1 then some stLatency
  else if !served.isEmpty && !(s.fitsItems as && s.fitsStack as) then some stCapacity
  else none

/-- The refusal of an activation with everything that was accepted before it (R83): the checks of Table 2-5 at its boundary and after each
activation accepted for a later one. -/
def activateFails (s : State) (slot at_ : Nat) (i : Img) (p : PolicyImg) : Option Nat :=
  (({ s with sched := s.sched ++ [⟨at_, .activate slot, 0⟩] } : State).viewsFrom at_).findSome? fun v =>
    policyAdmit v p (streamsUnder v i.hdr.imageId) ((AMap.vals v.policies).any fun b => b.enabled && b.imageId == i.hdr.imageId)
/-- The latency check of a policy binding with everything that was accepted before it (R83). -/
def bindingFails (s : State) (pid : Nat) (i : Img) : Bool :=
  policyLate s pid i || (({ s with sched := s.sched ++ [⟨s.nextB, .policy pid i.hdr.imageId true 0, 0⟩] } : State).viewsFrom s.nextB).any fun v =>
    match v.activeOf 10 i.hdr.imageId with
    | some (_, j) => policyLate v pid j
    | none => false

/-- Every image id a policy names is active at the boundary (R345). -/
def namesActive (m : AMap Img) (p : PolicyImg) : Bool :=
  (policyNames p).all fun n => m.any fun (x : Nat × Img) => x.2.status == 1 && x.2.hdr.kind == n.1 && x.2.hdr.imageId == n.2

/-- An activation raises its kind's rollback count (R451). -/
def raises (s : State) (h : ImgHdr) : Bool := h.raise && decide (s.fuses.rollback.getD (h.kind - 1) 0 < h.rbVersion)
/-- The rollback count raised once every check has passed (R451). -/
def State.raiseRollback (s : State) (h : ImgHdr) : State :=
  if raises s h then
    ({ s with free := s.free + 1, fuses := { s.fuses with rollback := s.fuses.rollback.set (h.kind - 1) h.rbVersion } }).log 0x0051 0 51
      (w64 [(h.kind, 0)]) (w64 [(h.rbVersion, 0)]) 0#64
  else s

/-- ACTIVATE_IMAGE after the shared checks; the count it raises is programmed once the beat's checks are settled (R70, R451, log 57). -/
def activateBody (d : Desc) (s : State) (c : Cmd) : State :=
  let slot := dfld d 2 7 0
  let want := dfld d 3 47 0
  let at_ := if want = 0 then s.nextB else want
  match s.img? slot with
  | none => s.finish c { status := stNotFound }
  | some i =>
    if i.status = 3 then s.finish c { status := stNotFound }
    else if i.status ≠ 0 then s.finish c { status := stState }
    else if want ≠ 0 && beatLt want (beatAdd s.beat 2) then s.finish c { status := stBadDesc }
    else
      let pol := match i.policy? with
        | some p =>
          if !namesActive (imagesAt s at_ slot) p then some stNotFound
          else activateFails s slot at_ i p
        | none => none
      match pol with
      | some e => s.finish c { status := e }
      | none =>
        if deltaBlocks s i.hdr then s.finish c { status := stState }
        else
          let s := (s.finish c { status := stOK, resB := beat48 at_ }).atFor at_ (.activate slot) c.id
          if raises s i.hdr then s.at s.nextB (.program slot) else s
def execActivateImage (d : Desc) (s : State) : Host.Outcome State Fault Refusal :=
  .next (runDesc s d (d.opcode == 0x11) (activateBody d))

/-- An activation record written to the store (R453, Table 15-10). -/
def State.actWrite (s : State) (slot : Nat) (h : ImgHdr) (state beat : Nat) : State :=
  let q := s.persist.entrySeq
  let r : ActRec := ⟨slot, state, h.kind, h.imageId, h.gen, beat, if beat = s.nextB then s.nextTime else s.clk.lastTime, q, 64, 0, false⟩
  let s := { s with persist := { s.persist with entrySeq := q + 1, acts := s.persist.acts ++ [r] } }
  s.placeRows 2 q (actRow r)

/-- A delta binding whose named generations are all active becomes current (R300). -/
def bindingActive (s : State) (slot : Nat) : Bool :=
  match s.img? slot with
  | some i => (deltaBases i.body).all fun x => match s.activeOf x.1 x.2.1 with | some (_, y) => y.hdr.gen == x.2.2 | none => false
  | none => false
def State.settleDeltas (s : State) : State :=
  { s with tenants := s.tenants.map fun (x : Nat × Tenant) =>
      let t := x.2
      let t := match t.pdNext with | some k => if bindingActive s k then { t with pd := some k, pdNext := none } else t | none => t
      (x.1, match t.tdNext with | some k => if bindingActive s k then { t with td := some k, tdNext := none } else t | none => t) }

/-- A wear move of an image's tiles gives way to its activation (Table 12-12). -/
def State.yieldMove (s : State) (h : ImgHdr) : State :=
  match s.integ.moving with
  | some m =>
    if s.images.any fun x => x.2.hdr.kind == h.kind && x.2.hdr.imageId == h.imageId && !(tilesOn x.2 m.src).isEmpty then
      { s with integ := { s.integ with moving := none } }
    else s
  | none => s
/-- The activation of a loaded image at its boundary (R65, R66, R245, R300, R453). -/
def State.activateNow (s : State) (slot : Nat) : State :=
  match s.img? slot with
  | none => s
  | some i =>
    if i.status ≠ 0 then s
    else
      let d := match i.policy? with | some p => s.delayOf p | none => 0
      let old := (activateIn s.images slot).filter fun x => x.2.status == 0 && ((s.img? x.1).map (·.status)) == some 1
      let s := { s.yieldMove i.hdr with images := activateIn s.images slot }
      let s := s.setImg slot fun x => { x with fixedD := d, brt := s.stack.brt }
      let s := s.actWrite slot i.hdr 1 s.nextB
      (old.foldl (fun s x => s.actWrite x.1 x.2.hdr 2 s.nextB) s).settleDeltas
def execImageActivationBoundary (slot : BitVec 8) (s : State) : Host.Outcome State Fault Refusal :=
  .next (match s.takeEff fun e => e == .activate slot.toNat with
    | some (_, s) => s.activateNow slot.toNat
    | none => s)

/-! Retirement. -/

/-- A tenant's binding holds an image (R185, R300, Table 3-7). -/
def tenantHolds (s : State) (slot : Nat) (i : Img) : Bool :=
  s.tenants.any fun (x : Nat × Tenant) =>
    let t := x.2
    [t.pd, t.td, t.pdNext, t.tdNext].contains (some slot)
      || match i.dict?, t.ban with
         | some d, some b => t.enabled && d.ban.contains b
             && !(s.images.any fun (y : Nat × Img) => y.1 != slot && y.2.loaded && (y.2.dict?.map fun e => e.ban.contains b).getD false)
         | _, _ => false
/-- An open stream or a loaded grammar holds an image for its life (R159, R190). -/
def lifeHolds (s : State) (slot : Nat) (i : Img) : Bool :=
  s.openStreams.any (fun st => st.vocab == slot || st.grammar == some slot)
    || (i.dict?.isSome && s.images.any fun (y : Nat × Img) => (y.2.grammar?.map fun g => g.dictSlot == slot).getD false)

/-- A record in flight uses an image slot. -/
def recUses (r : Rec) (slot : Nat) : Bool :=
  (r.stamp.isSome || r.kind == .chunk) && (r.polSlot == slot || r.pd == some slot || r.td == some slot || r.models.any fun m => m.img == slot)
/-- Records stamped while an image was the active generation: any stamped before its retirement that is unreleased. -/
def stampedUnder (s : State) (slot : Nat) (i : Img) : Bool :=
  s.openStreams.any (fun st => !st.toks.isEmpty && st.parts.any fun x => x.2.gens.contains slot)
    || s.recs.any fun r => recUses r slot || (i.hdr.kind ≠ 10 && r.stamp.isSome && beatLt (r.stamp.getD 0) i.retireBeat)

/-- RETIRE_IMAGE after the shared checks. -/
def retireImgBody (d : Desc) (s : State) (c : Cmd) : State :=
  let slot := dfld d 2 7 0
  match s.img? slot with
  | none => s.finish c { status := stNotFound }
  | some i =>
    if i.status = 3 then s.finish c { status := stNotFound }
    else if i.status ≠ 0 || tenantHolds s slot i || lifeHolds s slot i then s.finish c { status := stState }
    else
      let s := s.setImg slot fun x => { x with status := 2, retireBeat := s.nextB }
      (s.keep c (.retireI slot)).actWrite slot i.hdr 2 s.nextB
def execRetireImage (d : Desc) (s : State) : Host.Outcome State Fault Refusal :=
  .next (runDesc s d (d.opcode == 0x12) (retireImgBody d))

/-- Retirements whose last record is released: the slot is empty (Table 3-7). -/
def State.pumpRetireImages (s : State) : State :=
  s.cmds.foldl (fun s c =>
    match c.k with
    | .retireI slot =>
      match s.img? slot with
      | some i => if stampedUnder s slot i then s else (s.dropImage slot).finish c { status := stOK }
      | none => s.finish c { status := stOK }
    | _ => s) s

/-! Query. -/

/-- QUERY_IMAGE after the shared checks. -/
def queryBody (d : Desc) (s : State) (c : Cmd) : State :=
  match s.img? (dfld d 2 7 0) with
  | none => s.finish c { status := stNotFound }
  | some i =>
    if i.status = 3 then s.finish c { status := stNotFound }
    else
      let dl := match i.policy? with | some p => if i.status = 0 then s.delayOf p else i.fixedD | none => 0
      s.finish c { status := stOK, resA := i.hdr.imageId, resB := pack [(i.hdr.gen, 0), (dl, 32), (i.hdr.kind, 48), (i.status, 56)] }
def execQueryImage (d : Desc) (s : State) : Host.Outcome State Fault Refusal :=
  .next (runDesc s d (d.opcode == 0x13) (queryBody d))

end Sys2Proof.Machine
end

