-- ==== Sys2Proof/Machine/Match.lean ====
section
/-! DEFINITION. Updates, shifts and diagnostic searches of the associative store (R241, R243, R244, R246, R253, R255, R256). -/

namespace Sys2Proof.Machine

/-! What updates ask of a bank. -/

def inShift (b : Bank) (us : List Nat) : Bool :=
  match b.shift with | some h => us.any fun u => (h.units b.width).contains u | none => false
/-- The image that owns a set number of a bank. -/
def setOwner (s : State) (bank set : Nat) : Option (Nat × Img) :=
  s.images.find? fun x => x.2.placed.any fun y => y.2.1 == bank && y.2.2 == set
def setLive (s : State) (bank set : Nat) : Bool := ((setOwner s bank set).map fun x => x.2.hdr.liveUpdate).getD false
/-- The target range lies within the bank, on entry boundaries (Table 3-7). -/
def rangeOk (w first n : Nat) : Bool := first % w == 0 && first + w * n ≤ 2048
def entriesAt (b : Bank) (us : List Nat) : List BEntry := b.entries.filter fun e => us.contains e.unit

/-! Updates. -/

/-- What invalidate and validate ask of their targets: no running shift, every entry's set open to updates. -/
def updateOk (s : State) (k : Nat) (b : Bank) (us : List Nat) : Bool :=
  !inShift b us && (entriesAt b us).all fun e => setLive s k e.rec_.set
/-- MATCH_UPDATE invalidate after the shared checks. -/
def invalidateBody (d : Desc) (s : State) (c : Cmd) : State :=
  let k := dfld d 2 7 3
  let b := bankSoon s k
  let n := dfld d 2 30 20 + 1
  let us := targetUnits b.width (dfld d 2 18 8) n
  if !rangeOk b.width (dfld d 2 18 8) n then s.finish c { status := stBadDesc }
  else if !updateOk s k b us then s.finish c { status := stState }
  else (s.finish c { status := stOK }).at s.nextB (.invalidate k us)
def execMatchUpdateInvalidate (d : Desc) (s : State) : Host.Outcome State Fault Refusal :=
  .next (runDesc s d (d.opcode == 0x20 && dfld d 2 1 0 == 0) (invalidateBody d))

/-- A fill token of a policy that names the set stands in a cared slot (R241). -/
def fillClash (s : State) (k w : Nat) (r : EntryRec) : Bool :=
  match setOwner s k r.set with
  | some (_, i) => (AMap.vals s.images).any fun x =>
      match x.policy? with
      | some p => (policyNames p).contains (4, i.hdr.imageId) && holdsFill w p.fillToken r
      | none => false
  | none => false
/-- Entries of a set in every bank it is placed in, with the changes of the coming boundary. -/
def setEntries (s : State) (i : Img) : List BEntry :=
  i.placed.flatMap fun y => (bankSoon s y.2.1).entries.filter fun e => e.rec_.set == y.2.2
/-- The place in its set's master of a record to be validated: one that holds this record and no entry of its copy, else the first that no
entry of the set holds (R246, log 35). -/
def masterPlace (s : State) (k : Nat) (taken : List Nat) (r : EntryRec) : Nat :=
  match setOwner s k r.set with
  | some (_, i) =>
    let live (e : BEntry) : Bool := e.valid || e.shadowBad
    let rs := match i.set? with | some p => p.entries | none => []
    let copy := (i.placed.find? fun y => y.2.1 == k && y.2.2 == r.set).map (·.1)
    let mine := ((setEntries s { i with placed := i.placed.filter fun y => some y.1 == copy }).filter live).map (·.place) ++ taken
    let all := ((setEntries s i).filter live).map (·.place) ++ taken
    match (List.range rs.length).find? fun q => ({ rs.getD q default with set := r.set } : EntryRec) == r && !mine.contains q with
    | some q => q
    | none => ((List.range (rs.length + all.length + 1)).find? fun q => !all.contains q).getD 0
  | none => 0
/-- MATCH_UPDATE write after the shared checks; records short of the count stand for a read with poisoned data (R407). -/
def writeBody (d : Desc) (recs : List Byte) (s : State) (c : Cmd) : State :=
  let k := dfld d 2 7 3
  let b := bankSoon s k
  let w := b.width
  let n := dfld d 2 30 20 + 1
  let us := targetUnits w (dfld d 2 18 8) n
  if !rangeOk w (dfld d 2 18 8) n then s.finish c { status := stBadDesc }
  else if recs.length < n * (16 + 32 * w) then s.haltRing c.ring (dfld d 3 56 0)
  else
    let es := parseEntries w n recs
    if !es.all (fun r => entryOk w r && !fillClash s k w r) then s.finish c { status := stBadDesc }
    else if inShift b us || !(entriesAt b us).all (fun e => !e.valid) || !es.all (fun r => setLive s k r.set) then
      s.finish c { status := stState }
    else
      let new := ((List.range n).zip (us.zip es)).map fun x => BEntry.put x.2.1 x.2.2 false (s.nextId + x.1) 0
      ({ s.finish c { status := stOK } with nextId := s.nextId + n }).at s.nextB (.writeE k new)
def execMatchUpdateWrite (d : Desc) (recs : List Byte) (s : State) : Host.Outcome State Fault Refusal :=
  .next (runDesc s d (d.opcode == 0x20 && dfld d 2 1 0 == 1) (writeBody d recs))

/-- An entry record as software writes it (Table 8-2). -/
def recordBytes (w : Nat) (r : EntryRec) : List Byte :=
  wordsBytes [w64 [(r.priority, 0), (r.rule, 12), (b2n r.isPrefix, 24), (r.length, 25), (r.set, 29), (r.pattern, 32)], 0#64]
    ++ (List.range w).flatMap fun i =>
      natToBytes 16 (r.value >>> (72 * i) % 2 ^ 72) ++ natToBytes 16 (r.care >>> (72 * i) % 2 ^ 72)
/-- Bytes replaced at an offset; a list too short is filled with zeros up to whole tiles. -/
def patch (bs : List Byte) (off : Nat) (new : List Byte) : List Byte :=
  let bs := bs ++ List.replicate (4096 * cdiv (off + new.length) 4096 - bs.length) 0#8
  bs.take off ++ new ++ bs.drop (off + new.length)
/-- Offset in its image of the record at a place of the set's master (log 35). -/
def recordOff (p : PatSetImg) (place : Nat) : Nat := 256 + p.hdr.recordOffset + place * (16 + 32 * p.hdr.width)
/-- A set's image with one more entry in its master (R246). -/
def Img.withEntry (i : Img) (e : BEntry) : Img :=
  match i.set? with
  | some p =>
    let rs := if e.place < p.entries.length then p.entries.set e.place e.rec_ else p.entries ++ [e.rec_]
    { i with bytes := patch i.bytes (recordOff p e.place) (recordBytes p.hdr.width e.rec_),
             body := .patternSet { p with hdr := { p.hdr with count := rs.length }, entries := rs } }
  | none => i
/-- The masters of the sets of a bank with entries added. -/
def withEntries (s : State) (k : Nat) (es : List BEntry) : AMap Img :=
  es.foldl (fun (m : AMap Img) e => match setOwner s k e.rec_.set with | some (slot, _) => AMap.modify m slot fun i => i.withEntry e | none => m) s.images
/-- Tiles of an image that a record lies in. -/
def recordTiles (p : PatSetImg) (place : Nat) : List Nat :=
  let a := recordOff p place / 4096
  let b := (recordOff p place + (15 + 32 * p.hdr.width)) / 4096
  (List.range (b + 1 - a)).map (a + ·)
/-- The runs of the images region with room for masters that have grown, and the tiles to be written: the whole of a master that moves, else
the tiles of the records. No answer: the region has no room. -/
def growRuns (s : State) (m : AMap Img) : Option (AMap (Nat × Nat) × List Nat) :=
  m.foldl (fun (acc : Option (AMap (Nat × Nat) × List Nat)) x =>
    match acc with
    | none => none
    | some (runs, moved) =>
      let n := x.2.bytes.length / 4096
      match AMap.get? runs x.1 with
      | some (_, l) =>
        if n ≤ l then acc
        else
          let others := AMap.erase runs x.1
          match (runStarts { s with stack := { s.stack with imgRuns := others } } n).head? with
          | some a => some (AMap.set runs x.1 (a, n), moved ++ [x.1])
          | none => none
      | none => acc) (some (s.stack.imgRuns, []))
/-- Tiles of the masters that a validate writes: slot and tile. -/
def masterTiles (s : State) (m : AMap Img) (moved : List Nat) (k : Nat) (es : List BEntry) : List (Nat × Nat) :=
  (moved.flatMap fun slot => (List.range ((AMap.getD m slot default).bytes.length / 4096)).map fun t => (slot, t))
    ++ (es.flatMap fun e => match setOwner s k e.rec_.set with
      | some (slot, i) => if moved.contains slot then [] else
          match i.set? with | some p => (recordTiles p e.place).map fun t => (slot, t) | none => []
      | none => []).eraseDups
/-- The tiles of a command's masters written, as they will be. -/
def masterWrites (s : State) (m : AMap Img) (cmd : Nat) (ts : List (Nat × Nat)) : State :=
  ts.foldl (fun s t => s.firm 2 (.setMaster cmd) [w64 [(tileOff s t.1 t.2, 0)]] (tileRecord (AMap.getD m t.1 default) t.2) 0) s
/-- Entries in order of unit, each with its place in its set's master. -/
def placedEntries (s : State) (k : Nat) (es : List BEntry) : List BEntry :=
  (sortAsc (·.unit) es).foldl (fun ps e => ps ++ [{ e with place := masterPlace s k (ps.map (·.place)) e.rec_ }]) []
/-- A validate of some units begins, or begins again: the set's master is written, then the valid bits are set. Until every write is answered
the model's copy of the master stands as it was (R112, R246). A master for which the images region has no room is refused; REFUSED_STATE is the
one refusal the command has (DESIGN CHOICE, log 35). -/
def State.validateGo (s : State) (c : Cmd) (k : Nat) (us : List Nat) : State :=
  let b := bankSoon s k
  let es := placedEntries s k (entriesAt b us)
  if !updateOk s k b us || es.length < us.length || !es.all (·.written) then s.finish c { status := stState }
  else
    let m := withEntries s k es
    match growRuns s m with
    | none => s.finish c { status := stState }
    | some (runs, moved) =>
      let ts := masterTiles s m moved k es
      masterWrites { s.keep c (.validate k us ts.length es) with stack := { s.stack with imgRuns := runs } } m c.id ts
/-- MATCH_UPDATE validate after the shared checks. -/
def validateBody (d : Desc) (s : State) (c : Cmd) : State :=
  let k := dfld d 2 7 3
  let b := bankSoon s k
  let n := dfld d 2 30 20 + 1
  if !rangeOk b.width (dfld d 2 18 8) n then s.finish c { status := stBadDesc }
  else s.validateGo c k (targetUnits b.width (dfld d 2 18 8) n)
def execMatchUpdateValidate (d : Desc) (s : State) : Host.Outcome State Fault Refusal :=
  .next (runDesc s d (d.opcode == 0x20 && dfld d 2 1 0 == 2) (validateBody d))
/-- Entries hold the same records in the same units. -/
def sameEntries (a b : List BEntry) : Bool := (sortAsc (·.unit) a).map (fun e => (e.unit, e.rec_)) == (sortAsc (·.unit) b).map fun e => (e.unit, e.rec_)
/-- One master tile of a validate is written; at the last the command completes and its bits are set at the next boundary, unless its entries
were written again meanwhile: then the master is, too. -/
def State.masterStep (s : State) (cmd : Nat) : State :=
  match s.cmd? cmd with
  | some c =>
    match c.k with
    | .validate k us left es =>
      if 1 < left then s.keep c (.validate k us (left - 1) es)
      else if !sameEntries (entriesAt (bankSoon s k) us) es then s.validateGo c k us
      else ((({ s with images := withEntries s k es } : State).finish c { status := stOK }).at s.nextB (.writeE k es)).at s.nextB (.validate k us)
    | _ => s
  | none => s

/-! Shifts. -/

/-- MATCH_SHIFT after the shared checks. -/
def shiftBody (d : Desc) (s : State) (c : Cmd) : State :=
  let k := dfld d 2 7 3
  let b := bankSoon s k
  let w := b.width
  let first := dfld d 2 18 8
  let n := dfld d 2 30 20 + 1
  let up := !dbit d 2 32
  let free := if up then first + w * n else first - w
  if !rangeOk w first (if up then n + 1 else n) || (!up && first < w) then s.finish c { status := stBadDesc }
  else if b.shift.isSome || (entriesAt b [free]).any (·.valid) then s.finish c { status := stState }
  else ((s.keep c (.shift k)).setBank k fun x => { x with shift := some ⟨first, n, up, 0, false, c.id⟩ }).at s.nextB (.shiftMove k)
def execMatchShift (d : Desc) (s : State) : Host.Outcome State Fault Refusal :=
  .next (runDesc s d (d.opcode == 0x21) (shiftBody d))
/-- Source and destination of the move under way, beginning with the entry nearest the free one. -/
def Shift.move (w : Nat) (h : Shift) : Nat × Nat :=
  if h.up then let u := h.first + w * (h.count - 1 - h.done); (u, u + w)
  else let u := h.first + w * h.done; (u, u - w)
/-- One boundary of a running shift: a copy becomes valid, or an original is invalidated (R256). -/
def State.shiftNow (s : State) (k : Nat) : State :=
  let b := s.bank k
  match b.shift with
  | none => s
  | some h =>
    let (src, dst) := h.move b.width
    if !h.copied then
      let new := (entriesAt b [src]).map fun e => { e with unit := dst }
      (s.setBank k fun x => { x with entries := x.entries.filter (fun e => e.unit != dst) ++ new, shift := some { h with copied := true } }).at
        (beatAdd s.nextB 1) (.shiftMove k)
    else
      let s := s.setBank k fun x => x.invalidate [src]
      if h.done + 1 = h.count then (s.setBank k fun x => { x with shift := none }).finishId h.cmd { status := stOK }
      else (s.setBank k fun x => { x with shift := some { h with done := h.done + 1, copied := false } }).at (beatAdd s.beat 2) (.shiftMove k)
def execMatchShiftMove (bank : BitVec 5) (s : State) : Host.Outcome State Fault Refusal :=
  .next (match s.takeEff fun e => e == .shiftMove bank.toNat with
    | some (_, s) => s.shiftNow bank.toNat
    | none => s)

/-! Diagnostic searches. -/

/-- The key record: width, set mask, key, and whether its reserved bits are 0 (R253). -/
def searchKey (bs : List Byte) : Nat × Nat × Nat × Bool :=
  let w0 := rd64 bs 0
  let w := match fld w0 1 0 with | 0 => 1 | 1 => 2 | 2 => 4 | _ => 0
  let unit (i : Nat) : Nat := rdN bs (16 + 16 * i) 9
  (w, fld w0 5 2, pack ((List.range w).map fun i => (unit i, 72 * i)),
   fld w0 63 6 == 0 && rdN bs 8 8 == 0 && (List.range w).all fun i => rdN bs (25 + 16 * i) 7 == 0)
def keyBytes (bs : List Byte) : Nat := match fld (rd64 bs 0) 1 0 with | 0 => 32 | 1 => 48 | 2 => 80 | _ => 16
/-- The slot of the dual set an entry of a bank belongs to, if any. -/
def dualOwner (s : State) (h : Hit) : Option Nat :=
  match setOwner s (h.1 / 2048) h.2.rec_.set with
  | some (slot, i) => if (i.set?.map fun p => p.hdr.dual).getD false then some slot else none
  | none => none
/-- Distinct matches in order; false hits are skipped, and so is the second copy of an entry, of a shift or of a dual set (R248, R249,
R257). -/
def distinctHits (s : State) (key : Nat) : List Hit → List Hit → List Hit
  | [], _ => []
  | h :: hs, taken =>
    let same := taken.any fun x => x.2.tag == h.2.tag || ((dualOwner s h).isSome && dualOwner s x == dualOwner s h && dualCopy x.2 h.2)
    if falseMatch key h.2 || same then distinctHits s key hs taken else h :: distinctHits s key hs (h :: taken)
/-- MATCH_SEARCH after the shared checks; a search that meets an uncorrectable shadow has no result (R259). -/
def searchBody (d : Desc) (key : List Byte) (s : State) (c : Cmd) : State :=
  let (w, sets, x, ok) := searchKey key
  if key.length < keyBytes key then s.haltRing c.ring (dfld d 3 56 0)
  else if w = 0 || !ok then s.finish c { status := stBadDesc }
  else
    let ks := (List.range s.nBanks).filter fun k => (dfld d 2 31 0).testBit k && (s.bank k).width == w
    let hits := sortAsc hitKey (ks.flatMap fun k => bankHits k sets x (s.bank k).entries)
    let s := s.searchFinds ((hits.filter fun h => falseMatch x h.2).map (·.1)) ((hits.filter fun h => h.2.shadowBad).map (·.1))
    let hs := distinctHits s x hits []
    let n := dfld d 4 15 0
    match hs[n]? with
    | some (u, e) =>
      if hits.any fun h => h.2.shadowBad then s.finish c { status := stNotFound }
      else
        let next := if n + 1 < hs.length then n + 1 else 0
        s.finish c { status := stOK, resA := u, resB := pack [(b2n (2 ≤ hs.length), 0), (e.rec_.priority, 1), (next, 16)] }
    | none => s.finish c { status := stNotFound }
def execMatchSearch (d : Desc) (key : List Byte) (s : State) : Host.Outcome State Fault Refusal :=
  .next (runDesc s d (d.opcode == 0x22) (searchBody d key))

end Sys2Proof.Machine
end

