-- ==== Sys2Proof/Machine/Background.lean ====
section
/-! DEFINITION. Background work: tile checks, moves of a cell's tiles, self-test, calibration, the background ping, the stack window
sweep and missed floors (R53, R69, R329, R331, R376 to R379, R381, R391, R394). -/

namespace Sys2Proof.Machine

/-! Tile records. -/

/-- A tile record's checksum verifies (R391). -/
def tileCrcOk (bs : List Byte) : Bool :=
  bs.length == 4160 && rdN bs 24 4 == (crc32c (sliceB bs 64 4096 ++ sliceB bs 0 24)).toNat
/-- A tile record read back for an image is good (R394): its checksum verifies, it is not open, and it names the tile. -/
def tileCheck (i : Img) (tile : Nat) (bs : List Byte) : Bool :=
  tileCrcOk bs && fld (rd64 bs 0) 31 0 == i.hdr.imageId && fld (rd64 bs 0) 63 32 == i.hdr.gen
    && fld (rd64 bs 8) 23 0 == tile && fld (rd64 bs 8) 28 24 == 0

/-! Floors. -/

/-- Work of a floor completes: its interval restarts (R376). -/
def State.floorDone (s : State) (k : Nat) : State :=
  { s with integ := { s.integ with floorAt := AMap.set s.integ.floorAt k s.beat, floorsLate := s.integ.floorsLate.filter fun x => x != k } }
/-- Beats of each floor of Table 12-9, by its bit. -/
def floorBeats (s : State) (k : Nat) : Nat :=
  match k with
  | 0 => 16000 | 1 => 4000000 | 2 => 2 ^ 38 | 3 => 2 ^ 24 | 4 => 2 ^ 24 | 5 => 2 ^ 20 | 6 => 2 ^ s.mgmt.cntK | _ => 4000000
/-- An operation of some purpose is outstanding, or waits to be issued. -/
def outFor (s : State) (p : Purp → Bool) : Bool :=
  (s.stack.firm.any fun o => p o.purp) || (AMap.vals s.stack.chans).any fun c => c.outs.any fun o => p o.purp && !o.dead
/-- Work with a beat of its own that has begun there and goes on: the ping, the ledger snapshot (log 61). -/
def floorGoing (s : State) (k : Nat) : Bool :=
  match k with
  | 5 => outFor s fun p => p == .pingBg
  | 7 => s.persist.snaps.any fun n => !n.committed
  | _ => false
/-- A floor's interval has expired unmet; a counter sample that misses its beat shows at that beat (R460). -/
def floorLate (s : State) (k : Nat) : Bool :=
  k ≠ 6 && !s.integ.floorsLate.contains k && !floorGoing s k && beatLe (beatAdd (AMap.getD s.integ.floorAt k 0) (floorBeats s k)) s.beat
/-- A missed floor: its bit, a log record, the management interrupt; a sweep's also sets SCRUB_INTERVAL (R376). -/
def State.floorMiss (s : State) (k : Nat) : State :=
  let s := { s with integ := { s.integ with floorStatus := s.integ.floorStatus ||| 2 ^ k, floorsLate := s.integ.floorsLate ++ [k] } }
  let s := (if k ≤ 2 then s.fault 3 else s).count 78 1
  (s.raise 1).log 0x0020 1 51 (w64 [(k, 0)]) 0#64 0#64
def execFloorMissed (k : BitVec 3) (s : State) : Host.Outcome State Fault Refusal :=
  .next (if s.complete && !s.clk.stopped && floorLate s k.toNat then s.floorMiss k.toNat else s)

/-! Moves of a cell's tiles. -/

/-- A tile whose master is rewritten from the image part and then read again. -/
def State.askRepair (s : State) (slot key : Nat) : State :=
  if s.stack.repairs.contains (slot, key) then s
  else ({ s with stack := { s.stack with repairs := s.stack.repairs ++ [(slot, key)] } }.count 85 1).log 0x0030 1 51
    (w64 [(key, 0)]) (w64 [(match s.img? slot with | some (i : Img) => i.hdr.imageId | none => 0, 0)]) (w64 [(Config.unlistedCause 3, 0)])
/-- Tiles of every image on a cell: slot and key. -/
def cellTiles (s : State) (c : Nat) : List (Nat × Nat) := s.images.flatMap fun (x : Nat × Img) => (tilesOn x.2 c).map fun k => (x.1, k)
/-- An image may use a cell of a ridge for tiles it has on another: a head without deltas, on the ridges it is pinned to or, where it is pinned to
none, on any; structures that lie on each ridge stay there (R287, R377). -/
def mayUse (s : State) (slot r : Nat) : Bool :=
  match s.img? slot with
  | some i => i.head?.isSome && (i.pinned.map (·.contains r)).getD true
      && !(s.images.any fun x => match x.2.body with | .probeDelta bs => bs.any fun b => b.imageId == i.hdr.imageId && b.gen == i.hdr.gen | _ => false)
  | none => false
/-- Cells a cell's tiles may move to: in rotation, on the same ridge or one every image there may use, with room (R377). -/
def moveDests (s : State) (c : Nat) : List Nat :=
  let ts := cellTiles s c
  (List.range s.cells).filter fun d =>
    d != c && !s.integ.cellsOut.contains d && ts.length ≤ cellRoom s d
      && (d / 16 == c / 16 || ts.all fun t => mayUse s t.1 (d / 16))
def activityOf (s : State) (c : Nat) : Nat := AMap.getD s.integ.activity c 0
/-- The cell of a list that is best by a measure, the first among equals. -/
def leastBy (f : Nat → Nat) (cs : List Nat) : Option Nat :=
  cs.foldl (fun (b : Option Nat) c => match b with | some x => if f c < f x then some c else b | none => some c) none
/-- Reads of the tiles under way, issued while there is room. -/
def pumpMove : Nat → State → State
  | 0, s => s
  | f + 1, s =>
    match s.integ.moving with
    | some m =>
      match m.todo with
      | (slot, k) :: ts =>
        if ((s.img? slot).map (·.masterLost)).getD true then { s with integ := { s.integ with moving := none } }
        else if !bgRoom s 1 1 (tileOff s slot (keyTile k)) then s
        else
          let s := { s with integ := { s.integ with moving := some { m with todo := ts, left := m.left + 1 } } }
          let (_, s) := s.issue .back 1 (.wearRead m.src m.dst slot k) [w64 [(tileOff s slot (keyTile k), 0)]] [] 65
          pumpMove f s
      | [] => s
    | none => s
/-- A move begins. -/
def State.startMove (s : State) (src dst : Nat) (cmd : Option Nat) : State :=
  let ts := cellTiles s src
  pumpMove 65 { s with integ := { s.integ with moving := some ⟨src, dst, ts, 0, cmd⟩ } }
def State.dropMove (s : State) : State := { s with integ := { s.integ with moving := none } }
/-- One tile of a move is read: a bad copy, which is repaired (Table 13-6), or a failed cell abandons it; after the last, the cells switch at the next boundary. -/
def State.moveStep (s : State) (src dst slot key : Nat) (payload : List Byte) : State :=
  match s.integ.moving with
  | some m =>
    if m.src ≠ src || m.dst ≠ dst then s
    else
      let good := match s.img? slot with | some i => tileCheck i (keyTile key) payload | none => false
      if !good then s.dropMove.askRepair slot key
      else if s.integ.cellsOut.contains dst then s.dropMove
      else
        let s := pumpMove 65 { s with integ := { s.integ with moving := some { m with left := m.left - 1 } } }
        match s.integ.moving with
        | some m => if m.todo.isEmpty && m.left = 0 then s.at s.nextB (.wear src dst) else s
        | none => s
  | none => s
/-- The whole cell's tiles switch at one boundary (R377). -/
def State.wearNow (s : State) (src dst : Nat) : State :=
  match s.integ.moving with
  | some m =>
    if m.src ≠ src || m.dst ≠ dst || s.integ.cellsOut.contains dst || cellRoom s dst < (cellTiles s src).length then s.dropMove
    else
      { s.dropMove with images := s.images.map fun (x : Nat × Img) =>
          let ks := tilesOn x.2 src
          let cells := x.2.cells.map fun (y : Nat × Nat) => if ks.contains y.1 then (y.1, dst) else y
          (x.1, { x.2 with cells := cells, ridges := if x.2.head?.isSome then (cells.map fun y => y.2 / 16).eraseDups else x.2.ridges }) }
  | none => s
/-- The wear rotation of the busiest cell, every 2^20 beats (R377). -/
def State.wearRotate (s : State) : State :=
  let used := (List.range s.cells).filter fun c => !s.integ.cellsOut.contains c && !(cellTiles s c).isEmpty
  let s := { s with integ := { s.integ with wearDone := s.nextB } }
  match leastBy (fun c => 2 ^ 64 - min (2 ^ 64) (activityOf s c)) used with
  | none => s
  | some src =>
    match leastBy (activityOf s) (moveDests s src) with
    | some dst => s.startMove src dst none
    | none => s
def wearDue (s : State) : Bool := !s.start.halted && s.nextB % 2 ^ 20 = 0 && s.integ.wearDone ≠ s.nextB && s.integ.moving.isNone
def execWearRotation (s : State) : Host.Outcome State Fault Refusal :=
  .next (if s.complete && !s.clk.stopped && s.atEnd && wearDue s then s.wearRotate else s)

/-! Self-test. -/

/-- The allowance leaves a cell's share beyond the admitted demand (R378). -/
def testMargin (s : State) : Bool :=
  let as := s.adms
  let per (f : Demand → Nat) (a : Adm) : Nat := (1 + a.k) * a.pol.sum f
  classDemand s 0 (per (·.lane)) as + 11776 ≤ plannable s.laneAllow && classDemand s 1 (per (·.walk)) as + 184 ≤ plannable s.walkAllow
/-- A self-test's result: a faulty unit leaves rotation, a cell at the next boundary (R29, R53, R379). -/
def State.testDone (s : State) (c : Cmd) (target unit : Nat) (failed : Bool) : State :=
  let s := if !failed then s
    else if target = 0 then s.at s.nextB (.cellOut unit (Config.unlistedCause 2))
    else { s with integ := { s.integ with unitsOut := s.integ.unitsOut ++ [(target, unit)] } }
  s.finish c { status := stOK, resB := b2n failed }
/-- A cell test out of rotation, as far as it can go: the move, then the test. -/
def State.pumpTest (s : State) (c : Cmd) : State :=
  match c.k with
  | .test 0 cell failed false =>
    if s.integ.moving.isSome || !testMargin s then s
    else if !(cellTiles s cell).isEmpty then
      match leastBy (activityOf s) (moveDests s cell) with
      | some d => s.startMove cell d (some c.id)
      | none => s
    else if failed then s.testDone c 0 cell true
    else ((s.at s.nextB (.cellOut cell (Config.unlistedCause 2))).keep c (.test 0 cell failed true)).at (beatAdd s.nextB 1) (.cellBack cell)
  | _ => s
def State.pumpTests (s : State) : State := s.cmds.foldl State.pumpTest s
/-- A cell that passed its test is back in rotation; its command completes. -/
def State.cellReturns (s : State) (cell : Nat) : State :=
  let s := { s with integ := { s.integ with cellsOut := s.integ.cellsOut.filter fun x => x != cell } }
  s.cmds.foldl (fun s c => match c.k with
    | .test 0 x _ true => if x = cell then s.finish c { status := stOK } else s
    | _ => s) s
/-- Units of a self-test's target (Table 3-6). -/
def testUnits (s : State) (target : Nat) : Nat :=
  match target with | 0 => s.cells | 1 => s.ridges | 2 => s.nBanks | 3 => s.tokUnits | _ => 256
/-- SELF_TEST after the shared checks: a cell out of rotation when there is margin, every other case in slices (R378). -/
def selfTestBody (d : Desc) (failed : Bool) (s : State) (c : Cmd) : State :=
  let t := dfld d 2 3 0
  let u := dfld d 2 15 8
  if testUnits s t ≤ u then s.finish c { status := stBadDesc }
  else if t = 0 && s.complete && testMargin s && !s.integ.cellsOut.contains u then (s.keep c (.test 0 u failed false)).pumpTests
  else s.testDone c t u failed
def execSelfTest (d : Desc) (failed : Bool) (s : State) : Host.Outcome State Fault Refusal :=
  .next (runDesc s d (d.opcode == 0x28) (selfTestBody d failed))

/-! Calibration. -/

/-- The power model as a calibration leaves it: P_idle and P_dyn are what the calibration finds (R372, log 66). -/
def State.keepPower (s : State) : State :=
  { s with gov := { s.gov with idleMw := Config.powerFound s.free, dynMw := Config.powerFound (s.free + 1) }, free := s.free + 2 }
/-- A thermal or droop calibration has ended: its floor is met, and the power model is kept by it (R372, R376). -/
def State.calibDone (s : State) (k : Nat) : State := (s.floorDone k).keepPower
/-- Work of a floor that a beat's operand reports. -/
def State.floorWork (s : State) (k : Nat) : State := if k = 3 || k = 4 then s.calibDone k else s.floorDone k
def thermalBody (_ : Desc) (bad : List Nat) (s : State) (c : Cmd) : State :=
  ({ s with gov := { s.gov with sensorsBad := bad } }.calibDone 3).finish c { status := stOK, resB := s.stack.brt }
def execCalibrateThermalTrims (d : Desc) (bad : List Nat) (s : State) : Host.Outcome State Fault Refusal :=
  .next (runDesc s d (d.opcode == 0x29 && dfld d 2 1 0 == 0) (thermalBody d bad))
def droopBody (_ : Desc) (s : State) (c : Cmd) : State := (s.calibDone 4).finish c { status := stOK, resB := s.stack.brt }
def execCalibrateDroopDetectors (d : Desc) (s : State) : Host.Outcome State Fault Refusal :=
  .next (runDesc s d (d.opcode == 0x29 && dfld d 2 1 0 == 1) (droopBody d))

/-- Streams whose ring class's bound no longer holds are logged (R70). -/
def State.recheckBounds (s : State) : State :=
  s.openStreams.foldl (fun s st =>
    let p := s.streamPol st
    let dr := s.dRangeOf (s.delayOf p)
    if p.nRounds ≠ 0 && s.latBound st.rc < dr + 1 then
      s.log 0x0040 1 51 (w64 [(st.handle, 0)]) (w64 [(s.latBound st.rc, 0)]) (w64 [(dr + 1, 0)])
    else s) s
/-- What the raised B_rt makes of an open checked in the same beat: the status it is refused with (R70, R90, Table 2-5). -/
def openFails (s : State) (st : Stream) : Option Nat :=
  let vs := s.soon :: s.viewsFrom s.nextB
  if vs.any fun v => decide (s.latBound st.rc < s.dRangeOf (s.delayOf (v.streamPol st)) + 1) then some stLatency
  else if vs.any fun v => !v.fitsStack v.adms then some stCapacity
  else if st.grammar.isSome && vs.any fun v => !v.fitsDeadlines v.adms then some stDeadline
  else none
/-- An open whose checks were made in this beat. -/
def openedNow (s : State) (st : Stream) : Bool := st.phase == .opening && st.opened.1 == s.beat
/-- The machine with the admissions of this beat that are not among some out of sight. -/
def State.before (s : State) (kept : List Sched) : State :=
  { s with
    sched := kept,
    streams := s.streams.filter fun (x : Nat × Stream) => !openedNow s x.2 || kept.any fun e => match e.eff with | .openS h _ => h == x.2.handle | _ => false }
/-- A command's completion of this beat becomes a refusal; whether there is one. -/
def State.refuseLate (s : State) (cmd status : Nat) : Bool × State :=
  let here (c : Cpl) : Bool := c.kind == 0 && c.cmd == cmd && c.status == stOK && c.since == s.beat
  match s.rings.find? fun x => x.2.cqPend.any here with
  | some (k, _) =>
    let bad (c : Cpl) : Cpl := if here c then { c with status := status, resB := 0, stream := if c.opcode = 1 then 0 else c.stream } else c
    (true, countRefusal (s.setRing k fun r => { r with cqPend := r.cqPend.map bad }) status)
  | none => (false, s)
/-- An open of this beat ends with a refusal, completed or still at its loads. -/
def State.refuseOpen (s : State) (st : Stream) (status : Nat) : State :=
  if (s.cmd? st.opened.2).isSome then s.cmdAbsent st.opened.2 status
  else
    let (hit, s) := s.refuseLate st.opened.2 status
    if hit then s.unopen st.handle else s
/-- One admission of this beat checked again behind those that stand; it is kept, or it is refused and has no effect (R70, R83, R90). -/
def State.recheckOne (acc : State × List Sched) (e : Sched) : State × List Sched :=
  let (s, kept) := acc
  let (id, status) : Nat × Option Nat :=
    match e.eff with
    | .activate slot => (e.cmd, ((s.img? slot).bind fun i => i.policy?.map fun p => (i, p)).bind fun x => activateFails (s.before kept) slot e.at_ x.1 x.2)
    | .policy pid img true _ => (e.cmd, (s.activeOf 10 img).bind fun x => bif bindingFails (s.before kept) pid x.2 then some stLatency else none)
    | .openS h _ => (0, (s.stream? h).bind fun st => bif openedNow s st then openFails (s.before (kept ++ [e])) st else none)
    | _ => (0, none)
  match status, e.eff with
  | none, _ => (s, kept ++ [e])
  | some x, .openS h _ => (match s.stream? h with | some st => s.refuseOpen st x | none => s, kept)
  | some x, eff =>
    let (hit, s) := s.refuseLate id x
    if hit = true then ({ s with sched := s.sched.filter fun y => y != e && (match eff, y.eff with | .activate a, .program b => a != b | _, _ => true) }, kept)
    else (s, kept ++ [e])
/-- Every admission of this beat is checked again under the raised B_rt, in the order in which they were made (R70, R90, log 57). -/
def State.recheckAll (s : State) : State :=
  let (s, kept) := s.sched.foldl State.recheckOne (s, [])
  let s := (s.openStreams.filter fun st => openedNow s st && !(s.sched.any fun e => match e.eff with | .openS h _ => h == st.handle | _ => false)).foldl
    (fun s st => match openFails (s.before (kept ++ [⟨s.nextB, .openS st.handle 0, 0⟩])) st with | some x => s.refuseOpen st x | none => s) s
  (s.cmds.filter fun c => match c.k with | .bindS h => c.since == s.beat && ((s.stream? h).map (·.grammar.isSome)).getD false | _ => false).foldl
    (fun s c => if s.fitsDeadlines s.adms then s else s.abort c stDeadline) s
/-- The rollback count of an accepted activation is programmed, once the checks of its beat are settled; a programming that fails leaves the
image loaded and the count as it was (R70, R451, log 63). -/
def State.programNow (s : State) (slot : Nat) : State :=
  match s.img? slot, s.sched.find? fun e => e.eff == .activate slot with
  | some i, some e =>
    if raises s i.hdr && Config.fuseFails s.free then
      ({ (s.refuseLate e.cmd stInternal).2 with free := s.free + 1, sched := s.sched.erase e } : State)
    else s.raiseRollback i.hdr
  | _, _ => s
/-- What a beat's checks leave to be done is done before the block stops. -/
def State.settle (s : State) : State :=
  s.sched.foldl (fun s e => match e.eff with
    | .program slot => ({ s with sched := s.sched.erase e } : State).programNow slot
    | _ => s) s
/-- STACK_SLOW: a round trip beyond what B_rt covers raises B_rt (R69, R70, R331). -/
def State.stackSlow (s : State) (chan tag rt : Nat) : State :=
  let b := max s.stack.brt (cdiv (rt + 35) 235)
  let s := { s with stack := { s.stack with brt := b } }
  (((((s.fault 1).count 63 1).raise 1).log 0x0010 1 (40 + chan) (w64 [(chan, 0), (tag, 3)]) (w64 [(rt, 0)]) (w64 [(b, 0)])).recheckBounds).recheckAll
def overBrt (s : State) (rt : Nat) : Bool := decide (s.stack.brt * 235 - 35 < rt)
/-- Pings of one channel's series: 4,096 in all, spread over the enabled channels, the first ones taking one more where the division leaves a
rest (R68, log 36). -/
def seriesPings (s : State) (chan : Nat) : Nat :=
  let n := max 1 (enabledChans s)
  let i := ((List.range chan).filter s.chanEn).length
  4096 / n + b2n (i < 4096 % n)
def seriesOuts (s : State) (chan : Nat) : Nat :=
  ((s.chan chan).outs.filter fun o => match o.purp with | .pingSeries _ => true | _ => false).length
/-- Response transfers outstanding on a channel. -/
def respOut (s : State) (chan : Nat) : Nat := sumBy (fun (o : SOp) => 1 + o.respLen) (s.chan chan).outs
/-- Pings of a loaded series issued while their responses fit the window behind what is outstanding (R329). -/
def pumpSeries : Nat → Nat → Nat → Nat → State → State
  | 0, _, _, _, s => s
  | f + 1, cmd, chan, left, s =>
    let n := seriesOuts s chan
    if !(s.chan chan).calibrating || left ≤ n || s.respWindow < 66 + respOut s chan || (s.chan chan).credit = 0 then s
    else pumpSeries f cmd chan left (s.sendOn chan .back 10 (.pingSeries cmd) [w64 [(65, 0)]] [] 65)
/-- A channel can be spared: the sums of R333 hold without it. -/
def chanSpare (s : State) (chan : Nat) : Bool :=
  (s.setChan chan fun c => { c with inService := false }).fitsStack s.adms
/-- A round-trip calibration goes on: the next channel leaves service at a boundary when it can be spared (R29, R378); after the last the
largest round trip of the series is judged once (R69) and the command completes. -/
def State.pumpCalib (s : State) (c : Cmd) : State :=
  match c.k with
  | .calib 2 chan left worst started =>
    if left ≠ 0 then pumpSeries 64 c.id chan left s
    else if ((AMap.vals s.stack.chans).any (·.calibrating)) || !s.stack.rewriteLeft.isEmpty then s
    else
      match (List.range s.channels).find? fun k => chan ≤ k && s.chanEn k && (s.chan k).inService with
      | some k =>
        if !chanSpare s k then s.keep c (.calib 2 k 0 worst started)
        else
          (s.keep c (.calib 2 k (seriesPings s k) worst true)).at s.nextB (.chanOut k c.id)
      | none =>
        let s := if overBrt s worst then s.stackSlow s.stack.seriesWorst.1 s.stack.seriesWorst.2 worst else s
        s.finish c { status := stOK, resB := s.stack.brt }
  | _ => s
def State.pumpCalibs (s : State) : State := s.cmds.foldl State.pumpCalib s
/-- A channel leaves service, and its series begins. -/
def State.chanLeaves (s : State) (chan cmd : Nat) : State :=
  match s.cmd? cmd with
  | some c =>
    match c.k with
    | .calib 2 k left _ _ =>
      if k = chan && (s.chan chan).inService then
        pumpSeries 64 cmd chan left (s.setChan chan fun x => { x with inService := false, calibrating := true })
      else s
    | _ => s
  | none => s
/-- A channel's series is over: it is back in service unless faulted, and the calibration goes on. -/
def State.chanEnds (s : State) (chan : Nat) : State :=
  (s.setChan chan fun x => if x.calibrating then { x with inService := !x.faulted, calibrating := false } else x).pumpCalibs
/-- One ping of a series has returned; after a channel's last the channel is back in service at the next boundary. -/
def State.calibStep (s : State) (cmd tag rt : Nat) : State :=
  match s.cmd? cmd with
  | some c =>
    match c.k with
    | .calib 2 chan left worst started =>
      let s := if worst < rt then { s with stack := { s.stack with seriesWorst := (chan, tag) } } else s
      if 1 < left then pumpSeries 64 cmd chan (left - 1) (s.keep c (.calib 2 chan (left - 1) (max worst rt) started))
      else (s.keep c (.calib 2 (chan + 1) 0 (max worst rt) started)).at s.nextB (.chanEnd chan)
    | _ => s
  | none => s
/-- A series is abandoned with its command; the channel is back in service at the next boundary, unless faulted (R29). -/
def State.calibAbsent (s : State) (cmd status : Nat) : State :=
  match s.cmd? cmd with
  | some c =>
    match c.k with
    | .calib 2 chan _ _ _ => (if (s.chan chan).calibrating then s.at s.nextB (.chanEnd chan) else s).finish c { status := status }
    | _ => s
  | none => s
def roundTripBody (_ : Desc) (s : State) (c : Cmd) : State := (s.keep c (.calib 2 0 0 0 false)).pumpCalibs
def execCalibrateStackRoundTrip (d : Desc) (s : State) : Host.Outcome State Fault Refusal :=
  .next (runDesc s d (d.opcode == 0x29 && dfld d 2 1 0 == 2) (roundTripBody d))

/-- A self-test or calibration that has not started. -/
def notStarted (s : State) (c : Cmd) : Bool :=
  match c.k with
  | .test _ _ _ false => (s.integ.moving.bind (·.cmd)) != some c.id
  | .calib _ _ _ _ false => true
  | _ => false
/-- Not started within 4,000,000 beats: DEFERRED (R379). -/
def execCommandDeferred (ring : BitVec 10) (index : BitVec 16) (s : State) : Host.Outcome State Fault Refusal :=
  .next (match s.cmds.find? fun c => c.ring == ring.toNat && c.index == index.toNat && notStarted s c && beatLe (beatAdd c.since 4000000) s.beat with
    | some c => s.finish c { status := stDeferred }
    | none => s)

/-! The background ping and the window sweep. -/

def pingDue (s : State) : Bool := (s.nextB % 2 ^ 20 = 0 && s.integ.pingDone ≠ s.nextB) || s.integ.pingOwed
/-- An unloaded ping (R69, R329); one that could not be issued is owed, and tried again at the next boundary (R376). -/
def State.pingNow (s : State) : State :=
  let ok := bgRoom s 1 10
  let s := if ok then (s.issue .back 10 .pingBg [w64 [(65, 0)]] [] 65).2 else s
  { s with integ := { s.integ with pingDone := s.nextB, pingOwed := !ok } }
/-- The ping of every 2^20 beats. -/
def execBackgroundPing (s : State) : Host.Outcome State Fault Refusal :=
  .next (if s.complete && !s.clk.stopped && pingDue s then s.pingNow else s)
def sweeping (s : State) : Bool :=
  (AMap.vals s.stack.chans).any fun c => c.outs.any fun o => match o.purp with | .scrub _ => true | _ => false
/-- The next non-empty region at or after one. -/
def regionFrom (s : State) (r : Nat) : Option Nat := (List.range 4).find? fun k => r ≤ k && (s.region k).2 ≠ 0
/-- The next rows of the window sweep (Table 12-9, R376). -/
def State.pumpSweep (s : State) : State :=
  if sweeping s || !bgRoom s 1 then s
  else
    match regionFrom s s.integ.sweepAt.1 with
    | none => { s with integ := { s.integ with sweepAt := (0, 0) } }
    | some r =>
      let off := if r = s.integ.sweepAt.1 then s.integ.sweepAt.2 else 0
      let n := min 1024 ((s.region r).2 / 64 - off / 64)
      let s := { s with integ := { s.integ with sweepAt := (r, off) } }
      (s.issue .back 9 (.scrub r) [w64 [((s.region r).1 + off, 0)], w64 [(n - 1, 0)]] [] 0).2
/-- Rows of the sweep are done; after the last region the floor is met. -/
def State.sweepStep (s : State) : State :=
  let (r, off) := s.integ.sweepAt
  let off := off + 65536
  if off < (s.region r).2 then { s with integ := { s.integ with sweepAt := (r, off) } }
  else
    match regionFrom s (r + 1) with
    | some k => { s with integ := { s.integ with sweepAt := (k, 0) } }
    | none => { s with integ := { s.integ with sweepAt := (0, 0) } }.floorDone 2

end Sys2Proof.Machine
end

