-- ==== Sys2Proof/Machine/Tenants.lean ====
section
/-! DEFINITION. Tenants, budgets and policy bindings: SET_TENANT, SET_BUDGET, SET_POLICY and their boundaries (R66, R185, R299, R300,
R338 to R341, R347, R351, R426). -/

namespace Sys2Proof.Machine

/-! SET_TENANT. -/

def banListed (s : State) (id : Nat) : Bool :=
  s.images.any fun x => x.2.loaded && (x.2.dict?.map fun d => d.ban.contains id).getD false
/-- A named delta slot holds a loaded image of its kind. -/
def deltaExists (s : State) (want : Option Nat) (kind : Nat) : Bool :=
  match want with
  | none => true
  | some k => match s.img? k with | some i => i.loaded && i.hdr.kind == kind | none => false
def tenantStreams (s : State) (t : Nat) : List Stream := s.openStreams.filter fun st => st.tenant == t
/-- Every open constrained stream of a tenant is under a dictionary that lists a ban mask (R185). -/
def banServes (s : State) (t id : Nat) : Bool :=
  (tenantStreams s t).all fun st => match s.grammarOf st with
    | some (_, _, g) => match s.dictOf g with | some (_, _, d) => d.ban.contains id | none => false
    | none => true
/-- Admission with a tenant's ban mask replaced. -/
def banAdms (s : State) (t : Nat) (ban : Option Nat) : List Adm :=
  s.openStreams.map fun st => if st.tenant = t then s.admWith st (s.streamPol st) (some ban) else s.admOf st
/-- The refusal a new ban mask meets (R185). -/
def banRefusal (s : State) (t : Nat) (ban : Option Nat) : Option Nat :=
  match ban with
  | none => none
  | some b =>
    if !banListed s b then some stNotFound
    else if !banServes s t b then some stState
    else if ban = (s.tenant t).ban || (tenantStreams s t).isEmpty then none
    else if (s.openStreams.zip (banAdms s t ban)).any fun x => x.1.tenant == t && x.2.con && !s.fitsDeadline (banAdms s t ban) x.2 then
      some stDeadline
    else if !s.fitsStack (banAdms s t ban) then some stCapacity
    else none
/-- SET_TENANT after the shared checks; it completes at the next boundary (R340). -/
def setTenantBody (d : Desc) (s : State) (c : Cmd) : State :=
  let t := dfld d 2 11 0
  let on := dbit d 2 12
  let ban := if dbit d 3 18 then some (dfld d 3 17 0) else none
  let pd := if dbit d 4 8 then some (dfld d 4 7 0) else none
  let td := if dbit d 4 24 then some (dfld d 4 23 16) else none
  if !deltaExists s pd 8 || !deltaExists s td 9 then s.finish c { status := stNotFound }
  else
    match banRefusal s t ban with
    | some e => s.finish c { status := e }
    | none =>
      if !on && !(tenantStreams s t).isEmpty then s.finish c { status := stState }
      else s.at s.nextB (.tenant t on ban pd td c.id)
def execSetTenant (d : Desc) (s : State) : Host.Outcome State Fault Refusal :=
  .next (runDesc s d (d.opcode == 0x18) (setTenantBody d))
/-- A delta binding asked for: current when its generations are all active, else pending (R300). -/
def bindDelta (s : State) (cur want : Option Nat) : Option Nat × Option Nat :=
  match want with
  | none => (none, none)
  | some k => if bindingActive s k then (some k, none) else (cur, some k)
/-- SET_TENANT at its boundary. -/
def State.tenantNow (s : State) (t : Nat) (on : Bool) (ban pd td : Option Nat) (cmd : Nat) : State :=
  let p := bindDelta s (s.tenant t).pd pd
  let q := bindDelta s (s.tenant t).td td
  (s.setTenant t fun x => { x with enabled := on, ban := ban, pd := p.1, pdNext := p.2, td := q.1, tdNext := q.2 }).finishId cmd
    { status := stOK }

/-! SET_BUDGET. -/

/-- The c of a tenant that the commit cap counts: the latest accepted (R351). -/
def Tenant.latestC (t : Tenant) : Nat := match t.pend with | some (c, _, _) => c | none => t.c
def committedSum (s : State) (t c : Nat) : Nat :=
  c + sumBy (fun (x : Nat × Tenant) => if x.2.enabled && x.1 != t then x.2.latestC else 0) s.tenants
/-- SET_BUDGET after the shared checks; the values apply from the next refill. -/
def setBudgetBody (d : Desc) (s : State) (c : Cmd) : State :=
  let t := dfld d 2 11 0
  let new := dfld d 3 31 0
  if !(s.tenant t).enabled then s.finish c { status := stBadTenant }
  else if s.regs.commitCap.toNat < committedSum s t new then s.finish c { status := stCapacity }
  else (s.setTenant t fun x => { x with pend := some (new, dfld d 3 63 32, dfld d 4 31 0) }).finish c { status := stOK }
def execSetBudget (d : Desc) (s : State) : Host.Outcome State Fault Refusal :=
  .next (runDesc s d (d.opcode == 0x19) (setBudgetBody d))

/-! SET_POLICY. -/

/-- SET_POLICY after the shared checks. -/
def setPolicyBody (d : Desc) (s : State) (c : Cmd) : State :=
  let pid := dfld d 2 9 0
  if !dbit d 2 18 then
    if !(streamsOnPolicy s pid).isEmpty then s.finish c { status := stState }
    else (s.finish c { status := stOK }).at s.nextB (.policy pid 0 false 0)
  else
    match s.img? (dfld d 2 17 10) with
    | none => s.finish c { status := stNotFound }
    | some i =>
      if i.status ≠ 1 || i.policy?.isNone then s.finish c { status := stNotFound }
      else if bindingFails s pid i then
        s.finish c { status := stLatency }
      else (s.finish c { status := stOK }).atFor s.nextB (.policy pid i.hdr.imageId true 0) c.id
def execSetPolicy (d : Desc) (s : State) : Host.Outcome State Fault Refusal :=
  .next (runDesc s d (d.opcode == 0x1A) (setPolicyBody d))
/-- SET_POLICY at its boundary (R341); the streams under the id take the D that was checked (R66, R70). -/
def State.policyNow (s : State) (pid imageId : Nat) (on : Bool) : State :=
  let s := match (if on then s.activeOf 10 imageId else none) with
    | some (_, i) => (streamsOnPolicy s pid).foldl (fun (s : State) (st : Stream) => s.setStream st.handle fun x =>
        { x with dMin := max x.dMin (liveD s i), brt := max x.brt s.stack.brt }) s
    | none => s
  { s with policies := if on then AMap.set s.policies pid ⟨imageId, true⟩ else AMap.erase s.policies pid }

end Sys2Proof.Machine
end

