-- ==== Sys2Proof/Machine/CoreRam.lean ====
section
/-! DEFINITION. The management core's data RAM behind its merge buffer, and its window onto data-path memory (R384, R406). -/

namespace Sys2Proof.Machine

/-- The 8 bytes of a word of the data RAM; a word never written reads as zeros (DESIGN CHOICE, log 66). -/
def CoreMem.word (m : CoreMem) (w : Nat) : List Byte := AMap.getD m.ram w (List.replicate 8 0#8)
/-- An entry's valid bytes laid over a word. -/
def MergeEntry.over (e : MergeEntry) (bs : List Byte) : List Byte := List.zipWith (fun (x : Option Byte) b => x.getD b) e.bytes bs
/-- All 8 bytes are valid. -/
def MergeEntry.full (e : MergeEntry) : Bool := e.bytes.all (·.isSome)
/-- An entry drains: a full one is written, a partial one is merged into its word as read (R406). -/
def CoreMem.drain (m : CoreMem) (e : MergeEntry) : CoreMem :=
  { ram := AMap.set m.ram e.word (e.over (m.word e.word)), buf := m.buf.filter fun x => x.word != e.word }
/-- The oldest entry drains, unless it is partial and its word is uncorrectable: then the word whose read traps. -/
def CoreMem.drainOldest (m : CoreMem) (bad : Bool) : Except Nat CoreMem :=
  match m.buf with
  | [] => .ok m
  | e :: _ => if bad && !e.full then .error e.word else .ok (m.drain e)
/-- A barrier drains every entry, the oldest first. -/
def CoreMem.barrier (bad : Bool) : Nat → CoreMem → Except Nat CoreMem
  | 0, m => .ok m
  | f + 1, m => match m.drainOldest bad with | .ok x => CoreMem.barrier bad f x | .error w => .error w
/-- The bytes of a store within its word, from its address on. -/
def wordBytes (addr : Nat) (bs : List Byte) : List (Option Byte) :=
  (List.range 8).map fun i => if i < addr % 8 then none else bs[i - addr % 8]?
/-- Bytes stored later lie over those stored before. -/
def overBytes (old new : List (Option Byte)) : List (Option Byte) := List.zipWith (fun (o n : Option Byte) => n.or o) old new
/-- A narrow store merges into the entry for its word or takes a free one; a ninth word drains the oldest entry first, and an entry that is full
drains at once (R406). -/
def CoreMem.store (m : CoreMem) (addr : Nat) (bs : List Byte) (bad : Bool) : Except Nat CoreMem :=
  let w := addr / 8
  let put (m : CoreMem) : CoreMem :=
    match m.buf.find? fun e => e.word == w with
    | some e =>
      let e' : MergeEntry := ⟨w, overBytes e.bytes (wordBytes addr bs)⟩
      let m' : CoreMem := { m with buf := m.buf.map fun x => if x.word = w then e' else x }
      if e'.full then m'.drain e' else m'
    | none =>
      let e' : MergeEntry := ⟨w, wordBytes addr bs⟩
      if e'.full then m.drain e' else { m with buf := m.buf ++ [e'] }
  if (m.buf.any fun e => e.word == w) || m.buf.length < 8 then .ok (put m)
  else match m.drainOldest bad with | .ok x => .ok (put x) | .error k => .error k
/-- A load's bytes: the merge buffer's first, then the word's (R406). -/
def CoreMem.load (m : CoreMem) (addr n : Nat) : List Byte :=
  let bs := match m.buf.find? fun e => e.word == addr / 8 with | some e => e.over (m.word (addr / 8)) | none => m.word (addr / 8)
  sliceB bs (addr % 8) n
/-- A load reads the RAM where the merge buffer does not hold all its bytes. -/
def CoreMem.reads (m : CoreMem) (addr n : Nat) : Bool :=
  match m.buf.find? fun e => e.word == addr / 8 with
  | some e => !((e.bytes.drop (addr % 8)).take n).all (·.isSome)
  | none => true

/-- A row of a dynamic tile written whole through the core's window; what shows the row whole is the tile's own check (R382, R384, R406). -/
def DynTile.putRow (t : DynTile) (row : Nat) (bs : List Byte) : DynTile :=
  let p := padTo 4096 0#8 t.payload
  { t with payload := p.take (64 * row) ++ bs ++ p.drop (64 * row + 64) }
def State.windowRow (s : State) (tile row : Nat) (bs : List Byte) : State :=
  { s with dyn := AMap.modify s.dyn tile fun t => if row < 64 then t.putRow row bs else t }

end Sys2Proof.Machine
end

