-- ==== Sys2Proof/Machine/Stack.lean ====
section
/-! DEFINITION. Responses of the stack agent, due points, credit, channel faults and epoch changes (R35, R36, R89, R197, R227, R228, R259,
R312 to R331, R337, R400, R402, R403, R521). -/

namespace Sys2Proof.Machine

/-! Masters rewritten in background capacity (R325, R403). -/

/-- Where the bytes of a tile lie in the persistent window: address and length of each piece in the committed parts of its image (R443,
Table 15-3), cut where a host read must be (R473). -/
def imageSpans (s : State) (slot : Nat) (i : Img) (tile : Nat) : Option (List (Nat × Nat)) :=
  let o := 4096 * tile
  let size := partBytes s
  let n := min 4096 (i.bytes.length - o)
  let first := min n (size - o % size)
  let piece (k off len : Nat) : Option (List (Nat × Nat)) :=
    (s.persist.parts.find? fun p => p.committed && p.slot == slot && p.imageId == i.hdr.imageId && p.gen == i.hdr.gen && p.num == k).map fun p =>
      (List.range (ingestParts (p.at_ + 64 + off) len)).map fun j => ingestPart (p.at_ + 64 + off) len j
  match piece (o / size) (o % size) first, if first < n then piece (o / size + 1) 0 (n - first) else some [] with
  | some a, some b => some (a ++ b)
  | _, _ => none
/-- The image part of one tile of a master is read from the persistent window over the host port (R403). -/
def State.fetchMaster (s : State) (slot tile : Nat) : State :=
  match (s.img? slot).bind fun i => imageSpans s slot i tile with
  | none => s
  | some ps =>
    ((List.range ps.length).zip ps).foldl (fun s x => s.read (.image slot tile x.1) x.2.1 (cdiv x.2.2 64) s.persistAttr)
      { s with stack := { s.stack with fetch := some ⟨slot, tile, ps.length, []⟩ } }
/-- Data of an image part; with the last of a tile's, the TILE_WRITE of its master follows in background capacity. Poisoned data is not used:
the tile is read again (R403, R407; the model's choice, log 66). -/
def State.imageData (s : State) (slot tile k : Nat) (data : List Byte) (poison : Bool) : State :=
  match s.stack.fetch, s.img? slot with
  | some f, some i =>
    if f.slot ≠ slot || f.tile ≠ tile then s
    else
      let put (x : Option Fetch) : State := { s with stack := { s.stack with fetch := x } }
      if poison || s.start.halted then (put none).dropReads (ROwner.imageOf slot)
      else
        let got := AMap.set f.got k data
        if 1 < f.left then put (some { f with left := f.left - 1, got := got })
        else
          let body := ((List.range got.length).flatMap fun j => AMap.getD got j []).take 4096
          (put none).firm 2 (.master slot tile) [w64 [(tileOff s slot tile, 0)]] (tileRec i tile body) 0
  | _, _ => s
/-- The next tile under repair whose good copy is not already to be put in place. -/
def nextRepair (s : State) : Option (Nat × Nat) := s.stack.repairs.find? fun x => !(s.sched.any fun e => e.eff == .tileGood x.1 x.2)
/-- The next master tile rewritten, one at a time: lost masters by slot, then the tiles under repair. -/
def State.pumpMasters (s : State) : State :=
  let busy := outFor s fun p => match p with | .master _ _ => true | .repair _ _ => true | _ => false
  if busy || s.start.halted || s.stack.fetch.isSome then s
  else
    match s.stack.rewriteLeft with
    | slot :: _ => s.fetchMaster slot s.stack.rewriteAt
    | [] => match nextRepair s with
      | some (slot, key) => s.fetchMaster slot (keyTile key)
      | none => s
/-- One tile of a lost master is rewritten; at the image's end the master is good, at the last image the log says so (R325). -/
def State.rewriteStep (s : State) (slot tile : Nat) : State :=
  let k := s.stack
  if k.rewriteLeft.head? ≠ some slot || k.rewriteAt ≠ tile then s
  else
    match s.img? slot with
    | none => s
    | some i =>
      if tile + 1 < i.bytes.length / 4096 then { s with stack := { k with rewriteAt := tile + 1 } }
      else
        let s := s.setImg slot fun x => { x with masterLost := false }
        let n := k.rewritten + b2n i.masterLost
        let bs := k.rewrittenBytes + (if i.masterLost then i.bytes.length else 0)
        if k.rewriteLeft.length ≤ 1 then
          let s := { s with stack := { k with rewriteLeft := [], rewriteAt := 0, rewritten := 0, rewrittenBytes := 0 } }
          if n = 0 then s else s.log 0x0015 0 51 (w64 [(k.epoch, 0)]) (w64 [(n, 0)]) (w64 [(bs, 0)])
        else { s with stack := { k with rewriteLeft := k.rewriteLeft.tail, rewriteAt := 0, rewritten := n, rewrittenBytes := bs } }
/-- A rewritten tile under repair is read again. -/
def State.repairRead (s : State) (slot tile : Nat) : State :=
  match nextRepair s with
  | some (k, key) =>
    if k = slot && keyTile key = tile then s.firm 1 (.repair slot key) [w64 [(tileOff s slot tile, 0)]] [] 65 else s
  | none => s
/-- Every tile of an image's master is to be rewritten (Table 10-6, UNCORR). -/
def State.reloadMaster (s : State) (slot : Nat) : State :=
  if s.stack.rewriteLeft.contains slot || (s.img? slot).isNone then s
  else { s with stack := { s.stack with rewriteLeft := s.stack.rewriteLeft ++ [slot] } }

/-! Absent results. -/

/-- A stream record that cannot be recovered (R400). -/
def State.streamLost (s : State) (h : Nat) : State :=
  match s.stream? h with
  | none => s
  | some st =>
    let s := (s.count 86 1).log 0x0032 2 51 (w64 [(h, 0)]) 0#64 0#64
    let s := { s with recs := s.recs.map fun (r : Rec) =>
      if r.h = h && r.stamp.isSome && !r.screened then
        { r with screened := true, waitTile := [], results := r.results ++ [vIndet], flags := setFlag r.flags fRecExt }
      else r }
    let s := s.setStream h fun x => { x with lost := true }
    if st.phase = .inputOpen && st.inVerdict.isNone then
      let s := s.count 28 1
      let s := if s.isTail then s.postVerdict st 2 vIncomplete st.inFlags s.beat (st.lastChunk.getD 0) (st.p0 + st.tokIdx) [] else s
      s.setStream h fun x => { stopTok x with inVerdict := some vIncomplete, waiting := [], held := [], pends := [], tail := false, e10 := false }
    else if st.phase = .answering then s.at s.nextB (.endOutput h vIncomplete)
    else s
/-- Streams of a mirror tile whose record, or whose open chunk, waits for it. -/
def mirrorWaiters (s : State) (tile : Nat) : List Nat :=
  ((s.openStreams.filter fun st => hIndex st.handle / 8 == tile
    && ((s.recs.any fun r => r.waitTile.contains (256, st.handle)) || st.parts.any fun q => q.2.waits.contains (256, st.handle))).map (·.handle))
/-- Slot and tile of the master that holds an entry's record (R246, R259). -/
def entryHome (s : State) (bank unit : Nat) : Option (Nat × Nat) :=
  ((s.bank bank).entries.find? fun e => e.unit == unit).bind fun e =>
    (setOwner s bank e.rec_.set).bind fun x => x.2.set?.map fun p => (x.1, recordOff p e.place / 4096)
/-- Records that wait for a tile resolve INDETERMINATE (R403). -/
def State.failWaiters (s : State) (slot key : Nat) : State :=
  { s with recs := s.recs.map fun r =>
      if r.waitTile.contains (slot, key) then
        { r with waitTile := r.waitTile.filter (fun t => t != (slot, key)), results := r.results ++ [vIndet],
                 models := r.models.filter fun m => m.st != 5 }
      else r }
/-- Status of a command whose operation is absent: 0 stands for no response by the due point (R327). -/
def absentStatus (why : Nat) (read : Bool) : Nat := if why = 0 then stStackTo else if why = 2 && read then stCorrupt else stInternal
/-- The encode tile of a stream did not come: tokenizing stops (R156, R173). -/
def State.encodeAbsent (s : State) (h why : Nat) : State :=
  match s.stream? h with
  | none => s
  | some st =>
    match st.jobs.find? fun j => j.miss && !j.ready with
    | none => s
    | some j => s.stopJob h j (absentStatus why false)
/-- The masters that a record's stack operation reads: of a gather layer or an ensemble, of a gather or tree delta (R303, R304, Table 10-6). -/
def mastersOf (s : State) (r : Rec) (m : ModelR) : List Nat :=
  match s.img? m.img with
  | some i => match i.head? with
    | some h => if (h.layers.headD default).mode = 2 then [m.img] else r.pd.toList
    | none => m.img :: ((tDeltaFor s r.td i).map (·.1)).toList
  | none => []
/-- An operation's result is absent: why is 0 for no response in time, else the response's status, 15 for any other cause. -/
def State.absent (s : State) (o : SOp) (why : Nat) : State :=
  let s := s.count 58 1
  let model (rid mi : Nat) : State :=
    match s.rec? rid with
    | some r =>
      let s := if why = 2 then match r.models.find? fun m => m.mi == mi with | some m => (mastersOf s r m).foldl State.reloadMaster s | none => s else s
      if r.sealed then s else s.modelAbsent rid mi
    | none => s
  match o.purp with
  | .stage rid mi _ => model rid mi
  | .walk rid mi => model rid mi
  | .gather rid mi _ => model rid mi
  | .mask mid =>
    match s.masks.find? fun m => m.id == mid && m.waiting with
    | some m =>
      let s := if why ≠ 2 then s else
        match ((s.stream? m.h).bind s.grammarOf).bind fun g => s.dictOf g.2.2 with | some d => s.reloadMaster d.1 | none => s
      s.maskReplaced mid fTimeout
    | none => s
  | .reload slot key => (s.failWaiters slot key).askRepair slot key
  | .repair _ _ => s
  | .entryReload bank unit => if why = 2 then match entryHome s bank unit with | some t => s.askRepair t.1 t.2 | none => s else s
  | .streamReload tile => (mirrorWaiters s tile).foldl State.streamLost s
  | .pinReload _ _ home tile => s.askRepair home tile
  | .allowReload _ => s
  | .wearRead _ _ slot key => if why = 2 then s.dropMove.askRepair slot key else s.dropMove
  | .encode _ slot tile h => (if why = 2 then s.askRepair slot tile else s).encodeAbsent h why
  | .master _ _ => s
  | .imgWrite cmd => s.cmdAbsent cmd (absentStatus why false)
  | .setMaster cmd => s.cmdAbsent cmd (absentStatus why false)
  | .allow cmd => s.cmdAbsent cmd (absentStatus why false)
  | .mirror _ _ => s
  | .cairnSave cmd =>
    s.cmdAbsent cmd (absentStatus why false)
  | .cairnClear cmd => s.cmdAbsent cmd (absentStatus why false)
  | .retireClear cmd => s.cmdAbsent cmd (absentStatus why false)
  | .saveDrop => if why = 0 || (tileChan s 7 o.off).isSome then s else s.firm 7 .saveDrop [w64 [(o.off, 0), (1, 40)]] [] 0
  | .cairnLoad cmd _ => s.cmdAbsent cmd (absentStatus why true)
  | .scrub _ => s
  | .cairnCheck handle loc => if why = 2 then s.log 0x0035 1 51 (BitVec.ofNat 64 handle) (w64 [(loc, 0)]) 0#64 else s
  | .pingBg => { s with integ := { s.integ with pingOwed := true } }
  | .pingSeries cmd => s.calibAbsent cmd (absentStatus why false)
  | .pingFault => s
/-- Several outstanding operations become absent. -/
def State.absentAll (s : State) (os : List SOp) : State := (os.filter fun o => !o.dead).foldl (fun s o => s.absent o 15) s

/-! Channel faults and epochs. -/

/-- Pings of a channel under reset, issued as its credit allows (R326). -/
def pumpFaultPings : Nat → Nat → State → State
  | 0, _, s => s
  | f + 1, c, s =>
    let ch := s.chan c
    if !ch.faulted || ch.credit = 0 || ch.pingsLeft ≤ ch.outs.length then s
    else pumpFaultPings f c (s.sendOn c .back 10 .pingFault [w64 [(65, 0)]] [] 65)
/-- The record whose round an operation belongs to. -/
def Purp.rec? : Purp → Option Nat | .stage rid _ _ => some rid | .walk rid _ => some rid | .gather rid _ _ => some rid | _ => none
/-- A record with an operation on a channel in fault: every result of its stack rounds is absent; its operations on other channels run on, and
their results are not used (R337). -/
def State.recFault (s : State) (rid : Nat) : State :=
  match s.rec? rid with
  | some r => if r.sealed then s else
    s.setRec rid fun x => { x with
      models := x.models.map fun m => if m.st = 1 || m.st = 2 || (m.st = 4 && !m.parts.isEmpty) then { m with st := 3 } else m, flags := setFlag x.flags fTimeout }
  | none => s
/-- A protocol error puts a channel in fault: its operations are absent, it is reset and pinged (R326); a return to service that was to come does
not. -/
def State.chanFault (s : State) (c : Nat) : State :=
  let os := (s.chan c).outs
  let s := (os.filterMap (·.purp.rec?)).foldl State.recFault { s with sched := s.sched.filter fun e => e.eff != .chanBack c }
  let s := s.setChan c fun x => { x with
    outs := [], inService := false, faulted := true, calibrating := false, credit := 0, nextTag := 0, pingsLeft := 64 }
  let s := ((s.fault 5).count 61 1).log 0x0012 2 (40 + c) (w64 [(c, 0)]) (w64 [(Config.unlistedCause 4, 0)]) 0#64
  (s.absentAll os).emit (.stReset c)
/-- A ping of a loaded series. -/
def Purp.series : Purp → Bool | .pingSeries _ => true | _ => false
/-- The loaded series under way is abandoned, one that waits for its boundary too; it starts again once every master is rewritten, and its
channel is back in service at the next boundary (R29, Table 12-12). -/
def State.restartSeries (s : State) : State :=
  s.cmds.foldl (fun s c => match c.k with
    | .calib 2 chan left worst started =>
      let s := { s with sched := s.sched.filter fun e => match e.eff with | .chanOut _ k => k != c.id | _ => true }
      if left = 0 then s
      else (if (s.chan chan).calibrating then s.at s.nextB (.chanEnd chan) else s).keep c (.calib 2 chan 0 worst started)
    | _ => s) s
/-- A response of a new epoch: every outstanding operation on every channel is absent, every master is lost (R232, R325). -/
def State.newEpoch (s : State) (e : Nat) : State :=
  let os := (AMap.vals s.stack.chans).flatMap (·.outs)
  let old := s.stack.epoch
  let slots := sortAsc (fun k => k) (AMap.keys s.images)
  let s := { s with
    cairns := [], streams := s.streams.map fun (x : Nat × Stream) => (x.1, { x.2 with mirrorGen := 0 }), images := s.images.map fun (x : Nat × Img) => (x.1, { x.2 with masterLost := true }),
    stack := { s.stack with
      epoch := e, rewriteLeft := slots, rewriteAt := 0, rewritten := 0, rewrittenBytes := 0,
      chans := s.stack.chans.map fun (x : Nat × Chan) => (x.1, { x.2 with outs := x.2.outs.map fun (o : SOp) => { o with dead := true } }) } }
  let s := ((s.fault 6).count 62 1).log 0x0013 2 51 (w64 [(old, 0)]) (w64 [(e, 0)]) 0#64
  (s.absentAll (os.filter fun o => !o.purp.series)).restartSeries

/-! Delivery. -/

/-- Words of a payload as FP32 patterns. -/
def payload32 (bs : List Byte) (n : Nat) : List W32 := (List.range n).map fun i => rd32 bs (4 * i)
/-- A part of a model's stack round; the last one makes the result present (R288, R296, R303). -/
def State.partIn (s : State) (rid mi key : Nat) (xs : List W32) (nan : Bool) : State :=
  s.setRec rid fun r => { r with models := r.models.map fun m =>
    if m.mi = mi && m.st = 2 then
      { m with parts := AMap.set m.parts key xs, nan := m.nan || nan, stagesLeft := m.stagesLeft - 1, st := if m.stagesLeft ≤ 1 then 4 else 2 }
    else m }
/-- A staged segment is in place. -/
def State.stageIn (s : State) (rid mi : Nat) : State :=
  s.setRec rid fun r => { r with models := r.models.map fun m =>
    if m.mi = mi && m.st = 1 then { m with stagesLeft := m.stagesLeft - 1 } else m }
/-- A combined mask comes back (R195 to R201). -/
def State.maskIn (s : State) (mid : Nat) (bs : List Byte) : State :=
  match s.masks.find? fun m => m.id == mid && m.waiting with
  | none => s
  | some m =>
    match s.stream? m.h with
    | none => s
    | some st =>
      match canonicalMask (s.vocabOf st).nTokens bs with
      | none => s.maskReplaced mid fTimeout
      | some x =>
        if !x.empty then s.setMask mid fun y => { y with mask := x, waiting := false, composed := true }
        else
          match s.grammarOf st with
          | some (_, gimg, gi) =>
            match s.dictOf gi with
            | some (_, dimg, di) => s.maskDead m st gimg dimg gi di
            | none => s.maskReplaced mid fTimeout
          | none => s.maskReplaced mid fTimeout
/-- Rows of a gather asked for from a first row. -/
def gatherCount (s : State) (rid mi first : Nat) : Nat :=
  match (s.rec? rid).bind fun r => r.models.find? fun m => m.mi == mi with
  | some m => match (s.img? m.img).bind Img.head? with | some h => min 1024 ((h.layers.headD default).outWidth - first) | none => 0
  | none => 0
/-- A tile comes back for a unit's encode cache; the job that waits goes on (R156). -/
def State.encodeIn (s : State) (unit slot tile h : Nat) (bs : List Byte) : State :=
  let good := match s.img? slot with | some i => tileCheck i tile bs | none => false
  if !good then (s.askRepair slot tile).encodeAbsent h 15
  else
    let old := (AMap.getD s.tokCache unit []).filter fun x => x != (slot, tile)
    let s := { s with tokCache := AMap.set s.tokCache unit (((slot, tile) :: old).take 512) }
    let s := s.setStream h fun st => { st with jobs := st.jobs.map fun j => { j with miss := false } }
    s.runStream h
/-- A tile comes back for its place: good at the boundary after its due beat, else repaired (R402, R403). -/
def State.tileIn (s : State) (o : SOp) (slot key : Nat) (bs : List Byte) : State :=
  match s.img? slot with
  | some i =>
    if tileCheck i (keyTile key) bs then s.at (beatAdd (beatMax o.due s.beat) 1) (.tileGood slot key)
    else (s.failWaiters slot key).askRepair slot key
  | none => s
/-- A repaired tile comes back; a bad copy is written again. -/
def State.repairIn (s : State) (o : SOp) (slot key : Nat) (bs : List Byte) : State :=
  match s.img? slot with
  | some i =>
    if tileCheck i (keyTile key) bs then s.at (beatAdd (beatMax o.due s.beat) 1) (.tileGood slot key) else s.askRepair slot key
  | none => { s with stack := { s.stack with repairs := s.stack.repairs.filter fun x => x != (slot, key) } }
/-- The master tile of an invalidated entry comes back; a bad copy is repaired (R259, R394, R403). -/
def State.entryIn (s : State) (o : SOp) (bank unit : Nat) (bs : List Byte) : State :=
  match entryHome s bank unit with
  | some (slot, tile) =>
    if ((s.img? slot).map fun i => tileCheck i tile bs).getD false then s.at (beatAdd (beatMax o.due s.beat) 1) (.entryGood bank unit)
    else s.askRepair slot tile
  | none => s
/-- A tile of a failed pinned mask's master comes back; the mask is good at the boundary after its last one is due (R521), a bad copy is
repaired (R403). -/
def State.pinIn (s : State) (o : SOp) (slot mask home tile : Nat) (bs : List Byte) : State :=
  if !((s.img? home).map fun i => tileCheck i tile bs).getD false then s.askRepair home tile
  else
    let s := s.setImg slot fun x => { x with badMasks := AMap.modify x.badMasks mask fun ts => ts.filter fun t => t != tile }
    if ((s.img? slot).bind fun i => AMap.get? i.badMasks mask) = some [] then s.at (beatAdd (beatMax o.due s.beat) 1) (.pinGood slot mask) else s
/-- A stream's record in a mirror tile read back is good: the tile's checks hold, its trailer names the expected generation, and its crc verifies
with the hold-back bytes (R394, R397, R398, R400). -/
def mirrorGood (st : Stream) (tile : Nat) (bs : List Byte) : Bool :=
  let r := sliceB bs (64 + 512 * (hIndex st.handle % 8)) 512
  tileCrcOk bs && fld (rd64 bs 0) 31 0 == 0 && fld (rd64 bs 8) 23 0 == tile && fld (rd64 bs 8) 28 24 == 1
    && r.drop 496 == recTrailer st.gen false (r.take 496) (heldBytes st)
/-- A mirror tile comes back: it serves every record of the tile that waits (Table 13-6); one it does not hold good is lost (R400, R402). -/
def State.streamIn (s : State) (o : SOp) (tile : Nat) (bs : List Byte) : State :=
  (mirrorWaiters s tile).foldl (fun s h =>
    match s.stream? h with
    | some st => if mirrorGood st tile bs then s.at (beatAdd (beatMax o.due s.beat) 1) (.streamGood h) else s.streamLost h
    | none => s) s
/-- A failed allow list comes back from its copy: good where its tile's crc verifies over it, else it is read again (R394, R521, log 47). -/
def State.allowIn (s : State) (o : SOp) (h : Nat) (bs : List Byte) : State :=
  match s.tileOf (.allowList h) with
  | some (k, t) =>
    if t.crc = dynCrc k t.format t.generation (bs.take t.payload.length) then s.at (beatAdd (beatMax o.due s.beat) 1) (.allowGood h) else s
  | none => s
/-- The sweep of region 1 reads the current record of each cairn among the rows just swept, where credit allows (R232, log 52). -/
def State.checkCairns (s : State) : State :=
  s.cairns.foldl (fun s (x : Nat × Cairn) =>
    match x.2.current with
    | some (loc, _) =>
      let off := cairnOff s x.2.pair loc - (s.region 1).1
      if s.integ.sweepAt.2 ≤ off && off < s.integ.sweepAt.2 + 65536 && bgRoom s 1 8 (cairnOff s x.2.pair loc) then
        (s.issue .back 8 (.cairnCheck x.1 loc) [w64 [(cairnOff s x.2.pair loc, 0)]] [] 8).2
      else s
    | none => s) s
/-- An OK response in time reaches what it serves. -/
def State.deliver (s : State) (o : SOp) (r : Rsp) (rt : Nat) : State :=
  match o.purp with
  | .stage rid mi _ => s.stageIn rid mi
  | .walk rid mi => s.partIn rid mi 0 (payload32 r.payload 16) (bit r.w1 0)
  | .gather rid mi first => s.partIn rid mi first (payload32 r.payload (gatherCount s rid mi first)) false
  | .mask mid => s.maskIn mid (r.payload.take (8 * fld r.w1 13 0))
  | .reload slot key => s.tileIn o slot key r.payload
  | .repair slot key => s.repairIn o slot key r.payload
  | .entryReload bank unit => s.entryIn o bank unit r.payload
  | .streamReload tile => s.streamIn o tile r.payload
  | .pinReload slot mask home tile => s.pinIn o slot mask home tile r.payload
  | .allowReload h => s.allowIn o h r.payload
  | .wearRead a b slot key => s.moveStep a b slot key r.payload
  | .encode u slot tile h => (s.count 15 rt).encodeIn u slot tile h r.payload
  | .master slot tile => (s.rewriteStep slot tile).repairRead slot tile
  | .imgWrite cmd => s.loadStep cmd 1 0
  | .setMaster cmd => s.masterStep cmd
  | .allow cmd => s.openStep cmd none
  | .mirror _ gens =>
    gens.foldl (fun s g => s.setStream g.1 fun st => { st with mirrorGen := g.2 }) s
  | .cairnSave cmd => s.cairnWritten cmd
  | .cairnClear cmd => s.cairnCleared cmd
  | .retireClear cmd => s.retireCleared cmd
  | .saveDrop => s
  | .cairnLoad cmd loc => s.cairnLoaded cmd loc r.payload
  | .scrub region =>
    let s := s.count 92 (fld r.w1 15 0)
    let s := if !bit r.w1 16 then s
      else if region = 0 then
        match s.stack.imgRuns.find? fun x => let row := (fld r.w2 39 0 - (s.region 0).1) / 4160; x.2.1 ≤ row && row < x.2.1 + x.2.2 with
        | some x => s.reloadMaster x.1
        | none => s
      else s
    (if region = 1 then s.checkCairns else s).sweepStep
  | .cairnCheck handle loc =>
    if cairnCommitted r.payload && !cairnCrcOk r.payload then s.log 0x0035 1 51 (BitVec.ofNat 64 handle) (w64 [(loc, 0)]) 0#64 else s
  | .pingBg => s.floorDone 5
  | .pingSeries cmd => s.calibStep cmd o.tag rt
  | .pingFault => s

/-! A response. -/

/-- Payload transfers an operation's response defines (Table 10-5, R318). -/
def respTransfers (o : SOp) (r : Rsp) : Nat :=
  if r.status ≠ 0#4 then 0 else if o.op = 5 then cdiv (8 * fld r.w1 13 0) 64 else o.respLen
/-- Cycles from an operation's issue to its last response transfer (R329). -/
def roundTrip (s : State) (o : SOp) (r : Rsp) : Nat := beatsFrom o.iBeat s.beat * 235 + r.cycle.toNat - o.iCycle
/-- A round trip as a measurement; the pings of a loaded series are judged at its end (R69, R331). -/
def State.measure (s : State) (chan : Nat) (o : SOp) (rt : Nat) : State :=
  let s := { s with stack := { s.stack with maxCycles := max s.stack.maxCycles (min rt 65535) } }
  match o.purp with
  | .pingSeries _ => s
  | _ => if overBrt s rt then s.stackSlow chan o.tag rt else s
/-- A ping of a channel under reset has returned; after the last the channel is back at the next boundary (R326). -/
def State.faultPing (s : State) (c : Nat) : State :=
  let n := (s.chan c).pingsLeft - 1
  let s := s.setChan c fun x => { x with pingsLeft := n }
  if n = 0 then s.at s.nextB (.chanBack c) else s
/-- A result reaches what it serves, or waits while its command is paused by a stop (Table 3-11); why is 0 for a result, else 1 plus the
reason it is absent. -/
def State.result (s : State) (o : SOp) (why : Nat) (r : Rsp) (rt : Nat) : State :=
  if ((o.purp.cmd?.bind s.cmd?).map (·.paused)).getD false then
    { s with stack := { s.stack with held := s.stack.held ++ [(o, why, rt, r.payload)] } }
  else if why = 0 then s.deliver o r rt
  else s.absent o (why - 1)
/-- The results that waited for RESUME. -/
def State.takeHeld (s : State) : State :=
  s.stack.held.foldl (fun s x => s.result x.1 x.2.1 { (default : Rsp) with payload := x.2.2.2 } x.2.2.1) { s with stack := { s.stack with held := [] } }
/-- What an operation serves is gone, a discarded node's record or mask among it (R146, R220). -/
def State.orphan (s : State) (o : SOp) : Bool :=
  match o.purp with
  | .stage rid _ _ => (s.rec? rid).isNone
  | .walk rid _ => (s.rec? rid).isNone
  | .gather rid _ _ => (s.rec? rid).isNone
  | .mask mid => !s.masks.any fun m => m.id == mid
  | _ => false
/-- A response on a channel (discarded on one in reset, R486): checked in order under its tag, measured, then used, discarded or absent (R314, R325 to R328, R337). -/
def State.takeRsp (s : State) (r : Rsp) : State :=
  let c := r.chan.toNat
  match (s.chan c).outs with
  | [] => if s.chanEn c then s.chanFault c else s
  | o :: rest =>
    if o.tag ≠ r.tag.toNat || o.op ≠ r.op.toNat || 5 < r.status.toNat || respTransfers o r ≠ r.respLen.toNat then s.chanFault c
    else
      let s := (s.reach r.cycle.toNat).setChan c fun x => { x with outs := rest }
      let rt := roundTrip s o r
      let late := beatLt o.due s.beat || (o.due == s.beat && decide (199 < r.cycle.toNat))
      let gone := o.dead || (late && !o.purp.series) || r.epoch.toNat ≠ s.stack.epoch || r.status ≠ 0#4
      let s := s.ev (40 + c) 0x04 0 [(c, 0), (o.tag, 3), (o.op, 19), (r.status.toNat, 23), (b2n gone, 27)]
      let s := s.measure c o rt
      let s := if o.purp = .pingFault then s.faultPing c else s
      let s := if late || s.orphan o then s.count 59 1 else s
      if r.epoch.toNat ≠ s.stack.epoch then (if o.dead || o.purp.series then s else s.absent o 15).newEpoch r.epoch.toNat
      else if o.dead then s
      else if late && !o.purp.series then s.result o 1 r rt
      else if r.status ≠ 0#4 then
        let s := if r.status = 3#4 || r.status = 5#4 then
            s.log (unlistedLog 2) 1 (40 + c) (w64 [(c, 0), (o.tag, 3)]) (w64 [(r.status.toNat, 0)]) 0#64
          else s
        s.result o (1 + r.status.toNat) r rt
      else s.result o 0 r rt
/-- A response's opcode is reserved (Table 10-5): it is a mismatch whatever was asked (R314, R326). -/
def opReserved (op : Nat) : Bool := op == 0 || decide (10 < op)
/-- A response of an operation, once the start is complete. -/
def State.rspOf (s : State) (op : Nat) (r : Rsp) : State := if s.complete && (r.op.toNat == op || opReserved r.op.toNat) then s.takeRsp r else s

def execTileReadResponse (r : Rsp) (s : State) : Host.Outcome State Fault Refusal := .next (s.rspOf 1 r)
def execTileWriteResponse (r : Rsp) (s : State) : Host.Outcome State Fault Refusal := .next (s.rspOf 2 r)
def execFeatureStageResponse (r : Rsp) (s : State) : Host.Outcome State Fault Refusal := .next (s.rspOf 3 r)
def execTreeWalkResponse (r : Rsp) (s : State) : Host.Outcome State Fault Refusal := .next (s.rspOf 4 r)
def execMaskCombineResponse (r : Rsp) (s : State) : Host.Outcome State Fault Refusal := .next (s.rspOf 5 r)
def execGatherSumResponse (r : Rsp) (s : State) : Host.Outcome State Fault Refusal := .next (s.rspOf 6 r)
def execCairnSaveResponse (r : Rsp) (s : State) : Host.Outcome State Fault Refusal := .next (s.rspOf 7 r)
def execCairnLoadResponse (r : Rsp) (s : State) : Host.Outcome State Fault Refusal := .next (s.rspOf 8 r)
def execScrubRangeResponse (r : Rsp) (s : State) : Host.Outcome State Fault Refusal := .next (s.rspOf 9 r)
def execPingResponse (r : Rsp) (s : State) : Host.Outcome State Fault Refusal := .next (s.rspOf 10 r)

/-! Due points and credit. -/

/-- An operation's due point has passed and its response is not in; a ping of a loaded series is waited for 4,096 beats longer, since its
round trip is what is measured (R69, R328, log 50). -/
def duePassed (s : State) (o : SOp) : Bool := !o.dead && beatLe (if o.purp.series then beatAdd o.due 4096 else o.due) s.beat
/-- A due point passes without the response: the result is absent, the tag is still awaited (R328, R337). -/
def State.duePoint (s : State) (c tag : Nat) : State :=
  match (s.chan c).outs.find? fun o => o.tag == tag && duePassed s o with
  | some o =>
    (s.setChan c fun x => { x with outs := x.outs.map fun y => if y.tag = tag then { y with dead := true } else y }).result o 1 default 0
  | none => s
def execStackDuePoint (chan : BitVec 3) (tag : BitVec 16) (s : State) : Host.Outcome State Fault Refusal :=
  .next (if s.complete then s.duePoint chan.toNat tag.toNat else s)
/-- Every operation past its due point is absent. -/
def State.duePast (s : State) : State :=
  s.stack.chans.foldl (fun s x => x.2.outs.foldl (fun s o => if duePassed s o then s.duePoint x.1 o.tag else s) s) s
/-- Credit returned on a channel (R315); a count above 65,535, or credit on a channel held in reset, is a protocol error (R326, R485, R486). -/
def State.creditIn (s : State) (c n : Nat) : State :=
  if (!s.chanEn c && n != 0) || decide (65535 < (s.chan c).credit + n) then s.chanFault c
  else
    let s := s.setChan c fun x => { x with credit := x.credit + n }
    (pumpFaultPings 64 c s).pumpFirms.pumpLoads.pumpCalibs
def execStackCreditReturn (chan : BitVec 3) (n : BitVec 16) (s : State) : Host.Outcome State Fault Refusal :=
  .next (if s.complete && decide (chan.toNat < s.channels) then s.creditIn chan.toNat n.toNat else s)

end Sys2Proof.Machine
end

