-- ==== Sys2Proof/Machine/Debug.lean ====
section
/-! DEFINITION. Trace, counters, log flush, time sync and hang analysis (R378 to R380, R455 to R465). -/

namespace Sys2Proof.Machine

/-! Trace. -/

/-- TRACE_CTL after the shared checks; it takes effect at the next boundary. -/
def traceBody (d : Desc) (s : State) (c : Cmd) : State :=
  (s.finish c { status := stOK }).at s.nextB (.trace (dbit d 2 0) (dfld d 3 56 0) (dfld d 4 3 0) (dfld d 5 63 0))
def execTraceCtl (d : Desc) (s : State) : Host.Outcome State Fault Refusal :=
  .next (runDesc s d (d.opcode == 0x30) (traceBody d))
/-- Trace as set; the ring is written from its first slot (log 37). -/
def State.traceNow (s : State) (on : Bool) (base size mask : Nat) : State :=
  { s with mgmt := { s.mgmt with traceOn := on, traceBase := base, traceSize := size, traceMask := mask, traceTail := 0, tracePhase := true } }
/-- A trace record's words (Table 15-11); its cycle is a free choice. -/
def traceRow (r : TraceRec) (seq cycle dropped : Nat) (phase : Bool) : List W64 :=
  [w64 [(r.engine, 0), (r.event, 8), (r.tag, 16), (r.layerId, 32), (r.opId, 48)], w64 [(r.policy, 0), (seq % 2 ^ 22, 10), (r.stream, 32)],
   r.detail, w64 [(beat48 r.beat, 0), (cycle, 48), (min 63 dropped, 56), (b2n phase, 63)]]
/-- The oldest record of the buffer written. -/
def State.writeTrace (s : State) : State :=
  match s.mgmt.traceBuf with
  | [] => s
  | r :: rs =>
    let (cyc, s) := s.pick 235
    let m := s.mgmt
    let n := 2 ^ (m.traceSize + 10)
    let t := m.traceTail + 1
    let ws := traceRow r m.traceSeq cyc m.traceDropped m.tracePhase
    let s := { s with mgmt := { m with
      traceBuf := rs, traceDropped := 0, traceSeq := m.traceSeq + 1, traceTail := if t = n then 0 else t,
      tracePhase := if t = n then !m.tracePhase else m.tracePhase } }
    let a := m.traceBase + 32 * m.traceTail
    (s.count 119 1).write' .trace (s.hpAttr 8) [(a, wordsBytes (ws.take 3))] (some (a + 24, wordsBytes (ws.drop 3)))
/-- Records of the buffer written while write tags are free (R458). -/
def flushTrace : Nat → State → State
  | 0, s => s
  | f + 1, s => if s.mgmt.traceBuf.isEmpty || (freeTag s.host.writes).isNone then s else flushTrace f s.writeTrace
/-- The oldest record, if not written within 4 beats of its event, is dropped and counted (R458). -/
def State.dropTrace (s : State) : State :=
  match s.mgmt.traceBuf with
  | r :: rs =>
    if beatLe (beatAdd r.beat 4) s.beat then
      ({ s with mgmt := { s.mgmt with traceBuf := rs, traceDropped := s.mgmt.traceDropped + 1 } }).count 120 1
    else s
  | [] => s
def execTraceRecordDrop (s : State) : Host.Outcome State Fault Refusal := .next s.dropTrace
/-- What the buffer can write at a boundary is written, what is too old is dropped. -/
def State.flushTraces (s : State) : State :=
  let s := flushTrace 256 s
  s.mgmt.traceBuf.foldl (fun s _ => s.dropTrace) s

/-! Counters. -/

/-- COUNTER_CTL after the shared checks. -/
def counterBody (d : Desc) (s : State) (c : Cmd) : State :=
  (s.finish c { status := stOK }).at s.nextB (.counter (dbit d 2 0) (dfld d 2 12 8) (dfld d 3 56 0) (dfld d 4 3 0))
def execCounterCtl (d : Desc) (s : State) : Host.Outcome State Fault Refusal :=
  .next (runDesc s d (d.opcode == 0x31) (counterBody d))
def State.counterNow (s : State) (on : Bool) (k base size : Nat) : State :=
  { s with mgmt := { s.mgmt with cntOn := on, cntK := k, cntBase := base, cntSize := size, cntTail := 0, cntPhase := true } }
/-- The 33 rows of a sample (R461). -/
def sampleRows (s : State) (phase : Bool) : List W64 :=
  (List.range 256).map (fun i => BitVec.ofNat 64 (AMap.getD s.mgmt.counters i 0))
    ++ [w64 [(beat48 s.beat, 0)], w64 [(s.mgmt.cntSeq % 2 ^ 32, 0), (s.mgmt.cntK, 32)], s.clk.lastTime, 0#64, 0#64, 0#64, 0#64, w64 [(b2n phase, 63)]]
/-- A sample latched and written, or skipped while the one before it is unwritten (R460). -/
def State.sample (s : State) : State :=
  let s := { s with mgmt := { s.mgmt with cntDone := s.beat } }
  if s.mgmt.cntPend.isSome then { s with mgmt := { s.mgmt with cntSeq := s.mgmt.cntSeq + 1 } }.floorMiss 6
  else
    let m := s.mgmt
    let bs := wordsBytes (sampleRows s m.cntPhase)
    let a := m.cntBase + 2112 * m.cntTail
    let t := m.cntTail + 1
    let n := 2 ^ (m.cntSize + 4)
    let s := { s with mgmt := { m with
      cntSeq := m.cntSeq + 1, cntPend := some s.beat, cntTail := if t = n then 0 else t, cntPhase := if t = n then !m.cntPhase else m.cntPhase } }
    s.write' .counter (s.hpAttr 8) [(a, bs.take 2104)] (some (a + 2104, bs.drop 2104))
def sampleDue (s : State) : Bool := s.mgmt.cntOn && s.beat % 2 ^ s.mgmt.cntK = 0 && s.mgmt.cntDone ≠ s.beat
def execCounterSample (s : State) : Host.Outcome State Fault Refusal :=
  .next (if s.complete && !s.clk.stopped && sampleDue s then s.sample else s)

/-! The log. -/

/-- Log records of a flush that are not committed. -/
def unflushed (s : State) (n : Nat) : Bool := s.persist.logs.any fun l => !l.committed && l.seq < n
/-- LOG_FLUSH after the shared checks. -/
def flushBody (_ : Desc) (s : State) (c : Cmd) : State :=
  if unflushed s s.mgmt.logSeq then s.keep c (.flush s.mgmt.logSeq) else s.finish c { status := stOK }
def execLogFlush (d : Desc) (s : State) : Host.Outcome State Fault Refusal :=
  .next (runDesc s d (d.opcode == 0x32) (flushBody d))
/-- Flushes whose records have all committed. -/
def State.pumpFlushes (s : State) : State :=
  if s.start.halted then s
  else s.cmds.foldl (fun s c => match c.k with
    | .flush n => if unflushed s n then s else s.finish c { status := stOK }
    | _ => s) s
def syncDue (s : State) : Bool := s.beat % 2 ^ 24 = 0 && s.mgmt.syncDone ≠ s.beat
/-- A time-sync record (R465). -/
def State.timeSync (s : State) : State :=
  ({ s with mgmt := { s.mgmt with syncDone := s.beat } }).log 0x0080 0 51 (BitVec.ofNat 64 s.beat) s.clk.lastTime 0#64
def execTimeSync (s : State) : Host.Outcome State Fault Refusal :=
  .next (if s.complete && !s.clk.stopped && syncDue s then s.timeSync else s)

/-! Hang analysis. -/

def node (cls i : Nat) : Nat := cls * 4096 + i
/-- Queues that hold work, with the identity of the work at the head (R462, Table 15-16). -/
def queueHeads (s : State) : List (Nat × Nat) :=
  let ring (x : Nat × Ring) : List (Nat × Nat) :=
    let r := x.2
    (match r.fetched with | d :: _ => [(node 0 x.1, d.index.toNat)] | [] => if r.reread.isSome then [(node 0 x.1, r.sqHead)] else [])
      ++ (if r.cqPend.isEmpty then [] else [(node 1 x.1, 2 * r.cqTail + b2n r.cqPhase)])
      ++ (if r.egPend.isEmpty then [] else [(node 2 x.1, 2 * r.egTail + b2n r.egPhase)])
  let strm (st : Stream) : List (Nat × Nat) :=
    match (s.recs.find? fun r => r.h == st.handle && !r.sealed).map (·.id), (st.jobs.find? fun j => !j.ready).map (·.cmd) with
    | some r, _ => [(node 3 (hIndex st.handle % 4096), r)]
    | none, some j => [(node 3 (hIndex st.handle % 4096), j)]
    | none, none => []
  let chan (x : Nat × Chan) : List (Nat × Nat) :=
    match x.2.outs with
    | o :: _ => (node 4 x.1, o.tag) :: (x.2.outs.filterMap fun o => match o.purp with | .encode u _ _ _ => some (node 5 u, o.tag) | _ => none)
    | [] => []
  let cmd (c : Cmd) : Nat × Nat := (node 7 c.ring, c.id)
  let lanes := (match s.range.backlog with | r :: _ => [(node 6 s.selfId, r.since)] | [] => [])
    ++ (match s.recs.find? (awaitsPred s) with | some r => [(node 6 s.predId, r.id)] | none => [])
  s.rings.flatMap ring ++ s.openStreams.flatMap strm ++ s.stack.chans.flatMap chan ++ lanes ++ s.cmds.map cmd
/-- A free value as a node of Table 15-16: its class is one of the table's (R23). -/
def anyNode (n : Nat) : Nat := node (n / 4096 % 11) (n % 4096)
/-- What a running command waits on: node and reason. -/
def cmdWaits (s : State) (c : Cmd) : List (Nat × Nat) :=
  let chans := s.stack.chans.filterMap fun (x : Nat × Chan) =>
    if x.2.outs.any fun o => match o.purp with
        | .imgWrite k | .setMaster k | .allow k | .cairnSave k | .cairnClear k | .retireClear k | .cairnLoad k _ | .pingSeries k => k == c.id
        | _ => false
    then some (node 4 x.1, 0x03) else none
  let chans := chans ++ if s.stack.firm.any fun o => o.purp.cmd? == some c.id then [(node 4 0, 0x02)] else []
  match c.k with
  | .saveC h _ _ 0 _ _ => [(node 3 (hIndex h % 4096), 0x05)]
  | .closeS h => [(node 3 (hIndex h % 4096), 0x05)]
  | .ingest h => [(node 3 (hIndex h % 4096), 0x08)]
  | .join _ => [(node 10 0, 0x0A)]
  | .loadI .. => if chans.isEmpty then [(node 4 0, 0x02)] else chans
  | _ => chans
/-- Edges of the wait-for graph: waiter, holder, reason (R463); a relay lane waits for the slots its member returns, or for the record
its sender owes (Table 15-16, log 63). -/
def waitEdges (s : State) : List (Nat × Nat × Nat) :=
  let ring (x : Nat × Ring) : List (Nat × Nat × Nat) :=
    let r := x.2
    (match r.fetched with
      | d :: _ => (if dFence d then [(node 0 x.1, node 7 x.1, 0x04)] else [(node 0 x.1, node 7 x.1, 0x01)])
      | [] => if r.reread.isSome then [(node 0 x.1, node 8 1, 0x09)] else [])
      ++ (if r.cqPend.isEmpty then [] else [(node 1 x.1, node 8 0, 0x01)])
      ++ (if r.egPend.isEmpty then [] else [(node 2 x.1, node 8 0, 0x01)])
  let strm (st : Stream) : List (Nat × Nat × Nat) :=
    let me := node 3 (hIndex st.handle % 4096)
    (if s.recs.any fun r => r.h == st.handle && r.needFrame && !r.arrived then [(me, anyNode Config.frameHolder, 0x06)] else [])
      ++ ((s.recs.filter fun r => r.h == st.handle).flatMap fun r => r.models.flatMap fun m =>
        if m.st = 1 || m.st = 2 then m.chans.map fun c => (me, node 4 c.1, 0x03) else []).eraseDups
      ++ (s.stack.chans.flatMap fun (x : Nat × Chan) => x.2.outs.filterMap fun o => match o.purp with
        | .encode u _ _ h => if h = st.handle then some (me, node 5 u, 0x08) else none
        | _ => none)
      ++ (if s.recs.any fun r => r.h == st.handle && awaitsPred s r then [(me, node 6 s.predId, 0x07)] else [])
  let chan (x : Nat × Chan) : List (Nat × Nat × Nat) :=
    (if x.2.outs.isEmpty then [] else [(node 4 x.1, node 9 x.1, 0x03)])
      ++ (x.2.outs.filterMap fun o => match o.purp with | .encode u _ _ _ => some (node 5 u, node 4 x.1, 0x08) | _ => none)
  let lanes := ((s.range.backlog.map (·.peer)).eraseDups.map fun p => (node 6 s.selfId, node 10 (p % 64), 0x01))
    ++ (if s.recs.any (awaitsPred s) then [(node 6 s.predId, node 10 s.predId, 0x0A)] else [])
  s.rings.flatMap ring ++ s.openStreams.flatMap strm ++ s.stack.chans.flatMap chan ++ lanes
    ++ s.cmds.flatMap fun c => (cmdWaits s c).map fun w => (node 7 c.ring, w.1, w.2)
/-- Edges breadth-first from some nodes. -/
def bfsEdges (es : List (Nat × Nat × Nat)) : Nat → List Nat → List Nat → List (Nat × Nat × Nat)
  | 0, _, _ => []
  | f + 1, seen, front =>
    if front.isEmpty then []
    else
      let out := front.flatMap fun n => es.filter fun e => e.1 == n
      let next := ((out.map (·.2.1)).filter fun n => !seen.contains n).eraseDups
      out ++ bfsEdges es f (seen ++ next) next
/-- A node reaches another along edges. -/
def reaches (es : List (Nat × Nat × Nat)) (u v : Nat) : Bool :=
  (bfsEdges es (es.length + 1) [u] [u]).any fun e => e.2.1 == v
def waited (s : State) (n : Nat) : Nat :=
  match AMap.get? s.mgmt.waits n with | some (_, since, _) => min (2 ^ 23 - 1) (beatsFrom since s.beat) | none => 0
/-- An edge as written (R463). -/
def edgeWord (s : State) (es : List (Nat × Nat × Nat)) (e : Nat × Nat × Nat) : W64 :=
  w64 [(e.1, 0), (e.2.1, 16), (e.2.2, 32), (b2n (e.1 == e.2.1 || reaches es e.2.1 e.1), 40), (waited s e.1, 41)]
/-- Log records of the edges, three to each. -/
def edgeLogs (s : State) : Nat → List W64 → State
  | 0, _ => s
  | f + 1, ws =>
    if ws.isEmpty then s
    else edgeLogs (s.log 0x0071 0 51 (ws.getD 0 0#64) (ws.getD 1 0#64) (ws.getD 2 0#64)) f (ws.drop 3)
/-- The wait-for graph from some nodes written to the log; the number of edges (R464). -/
def State.writeGraph (s : State) (hung : Nat) (roots : List Nat) : Nat × State :=
  let es := waitEdges s
  let all := bfsEdges es (es.length + 1) roots roots
  let use := all.take 4096
  let ws := use.map (edgeWord s es)
  let cyc := (use.filter fun e => e.1 == e.2.1 || reaches es e.2.1 e.1).length
  let s := s.log 0x0070 1 51 (w64 [(hung, 0)]) (w64 [(use.length, 0)]) (w64 [(b2n (4096 < all.length), 0)])
  let s := edgeLogs s (ws.length + 1) ws
  (use.length, (s.log 0x0072 0 51 (w64 [(use.length, 0)]) (w64 [(cyc, 0)]) 0#64).count 123 use.length)
/-- HANG_REPORT after the shared checks: the graph from every waiting node. -/
def hangBody (_ : Desc) (s : State) (c : Cmd) : State :=
  let roots := ((waitEdges s).map (·.1)).eraseDups
  let (n, s) := s.writeGraph (anyNode (Config.unlistedCause 5)) roots
  s.finish c { status := stOK, resA := n }
def execHangReport (d : Desc) (s : State) : Host.Outcome State Fault Refusal :=
  .next (runDesc s d (d.opcode == 0x3A) (hangBody d))
/-- Queues examined at a governor period boundary: a head that has not moved for HANG_CTL beats is a hang, declared once (R462). -/
def State.examineQueues (s : State) : State :=
  let old := s.mgmt.waits
  let seen (x : Nat × Nat) : Nat × Nat × Nat × Bool := match AMap.get? old x.1 with
    | some (head, since, decl) => if head = x.2 then (x.1, head, since, decl) else (x.1, x.2, s.beat, false)
    | none => (x.1, x.2, s.beat, false)
  let now := (queueHeads s).map seen
  let lim := fld s.regs.hangCtl 23 0
  let hung (x : Nat × Nat × Nat × Bool) : Bool := lim ≠ 0 && !x.2.2.2 && beatLe (beatAdd x.2.2.1 lim) s.beat
  let s := { s with mgmt := { s.mgmt with waits := now.foldl (fun m x => AMap.set m x.1 (x.2.1, x.2.2.1, x.2.2.2 || hung x)) [] } }
  (now.filter hung).foldl (fun s x => (((s.raise 1).count 122 1).writeGraph x.1 [x.1]).2) s

end Sys2Proof.Machine
end

