-- ==== Sys2Proof/Machine/Range.lean ====
section
/-! DEFINITION. Ranges: formation, relay records taken in, leases, splits, leaving and the status record (R54, R72, R359 to R364, R422 to
R432, R436). -/

namespace Sys2Proof.Machine

/-! Formation. -/

/-- A following of successors from a member reaches the tail (R422). -/
def pathOk (ms : AMap Member) : Nat → Nat → Bool
  | 0, _ => false
  | f + 1, m =>
    match AMap.get? ms m with
    | some x => x.role == 2 || pathOk ms f x.succ
    | none => false
/-- The structure of R422: 2 to 64 members, one head, one tail, every path ends at the tail. -/
def structureOk (count : Nat) (ms : AMap Member) : Bool :=
  2 ≤ count && count ≤ 64 && ms.length == count && (ms.filter fun x => x.2.role == 0).length == 1
    && (ms.filter fun x => x.2.role == 2).length == 1 && ms.all fun x => pathOk ms 65 x.1
/-- H of a hop: its latency in beats rounded up, and one (R72). -/
def hopBeats (s : State) (ns : Nat) : Nat := cdiv (ns * s.freqKhz) (235 * 10 ^ 6) + 1
/-- The delay of the path from a member (R72). -/
def pathDelay (s : State) (ms : AMap Member) : Nat → Nat → Nat
  | 0, _ => 0
  | f + 1, m =>
    match AMap.get? ms m with
    | some x => if x.role = 2 then x.di else x.di + hopBeats s x.hop + pathDelay s ms f x.succ
    | none => 0
/-- The largest delay over every path. -/
def largestPath (s : State) (ms : AMap Member) : Nat := maxBy (fun x => pathDelay s ms 65 x.1) ms

/-- A member's words 1 to 3 in JOIN and MEMBERS records (Table 14-9). -/
def memberWords (m : Member) (timeout : Nat) : List W64 :=
  [w64 [(m.role, 0), (m.succ, 2), (m.di, 8), (timeout, 24)], w64 [(m.inbox, 0)], w64 [(m.hop, 0)]]
/-- This member as it stands in the tables. -/
def selfMember (s : State) (succ : Nat) : Member := ⟨s.range.role, succ, largestD s, 0, inboxBase s, s.beat⟩
/-- The RANGE_JOIN in progress. -/
def State.forming? (s : State) : Option Cmd := s.range.forming.bind s.cmd?

/-- Formation ends without a range (R425); what the command's status is differs. -/
def State.formFailed (s : State) (status : Nat) : State :=
  let s := if s.range.role = 2 then s.relayAll 12 [] else s
  let cmd := s.forming?
  let s := { s with
    range := { s.range with forming := none, members := [], hops := [], probes := 0, joinBox := [], role := 0 }
    sched := s.sched.filter fun e => match e.eff with | .joinRange _ _ => false | _ => true }
  match cmd with | some c => s.finish c { status := status } | none => s
/-- The range is formed and takes hold at the coming boundary (R29). -/
def joining (s : State) : Bool := s.sched.any fun e => match e.eff with | .joinRange _ _ => true | _ => false
/-- The boundary at which a member joins: the roster is final, and no lease is held until the first grant (R361, R425, R426). -/
def State.joinRange (s : State) (formation dRange : Nat) : State :=
  let ms := s.range.members.map fun (x : Nat × Member) => (x.1, { x.2 with lastHeard := s.beat })
  let succ := ((AMap.get? ms s.selfId).map (·.succ)).getD s.selfId
  let send := match AMap.get? s.range.send 64 with
    | some x => AMap.set (AMap.erase s.range.send 64) succ x
    | none => s.range.send
  let cmd := s.forming?
  let anchor : AMap (Int × Nat × Nat) := if s.range.role = 0 then s.tenants.map fun (x : Nat × Tenant) => (x.1, (x.2.k, x.2.x, x.2.u)) else []
  let s := { s with
    tenants := s.tenants.map fun (x : Nat × Tenant) => (x.1, { x.2 with k := 0, x := 0, u := 0, leaseC := 0, leaseG := 0, leaseP := 0, leaseX := 0 })
    range := { s.range with
      joined := true, forming := none, starved := 0,
      backlog := s.range.backlog.map fun r => if r.peer = 64 then { r with peer := succ } else r, formation := formation, lastFormation := formation, dRange := dRange,
      dOwn := ((AMap.get? ms s.selfId).map (·.di)).getD 0, dPath := pathDelay s ms 65 s.selfId, formedBeat := s.beat, members := ms,
      send := send, sentTo := [], split := false, splitFrom := [], anchor := anchor, grants := [], grantsSince := [], used := [],
      outstanding := [], reported := [], preds := [], chunkQ := [], leasePeriod := 0, adopted := 0, stopIn := false, leaving := false } }
  match cmd with | some c => s.finish c { status := stOK, resA := dRange } | none => s
/-- The tail has every JOIN: the structure and the bounds are checked, then every member gets the roster (R425). -/
def State.formAll (s : State) : State :=
  let count := fld s.regs.rangeMember 14 8
  let ms := AMap.set s.range.members s.selfId (selfMember s s.selfId)
  if AMap.has s.range.members s.selfId || !structureOk count ms then s.formFailed stIncomplete
  else
    let d := largestPath s ms
    if (List.range 16).all fun rc => s.latBound rc == 0 || s.latBound rc < d + 1 then s.formFailed stLatency
    else
      let f := if s.range.lastFormation + 1 < 65536 then s.range.lastFormation + 1 else 1
      let s := { s with range := { s.range with members := ms } }
      let others := (AMap.keys ms).filter fun m => m != s.selfId
      let s := others.foldl (fun s peer => ms.foldl (fun s (x : Nat × Member) =>
        s.relayAs x.1 peer 4 (memberWords x.2 s.range.timeout ++ [w64 [(d, 0), (f, 16)]])) s) s
      s.at s.nextB (.joinRange f d)
/-- The tail goes on once it has a JOIN from every other member. -/
def State.tailCheck (s : State) : State :=
  if s.range.role = 2 && s.forming?.isSome && !joining s && fld s.regs.rangeMember 14 8 ≤ s.range.members.length + 1 then s.formAll else s
/-- A JOIN goes on to the successor. -/
def State.passJoin (s : State) (id : Nat) (m : Member) (timeout : Nat) : State := s.relayAs id 64 3 (memberWords m timeout)

/-- RANGE_JOIN after the shared checks. -/
def rangeJoinBody (d : Desc) (s : State) (c : Cmd) : State :=
  let timeout := dfld d 4 31 0
  if s.range.joined || s.forming?.isSome || s.range.leaving || timeout < 64 || fld s.regs.rangeMember 14 8 = 0 then s.finish c { status := stState }
  else
    let early := s.range.members
    let s := s.keep c (.join s.beat)
    let s := { s with range := { s.range with
      forming := some c.id, role := dfld d 2 1 0, succInbox := dfld d 3 56 0, timeout := timeout, probes := 0 } }
    if dfld d 2 1 0 = 2 then s.tailCheck
    else
      let s := { s with range := { s.range with members := [] } }
      early.foldl (fun s (x : Nat × Member) => s.passJoin x.1 x.2 timeout) s
def execRangeJoin (d : Desc) (s : State) : Host.Outcome State Fault Refusal :=
  .next (runDesc s d (d.opcode == 0x40) (rangeJoinBody d))
/-- One PROBE per beat to the successor, 1,024 in all, then the JOIN (R425). -/
def State.pumpProbes (s : State) : State :=
  if s.start.halted || s.forming?.isNone || joining s || s.range.role = 2 || 1025 ≤ s.range.probes then s
  else
    let n := s.range.probes
    let s := { s with range := { s.range with probes := n + 1 } }
    if n < 1024 then s.relay 64 5 []
    else s.relay 64 3 (memberWords (selfMember s (Config.unlistedCause 6 % 64)) s.range.timeout)
/-- The tail has waited the relay timeout for its JOINs (R425). -/
def execRangeJoinTimeout (s : State) : Host.Outcome State Fault Refusal :=
  .next (match s.forming? with
    | some c =>
      if s.range.role = 2 && !s.clk.stopped && !joining s && beatLe (beatAdd c.since s.range.timeout) s.beat then s.formFailed stIncomplete else s
    | none => s)

/-! Leases (R359 to R363). -/

/-- The burst scale in force. -/
def anchorCap (s : State) (t : Tenant) : Int := ((t.c + burstScaled t.b s.gov.burst : Nat) : Int)
/-- The anchor's counts of a tenant. -/
def State.anchorOf (s : State) (t : Nat) : Int × Nat × Nat := AMap.getD s.range.anchor t (0, 0, 0)
def State.setAnchor (s : State) (t : Nat) (x : Int × Nat × Nat) : State :=
  { s with range := { s.range with anchor := AMap.set s.range.anchor t x } }
/-- An amount's share of an instance: an eighth split evenly, the rest by use (R360). -/
def leaseShare (g n u sum : Nat) : Nat := if sum = 0 then g / n else g / (8 * n) + 7 * g * u / (8 * sum)
def usedBy (s : State) (m t : Nat) : Nat := ((s.range.used.find? fun x => x.1 == m && x.2.1 == t).map (·.2.2)).getD 0
/-- A grant on its way: kept until a report confirms it (R363). -/
def State.grantTo (s : State) (m t : Nat) (g : Grant) : State :=
  let s := { s with range := { s.range with outstanding := s.range.outstanding ++ [(m, t, g.period, g.g)], granted := s.range.granted + 1 } }
  if m = s.selfId then
    ({ s with range := { s.range with grants := s.range.grants ++ [g], grantsSince := AMap.modifyD s.range.grantsSince t 0 (· + 1) } }).count 117 1
  else s.relay m 6 [w64 [(t, 0), (g.period, 32)], w64 [(g.g, 0), (g.c, 32)], w64 [(g.x, 0)], g.time]
/-- One tenant at beat 2,000 of an anchor period: its refill, then its leases unless a split is in force (R360, R362). -/
def State.grantTenant (s : State) (t : Nat) : State :=
  let x := s.tenant t
  if !x.enabled then s
  else
    let (k, _, _) := s.anchorOf t
    let y := ({ x with k := k } : Tenant).refill s.gov.burst
    let s := s.setTenant t fun z => { z with c := y.c, b := y.b, e := y.e, pend := y.pend }
    if s.range.split then s.setAnchor t (y.k, y.x, 0)
    else
      let ms := AMap.keys s.range.members
      let n := ms.length
      let sum := sumBy (fun m => usedBy s m t) ms
      let g := y.k.toNat
      let p := s.beat / 4000 + 1
      let time := BitVec.ofNat 64 (s.start.offset.toNat + s.beatsNs (p * 4000))
      let share (m amount : Nat) : Nat := leaseShare amount n (usedBy s m t) sum
      let s := s.setAnchor t (y.k - (sumBy (fun m => share m g) ms : Nat), y.x, 0)
      ms.foldl (fun s m => s.grantTo m t ⟨t, p, share m g, share m y.c, share m y.x, time⟩) s
/-- The anchor's grants of a period (R360). -/
def State.leaseGrant (s : State) : State :=
  let s := { s with range := { s.range with leasePeriod := s.beat / 4000 + 1 } }
  (AMap.keys s.tenants).foldl State.grantTenant s
def grantDue (s : State) : Bool :=
  s.range.joined && s.range.role == 0 && s.beat % 4000 == 2000 && s.range.leasePeriod != s.beat / 4000 + 1
def execLeaseGrant (s : State) : Host.Outcome State Fault Refusal :=
  .next (if s.complete && !s.clk.stopped && grantDue s then s.leaseGrant else s)

/-- A report taken in by the anchor: grants confirmed, the rest credited back after a split, the remainder added and k capped (R361,
R363). The split is over once every other member has reported, and on every grant that it was sent. -/
def State.takeReport (s : State) (m t period charged : Nat) (rem : Int) (count : Nat) : State :=
  let s := s.count 118 1
  let mine := s.range.outstanding.filter fun x => x.1 == m && x.2.1 == t
  let back : Nat := if s.range.split then sumBy (fun x => x.2.2.2) (mine.drop count) else 0
  let keep := if s.range.split then [] else mine.drop count
  let (k, x, u) := s.anchorOf t
  let cap := anchorCap s (s.tenant t)
  let s := s.setAnchor t (satK (min (k + back + rem) cap), x, u)
  let used := if period = 0 then s.range.used else (s.range.used.filter fun y => !(y.1 == m && y.2.1 == t)) ++ [(m, t, charged)]
  let s := { s with range := { s.range with
    outstanding := (s.range.outstanding.filter fun y => !(y.1 == m && y.2.1 == t)) ++ keep, used := used,
    reported := if s.range.split && !s.range.reported.contains m then s.range.reported ++ [m] else s.range.reported } }
  if s.range.split && s.range.splitFrom.isEmpty && (AMap.keys s.range.members).all (fun y => y == s.selfId || s.range.reported.contains y)
      && s.range.outstanding.all fun y => y.1 == s.selfId then
    { s with range := { s.range with split := false, reported := [] } }
  else s
/-- This member's report of a tenant's lease (Table 14-9). -/
def State.report (s : State) (t : Nat) : State :=
  let x := s.tenant t
  let n := AMap.getD s.range.grantsSince t 0
  let charged := ((x.leaseG : Int) - x.k).toNat + (x.leaseX - x.x)
  let s := { s with range := { s.range with grantsSince := AMap.erase s.range.grantsSince t } }
  if s.range.role = 0 then s.takeReport s.selfId t x.leaseP charged x.k n
  else s.relay s.headId 7 [w64 [(t, 0), (x.leaseP, 32)], w64 [(charged % 2 ^ 32, 0), ((x.k % 2 ^ 32).toNat, 32)], w64 [(n, 0)]]
/-- This member's report of a tenant while its lease goes on: the charges so far and the grants received, no remainder (R362, R363). -/
def State.reportSoFar (s : State) (t : Nat) : State :=
  let x := s.tenant t
  let n := AMap.getD s.range.grantsSince t 0
  let charged := ((x.leaseG : Int) - x.k).toNat + (x.leaseX - x.x)
  let s := { s with range := { s.range with grantsSince := AMap.erase s.range.grantsSince t } }
  (s.relay s.headId 7 [w64 [(t, 0), (x.leaseP, 32)], w64 [(charged % 2 ^ 32, 0)], w64 [(n, 0)]]).setTenant t fun y =>
    { y with leaseG := y.k.toNat, leaseX := y.x }
/-- A lease adopted: the previous one is reported, and its counts give way (R361). -/
def State.adoptLease (s : State) (g : Grant) : State :=
  (s.report g.tenant).setTenant g.tenant fun t => { t with k := g.g, x := g.x, u := 0, leaseC := g.c, leaseG := g.g, leaseP := g.period, leaseX := g.x }
/-- Every grant whose time has come, in order. -/
def State.adoptDue (s : State) (now : Nat) : State :=
  let due := s.range.grants.filter fun g => decide (g.time.toNat ≤ now)
  if due.isEmpty then s
  else
    let s := { s with range := { s.range with grants := s.range.grants.filter (fun g => !decide (g.time.toNat ≤ now)), adopted := s.beat } }
    due.foldl State.adoptLease s
/-- The coming boundary's adoptions (R361). -/
def execLeaseAdoption (s : State) : Host.Outcome State Fault Refusal :=
  .next (if s.complete && !s.clk.stopped && s.atEnd && s.range.joined then s.adoptDue s.nextTime.toNat else s)

/-! Splits (R54, R429, R430). -/

/-- Tenants a member reports on: those enabled, and those it holds a lease or a grant of; one row stands for none. -/
def reportTenants (s : State) : List Nat :=
  let ts := (s.tenants.filter fun x => x.2.enabled || x.2.leaseP != 0 || AMap.getD s.range.grantsSince x.1 0 != 0).map (·.1)
  if ts.isEmpty then [0] else ts
/-- The last peer heard again: the member reports all its leases, whose counts are the anchor's again, and the anchor waits for every report
(R363, R430). -/
def State.splitEnds (s : State) : State :=
  let s := (reportTenants s).foldl State.report s
  let s := { s with tenants := s.tenants.map fun (x : Nat × Tenant) => (x.1, { x.2 with k := 0, x := 0, leaseG := 0, leaseC := 0, leaseP := 0, leaseX := 0 }) }
  if s.range.role = 0 then s else { s with range := { s.range with split := false } }
/-- A record of a kind has arrived from a peer. A member that lacks only its grant reports once and goes on with its lease until a grant comes
(R362, R363; DESIGN CHOICE, log 63). -/
def State.hear (s : State) (peer kind : Nat) : State :=
  let was := s.range.splitFrom
  let s := { s with range := { s.range with members := AMap.modify s.range.members peer fun m => { m with lastHeard := s.beat } } }
  let lacks := s.range.starved ≠ 0 && peer = s.headId
  if lacks && kind ≠ 6 then
    if s.range.starved = 1 then (reportTenants s).foldl State.reportSoFar { s with range := { s.range with starved := 2 } } else s
  else
    let s := { s with range := { s.range with splitFrom := was.filter (fun x => x != peer), starved := if lacks then 0 else s.range.starved } }
    if was.isEmpty || !s.range.splitFrom.isEmpty then s
    else if lacks then { s with range := { s.range with split := false } }
    else s.splitEnds
/-- The beat after which a member misses its grant: an anchor period and the timeout after the last adoption, or after the first one could come
at the latest. -/
def grantBy (s : State) : Nat :=
  if s.range.adopted ≠ 0 then beatAdd s.range.adopted (4000 + s.range.timeout) else beatAdd s.range.formedBeat (6000 + s.range.timeout)
/-- What shows a split from a peer: a record without a slot for the timeout, silence of the successor or the head, or a grant or report
that does not come (R362, R429). -/
def splitShows (s : State) (peer : Nat) : Option Nat :=
  let t := s.range.timeout
  match s.range.backlog.find? fun r => r.peer == peer && beatLe (beatAdd r.since t) s.beat with
  | some r => if peer = s.succId then some r.kind else none
  | none =>
    match AMap.get? s.range.members peer with
    | none => none
    | some m =>
      if peer ≠ s.selfId && (peer == s.succId || peer == s.headId) && beatLe (beatAdd m.lastHeard t) s.beat then some (1 + Config.unlistedCause 7 % 12)
      else if peer ≠ s.selfId && peer == s.headId && (s.tenants.any fun x => x.2.enabled) && beatLe (grantBy s) s.beat then some 6
      else if s.range.role = 0 && (s.range.outstanding.any fun x => x.1 == peer && beatLe (beatAdd (x.2.2.1 * 4000) t) s.beat) then some 7
      else none
/-- A split from a peer: the results that wait for it are INCOMPLETE, other records that wait are lost (R54, R429, log 63). -/
def State.splitFrom (s : State) (peer kind : Nat) : State :=
  let heard := beatLt s.beat (beatAdd (((AMap.get? s.range.members peer).map (·.lastHeard)).getD 0) s.range.timeout)
  let s := { s with range := { s.range with
    split := true, starved := if kind = 6 && heard && peer = s.headId then 1 else s.range.starved, splitFrom := s.range.splitFrom ++ [peer], reported := [], backlog := s.range.backlog.filterMap fun (r : RelayOut) =>
      if r.peer ≠ peer then some r else if relayKept r.kind then some r.marked else none } }
  ((s.raise 3).count 116 1).log 0x0060 2 52 (w64 [(peer, 0)]) (w64 [(kind, 0)]) 0#64
def execRelayTimeout (peer : BitVec 6) (s : State) : Host.Outcome State Fault Refusal :=
  .next (if s.range.joined && !s.clk.stopped && !s.range.splitFrom.contains peer.toNat then
      match splitShows s peer.toNat with | some k => s.splitFrom peer.toNat k | none => s
    else s)

/-! Leaving (R431). -/

/-- A member leaves at a boundary, its range streams cancelled at the next one; behind a release phase, its LEAVE records go out with the next. -/
def State.askLeave (s : State) (at_ : Nat) : State :=
  let s := if s.forming?.isSome then s.formFailed stIncomplete else s
  if s.range.leaving then s
  else
    let s := ({ s with range := { s.range with leaving := true } } : State).at at_ .leaveRange
    if s.range.joined then s.openStreams.foldl (fun s st => s.askCancel st.handle vCancelled 0 true) s else s
/-- The boundary of leaving: at the head the anchor's counts come back, elsewhere the lease's stand; the instance screens alone. -/
def State.leaveNow (s : State) : State :=
  let s := if s.range.joined && s.range.role = 0 then
      s.range.anchor.foldl (fun s (x : Nat × (Int × Nat × Nat)) => s.setTenant x.1 fun t => { t with k := x.2.1, x := x.2.2.1, u := x.2.2.2 }) s
    else s
  { s with
    tenants := s.tenants.map fun (x : Nat × Tenant) => (x.1, { x.2 with leaseC := 0, leaseG := 0, leaseP := 0, leaseX := 0 })
    range := { RangeS.reset with lastFormation := s.range.lastFormation, granted := s.range.granted } }
/-- RANGE_LEAVE after the shared checks. -/
def rangeLeaveBody (_ : Desc) (s : State) (c : Cmd) : State :=
  if s.range.joined && !s.openStreams.isEmpty then s.finish c { status := stState }
  else
    let s := if s.range.joined || s.forming?.isSome then (s.relayAll 12 []).askLeave (if s.clk.phase ≤ 2 then s.nextB else beatAdd s.nextB 1) else s
    s.finish c { status := stOK }
def execRangeLeave (d : Desc) (s : State) : Host.Outcome State Fault Refusal :=
  .next (runDesc s d (d.opcode == 0x41) (rangeLeaveBody d))

/-! The status record (R432, Table 14-10). -/

def reachable (s : State) (id : Nat) (m : Member) : Bool := id == s.selfId || beatLt s.beat (beatAdd m.lastHeard s.range.timeout)
def statusWords (s : State) : List W64 :=
  let g := s.range
  [w64 [(s.selfId, 0), (g.members.length, 6), (g.role, 13), (b2n g.split, 15), (g.formation, 16), (g.timeout, 32)],
   w64 [(g.dRange, 0), (g.dPath, 16)], w64 [(beat48 g.formedBeat, 0)], 0#64, 0#64, 0#64, 0#64, 0#64]
  ++ (List.range 64).flatMap fun i =>
    match AMap.get? g.members i with
    | some m => [w64 [(i, 0), (m.role, 6), (m.succ, 8), (b2n (reachable s i m), 14), (1, 15), (m.di, 16), (m.hop, 32)], w64 [(beat48 m.lastHeard, 0)]]
    | none => [0#64, 0#64]
/-- RANGE_STATUS after the shared checks: a copy that may stand at the address is first made uncommitted (R390, log 51). -/
def rangeStatusBody (d : Desc) (s : State) (c : Cmd) : State :=
  let a := dfld d 2 56 0
  (s.write' (.rangeStatus c.id) (s.hpAttr 8) [(a + 1088, w64Bytes 0#64)] none).keep c (.status a false)
def execRangeStatus (d : Desc) (s : State) : Host.Outcome State Fault Refusal :=
  .next (runDesc s d (d.opcode == 0x42) (rangeStatusBody d))
/-- The old commit word is cleared, then the record goes out; once it is written, or dropped (R478), the command completes. -/
def State.statusDone (s : State) (cmd : Nat) (ok : Bool) : State :=
  match s.cmd? cmd with
  | none => s
  | some c =>
    match c.k with
    | .status a cleared =>
      if !ok then s.finish c { status := stInternal, resA := s.range.dRange }
      else if cleared then s.finish c { status := if s.range.split then stSplit else stOK, resA := s.range.dRange }
      else (s.write' (.rangeStatus cmd) (s.hpAttr 8) [(a, wordsBytes (statusWords s))]
          (some (a + 1088, w64Bytes (w64 [(beat48 s.beat, 0), (1, 63)])))).keep c (.status a true)
    | _ => s

/-! Relay records taken in (R423, R424). -/

/-- A record holds a reserved encoding: a verdict above 8, a flag above bit 8, a role 11; it is treated as corrupt (R23). -/
def relayBad (r : RelayIn) (k : Nat) : Bool :=
  match k with
  | 1 => decide (8 < fld r.w1 41 38) || fld r.w1 53 51 != 0
  | 2 => decide (8 < fld r.w1 40 37) || fld r.w1 52 50 != 0
  | 3 => fld r.w1 1 0 == 3
  | 4 => fld r.w1 1 0 == 3
  | _ => false
/-- A record at the head of a lane, when its phase is the expected one: the lane moves on; one of another formation or kind, or a corrupt one, is
discarded and counted; a late one is logged (R23, R424, R426). -/
def State.relayTake (s : State) (r : RelayIn) (k : Nat) : Option State :=
  let lane := r.lane.toNat
  let (head, since, oldest) := AMap.getD s.range.lanes lane (0, 0, 0)
  if !s.complete || fld s.regs.rangeMember 14 8 = 0 || bit r.w7 63 ≠ (head / laneSlots s % 2 == 0) then none
  else
    let s := { s with range := { s.range with lanes := AMap.set s.range.lanes lane (head + 1, since + 1, if since = 0 then s.beat else oldest) } }
    if fld r.w0 31 16 ≠ s.range.formation || fld r.w0 3 0 ≠ k || relayBad r k then some (s.count 114 1)
    else
      let s := (s.count 113 1).ev 52 0x0D (fld r.w1 31 0) [(fld r.w7 47 0, 0), (fld r.w0 9 4, 48), (k, 54)]
      let dt := r.time.toNat - r.w6.toNat
      match AMap.get? s.range.members lane with
      | some m =>
        if s.range.joined && m.succ = s.selfId && m.role ≠ 2 && m.hop < dt then
          some ((s.count 115 1).log 0x0061 0 52 (w64 [(lane, 0)]) (w64 [(dt, 0)]) 0#64)
        else some s
      | none => some s
/-- Whether a taken record is of this formation and kind: its effect follows. -/
def relayGood (s : State) (r : RelayIn) (k : Nat) : Bool := fld r.w0 31 16 == s.range.formation && fld r.w0 3 0 == k && !relayBad r k
/-- A record of a kind taken in, with what it brings; a grant is taken in before a split is over (R364). -/
def State.relayDo (s : State) (r : RelayIn) (k : Nat) (f : State → State) : State :=
  match s.relayTake r k with
  | some t => if relayGood s r k then (f t).hear r.lane.toNat k else t
  | none => s

/-- REC: the predecessor's result of a record (R428). -/
def State.recIn (s : State) (r : RelayIn) : State :=
  if !s.range.joined || s.isFirst then s
  else
    let kind := fld r.w1 37 36
    let p : Pred := {
      slot := fld r.w1 13 0, step := fld r.w1 29 14, node := if kind = 3 then fld r.w2 23 0 else fld r.w1 35 30, kind := kind,
      verdict := fld r.w1 41 38, flags := fld r.w1 53 42, time := r.w3, beat := s.beat,
      outputs := [BitVec.ofNat 32 (fld r.w4 31 0), BitVec.ofNat 32 (fld r.w4 63 32), BitVec.ofNat 32 (fld r.w5 31 0), BitVec.ofNat 32 (fld r.w5 63 32)] }
    { s with range := { s.range with preds := s.range.preds ++ [p] } }
def execRelayRec (r : RelayIn) (s : State) : Host.Outcome State Fault Refusal := .next (s.relayDo r 1 fun s => s.recIn r)

/-- A chunk's tokens, read back from the first member's token buffer, screened by this member's stage (R427). -/
def State.chunkRead (s : State) (h no n verdict flags addr : Nat) (data : List Byte) : State :=
  match s.stream? h with
  | none => s
  | some st =>
    if st.phase ≠ .inputOpen || st.lastMade then s
    else
      let voc := s.vocabOf st
      let (pslot, gen, p) := match s.policyOf st.policy with | some (k, i, p) => (k, i.hdr.gen, p) | none => (0, 0, default)
      let ts := (List.range n).map fun i =>
        let w := rd32 data (4 * i)
        ({ bytes := voc.decode.getD (fld w 30 0) [], id := fld w 30 0, pre := none, inv := bit w 31 } : TokOut)
      let (f, c) := (List.range n).foldl (fun (x : Found × Ctx) i =>
        let (g, c) := screenInput s st.tenant p x.2 (st.tokIdx + i) (ts.getD i default); (x.1.join g, c)) (Found.none, st.inCtx)
      let (rs, fl, ks) := chunkTiles s st p
      let (last, s) : Bool × State := if n < 4096 then (true, s) else let (k, s) := s.pick 2; (k == 1, s)
      let (id, s) := s.fresh
      let rec_ : Rec := { Rec.blank with
        id := id, h := h, kind := .chunk, token := no, n := n, step := b2n last, arrived := true, arriveBeat := s.beat,
        polSlot := pslot, polGen := gen, policy := st.policy, results := f.results ++ rs ++ (if verdict = vPass then [] else [verdict]), flags := f.flags ||| fl ||| flags, waitTile := ks,
        pos := st.p0 + st.tokIdx + n, off := addr, screened := ks.isEmpty, ext := !ks.isEmpty }
      (({ s with recs := s.recs ++ [rec_] } : State).searchFinds f.falseHits f.lost).setStream h fun x => { x with
        tokIdx := x.tokIdx + n, chunkNo := no + 1, inCtx := c, lastMade := last, pos := x.pos + n }
/-- The stream whose chunk a read is for. -/
def ROwner.chunkOf : ROwner → Option Nat
  | .chunk h _ _ _ _ _ _ => some h
  | _ => none
/-- The bytes of a chunk that its next read brings: address and number, up to a 4 KiB boundary (R473). -/
def chunkPart (n addr : Nat) (got : List Byte) : Nat × Nat :=
  let a := addr + got.length
  (a, min (4 * n - got.length) (4096 - a % 4096))
/-- A chunk goes on: its next part is asked for, or its tokens are all there. -/
def State.readChunk (s : State) (o : ROwner) : State :=
  match o with
  | .chunk h no n verdict flags addr got =>
    if 4 * n ≤ got.length then s.chunkRead h no n verdict flags addr got
    else
      let (a, k) := chunkPart n addr got
      s.read o (a / 64 * 64) (cdiv (a % 64 + k) 64) (((s.stream? h).bind fun st => (s.ring st.ring).entry.map (·.attr)).getD 0)
  | _ => s
/-- A chunk of a stream is being read. -/
def readingChunk (s : State) (h : Nat) : Bool :=
  (s.host.reads.any fun x => x.2.chunkOf == some h) || s.host.readQ.any fun x => x.1.chunkOf == some h
/-- Chunks that wait, each once those of its stream before it are read. -/
def State.pumpChunks (s : State) : State :=
  s.range.chunkQ.foldl (fun s o =>
    match o.chunkOf with
    | some h =>
      if (s.stream? h).isNone then s
      else if readingChunk s h || s.range.chunkQ.any fun x => x.chunkOf == some h then { s with range := { s.range with chunkQ := s.range.chunkQ ++ [o] } }
      else s.readChunk o
    | none => s) { s with range := { s.range with chunkQ := [] } }
/-- CHUNK: its tokens are asked for, after those of the stream's earlier chunks. -/
def State.chunkIn (s : State) (r : RelayIn) : State :=
  if !s.range.joined || s.isFirst then s
  else
    match s.bound? (fld r.w1 13 0) with
    | none => s
    | some st =>
      let o : ROwner := .chunk st.handle (fld r.w1 23 14) (fld r.w1 36 24) (fld r.w1 40 37) (fld r.w1 52 41) (fld r.w2 56 0) []
      ({ s with range := { s.range with chunkQ := s.range.chunkQ ++ [o] } } : State).pumpChunks
def execRelayChunk (r : RelayIn) (s : State) : Host.Outcome State Fault Refusal := .next (s.relayDo r 2 fun s => s.chunkIn r)

/-- A member read from a JOIN or MEMBERS record. -/
def readMember (s : State) (r : RelayIn) : Member :=
  ⟨fld r.w1 1 0, fld r.w1 7 2, fld r.w1 23 8, fld r.w3 31 0, fld r.w2 56 0, s.beat⟩
/-- JOIN: the receiver fills in the hop of a direct sender, and forwards it or collects it (R425). -/
def State.joinIn (s : State) (r : RelayIn) : State :=
  let id := fld r.w0 9 4
  let lane := r.lane.toNat
  let m0 := readMember s r
  let m : Member := if id = lane then { m0 with hop := AMap.getD s.range.hops lane 0, succ := s.selfId } else m0
  let s := { s with range := { s.range with joinBox := AMap.set s.range.joinBox id m.inbox } }
  if s.range.joined then s
  else if s.forming?.isNone then { s with range := { s.range with members := AMap.set s.range.members id m } }
  else if s.range.role ≠ 2 then s.passJoin id m (fld r.w1 55 24)
  else if joining s then s
  else if AMap.has s.range.members id || id = s.selfId then s.formFailed stIncomplete
  else ({ s with range := { s.range with members := AMap.set s.range.members id m } } : State).tailCheck
def execRelayJoin (r : RelayIn) (s : State) : Host.Outcome State Fault Refusal := .next (s.relayDo r 3 fun s => s.joinIn r)
/-- MEMBERS: with the whole roster the member joins at the next boundary (R29, R425). -/
def State.membersIn (s : State) (r : RelayIn) : State :=
  if s.forming?.isNone || joining s || s.range.role = 2 then s
  else
    let s := { s with range := { s.range with members := AMap.set s.range.members (fld r.w0 9 4) (readMember s r) } }
    if s.range.members.length < fld s.regs.rangeMember 14 8 then s else s.at s.nextB (.joinRange (fld r.w4 31 16) (fld r.w4 15 0))
def execRelayMembers (r : RelayIn) (s : State) : Host.Outcome State Fault Refusal := .next (s.relayDo r 4 fun s => s.membersIn r)
/-- PROBE: the largest arrival less send time (R425). -/
def State.probeIn (s : State) (r : RelayIn) : State :=
  { s with range := { s.range with hops := AMap.modifyD s.range.hops r.lane.toNat 0 fun h => max h (r.time.toNat - r.w6.toNat) } }
def execRelayProbe (r : RelayIn) (s : State) : Host.Outcome State Fault Refusal := .next (s.relayDo r 5 fun s => s.probeIn r)
/-- GRANT: a lease waits for its adoption (R361). -/
def State.grantIn (s : State) (r : RelayIn) : State :=
  let t := fld r.w1 11 0
  let g : Grant := ⟨t, fld r.w1 63 32, fld r.w2 31 0, fld r.w2 63 32, fld r.w3 31 0, r.w4⟩
  if !s.range.joined then s
  else ({ s with range := { s.range with grants := s.range.grants ++ [g], grantsSince := AMap.modifyD s.range.grantsSince t 0 (· + 1) } }).count 117 1
def execRelayGrant (r : RelayIn) (s : State) : Host.Outcome State Fault Refusal := .next (s.relayDo r 6 fun s => s.grantIn r)
/-- REPORT: taken in by the anchor (R361, R363). -/
def State.reportIn (s : State) (r : RelayIn) : State :=
  if !s.range.joined || s.range.role ≠ 0 then s
  else
    let raw := fld r.w2 63 32
    s.takeReport (fld r.w0 9 4) (fld r.w1 11 0) (fld r.w1 63 32) (fld r.w2 31 0) (if raw < 2 ^ 31 then raw else (raw : Int) - 2 ^ 32) (fld r.w3 31 0)
def execRelayReport (r : RelayIn) (s : State) : Host.Outcome State Fault Refusal := .next (s.relayDo r 7 fun s => s.reportIn r)
/-- ACK: slots of this member's lane come back (R423). -/
def State.ackIn (s : State) (r : RelayIn) : State :=
  let lane := r.lane.toNat
  let key := if AMap.has s.range.send lane then lane else 64
  match AMap.get? s.range.send key with
  | none => s
  | some (tail, ret) =>
    let n := ret + (fld r.w1 15 0 + 65536 - ret % 65536) % 65536
    if tail < n then s else ({ s with range := { s.range with send := AMap.set s.range.send key (tail, n) } } : State)
def execRelayAck (r : RelayIn) (s : State) : Host.Outcome State Fault Refusal := .next (s.relayDo r 8 fun s => s.ackIn r)
/-- HEARTBEAT: its arrival is its whole effect (R429). -/
def execRelayHeartbeat (r : RelayIn) (s : State) : Host.Outcome State Fault Refusal := .next (s.relayDo r 9 fun s => s)
/-- STOP: a stop is in force from the next boundary, unless this member has stopped or been told to (R435). -/
def State.stopHeard (s : State) : State :=
  if s.range.joined && !s.clk.stopped && !s.clk.stopPin && !s.clk.stopCmd then { s with range := { s.range with stopIn := true } } else s
def execRelayStop (r : RelayIn) (s : State) : Host.Outcome State Fault Refusal := .next (s.relayDo r 10 State.stopHeard)
/-- RESUME: the stop of another member ends (R435). -/
def execRelayResume (r : RelayIn) (s : State) : Host.Outcome State Fault Refusal :=
  .next (s.relayDo r 11 fun s => { s with range := { s.range with stopIn := false } })
/-- LEAVE: formation ends, or the member leaves at the next boundary (R431, R436). -/
def execRelayLeave (r : RelayIn) (s : State) : Host.Outcome State Fault Refusal := .next (s.relayDo r 12 fun s => s.askLeave s.nextB)

/-! Acknowledgements and heartbeats. -/

/-- Slots of a lane returned after 32 records, or 64 beats after the oldest (R423); a sender whose inbox is unknown gets none. -/
def State.ackSend (s : State) (lane : Nat) : State :=
  let (head, since, oldest) := AMap.getD s.range.lanes lane (0, 0, 0)
  if since = 0 || peerInbox s lane = 0 || (since < 32 && beatLt s.beat (beatAdd oldest 64)) then s
  else ({ s with range := { s.range with lanes := AMap.set s.range.lanes lane (head, 0, 0) } } : State).relay lane 8 [w64 [(head % 65536, 0)]]
def execRelayAckSend (lane : BitVec 6) (s : State) : Host.Outcome State Fault Refusal :=
  .next (if s.complete && !s.clk.stopped then s.ackSend lane.toNat else s)
/-- Peers that hear from this member in every 256 beats: its successor and the head. -/
def State.heartPeers (s : State) : List Nat := ([s.succId, s.headId].filter fun p => p != s.selfId && p < 64).eraseDups
def heartDue (s : State) (p : Nat) : Bool := beatLe (beatAdd (beatMax (AMap.getD s.range.sentTo p s.range.formedBeat) s.range.formedBeat) 256) s.beat
def execHeartbeatSend (s : State) : Host.Outcome State Fault Refusal :=
  .next (if s.range.joined && !s.clk.stopped then (s.heartPeers.filter (heartDue s)).foldl (fun s p => s.relay p 9 []) s else s)

/-- Predecessor results that no record will take are forgotten: their stream is gone, or their step is over. -/
def State.prunePreds (s : State) : State :=
  if s.range.preds.isEmpty then s
  else
    let live (p : Pred) : Bool :=
      match s.bound? p.slot with
      | none => false
      | some st =>
        if p.kind = 3 then st.inVerdict.isNone
        else s.recs.any (fun r => predOf s r == some p) || (match st.lastClosed with
          | some l => let d := (p.step + 65536 - l) % 65536; 0 < d && d < 32768
          | none => true)
    { s with range := { s.range with preds := s.range.preds.filter live } }

end Sys2Proof.Machine
end

