-- ==== Sys2Proof/Machine/Stop.lean ====
section
/-! DEFINITION. Global stop: its causes, its boundary and the resume (R113, R433 to R436, R489). -/

namespace Sys2Proof.Machine

/-- STOP after the shared checks: the first boundary without a beat. -/
def stopBody (_ : Desc) (s : State) (c : Cmd) : State :=
  ({ s with clk := { s.clk with stopCmd := true } } : State).finish c { status := stOK, resB := beat48 s.nextB }
def execStop (d : Desc) (s : State) : Host.Outcome State Fault Refusal :=
  .next (runDesc s d (d.opcode == 0x38) (stopBody d))
/-- The beat a resume begins: the next one, or beat 0 where the stop came before it ran (Table 14-11). -/
def State.resumeB (s : State) : Nat := if s.atEnd then s.nextB else s.beat
/-- RESUME after the shared checks: the STOP in force ends; nothing changes while the block is not stopped (Table 3-7). -/
def resumeStopBody (_ : Desc) (s : State) (c : Cmd) : State :=
  if s.clk.stopped then ({ s with clk := { s.clk with stopCmd := false } } : State).finish c { status := stOK, resB := beat48 s.resumeB }
  else s.finish c { status := stOK }
def execResume (d : Desc) (s : State) : Host.Outcome State Fault Refusal :=
  .next (runDesc s d (d.opcode == 0x39) (resumeStopBody d))

/-- The level of stop_i as sampled (R489). -/
def execStopIHigh (s : State) : Host.Outcome State Fault Refusal := .next { s with clk := { s.clk with stopPin := true } }
def execStopILow (s : State) : Host.Outcome State Fault Refusal := .next { s with clk := { s.clk with stopPin := false } }

/-- A reason to be stopped: stop_i, a STOP command, or a STOP of another member (R433, R435). -/
def State.stopAsked (s : State) : Bool := s.clk.stopPin || s.clk.stopCmd || s.range.stopIn
/-- Commands in progress pause, or go on (Table 3-11). -/
def State.pauseAll (s : State) (p : Bool) : State := { s with cmds := s.cmds.map fun (c : Cmd) => { c with paused := p } }
/-- The record of a stop or resume: trace and log (R435). -/
def State.stopRecord (s : State) (resume beat : Nat) : State :=
  (s.ev 51 0x0F 0 [(resume, 0)]).log 0x0062 0 51 (w64 [(resume, 0)]) (w64 [(beat48 beat, 0)]) 0#64
/-- The boundary of a stop (R433): no beat starts, stop_o rises, the other members are told. -/
def State.stopNow (s : State) : State :=
  let s := ({ s with clk := { s.clk with stopped := true } } : State).pauseAll true
  let s := (s.stopRecord 0 s.beat).emit (.stopPin true)
  if s.range.joined then s.relayAll 10 [w64 [(beat48 s.beat, 0)]] else s
def State.stopDue (s : State) : Bool := s.complete && !s.clk.stopped && s.stopAsked
/-- The boundary of a resume (R433, R489). -/
def State.resumeNow (s : State) : State :=
  let s := ({ s with clk := { s.clk with stopped := false } } : State).pauseAll false
  let s := (s.stopRecord 1 s.resumeB).emit (.stopPin false)
  let s := if s.range.joined then s.relayAll 11 [w64 [(beat48 s.resumeB, 0)]] else s
  s.takeHeld.pumpLoads
def execBlockResume (s : State) : Host.Outcome State Fault Refusal :=
  .next (if s.clk.stopped && !s.stopAsked then s.resumeNow else s)

end Sys2Proof.Machine
end

