-- ==== Sys2Proof/Machine/HostPort.lean ====
section
/-! DEFINITION. What comes back on the host memory port, mask credit, and interrupt messages (R100, R108, R172, R388, R389, R407, R473 to
R480, R484). -/

namespace Sys2Proof.Machine

/-! Read data. -/

/-- The reads that waited for a tag or for an acknowledgement, in order, as far as they can go now (R474, R475). -/
def State.nextRead (s : State) : State :=
  s.host.readQ.foldl (fun s x => s.read x.1 x.2.1 x.2.2.1 x.2.2.2) { s with host := { s.host with readQ := [] } }
/-- Data reaches what asked for it; poison acts as R407 gives for the owner. -/
def State.readFor (s : State) (o : ROwner) (data : List Byte) (poison : Bool) : State :=
  match o with
  | .table k => if (s.ring k).entry.isSome || (s.ring k).early.isEmpty then s else s.entryArrive k data poison
  | .desc k i =>
    let r := s.ring k
    if !r.fetching.contains i then s
    else if poison then s.haltRing k ((r.entry.map fun e => e.sqBase + 64 * i).getD 0)
    else s.descArrive k i data
  | .gone => s
  | .image slot tile k => s.imageData slot tile k data poison
  | .ingest ring h cmd part =>
    if poison then
      match (s.stream? h).bind fun st => st.jobs.find? fun j => j.cmd == cmd with
      | some j => s.haltRing ring (ingestPart j.addr j.len part).1
      | none => s
    else s.ingestData ring h cmd part data
  | .chunk h no n verdict flags addr got =>
    let (a, k) := chunkPart n addr got
    (if poison then match s.stream? h with | some st => s.haltRing st.ring a | none => s
    else s.readChunk (.chunk h no n verdict flags addr (got ++ sliceB data (a % 64) k))).pumpChunks
/-- All data of one read command (R474, R475). -/
def State.readData (s : State) (tag : Nat) (data : List Byte) (poison : Bool) : State :=
  match AMap.get? s.host.reads tag with
  | none => s
  | some o => (({ s with host := { s.host with reads := AMap.erase s.host.reads tag } } : State).readFor o data poison).nextRead
def execHostReadData (tag : BitVec 8) (data : List Byte) (poison : Bool) (s : State) : Host.Outcome State Fault Refusal :=
  .next (s.readData tag.toNat data poison)

/-! Write acknowledgements. -/

/-- A persistent-window entry is committed: segment header, log record, activation record, image part or snapshot (R441, R443, R445, R453,
R454); what becomes of it: a segment that is cleared is free, and rows that waited for one go on (R390). A copy of an entry adds nothing. -/
def State.persistDone (s : State) (what key : Nat) : State :=
  let p := s.persist
  match what with
  | 0 => s.setSeg key fun g => { g with valid := true }
  | 5 => (s.segFreed key).pumpRows
  | 1 => ({ s with persist := { p with logs := p.logs.map fun (l : LogRec) => if l.seq = key then { l with committed := true } else l } } : State).pumpFlushes
  | 2 => ({ s with persist := { p with acts := p.acts.map fun (a : ActRec) => if a.seq = key then { a with committed := true } else a } } : State).pumpCompact
  | 3 =>
    let s := ({ s with persist := { p with parts := p.parts.map fun (a : Part) => if a.seq = key then { a with committed := true } else a } } : State).pumpCompact
    match (if p.parts.any fun a => a.seq == key && a.committed then none else p.parts.find? fun a => a.seq == key) with
    | some a => match s.cmds.find? fun c => (match c.k with | .loadI slot _ _ _ => slot == a.slot | _ => false) with
      | some c => s.loadStep c.id 0 1
      | none => s
    | none => s
  | 4 =>
    let s := ({ s with persist := { p with snaps := p.snaps.map fun (a : Snap) => if a.seq = key then { a with committed := true } else a } } : State).pumpCompact
    if p.snaps.any fun a => a.seq == key && a.committed then s else s.floorDone 7
  | _ => s
/-- Every packet and the commit word of a job are acknowledged. -/
def State.jobDone (s : State) (w : WJob) : State :=
  match w.owner with
  | .cpl k irq _ =>
    let s := s.setRing k fun r => { r with cqDone := r.cqDone + 1 }
    match irq, (s.ring k).entry with
    | true, some e => if e.irqEn then s.raiseVec e.vector else s
    | _, _ => s
  | .batch k n => s.setRing k fun r => { r with egDone := r.egDone + n }
  | .persist what key => s.persistDone what key
  | .logRing irq => if irq then s.raiseVec (fld s.regs.logLo 9 4) else s
  | .counter => ({ s with mgmt := { s.mgmt with cntPend := none } } : State).floorDone 6
  | .rangeStatus cmd => s.statusDone cmd true
  | .tokens _ => s
  | .relay _ _ => s
  | .trace => s
  | .irqMsg _ => s
  | .gone => s
/-- A job goes on: its commit word once its data and the jobs it waits for are acknowledged; then its end (R388). -/
def State.jobStep (s : State) (j : Nat) : State :=
  match AMap.get? s.host.jobs j with
  | none => s
  | some w =>
    if !w.todo.isEmpty || w.unacked ≠ 0 then s
    else
      match w.commit with
      | some c =>
        if w.after.any fun a => AMap.has s.host.jobs a then s
        else
          let w := { w with todo := [c], commit := none, committing := true }
          pumpPackets 256 j { s with host := { s.host with jobs := AMap.set s.host.jobs j w } }
      | none =>
        if w.committing && w.after.any fun a => AMap.has s.host.jobs a then s
        else ({ s with host := { s.host with jobs := AMap.erase s.host.jobs j } } : State).jobDone w
/-- Jobs whose waits are over, in order. -/
def State.jobsGo (s : State) : State := (AMap.keys s.host.jobs).foldl State.jobStep s

/-- A persistent entry that was abandoned uncommitted: where it lay counts as the segment's first open place. A snapshot is dropped, unless it
is a copy (R478). -/
def PersistS.abandon (p : PersistS) (what key : Nat) : PersistS :=
  let lose (p : PersistS) (seg a : Nat) : PersistS :=
    { p with segs := AMap.modify p.segs seg fun g => { g with lost := some (min a (g.lost.getD a)) } }
  match what with
  | 2 => match p.acts.find? fun a => a.seq == key && !a.committed with | some a => lose p a.seg a.at_ | none => p
  | 3 => match p.parts.find? fun a => a.seq == key && !a.committed with | some a => lose p a.seg a.at_ | none => p
  | 4 => match p.snaps.find? fun a => a.seq == key && !a.committed with
    | some a => { lose p a.seg a.at_ with snaps := p.snaps.filter fun n => n.seq != key || n.committed }
    | none => p
  | _ => p
/-- A failed write of the persistent window (R478): the segment is closed, the next one opened, and the entry written there again; a snapshot
is not, and neither is a segment's header, whose live entries are copied out. A clear of a header is tried again. -/
def State.persistAgain (s : State) (what key : Nat) (bs : List Byte) : State :=
  let copy := what = 4 && s.persist.snaps.any fun n => n.seq == key && n.committed
  let s := { s with persist := s.persist.abandon what key }
  let role := (AMap.getD s.persist.segs key default).role
  let s :=
    if what = 5 then freeSeg s key
    else if what = 0 then
      let s := if openOf s role == some key then openSeg s role else s
      if role = 2 then compact s key else s
    else
      let s := openSeg s (roleOf what)
      if what = 4 then (if copy then s.pumpCompact else s) else s.placeRows what key bs
  s.log (unlistedLog 3) 1 51 (w64 [(what, 0)]) (w64 [(key, 0)]) 0#64
/-- A job whose write failed: its structure gets no commit word (R478). -/
def State.jobFailed (s : State) (w : WJob) (addr : Nat) : State :=
  match w.owner with
  | .cpl k _ _ => s.haltRing k addr
  | .batch k _ => s.haltRing k addr
  | .tokens k => s.haltRing k addr
  | .persist what key => s.persistAgain what key w.again
  | .logRing _ => s
  | .trace => ({ s with mgmt := { s.mgmt with traceDropped := s.mgmt.traceDropped + 1 } } : State).count 120 1
  | .counter => { s with mgmt := { s.mgmt with cntPend := none } }
  | .rangeStatus cmd => s.statusDone cmd false
  | .relay _ _ => s
  | .gone => s
  | .irqMsg v => ({ s with host := { s.host with lost := s.host.lost + 1 } } : State).log (unlistedLog 4) 1 48 (w64 [(v, 0)]) 0#64 0#64
/-- A structure that waits for a failed write before its commit word gets none (R388, R478). -/
def State.cutJobs (s : State) (j : Nat) : State :=
  { s with
    host := { s.host with jobs := s.host.jobs.filter (fun x => !x.2.after.contains j), failed := s.host.failed ++ [j] }
    rings := s.rings.map fun (x : Nat × Ring) => (x.1, { x.2 with cqPend := x.2.cqPend.filter fun c => !c.after.contains j }) }
/-- An acknowledgement of a write packet (R474, R476); the address of a failed packet is not kept, so the ring's base stands for it. -/
def State.writeAck (s : State) (tag : Nat) (bad : Bool) : State :=
  match AMap.get? s.host.writes tag with
  | none => s
  | some j =>
    let s := { s with host := { s.host with writes := AMap.erase s.host.writes tag, packets := AMap.erase s.host.packets tag } }
    match AMap.get? s.host.jobs j with
    | none => (pumpAll s).nextRead
    | some w =>
      if bad then
        let s := ({ s with host := { s.host with jobs := AMap.erase s.host.jobs j } } : State).cutJobs j
        (pumpAll (s.jobFailed w (Config.unlistedCause 8)).jobsGo).nextRead
      else
        let w := { w with unacked := w.unacked - 1 }
        (pumpAll ({ s with host := { s.host with jobs := AMap.set s.host.jobs j w } } : State).jobsGo).nextRead
def execHostWriteAck (tag : BitVec 8) (bad : Bool) (s : State) : Host.Outcome State Fault Refusal := .next (s.writeAck tag.toNat bad)

/-! Mask credit and interrupt messages. -/

/-- The sampler returns credit (R484). -/
def execMaskCreditReturn (n : BitVec 8) (s : State) : Host.Outcome State Fault Refusal :=
  .next { s with port := { s.port with credit := s.port.credit + n.toNat } }

/-- Beats between messages on a vector: the largest holdoff of its rings (R108). -/
def holdoffOf (s : State) (v : Nat) : Nat :=
  maxBy (fun (x : Nat × Ring) => match x.2.entry with | some e => if e.vector = v then e.holdoff else 0 | none => 0) s.rings
/-- A message on a vector: one covers all that is pending there (R108, R480). -/
def State.irqSend (s : State) (v : Nat) : State :=
  let hi := AMap.getD s.regs.vecHi v 0#32
  let ready := match AMap.get? s.host.irqLast v with | some b => beatLe (beatAdd b (holdoffOf s v)) s.beat | none => true
  if !s.host.irqPend.contains v || !bit hi 31 || !ready then s
  else
    let a := (AMap.getD s.regs.vecLo v 0#32).toNat + fld hi 24 0 * 2 ^ 32
    let s := { s with host := { s.host with irqPend := s.host.irqPend.filter (fun x => x != v), irqLast := AMap.set s.host.irqLast v s.beat } }
    s.write' (.irqMsg v) (s.hpAttr 16) [(a, natToBytes 4 (AMap.getD s.regs.vecData v 0#32).toNat)] none
def execIrqMessage (v : BitVec 6) (s : State) : Host.Outcome State Fault Refusal := .next (s.irqSend v.toNat)

end Sys2Proof.Machine
end

