-- ==== Sys2Proof/Machine/Expert.lean ====
section
/-! DEFINITION. The EXPERT command (R80, R103, R114, R115, R235, R245, R373, Table 3-10). -/

namespace Sys2Proof.Machine

/-- The setting a query reports: function 0 an image's ridges, 1 a class's amounts, 2 a bank's width, 3 the bounds. Table 3-10 gives action 0 no
operands; that word 3 names the image slot, the class or the bank as it does for action 1 is the model's choice (DESIGN CHOICE, log 65). -/
def expertSetting (s : State) (d : Desc) : List Nat :=
  match d.fnAct.1 with
  | 0 => match s.img? (dfld d 3 7 0) with | some i => (i.pinned.getD [] ) | none => []
  | 1 => AMap.getD s.gov.reserved (dfld d 3 3 0) []
  | 2 => [(s.bank (dfld d 3 4 0)).width]
  | _ => s.gov.bounds.flatMap fun x => [x.2.1, x.2.2]
/-- Action 0: the results carry the current setting in a form the manual does not give. -/
def expertQueryBody (d : Desc) (s : State) (c : Cmd) : State :=
  if 4 ≤ d.fnAct.1 then s.finish c { status := stBadDesc }
  else
    let r := Config.expertReport (d.fnAct.1 :: expertSetting s d)
    s.finish c { status := stOK, resA := r.1 % 2 ^ 32, resB := r.2 % 2 ^ 64 }
def execExpertQuery (d : Desc) (s : State) : Host.Outcome State Fault Refusal :=
  .next (runDesc s d (d.opcode == 0x48 && d.fnAct.2 == 0) (expertQueryBody d))

/-- An image taken from its place on the die. -/
def State.unplace (s : State) (slot : Nat) (i : Img) : State :=
  (s.dropPlaced i).setImg slot fun x => { x with cells := [], ridges := [], placed := [] }
/-- Function 0, action 1: a loaded, inactive image placed only on the given ridges. -/
def pinBody (d : Desc) (s : State) (c : Cmd) : State :=
  let slot := dfld d 3 7 0
  let ridges := (List.range 16).filter fun r => dbit d 3 (16 + r)
  match s.img? slot with
  | none => s.finish c { status := stState }
  | some i =>
    if i.status ≠ 0 then s.finish c { status := stState }
    else if ridges.any fun r => s.ridges ≤ r then s.finish c { status := stBadDesc }
    else if ridges.isEmpty || !(baseRidges s i.body).all ridges.contains then s.finish c { status := stCapacity }
    else
      match placeBody { s.unplace slot i with images := AMap.erase s.images slot } i.body ridges with
      | none => s.finish c { status := stCapacity }
      | some ((cells, rs, placed), t) =>
        let x : Img := { i with cells := cells, ridges := rs, placed := placed, pinned := some ridges, badTiles := [] }
        ({ t with images := AMap.set t.images slot x } : State).finish c { status := stOK }
def execExpertPinImage (d : Desc) (s : State) : Host.Outcome State Fault Refusal :=
  .next (runDesc s d (d.opcode == 0x48 && d.fnAct == (0, 1)) (pinBody d))

/-- Function 1, action 1: slots of a class counted against admission from now on (R80). -/
def reserveBody (d : Desc) (s : State) (c : Cmd) : State :=
  let t := { s with gov := { s.gov with reserved := AMap.set s.gov.reserved (dfld d 3 3 0) (Config.reserveAmounts d.w4 d.w5) } }
  if t.fitsItems t.adms && t.fitsStack t.adms then t.finish c { status := stOK } else s.finish c { status := stCapacity }
def execExpertReserveSlots (d : Desc) (s : State) : Host.Outcome State Fault Refusal :=
  .next (runDesc s d (d.opcode == 0x48 && d.fnAct == (1, 1)) (reserveBody d))
/-- Function 1, action 2: the class's reservation goes at the next boundary. -/
def releaseSlotsBody (d : Desc) (s : State) (c : Cmd) : State := (s.finish c { status := stOK }).at s.nextB (.releaseClass (dfld d 3 3 0))
def execExpertReleaseSlots (d : Desc) (s : State) : Host.Outcome State Fault Refusal :=
  .next (runDesc s d (d.opcode == 0x48 && d.fnAct == (1, 2)) (releaseSlotsBody d))
/-- Function 2, action 1: a bank's width, when every entry of it is invalid (R235). -/
def bankWidthBody (d : Desc) (s : State) (c : Cmd) : State :=
  let b := bankSoon s (dfld d 3 4 0)
  if !bankAllInvalid b || b.shift.isSome then s.finish c { status := stState }
  else (s.finish c { status := stOK }).at s.nextB (.bankWidth (dfld d 3 4 0) (2 ^ dfld d 3 9 8))
def execExpertSetBankWidth (d : Desc) (s : State) : Host.Outcome State Fault Refusal :=
  .next (runDesc s d (d.opcode == 0x48 && d.fnAct == (2, 1)) (bankWidthBody d))
/-- Function 3, action 1: floors and ceilings of the allowance, applied from the next period on (R373). -/
def govBoundBody (d : Desc) (s : State) (c : Cmd) : State :=
  let bs := (Config.govBounds d.w3 d.w4).take 5
  let m : AMap (Nat × Nat) := (List.range bs.length).zip bs
  ({ s with gov := { s.gov with bounds := m } } : State).finish c { status := stOK }
def execExpertGovBound (d : Desc) (s : State) : Host.Outcome State Fault Refusal :=
  .next (runDesc s d (d.opcode == 0x48 && d.fnAct == (3, 1)) (govBoundBody d))

end Sys2Proof.Machine
end

