-- ==== Sys2Proof/Machine/Governor.lean ====
section
/-! DEFINITION. The governor's period, refills, ledger snapshots and droop events (R77, R81, R347, R353, R356, R364 to R374, R381, R462,
R487). -/

namespace Sys2Proof.Machine

/-! Inputs of a beat. -/

/-- A ten-bit reading in quarter degrees (Table 12-3). -/
def degOf (b : BitVec 10) : Int := b.toInt
/-- A reading beyond every valid one stands for a sensor that read out of range in the period. -/
def degBad : Int := 512
/-- A reading at T3_ON + 10 degrees or more: the fault and the interrupt, and a log record where it is the sensor's first of the period (R369). -/
def State.overTemp (s : State) (sensor : Nat) (v : Int) : State :=
  if v < ((4 * fld s.regs.govTherm 23 16 : Nat) : Int) + 40 then s
  else
    let s' := (s.fault 2).raise 1
    if ((4 * fld s.regs.govTherm 23 16 : Nat) : Int) + 40 ≤ AMap.getD s.gov.peaks sensor (-512) && AMap.getD s.gov.peaks sensor (-512) ≠ degBad then s'
    else s'.log 0x0021 2 39 (w64 [(sensor, 0)]) (w64 [((BitVec.ofInt 10 v).toNat, 0)]) 0#64
/-- Valid readings of a beat that are too hot. -/
def State.overTemps (s : State) (x : BeatIn) : State :=
  (x.temps.filter fun t => t.ok && t.sensor < s.sensors && !s.gov.sensorsBad.contains t.sensor).foldl (fun s t => s.overTemp t.sensor (degOf t.deg)) s
/-- The sensors' and the rail's readings of one beat (R366, R367, R369, R487). -/
def State.sampleInputs (s : State) (x : BeatIn) : State :=
  let s := s.overTemps x
  let peaks := x.temps.foldl (fun (m : AMap Int) t =>
    if s.sensors ≤ t.sensor then m
    else
      let v := if t.ok then degOf t.deg else degBad
      AMap.set m t.sensor (max v (AMap.getD m t.sensor v))) s.gov.peaks
  let mv := x.railMv.toNat
  let out := !x.railValid || mv < 40000 || 60000 < mv
  { s with gov := { s.gov with
      peaks := peaks, railSum := s.gov.railSum + mv * x.railCa.toNat, railBeats := s.gov.railBeats + 1, railOut := s.gov.railOut || out,
      railLast := if out then (mv, x.railCa.toNat) else s.gov.railLast } }

/-! Thermal level (R367 to R369). -/

/-- A sensor's largest reading of the period and whether it is valid; a sensor not read keeps its value and is not valid. -/
def periodTemp (s : State) (n : Nat) : Int × Bool :=
  match AMap.get? s.gov.peaks n with
  | some v => (if v = degBad then 0 else v, v != degBad && !s.gov.sensorsBad.contains n)
  | none => ((BitVec.ofNat 10 (AMap.getD s.gov.temps n (0, false)).1).toInt, false)
/-- A threshold of GOV_THERM in quarter degrees; level 0 has none. -/
def thermOn (s : State) (level : Nat) : Int := ((4 * fld s.regs.govTherm (8 * level - 1) (8 * level - 8) : Nat) : Int)
/-- The hottest reading: a sensor that is not valid counts as T3_ON (R368). -/
def hottest (s : State) (ts : List (Int × Bool)) : Int :=
  ts.foldl (fun m t => max m (if t.2 then t.1 else thermOn s 3)) (-512)
/-- The level a reading asks for. -/
def levelFor (s : State) (h : Int) : Nat := if thermOn s 3 ≤ h then 3 else if thermOn s 2 ≤ h then 2 else if thermOn s 1 ≤ h then 1 else 0
/-- The next level: up at once, down by one with hysteresis, T3 on bad rail readings; before the first beat no reading counts (R368,
R371). -/
def nextLevel (s : State) (ts : List (Int × Bool)) (throttle : Nat) : Nat :=
  let h := if s.gov.periodSeen || s.beat ≠ 0 then hottest s ts else -512
  let want := max (max (levelFor s h) throttle) (if 16 ≤ s.gov.droops then min 3 (s.gov.level + 1) else 0)
  if s.gov.railOut then 3
  else if s.gov.level ≤ want then want
  else if h ≤ thermOn s s.gov.level - ((4 * fld s.regs.govTherm 27 24 : Nat) : Int) then s.gov.level - 1
  else s.gov.level

/-! Power and allowance (R371 to R373). -/

/-- Average rail power of the period in mW. -/
def railPower (s : State) : Nat := s.gov.railSum / (100 * max 1 s.gov.railBeats)
/-- The power target, and whether the module cap set it (R371). -/
def powerTarget (s : State) (budget est : Nat) : Nat × Bool :=
  let cap := fld s.regs.govCtl 31 16 * 1000
  let base := min budget (10 * fld s.regs.govCtl 15 0)
  let p := railPower s
  if cap = 0 || s.gov.railOut || p ≤ cap then (base, false)
  else
    let m := est - (p - cap)
    if m < base then (m, true) else (base, false)
/-- n of the power factor n / 64 (R372). -/
def powerFactor (s : State) (target : Nat) : Nat :=
  if target ≤ s.gov.idleMw then 0 else if s.gov.dynMw = 0 then 64 else min 64 (64 * (target - s.gov.idleMw) / s.gov.dynMw)
/-- Ceilings of Table 12-5 in item order; stack operations over the enabled channels. -/
def allowCeil (s : State) (i : Nat) : Nat :=
  match i with
  | 0 => 184 * 64 * s.cells
  | 1 => 184 * s.cells
  | 2 => 235
  | 3 => 219 * enabledChans s
  | _ => 30080
/-- The level fraction in quarters, of the items that have one. -/
def levelQuarters (i level : Nat) : Nat := if i < 3 then 4 - min 3 level else 4
/-- A ceiling scaled by the smaller of f and the level fraction, rounded down. -/
def scaled (ceiling f i level : Nat) : Nat := ceiling * min f (16 * levelQuarters i level) / 64
/-- An item under its expert bound; a floor above what the power budget permits is capped and logged (Table 3-10). -/
def State.boundItem (s : State) (f level i : Nat) : Nat × State :=
  let v := scaled (allowCeil s i) f i level
  match AMap.get? s.gov.bounds i with
  | none => (v, s)
  | some (lo, hi) =>
    let cap := allowCeil s i * f / 64
    let s := if cap < lo then s.log 0x0023 1 39 (w64 [(i, 0)]) (w64 [(lo, 0)]) (w64 [(cap, 0)]) else s
    (min hi (max v (min lo cap)), s)
/-- The allowance of the coming period; a bound on stack operations scales both windows (R373). -/
def State.setAllowance (s : State) (f level : Nat) : State :=
  let (lane, s) := s.boundItem f level 0
  let (walk, s) := s.boundItem f level 1
  let (assoc, s) := s.boundItem f level 2
  let (stk, s) := s.boundItem f level 3
  let (host, s) := s.boundItem f level 4
  let a := scaled 184 f 3 level
  let b := scaled 35 f 3 level
  let plain := scaled (allowCeil s 3) f 3 level
  let win (x top : Nat) : Nat := if !AMap.has s.gov.bounds 3 || plain = 0 then x else min top (x * stk / plain)
  { s with gov := { s.gov with lane := lane, walk := walk, assoc := assoc, stFirst := win a 184, stDep := win b 35, host := host } }

/-! Steps (R356, R374). -/

/-- The admitted demand of all classes exceeds a plannable allowance item: lanes, walkers, searches, either stack window, or host bytes (R374). -/
def demandOver (s : State) : Bool :=
  let c := s.liveChans.length
  !(s.fitsAllowance s.adms && reqDemand s s.adms ≤ c * plannable s.gov.stFirst && depDemand s.adms ≤ c * plannable s.gov.stDep)
/-- One step at a period boundary, or one undone (Table 11-9). -/
def State.govStep (s : State) : State :=
  let g := s.gov
  if demandOver s then
    if g.steps < 4 then
      ({ s with gov := { g with steps := g.steps + 1, burst := if g.steps + 1 = 3 then max 1 g.burst else g.burst } } : State).count 75 1
    else if g.burst < 4 then ({ s with gov := { g with burst := g.burst + 1 } } : State).count 75 1
    else s
  else if g.steps = 4 then { s with gov := { g with steps := 3 } }
  else if g.steps = 3 then { s with gov := { g with burst := g.burst - 1, steps := if g.burst ≤ 1 then 2 else 3 } }
  else { s with gov := { g with steps := g.steps - 1 } }

/-! The period boundary. -/

/-- The period boundary that is due: beat 0's after the start, else the coming one. -/
def periodB (s : State) : Nat := if s.beat = 0 && !s.gov.periodSeen then 0 else s.nextB
def periodDue (s : State) : Bool := periodB s % 1024 = 0 && (!s.gov.periodSeen || s.gov.donePeriod ≠ periodB s)
/-- Readings presented on the power and thermal port (R367, R487). -/
def State.presentTemps (s : State) (ts : List (Int × Bool)) : State :=
  ((List.range ts.length).zip ts).foldl (fun s x => s.emit (.therm x.1 (BitVec.ofInt 10 x.2.1).toNat x.2.2)) s
/-- Bad rail readings are logged. -/
def State.railLog (s : State) : State :=
  if s.gov.railOut then s.log 0x0022 1 39 (w64 [(s.gov.railLast.1, 0)]) (w64 [(s.gov.railLast.2, 0)]) 0#64 else s
/-- A governor period boundary: the settings of the new period apply, then queues are examined for hangs (R365, R462). -/
def State.periodNow (s : State) (x : GovIn) : State :=
  let b := periodB s
  let ts := (List.range s.sensors).map (periodTemp s)
  let level := nextLevel s ts x.throttle.toNat
  let (target, lim) := powerTarget s x.budgetMw.toNat x.estMw
  let f := powerFactor s target
  let p := railPower s
  let s := s.railLog
  let s := if s.gov.level = level then s else s.count 77 1
  let s := { s with gov := { s.gov with
      level := level, factor := f, levelReq := x.throttle.toNat, railBad := s.gov.railOut, moduleLimit := lim,
      est := min 65535 (x.estMw / 10), rail := min 65535 (p / 1000), sampled := (x.budgetMw.toNat, x.throttle.toNat, x.estMw)
      temps := ((List.range ts.length).zip ts).foldl (fun (m : AMap (Nat × Bool)) (y : Nat × (Int × Bool)) => AMap.set m y.1 ((BitVec.ofInt 10 y.2.1).toNat, y.2.2)) s.gov.temps
      droops := 0, peaks := [], railSum := 0, railBeats := 0, railOut := false, periodSeen := true, donePeriod := b, burstWas := s.gov.burst } }
  let s := (s.setAllowance f level).govStep
  let s := (s.presentTemps ts).emit (.power s.gov.est level)
  let s := s.ev 39 0x0E 0 [(level, 0), (f, 2), (s.gov.steps, 9)]
  let s : State := { s with port := { s.port with stallLogged := false } }
  if s.start.halted then s else s.examineQueues
def execGovernorPeriod (x : GovIn) (s : State) : Host.Outcome State Fault Refusal :=
  .next (if s.complete && !s.clk.stopped && periodDue s && (s.atEnd || periodB s = 0 && s.beat = 0) then s.periodNow x else s)
/-- A droop detector's report (R366). -/
def execDroopEvent (_ridge : BitVec 4) (s : State) : Host.Outcome State Fault Refusal :=
  .next (if s.complete && !s.clk.stopped then ({ s with gov := { s.gov with droops := s.gov.droops + 1 } } : State).count 76 1 else s)

/-! Refills and snapshots. -/

def refillDue (s : State) : Bool := s.nextB % 4000 = 0 && s.gov.refillDone ≠ s.nextB
/-- The burst scale of this refill: one set at the same boundary waits for the next (R364). -/
def scaleNow (s : State) : Nat := if s.gov.periodSeen && s.gov.donePeriod = s.nextB then s.gov.burstWas else s.gov.burst
/-- Every enabled tenant's refill; in a range the anchor refills its own counts with its grants (R347, R360). -/
def State.refillNow (s : State) : State :=
  let k := scaleNow s
  let s := { s with gov := { s.gov with refillDone := s.nextB } }
  if s.range.joined then s else { s with tenants := s.tenants.map fun (x : Nat × Tenant) => (x.1, x.2.refill k) }
def execRefillBoundary (s : State) : Host.Outcome State Fault Refusal :=
  .next (if s.complete && !s.clk.stopped && s.atEnd && refillDue s then s.refillNow else s)

def snapDue (s : State) : Bool := !s.start.halted && s.nextB % 4000000 = 0 && s.gov.snapDone ≠ s.nextB
/-- A tenant's row of a snapshot; the anchor's row holds the anchor's counts. -/
def snapOf (s : State) (t : Nat) (x : Tenant) : SnapRow :=
  let (k, e, u) : Int × Nat × Nat := if s.range.joined && s.range.role = 0 then s.anchorOf t else (x.k, x.x, x.u)
  ⟨t, x.c, x.b, x.e, k, e, u, x.enabled⟩
/-- The store has room for another snapshot (R443). -/
def snapRoom (s : State) : Bool := liveRows s + (if s.persist.snaps.isEmpty then 2050 else 0) ≤ storeRows s
/-- The ledger snapshot of its boundary (R353). -/
def State.snapWrite (s : State) : State :=
  let q := s.persist.entrySeq
  let n : Snap := ⟨s.nextB, s.nextTime, s.tenants.map fun (x : Nat × Tenant) => snapOf s x.1 x.2, q, 64, 0, false⟩
  let s := { s with
    gov := { s.gov with snapDone := s.nextB }
    persist := { s.persist with entrySeq := q + 1, snaps := s.persist.snaps ++ [n] } }
  s.placeRows 4 q (snapRows n)
/-- The snapshot due, after the refill of its boundary; one that finds no room is skipped and its floor missed (R353, R443). -/
def State.snapNow (s : State) : State :=
  let s := if refillDue s then s.refillNow else s
  if snapRoom s then s.snapWrite else ({ s with gov := { s.gov with snapDone := s.nextB } } : State).floorMiss 7
def execLedgerSnapshot (s : State) : Host.Outcome State Fault Refusal :=
  .next (if s.complete && !s.clk.stopped && s.atEnd && snapDue s then s.snapNow else s)

end Sys2Proof.Machine
end

