-- ==== Sys2Proof/Machine/Integrity.lean ====
section
/-! DEFINITION. Integrity: what a failed check does to the work of a compute phase, re-reads, reloads and repairs, the mirror of the stream
records, and management-core traps (R51, R53, R74, R77, R257 to R259, R282, R287, R395 to R411, R521). -/

namespace Sys2Proof.Machine

/-! Counts. -/

/-- Single-bit errors: the data is corrected, the event counted, and the word queued for the sweep to rewrite (R405). -/
def State.corrected (s : State) (words : List Nat) : State :=
  { s with integ := { s.integ with
      eccCorr := min 65535 (s.integ.eccCorr + words.length), rewrites := s.integ.rewrites ++ words } }.count 80 words.length
/-- The sweep rewrites some of the words queued, a free number of them (R405, log 38). -/
def State.sweepWords (s : State) : State :=
  if s.integ.rewrites.isEmpty then s
  else
    let (k, s) := s.pick (s.integ.rewrites.length + 1)
    { s with integ := { s.integ with rewrites := s.integ.rewrites.drop k } }
/-- A read classed as torn (Table 13-3). -/
def State.tornCount (s : State) : State :=
  { s with integ := { s.integ with eccTorn := min 255 (s.integ.eccTorn + 1) } }.count 82 1
/-- A reload under way is counted and logged with its tile, image and class (R403, R410). -/
def State.reloadLog (s : State) (key imageId cls : Nat) : State :=
  (s.count 84 1).log 0x0030 1 51 (w64 [(key, 0)]) (w64 [(imageId, 0)]) (w64 [(Config.unlistedCause cls, 0)])

/-! Tiles (R394, R395, R402, R403). -/

/-- A tile an image has in place: on a cell, or in a ridge's memory. -/
def hasTile (i : Img) (key : Nat) : Bool := AMap.has i.cells key || (i.cells.isEmpty && decide (key < i.bytes.length / 4096))
/-- A static tile that failed at its use; later failures of the same tile join the first. -/
def State.tileBad (s : State) (slot key cls : Nat) : State :=
  match s.img? slot with
  | some i =>
    if !hasTile i key || i.badTiles.contains key then s
    else (s.setImg slot fun x => { x with badTiles := x.badTiles ++ [key] }).reloadLog key i.hdr.imageId cls
  | none => s
/-- Another placement of the same tile on the die that is current: in place, good, on a cell in rotation. -/
def otherPlace (s : State) (i : Img) (key : Nat) : Bool :=
  i.cells.any fun x => x.1 != key && keyTile x.1 == keyTile key && !i.badTiles.contains x.1 && !s.integ.cellsOut.contains x.2
/-- A stale copy of a static tile: the right one is taken from its placement on the die where one is current, at the next boundary, else it is
reloaded from the master (Table 13-3). -/
def State.tileStale (s : State) (slot key : Nat) : State :=
  let s' := (s.count 83 1).tileBad slot key 11
  match s.img? slot with
  | some i => if hasTile i key && !i.badTiles.contains key && otherPlace s i key then s'.at s.nextB (.tileGood slot key) else s'
  | none => s'
/-- What a use of a static tile finds (R394, R395). -/
def State.tileUse (s : State) (slot key : Nat) (u : UseRead) : State :=
  match s.img? slot with
  | none => s
  | some i =>
    match staticClass i.hdr.imageId i.hdr.gen (keyTile key) u with
    | .good => s
    | .stale => s.tileStale slot key
    | _ => s.tileBad slot key 10
/-- A read of some purpose is under way, or its copy is to be put in place. -/
def coming (s : State) (p : Purp → Bool) (e : Eff) : Bool := outFor s p || s.sched.any fun x => x.eff == e
/-- A cell in rotation has room for a tile. -/
def roomAnywhere (s : State) : Bool := (List.range s.cells).any fun c => 0 < cellRoom s c
/-- The recovery window takes one more transfer on the channel that a read of the tile at an offset takes. -/
def recovRoom (s : State) (off : Nat) : Bool := canIssue s .recov .pingBg 1 off 1 65
/-- The read of one unusable tile: in the recovery reserve, for one that has lost its cell in background capacity too (R287, R402). -/
def State.askTile (s : State) (slot key : Nat) : State :=
  match s.img? slot with
  | none => s
  | some i =>
    let gone := ((AMap.get? i.cells key).map s.integ.cellsOut.contains).getD false
    let busy := coming s (fun p => p == .reload slot key || p == .repair slot key) (.tileGood slot key)
    if busy || s.stack.repairs.contains (slot, key) || (gone && (i.masterLost || !roomAnywhere s)) then s
    else if i.masterLost then (s.failWaiters slot key).askRepair slot key
    else if !recovRoom s (tileOff s slot (keyTile key)) && (!gone || !bgRoom s 1 1 (tileOff s slot (keyTile key))) then s
    else
      (s.issue (if recovRoom s (tileOff s slot (keyTile key)) then .recov else .back) 1 (if gone then .repair slot key else .reload slot key)
        [w64 [(tileOff s slot (keyTile key), 0)]] [] 65).2
/-- Image slot and tiles that hold a mask's master: the dictionary's own, or the one a grammar was compiled against (R183, R521). -/
def maskHome (s : State) (slot mask : Nat) : Option (Nat × List Nat) :=
  match s.img? slot with
  | none => none
  | some i =>
    match i.dict?, i.grammar? with
    | some d, _ => some (slot, d.tiles mask)
    | none, some g => (s.dictOf g).map fun x => (x.1, x.2.2.tiles mask)
    | none, none => none
/-- The reads of one failed pinned mask's master, one TILE_READ for each tile that holds it (R521). -/
def State.askPin (s : State) (slot mask : Nat) : State :=
  match maskHome s slot mask, (s.img? slot).map fun i => AMap.getD i.badMasks mask [] with
  | some (home, _), some ts =>
    ts.foldl (fun s t =>
      if outFor s (fun p => p == .pinReload slot mask home t) || s.stack.repairs.contains (home, t) || !recovRoom s (tileOff s home t) then s
      else if ((s.img? home).map (·.masterLost)).getD true then s.askRepair home t
      else (s.issue .recov 1 (.pinReload slot mask home t) [w64 [(tileOff s home t, 0)]] [] 65).2) s
  | _, _ => s
/-- The read of a failed allow list from its copy in the stack window (R197, R521). -/
def State.askAllow (s : State) (st : Stream) : State :=
  match st.allowSlot with
  | some k =>
    if coming s (fun p => p == .allowReload st.handle) (.allowGood st.handle) || !recovRoom s (allowOff s k) then s
    else (s.issue .recov 1 (.allowReload st.handle) [w64 [(allowOff s k, 0)]] [] 65).2
  | none => s
/-- The read of the master of an invalidated entry (R259). -/
def State.askEntry (s : State) (bank : Nat) (e : BEntry) : State :=
  if coming s (fun p => p == .entryReload bank e.unit) (.entryGood bank e.unit) then s
  else
    match setOwner s bank e.rec_.set with
    | some (slot, i) =>
      let t := match i.set? with | some p => recordOff p e.place / 4096 | none => 0
      if i.masterLost || s.stack.repairs.contains (slot, t) || !recovRoom s (tileOff s slot t) then s
      else
      (s.issue .recov 1 (.entryReload bank e.unit) [w64 [(tileOff s slot t, 0)]] [] 65).2
    | none => s
/-- The read of a stream record's mirror tile; later failures of records of the tile join it (R400, R402, Table 13-6). -/
def State.askStream (s : State) (h : Nat) : State :=
  if coming s (fun p => p == .streamReload (hIndex h / 8)) (.streamGood h) || !recovRoom s ((s.region 2).1 + hIndex h / 8 * 4160) then s
  else (s.issue .recov 1 (.streamReload (hIndex h / 8)) [w64 [((s.region 2).1 + hIndex h / 8 * 4160, 0)]] [] 65).2
/-- The open chunk of a stream waits for the stream's record. -/
def partWaits (st : Stream) : Bool := st.parts.any fun q => q.2.waits.contains (256, st.handle)
/-- Reads of everything that waits for a good copy and is not under way (R77, R402, R404). -/
def State.pumpReloads (s : State) : State :=
  let tiles := s.images.flatMap fun (x : Nat × Img) => x.2.badTiles.map fun t => (x.1, t)
  let s := tiles.foldl (fun s t => s.askTile t.1 t.2) s
  let pins := s.images.flatMap fun (x : Nat × Img) => x.2.badMasks.map fun m => (x.1, m.1)
  let s := pins.foldl (fun s p => s.askPin p.1 p.2) s
  let s := (s.openStreams.filter (·.allowBad)).foldl State.askAllow s
  let es := s.banks.flatMap fun (x : Nat × Bank) => (x.2.entries.filter fun e => e.shadowBad && !e.valid).map fun e => (x.1, e)
  let s := es.foldl (fun s e => s.askEntry e.1 e.2) s
  let hs := (s.recs.filter fun r => r.waitTile.contains (256, r.h)).map (·.h) ++ (s.openStreams.filter partWaits).map (·.handle)
  hs.eraseDups.foldl State.askStream s

/-- The cell a tile whose cell has left rotation is placed on: a free choice among those with room (R287). -/
def State.rehome (s : State) (slot key : Nat) : Option State :=
  match s.img? slot with
  | none => none
  | some i =>
    if !((AMap.get? i.cells key).map s.integ.cellsOut.contains).getD false then some s
    else
      let cs := (List.range s.cells).filter fun c => 0 < cellRoom s c
      if cs.isEmpty then none
      else
        let (k, s) := s.pick cs.length
        some (s.setImg slot fun x => { x with cells := AMap.set x.cells key (cs.getD k 0) })
/-- A good tile is put in place at its boundary; the work that waits for it can be repeated (R402). -/
def State.tileNow (s : State) (slot key : Nat) : State :=
  match s.rehome slot key with
  | none => s
  | some s =>
    let s := s.setImg slot fun x => { x with badTiles := x.badTiles.filter fun t => t != key }
    let s := { s with stack := { s.stack with repairs := s.stack.repairs.filter fun x => x != (slot, key) } }
    let s := { s with recs := s.recs.map fun (r : Rec) => { r with waitTile := r.waitTile.filter fun t => t != (slot, key) } }
    { s with images := s.images.map fun (x : Nat × Img) =>
        if (x.2.badMasks.any fun m => (maskHome s x.1 m.1).any fun y => y.1 == slot) then
          (x.1, { x.2 with badMasks := (x.2.badMasks.map fun m => (m.1, m.2.filter fun t => t != key)).filter fun m => !m.2.isEmpty })
        else x }
/-- A reloaded stream record, pinned mask or entry is put in place. -/
def State.streamNow (s : State) (h : Nat) : State :=
  ({ s with recs := s.recs.map fun (r : Rec) => { r with waitTile := r.waitTile.filter fun t => t != (256, h) } } : State).setStream h fun x =>
    { x with parts := x.parts.map fun (q : Nat × OpenChunk) => (q.1, { q.2 with waits := q.2.waits.filter fun t => t != (256, h) }) }
def State.pinNow (s : State) (slot mask : Nat) : State :=
  s.setImg slot fun x => { x with badMasks := x.badMasks.filter fun m => m.1 != mask || !m.2.isEmpty }
/-- A reloaded allow list is written to its mask-cache tile (R393, R521). -/
def State.allowNow (s : State) (h : Nat) : State :=
  let s := s.setStream h fun x => { x with allowBad := false }
  match s.tileOf (.allowList h) with
  | some (_, t) => s.dynWrite (.allowList h) t.payload
  | none => s
def State.entryNow (s : State) (bank unit : Nat) : State :=
  s.setBank bank fun b => { b with entries := b.entries.map fun e =>
    if e.unit = unit && e.shadowBad && !e.valid then { e.rewritten with valid := true, shadowBad := false } else e }
/-- The boundary after a reload is due (R402). -/
def execTileReloadInstall (slot : BitVec 8) (tile : Nat) (s : State) : Host.Outcome State Fault Refusal :=
  .next (match s.takeEff fun e => e == .tileGood slot.toNat tile with
    | some (_, s) => s.tileNow slot.toNat tile
    | none => s)

/-! Stream records and node states (R396 to R401). -/

/-- A chunk whose last tokens, or the work of its own beat, read the stream's state now (R151, R170). -/
def chunkNow (s : State) (r : Rec) : Bool :=
  !r.sealed && r.waitTile.isEmpty && !r.torn && ((r.arriveBeat == s.beat && r.stamp.isNone) || r.stamp == some s.beat)
/-- Records of a stream whose screening state is being read now. -/
def readsNow (s : State) (h : Nat) (r : Rec) : Bool :=
  r.h == h && if r.kind = .chunk then chunkNow s r else runsNow s r && !recBlocked s r
/-- An open chunk some of whose tokens were searched in this beat. -/
def OpenChunk.readAt (q : OpenChunk) (beat : Nat) : Bool := q.at_ == beat && q.waits.isEmpty
def partsNow (s : State) (h : Nat) : Bool :=
  (s.stream? h).any fun st => st.phase == .inputOpen && st.parts.any fun q => q.2.readAt s.beat
/-- The stream's record is being read now: by a record, or for tokens of its open chunk (R51). -/
def stateRead (s : State) (h : Nat) : Bool := s.recs.any (readsNow s h) || partsNow s h
/-- A corrupt stream record: its records wait for the mirror's copy where that is the expected generation, else it is lost (R400). -/
def State.streamBad (s : State) (h : Nat) : State :=
  match s.stream? h with
  | none => s
  | some st =>
    let s := s.setStream h fun x => { x with tornRun := 0 }
    if st.mirrorGen ≠ st.gen then s.streamLost h
    else
      let s := s.reloadLog (hIndex h / 8) 0 10
      let wait (q : OpenChunk) : OpenChunk :=
        if q.torn || q.readAt s.beat then { q with torn := false, waits := [(256, h)], flags := setFlag q.flags fRecExt } else q
      let t : State := { s with recs := s.recs.map fun (r : Rec) =>
          if r.h = h && (r.torn || readsNow s h r) then
            { r with torn := false, waitTile := (r.waitTile ++ [(256, h)]).eraseDups, flags := setFlag r.flags fRecExt, ext := true,
                     screened := r.screened && r.kind != .chunk }
          else r }
      t.setStream h fun x => { x with parts := x.parts.map fun (q : Nat × OpenChunk) => (q.1, wait q.2) }
/-- A torn read of a stream record; in four beats in a row while no write-back is planned it is taken as corrupt (R396). -/
def State.tornRead (s : State) (h : Nat) : State :=
  match s.stream? h with
  | none => s
  | some st =>
    let n := if beatAdd st.tornAt 1 = s.beat then st.tornRun + 1 else 1
    let s := s.tornCount.setStream h fun x => { x with tornRun := n, tornAt := s.beat }
    let s := s.setStream h fun x => { x with parts := x.parts.map fun (q : Nat × OpenChunk) =>
      (q.1, if q.2.readAt s.beat then { q.2 with torn := true, flags := setFlag q.2.flags fTornRetry } else q.2) }
    let s := { s with recs := s.recs.map fun (r : Rec) =>
      if (readsNow s h r) then { r with torn := true, tornAt := s.beat, flags := setFlag r.flags fTornRetry, ext := true, screened := r.screened && r.kind != .chunk }
      else r }
    if 4 ≤ n && !st.wbOpen then s.streamBad h else s
/-- A feature-staging tile read torn: the records that read it try again in the next beat; after four beats in a row while no write to the tile is
planned it is taken as corrupt (R396, R401). -/
def State.stagingTorn (s : State) (h : Nat) (now : Rec → Bool) : State :=
  let hit (r : Rec) : Bool := r.feats.isSome && r.h == h && now r
  if !(s.recs.any hit) then s
  else
    let s := (s.recs.filter hit).foldl (fun s r => s.tileTorn (.staging r.id)) s.tornCount
    let again (r : Rec) : Rec :=
      if (s.tornOut (.staging r.id)) then { r with tornN := 0, torn := false, results := r.results ++ [vIndet], flags := setFlag r.flags fTornRetry }
      else { r with torn := true, tornN := ((s.tileOf (.staging r.id)).map (·.2.tornRun)).getD 1, tornAt := s.beat, flags := setFlag r.flags fTornRetry, ext := true }
    { s with recs := s.recs.map fun (r : Rec) => if hit r then again r else r }
/-- A corrupt node state: its tentative verdict becomes INDETERMINATE (R401). -/
def State.nodeBad (s : State) (h node : Nat) : State :=
  match (s.stream? h).bind fun st => st.nodes.find? fun x => x.2.num == node with
  | none => s
  | some (id, _) =>
    let s := s.setStream h fun st => { st with nodes := AMap.modify st.nodes id fun n => { n with corrupt := true } }
    let s := s.setRec id fun r => { r with results := r.results ++ [vIndet], verdict := if r.sealed then combine [r.verdict, vIndet] else r.verdict }
    s.log (unlistedLog 5) 1 51 (w64 [(h, 0)]) (w64 [(node, 0)]) 0#64
/-- A record whose work reads a node's state: a child's draft, or the marker whose path holds the node (R212, R217). -/
def nodeReader (st : Stream) (id : Nat) (r : Rec) : Bool :=
  (r.spec && ((AMap.get? st.nodes r.id).bind (·.parent)) == some id) || (r.kind == .marker && r.path.contains id)
/-- A node state read torn or stale: its readers try again in the next beat; after four beats in a row it is taken as corrupt (R396, R398, R401). -/
def State.nodeTorn (s : State) (h node : Nat) (now : Rec → Bool) : State :=
  match s.stream? h with
  | none => s
  | some st =>
    match st.nodes.find? fun x => x.2.num == node && !x.2.corrupt with
    | none => s
    | some (id, nd) =>
      let hit (r : Rec) : Bool := r.h == h && now r && nodeReader st id r
      if !(s.recs.any hit) then s
      else
        let n := if beatAdd nd.tornAt 1 = s.beat then nd.tornRun + 1 else 1
        let last := decide (4 ≤ n) && !nd.wbOpen
        let s := s.tornCount.setStream h fun x => { x with
          nodes := AMap.modify x.nodes id fun y => { y with tornRun := if last then 0 else n, tornAt := s.beat } }
        let s := { s with recs := s.recs.map fun (r : Rec) =>
          if (hit r) then { r with torn := !last, tornAt := s.beat, flags := setFlag r.flags fTornRetry, ext := true } else r }
        if last then s.nodeBad h node else s
/-- A node state read anew: good, or one of the classes of Table 13-3; a stale copy is taken as torn (R398). -/
def State.nodeUse (s : State) (h node : Nat) (u : UseRead) (now : Rec → Bool) : State :=
  match (s.stream? h).bind fun st => st.nodes.find? fun x => x.2.num == node with
  | none => s
  | some x =>
    match recClass x.2.gen u with
    | .good => s
    | .torn => s.nodeTorn h node now
    | .stale => (s.count 83 1).nodeTorn h node now
    | .corrupt => s.nodeBad h node
/-- A stream record read by its records and its open chunk now (R395, R398). -/
def State.streamUse (s : State) (h : Nat) (u : UseRead) : State :=
  match s.stream? h with
  | none => s
  | some st =>
    if !stateRead s h then s
    else
      match recClass st.gen u with
      | .good => s
      | .torn => s.tornRead h
      | .stale => (s.count 83 1).tornRead h
      | .corrupt => s.streamBad h
/-- A save whose record is staged in its work tile. -/
def stagedSave (s : State) (h : Nat) : Option Cmd :=
  s.cmds.find? fun c => match c.k with | .saveC x _ _ 3 _ _ => x == h | _ => false
/-- A corrupt work tile: of cairn staging, the save completes IMAGE_CORRUPT and no commit word is written; of feature staging, its readers are
INDETERMINATE (R401). -/
def State.stagingBad (s : State) (h : Nat) : State :=
  match stagedSave s h with
  | some c => s.abort c stCorrupt
  | none =>
    { s with recs := s.recs.map fun (r : Rec) => if r.feats.isSome && readsNow s h r then { r with results := r.results ++ [vIndet] } else r }
/-- A cairn staging tile read torn is read again in the next beat; after four in a row while no write to it is planned it is corrupt (R395, R396,
R401). -/
def State.saveTorn (s : State) (c : Cmd) : State :=
  let s := s.tornCount.tileTorn (.cairn c.id)
  if s.tornOut (.cairn c.id) then s.abort c stCorrupt else s
/-- A work tile of a stream's staging read now: that of its staged save, else those its records read. -/
def State.stagingUse (s : State) (h : Nat) (u : UseRead) (now : Rec → Bool) : State :=
  match tileClass u with
  | .good => s
  | .torn => match stagedSave s h with | some c => s.saveTorn c | none => s.stagingTorn h now
  | _ => s.stagingBad h
/-- Feature staging is read by the records that run now: a tile that is not good fails its use (R394, R401). -/
def State.checkStaging (s : State) : State :=
  let now (r : Rec) : Bool := r.feats.isSome && runsNow s r && !recBlocked s r
  (s.recs.filter now).foldl (fun s r =>
    match s.useOf (.staging r.id) with
    | .good => s
    | .torn => s.stagingTorn r.h fun x => x.id == r.id
    | _ => s.setRec r.id fun x => { x with results := x.results ++ [vIndet] }) s
/-- A pinned allow list's tile read for a mask: torn, the masks of this beat are replaced and it is read again at the next use; corrupt, or torn in
four beats in a row, it is reloaded (R89, R395, R396, R521). -/
def State.allowRead (s : State) (h : Nat) (u : UseRead) : State :=
  match s.stream? h with
  | none => s
  | some st =>
    let bad (s : State) : State := (s.setStream h fun x => { x with allowBad := true }).reloadLog (st.allowSlot.getD 0) 0 10
    if !st.allowPinned || st.allowBad then s
    else
      match tileClass u with
      | .good => s
      | .torn =>
        let s := (s.tornCount.setStream h fun x => { x with allowTorn := some s.beat }).tileTorn (.allowList h)
        if s.tornOut (.allowList h) then bad s else s
      | _ => bad s

/-- A torn record is read again in a later beat: the read finds it good, torn again, a stale copy, or corrupt (R395, R396, R398). -/
def State.reread (s : State) (h : Nat) (u : UseRead) : State :=
  match s.stream? h with
  | none => s
  | some st =>
    let again (r : Rec) : Bool := r.torn && r.tornAt != s.beat
    let nodes := (st.nodes.filter fun x => decide (0 < x.2.tornRun) && x.2.tornAt != s.beat).map (·.2)
    let staging := s.recs.any fun r => r.h == h && again r && 0 < r.tornN
    let c : UseClass := match nodes with | n :: _ => recClass n.gen u | [] => if staging then tileClass u else recClass st.gen u
    let part := st.parts.any fun q => q.2.torn
    if (st.tornAt == s.beat) || !((s.recs.any fun r => r.h == h && again r) || part) then s
    else
      let clear (s : State) : State :=
        ({ s with recs := s.recs.map fun (r : Rec) => if r.h == h && again r then { r with torn := false, tornN := 0 } else r } : State).setStream h fun x =>
          { x with tornRun := 0, nodes := x.nodes.map fun (y : Nat × Node) => (y.1, { y.2 with tornRun := 0 })
                   parts := x.parts.map fun (q : Nat × OpenChunk) => (q.1, { q.2 with torn := false }) }
      let s := if c = .stale then s.count 83 1 else s
      if c = .good then clear s
      else if !nodes.isEmpty then
        if c = .corrupt then nodes.foldl (fun s n => s.nodeBad h n.num) (clear s) else nodes.foldl (fun s n => s.nodeTorn h n.num again) s
      else if staging then
        if c = .corrupt then
          let hit (r : Rec) : Bool := r.h == h && again r && 0 < r.tornN
          { s with recs := s.recs.map fun (r : Rec) => if hit r then { r with torn := false, tornN := 0, results := r.results ++ [vIndet] } else r }
        else s.stagingTorn h fun r => again r && 0 < r.tornN
      else if c = .corrupt then s.streamBad h
      else s.tornRead h
def execTornTileReread (h : W32) (u : UseRead) (s : State) : Host.Outcome State Fault Refusal :=
  .next (if s.complete && !s.clk.stopped then s.reread h.toNat u else s)

/-- Lane layers of a record behind a stack round run in a beat of their own: the images whose tiles they use in this one (R64, R288, R303). -/
def lateImgs (s : State) (r : Rec) : List (Nat × Img) :=
  if r.sealed || !r.screened || r.kind = .chunk then []
  else slotImgs s ((r.models.filter fun m => lateBeat s r m = s.beat && (m.st == 2 || (m.st == 4 && !m.parts.isEmpty)) && (((s.img? m.img).bind Img.head?).isSome)).flatMap fun m =>
    m.img :: r.pd.toList).eraseDups
def lateCells (s : State) (r : Rec) (cell : Nat) : Bool := (lateImgs s r).any fun x => x.2.cells.any fun y => y.2 == cell
/-- Tiles of those layers that are not usable in that beat: a lost one makes the record INDETERMINATE, another is waited for (R287, R402). -/
def State.lateCheck (s : State) (id : Nat) : State :=
  match s.rec? id with
  | none => s
  | some r =>
    let need := lateImgs s r
    if tilesLost s need then s.setRec id fun x => { x with results := x.results ++ [vIndet] }
    else if (tileWaits need).isEmpty then s else s.waitFor id (tileWaits need)

/-! Events of a compute phase (Table 13-9). -/

/-- The tiles that a stream's chunks are screened with lie in an image: its vocabulary, or an automaton of its policy's input direction. -/
def chunkUses (s : State) (st : Stream) (p : PolicyImg) (slot : Nat) : Bool :=
  st.vocab == slot || p.inDir.autos.any fun id => ((s.activeOf 5 id).map (·.1)) == some slot
/-- An uncorrectable word of a static tile met by the tokens of a chunk makes the chunk INDETERMINATE (R51, Table 13-7). -/
def State.chunkUncorr (s : State) (slot : Nat) : State :=
  let hit (r : Rec) : Bool := r.kind == .chunk && chunkNow s r
    && (s.stream? r.h).any fun st => chunkUses s st ((s.polOf r.polSlot).getD default) slot
  let s' : State := { s with recs := s.recs.map fun (r : Rec) => if hit r then { r with results := r.results ++ [vIndet] } else r }
  (s.openStreams.filter fun st => partsNow s st.handle && chunkUses s st (s.streamPol st) slot).foldl (fun s st => s.setStream st.handle fun x =>
    { x with parts := x.parts.map fun (q : Nat × OpenChunk) =>
        (q.1, if q.2.readAt s.beat then { q.2 with results := q.2.results ++ [vIndet] } else q.2) }) s'
/-- Lane work of a record used a cell in a compute phase: a model on it ran between the record's two states (R282). -/
def ranOn (s : State) (cell : Nat) (a r : Rec) : Bool :=
  r.models.any fun m =>
    ((s.img? m.img).any fun i => i.head?.isSome && i.cells.any fun x => x.2 == cell)
      && ((!a.screened && r.screened) || (m.st != 5 && a.models.any fun y => y.mi == m.mi && y.st == 5))

/-- What an event does before the phase's work runs. -/
def State.evBefore (s : State) (e : IntegEvt) : State :=
  match e with
  | .eccSingle ws => s.corrected ws
  | .streamRead h u => s.streamUse h.toNat u
  | .nodeRead h n u => s.nodeUse h.toNat n u (readsNow s h.toNat)
  | .streamUncorr h => if stateRead s h.toNat then (s.uncorrectable 1).streamBad h.toNat else s
  | .nodeUncorr h n => (s.uncorrectable 1).nodeBad h.toNat n
  | .stagingRead h u => s.stagingUse h.toNat u (readsNow s h.toNat)
  | .allowRead h u => s.allowRead h.toNat u
  | .tileRead slot tile u => s.tileUse slot tile u
  | .tileUncorr slot tile =>
    let s := ((s.uncorrectable 1).tileBad slot tile 12).chunkUncorr slot
    { s with stack := { s.stack with repairs := s.stack.repairs ++ [(slot, tile)] } }
  | .pinnedBad slot mask =>
    match s.img? slot with
    | some i =>
      if AMap.has i.badMasks mask then s
      else (s.setImg slot fun x => { x with badMasks := AMap.set x.badMasks mask ((maskHome s slot mask).map (·.2)).toList.flatten }).reloadLog mask i.hdr.imageId 10
    | none => s
  | .residue cell =>
    if s.cells ≤ cell || s.integ.cellsOut.contains cell then s
    else
      let s := ({ s with integ := { s.integ with cellsOut := s.integ.cellsOut ++ [cell] } }.count 87 1).count (128 + 8 * (cell / 16) + 5) 1
      { s with recs := s.recs.map fun (r : Rec) =>
          if lateCells s r cell then { r with results := r.results ++ [vIndet], residue := true } else r }
  | .arrayFlip bank unit bit care => s.setBank bank fun b => { b with entries := b.entries.map fun x =>
      if x.unit = unit && bit < 72 * b.width then
        (if care then { x with arrC := x.arrC ^^^ 2 ^ bit } else { x with arrV := x.arrV ^^^ 2 ^ bit })
      else x }
  | .shadowUncorr bank unit => s.setBank bank fun b => { b with entries := b.entries.map fun x => if x.unit = unit then { x with shadowBad := true } else x }
  | .genStore hs => hs.foldl (fun s h => s.streamLost h.toNat) (s.uncorrectable 1)

/-- The sweep at one entry (R257 to R259): an invalid one is skipped, one whose shadow is uncorrectable is invalidated and logged and its
master is read, one whose array differs is rewritten and counted. -/
def State.sweepEntry (bank : Nat) (s : State) (unit : Nat) : State :=
  match (s.bank bank).entries.find? fun e => e.unit == unit && e.valid with
  | none => s
  | some e =>
    let put (f : BEntry → BEntry) : State := s.setBank bank fun b => { b with entries := b.entries.map fun x => if x.unit = unit then f x else x }
    if e.shadowBad then
      (((put fun x => { x with valid := false, written := false }).uncorrectable 1).log 0x0034 2 51 (w64 [(bank, 0), (unit, 8)]) (w64 [(e.rec_.set, 0)]) 0#64).askEntry
        bank { e with valid := false }
    else if e.sound then s
    else (put BEntry.rewritten).count 89 (e.differing (s.bank bank).width)
/-- Search slots of a bank that the beat's plan left idle, its recovery reserve among them (R375). -/
def idleSlots (s : State) (bank : Nat) : Nat := AMap.getD s.plan.banks bank 0 + AMap.getD s.plan.recBanks bank 0
/-- Slots the sweep must take in a beat so that its pass is over within 16,000 beats of the last one (R258). -/
def sweepPace (s : State) (b : Bank) : Nat := cdiv (2048 - b.sweep) (max 1 (16000 - beatsFrom b.sweptAt s.beat))
/-- The sweep in the idle search slots of the beat past: as many as its interval needs and a free number more, first the rewrites asked for, then
the units after the last one compared (R257, R258, R375, log 38). -/
def State.sweepBank (s : State) (bank : Nat) : State :=
  let b := s.bank bank
  let lo := min (idleSlots s bank) (b.rewrite.length + sweepPace s b)
  let n := lo + Config.choose s.free % (idleSlots s bank - lo + 1)
  let s := { s with free := s.free + 1 }
  let m := n - b.rewrite.length
  let s := (b.rewrite.take n ++ (List.range m).map fun i => (b.sweep + i) % 2048).foldl (State.sweepEntry bank) s
  s.setBank bank fun x => { x with
    rewrite := x.rewrite.drop n, sweep := (b.sweep + m) % 2048, sweptAt := if 2048 ≤ b.sweep + m then s.beat else x.sweptAt }
/-- The sweep of the store at a boundary; its floor is met once every bank has been passed over since (R258, R376). -/
def State.sweepStore (s : State) : State :=
  let ks := AMap.keys s.banks
  let s := (ks.foldl State.sweepBank s).sweepWords
  if ks.all fun k => beatLt (AMap.getD s.integ.floorAt 0 0) (s.bank k).sweptAt then s.floorDone 0 else s
/-- What an event does once the phase's work has run; a is the state before the phase. -/
def State.evAfter (a s : State) (e : IntegEvt) : State :=
  match e with
  | .tileUncorr slot tile =>
    if a.stack.repairs.contains (slot, tile) then s
    else { s with stack := { s.stack with repairs := s.stack.repairs.filter fun x => x != (slot, tile) } }
  | .residue cell =>
    if s.cells ≤ cell || a.integ.cellsOut.contains cell then s
    else { s with
      recs := s.recs.map fun (r : Rec) => if (a.rec? r.id).any fun x => ranOn s cell x r then { r with residue := true } else r
      integ := { s.integ with cellsOut := s.integ.cellsOut.filter fun x => x != cell } }.at s.nextB (.cellOut cell (Config.unlistedCause 9))
  | _ => s

/-! The compute phase. -/

/-- Accept markers whose path has a corrupt node. -/
def lostMarkers (s : State) : List (Nat × Nat) :=
  s.recs.filterMap fun r =>
    if r.kind = .marker && r.stamp.isSome then
      match s.stream? r.h with
      | some st => if r.path.any fun id => ((AMap.get? st.nodes id).map (·.corrupt)).getD false then some (r.id, r.h) else none
      | none => none
    else none
/-- Records of a beat that ran between two states. -/
def ranRecs (a s : State) : List Rec :=
  a.recs.filter fun r => r.kind.moves && r.stamp.isSome && !r.screened && ((s.rec? r.id).map (·.screened)).getD true
/-- Streams whose state the beat's work moved: by records that ran, or by tokens of a chunk; their records are written back (R398). -/
def ranStreams (a s : State) : List Nat :=
  (((ranRecs a s).filter (!·.spec)).map (·.h) ++ (a.openStreams.filter fun st => partsNow a st.handle).map (·.handle)
    ++ (a.recs.filter fun r => r.kind == .chunk && r.arriveBeat == a.beat && r.stamp.isNone).map (·.h)).eraseDups
/-- The states that a beat's work moved are written back: those of streams, and of draft nodes (R213, R398). -/
def State.writeBacks (a s : State) : State :=
  ((ranRecs a s).filter (·.spec)).foldl (fun s r => s.writeNode r.h r.id) ((ranStreams a s).foldl State.writeBack s)
/-- Lane cycles that one use of a tile takes: those of the layer it belongs to (R278). -/
def tileLane (i : Img) (key : Nat) : Nat :=
  match i.head? with
  | some h => (((h.layers.find? fun l => l.tileIndex ≤ keyTile key && keyTile key < l.tileIndex + l.rowTiles * l.colTiles)).map fun l => 64 * l.rowBytes).getD 0
  | none => 0
/-- Lane activity of the cells whose tiles ran in models that a compute phase made present (R377). -/
def State.useCells (a s : State) : State :=
  let slots := s.recs.flatMap fun r =>
    if r.screened && !((a.rec? r.id).map (·.screened)).getD true then (r.models.filter fun m => m.st == 4).map (·.img) else []
  let used := slots.flatMap fun k => ((s.img? k).map fun i => i.cells.map fun x => (x.2, tileLane i x.1)).getD []
  { s with integ := { s.integ with activity := used.foldl (fun (m : AMap Nat) x => AMap.set m x.1 (AMap.getD m x.1 0 + x.2)) s.integ.activity } }
/-- The counters of Table 15-14 that depend on the schedule: the tiles swept and the ridges' work (log 39). -/
def State.countWork (s : State) : State :=
  (List.range s.ridges).foldl (fun s r => [0, 1, 2, 3, 4, 7].foldl (fun s j =>
    { s with free := s.free + 1 }.count (128 + 8 * r + j) (Config.ridgeWork s.free)) s)
    ({ s with free := s.free + 1 }.count 91 (Config.ridgeWork s.free))
/-- The compute phase with the integrity events its work meets (R56, R394 to R405, R410). -/
def State.computeNow (s : State) (evts : List IntegEvt) : State :=
  let a := (evts.foldl State.evBefore s).checkStaging.pumpReloads
  let ms := lostMarkers a
  let b := (a.recs.map (·.id)).foldl State.lateCheck a.computeBeat
  let b := (ms.filter fun m => (b.rec? m.1).isNone).foldl (fun t m => t.streamLost m.2) b
  let b := State.writeBacks a b
  let b := evts.foldl (State.evAfter s) b
  ((State.useCells s b).countWork).pumpReloads
/-- The compute phase comes once, after the beat's intake (R56, log 48). -/
def execComputePhase (evts : List IntegEvt) (s : State) : Host.Outcome State Fault Refusal :=
  .next (if s.complete && !s.clk.stopped && s.clk.phase = 0 then s.computeNow evts else s)

/-! The mirror (R399). -/

/-- Handles of the streams of a mirror tile and the generations it is to carry. -/
def mirrorGens (s : State) (tile : Nat) : List (Nat × Nat) :=
  (s.openStreams.filter fun st => hIndex st.handle / 8 == tile).map fun st => (st.handle, st.gen)
/-- How often a mirror tile has been written, this write with it: the generation of its header (Table 13-2). -/
def mirrorCount (s : State) (tile : Nat) : Nat := (AMap.getD s.stack.mirrorWrites tile 0 + 1) % 2 ^ 32
/-- A mirror tile's record: the 8 stream records with their trailers (Table 13-2, R399); those of no stream are free. -/
def mirrorRecord (s : State) (tile : Nat) : List Byte :=
  let body := (List.range 8).flatMap fun j =>
    match s.openStreams.find? fun st => hIndex st.handle == 8 * tile + j with
    | some st => streamRecord s st
    | none => (List.range 512).map fun i => Config.mirrorByte (8 * tile + j) i
  let h := wordsBytes [w64 [(mirrorCount s tile, 32)], w64 [(tile, 0), (1, 24)], 0#64]
  h ++ natToBytes 4 (crc32c (body ++ h)).toNat ++ List.replicate 36 0#8 ++ body
/-- The records of a mirror tile are whole: no write-back of one is open (R384, R398). -/
def mirrorWhole (s : State) (tile : Nat) : Bool := s.openStreams.all fun st => hIndex st.handle / 8 != tile || !st.wbOpen
/-- The next dirty tile whose records are whole mirrored in background capacity, one at a time. -/
def State.pumpMirror (s : State) : State :=
  let busy := outFor s fun p => match p with | .mirror _ _ => true | _ => false
  if busy || (s.region 2).2 = 0 then s
  else
    match s.openStreams.find? fun st => st.gen != st.mirrorGen && mirrorWhole s (hIndex st.handle / 8) with
    | some st =>
      let t := hIndex st.handle / 8
      if !bgRoom s 66 2 ((s.region 2).1 + t * 4160) then s
      else
      let s' : State := { s with stack := { s.stack with mirrorWrites := AMap.set s.stack.mirrorWrites t (mirrorCount s t) } }
      (s'.issue .back 2 (.mirror t (mirrorGens s t)) [w64 [((s.region 2).1 + t * 4160, 0)]] (mirrorRecord s t) 0).2
    | none => s

/-! Management-core traps. -/

def trapCode : TrapKind → Nat | .fetchRam => 0 | .fetchRom => 1 | .dataLoad => 2 | .narrowStore => 3
/-- A trap: logged; a first fetch from the RAM area at an address resumes, everything else halts the core (R408, R409). -/
def State.trap (s : State) (kind : TrapKind) (addr : W32) (ecc : Bool) : State :=
  let s := if ecc then s.uncorrectable 1 else s
  let s := s.log 0x0033 3 51 (w64 [(addr.toNat, 0)]) (w64 [(Config.unlistedCause (20 + trapCode kind), 0)]) 0#64
  if kind = .fetchRam && !s.start.trapAddrs.contains addr then
    { s with start := { s.start with trapAddrs := s.start.trapAddrs ++ [addr] } }
  else ({ s with start := { s.start with halted := true } }.fault 4).raise 0
/-- One access of the management core: it has its effect on the core's RAM or on a row of data-path memory, or it traps (R384, R406, R408). -/
def State.coreOp (s : State) (o : CoreOp) : State :=
  let put (m : CoreMem) : State := { s with mgmt := { s.mgmt with core := m } }
  let drained (x : Except Nat CoreMem) : State :=
    match x with
    | .ok m => put m
    | .error w => s.trap .dataLoad (BitVec.ofNat 32 (8 * w)) true
  let m := s.mgmt.core
  if s.start.halted then s
  else
    match o with
    | .fetch addr rom => s.trap (if rom then .fetchRom else .fetchRam) addr true
    | .load addr n bad => if bad && m.reads addr.toNat n then s.trap .dataLoad addr true else s
    | .store addr bs bad => drained (m.store addr.toNat bs bad)
    | .barrier bad => drained (CoreMem.barrier bad m.buf.length m)
    | .window addr tile row bs => if bs.length = 64 then s.windowRow tile row bs else s.trap .narrowStore addr false
/-- Accesses of the management core in program order, round the one that may fault; a halted core makes none (R406, R408, R409, log 66). -/
def execMgmtTrap (before : List CoreOp) (o : CoreOp) (after : List CoreOp) (s : State) : Host.Outcome State Fault Refusal :=
  .next ((before ++ o :: after).foldl State.coreOp s)

end Sys2Proof.Machine
end

