-- ==== Sys2Proof/Machine/StartReset.lean ====
section
/-! DEFINITION. Reset and start: what a reset clears and keeps, start steps 1 to 8, failed starts and safe mode, start completion (R68, R71,
R232, R310, R325, R330, R389, R412 to R421, R444, R453, R477, R485, R490, R495, R496, R504). -/

namespace Sys2Proof.Machine

/-! What a reset keeps (Table 14-5, R389, R496). -/

/-- The least address of a segment's store entries that never committed or were abandoned; 2^64 where there is none. -/
def firstOpen (p : PersistS) (seg : Nat) : Nat :=
  let qs := ((p.parts.filter fun x => x.seg == seg && !x.committed).map (·.at_)) ++ ((p.acts.filter fun x => x.seg == seg && !x.committed).map (·.at_))
    ++ (p.snaps.filter fun x => x.seg == seg && !x.committed).map (·.at_) ++ ((AMap.get? p.segs seg).bind (·.lost)).toList
  qs.foldl min (2 ^ 64)
/-- The persistent window as a start reads it: in each segment whose header is committed, the committed entries up to the first uncommitted
one (R389, R444). A clear of a header that was not acknowledged has not taken place (log 66). -/
def PersistS.atStart (p : PersistS) : PersistS :=
  let ok (seg a : Nat) (c : Bool) : Bool := c && (AMap.getD p.segs seg default).valid && decide (a < firstOpen p seg)
  { p with parts := p.parts.filter (fun x => ok x.seg x.at_ x.committed), acts := p.acts.filter (fun x => ok x.seg x.at_ x.committed),
           snaps := p.snaps.filter (fun x => ok x.seg x.at_ x.committed), logs := p.logs.filter (·.committed), wait := [],
           segs := p.segs.map fun (x : Nat × Seg) => (x.1, if x.2.valid then { x.2 with freeing := 0 } else { x.2 with role := 0, rows := 0 }),
           openLog := p.openLog.filter fun i => (AMap.getD p.segs i default).valid,
           openStore := p.openStore.filter fun i => (AMap.getD p.segs i default).valid }
/-- Images whose masters the stack window holds: as loaded now, else as before an earlier reset. -/
def keptImages (s : State) : AMap Img :=
  if s.complete then s.images.filter fun x => x.2.status != 3 else s.start.kept
/-- The start registers after a reset: what survives it (R414, R490, R496). -/
def StartS.after (s : State) (por cold : Bool) : StartS :=
  let k := s.start
  { StartS.reset (if por then 0 else k.failCount) (if por then 0 else k.savedEpoch) (!cold) (!cold && k.calValid) with
    winEpoch := if s.complete then s.stack.epoch else k.winEpoch, keptBrt := if s.complete then s.stack.brt else k.keptBrt,
    kept := keptImages s, tilesKept := !cold && (s.complete || k.tilesKept) }
/-- Every register and every piece of state cleared by a reset; the queue, the build, the fuses, the test access port, the contents of the
stack and persistent windows, the calibration and the level of stop_i stay. -/
def State.cleared (s : State) (por cold : Bool) : State :=
  { State.reset with
    pending := s.pending, build := s.build, fuses := s.fuses, regs := RegS.reset s.build.cfg, start := StartS.after s por cold,
    clk := { ClockS.reset with stopPin := s.clk.stopPin }, port := PortS.reset s.build.maskCredit, nextId := s.nextId, cairns := s.cairns.filter fun x => x.2.current.isSome,
    stack := { StackS.reset with imgRuns := s.stack.imgRuns },
    gov := if cold then GovS.reset else { GovS.reset with idleMw := s.gov.idleMw, dynMw := s.gov.dynMw, sensorsBad := s.gov.sensorsBad },
    persist := s.persist.atStart, test := s.test, out := if s.clk.stopped then s.out ++ [.stopPin false] else s.out, free := s.free }

/-! Failed starts (R420, R421). -/

/-- A start step fails. In steps 1 and 2 the core cannot run; before the persistent window is set up, nothing is logged. -/
def State.failStart (s : State) (step : Nat) : State :=
  let n := min 3 (s.start.failCount + 1)
  let safe := s.start.failCount ≥ 2 && step ≥ 3
  let s := { s with start := { s.start with
    phase := if safe then .safeMode else .failed, failedStep := step, failCount := n, halted := decide (step ≤ 2) } }
  let s := (if step ≤ 2 then s.fault 4 else s).raise 0
  if step ≤ 3 || step = 7 then s else s.log 0x0002 3 51 (w64 [(step, 0)]) (w64 [(n, 0)]) 0#64

/-! Steps 1 to 3 (Table 14-1). -/

/-- Fuse read, ROM check and, in a cold start, self-test; then the block awaits configuration. -/
def State.steps13 (s : State) (b : BootIn) (cold : Bool) : State :=
  if !b.fuseOk then s.failStart 1
  else
    let s := { s with start := { s.start with fuseCopy := s.fuses } }
    if !b.romOk then s.failStart 2
    else
      let bad := if cold then (b.badCells.filter fun c => c < s.cells).eraseDups else []
      let s := { s with integ := { s.integ with cellsOut := bad, faults := if bad.isEmpty then s.integ.faults else s.integ.faults ||| 128 } }
      if cold && (b.otherBad || 16 < bad.length) then s.failStart 3
      else { s with start := { s.start with phase := .awaiting } }
def execPowerOnReset (boot : BootIn) (s : State) : Host.Outcome State Fault Refusal := .next ((s.cleared true true).steps13 boot true)
/-- The warm reset; after SCAN or MBIST it is a cold start, and in safe mode it runs no start step (R421, R490). -/
def State.warmReset (s : State) (b : BootIn) : State :=
  let cold := s.start.coldNext
  if s.start.phase = .safeMode && !cold then
    let s := s.cleared false false
    { s with start := { s.start with phase := .safeMode, failCount := 3, warm := false } }
  else (s.cleared false cold).steps13 b cold
def execWarmReset (boot : BootIn) (s : State) : Host.Outcome State Fault Refusal := .next (s.warmReset boot)

/-! Step 4: calibration. -/

def State.step4 (s : State) (x : StartIn) : State :=
  if s.start.warm && s.start.calValid && !x.moved then { s with start := { s.start with calKept := true } }
  else { s with start := { s.start with calValid := true, calKept := false },
                gov := { s.gov with sensorsBad := x.badSensors, idleMw := x.idleMw, dynMw := x.dynMw } }

/-! Step 5: the stack (R68, R71, R310, R330, R504). -/

/-- Regions overlap, reach past the window, or are absent where they must not be. -/
def regionsBad (s : State) : Bool :=
  let win := fld s.regs.stackCfg 7 0 * 2 ^ 30
  let r (k : Nat) : Nat × Nat := s.region k
  (List.range 4).any (fun i => win < (r i).1 + (r i).2
    || (List.range i).any fun j => 0 < (r i).2 && 0 < (r j).2 && decide ((r i).1 < (r j).1 + (r j).2) && decide ((r j).1 < (r i).1 + (r i).2))
  || (r 0).2 == 0 || (r 2).2 == 0
def enabledList (s : State) : List Nat := (List.range s.channels).filter s.chanEn
def answerOf (x : StartIn) (c : Nat) : Option AgentId := x.agents.find? fun a => a.chan.toNat == c
/-- The PING with identify set that each enabled channel gets, the first operation after its reset (R314, R330, Table 10-5). -/
def State.askIdentity (s : State) : State :=
  (enabledList s).foldl (fun s c => (s.count 57 1).emit (.stReq c 10 0 s.stack.epoch 0 0 [w64 [(1, 10)]] [])) s
/-- A channel's loaded series: PINGs for 65 response transfers each, with consecutive tags, as many outstanding as the response window takes
(R314, R329). -/
def State.startSeries (s : State) (c : Nat) : State :=
  let n := seriesPings s c
  let t := (s.chan c).nextTag
  ((s.setChan c fun x => { x with nextTag := (x.nextTag + n) % 65536 }).count 57 n).emit (.stPings c n t 65 (s.respWindow / 66))
/-- The answers of the enabled channels combined into the STACK_AGENT registers (Table 17-10). -/
def State.identify (s : State) (x : StartIn) : State :=
  let as : List AgentId := (enabledList s).filterMap (answerOf x)
  let mins (f : AgentId → Nat) : Nat := match as with | a :: rest => rest.foldl (fun m b => min m (f b)) (f a) | [] => 0
  let a0 : AgentId := as.headD default
  let s := s.askIdentity
  { s with stack := { s.stack with
      agentResp := maxBy (fun (a : AgentId) => fld a.w1 31 0) as, agentCredit := mins fun (a : AgentId) => fld a.w1 47 32, agentVer := fld a0.w1 55 48,
      agentSlots := mins fun (a : AgentId) => fld a.w1 63 56, agentWindow := mins fun (a : AgentId) => fld a.w2 15 0,
      agentOps := as.foldl (fun m (a : AgentId) => m &&& fld a.w2 25 16) 0x3FF, agentGib := fld a0.w3 7 0, epoch := x.epoch.toNat
      chans := (enabledList s).map fun c => (c, { Chan.blank with
        credit := ((answerOf x c).map fun (a : AgentId) => fld a.w1 47 32).getD 0, nextTag := 1, inService := true }) } }
/-- The checks of R310, R330 and R504 on the combined answers. -/
def stackBad (s : State) (x : StartIn) : Bool :=
  let as := (enabledList s).map (answerOf x)
  let k := s.stack
  regionsBad s || as.any (·.isNone)
    || as.any (fun a => match a with | some a => fld a.w1 55 48 != k.agentVer || fld a.w3 7 0 != k.agentGib | none => false)
    || k.agentVer != 2 || decide (k.agentSlots < 4) || decide (k.agentWindow < s.respWindow) || k.agentOps != 0x3FF
    || decide (k.agentGib < fld s.regs.stackCfg 7 0)
/-- B_rt from the loaded series, unless a warm start finds the epoch saved at the last completed start (R68, R71). -/
def State.measureBrt (s : State) (x : StartIn) : State :=
  let keep := s.start.warm && x.epoch.toNat == s.start.savedEpoch
  let base := if keep then s.start.keptBrt else max 1 (cdiv (x.rtMax + 35) 235)
  let s := { s with start := { s.start with brtKept := keep },
                    stack := { s.stack with brt := max base s.regs.rtFloor.toNat, maxCycles := if keep then 0 else min 65535 x.rtMax } }
  if keep then s
  else
    let s := (enabledList s).foldl State.startSeries s
    if x.rtMax ≤ s.stack.agentResp then s
    else
      let (k, s) := s.pick (enabledList s).length
      s.log 0x0014 1 51 (w64 [((enabledList s).getD k 0, 0)]) (w64 [(x.rtMax, 0)]) (w64 [(s.stack.agentResp, 0)])
/-- A window whose epoch has changed holds nothing: the cairns are gone, and every kept master is lost (R232, R325). -/
def State.windowCheck (s : State) (x : StartIn) : State :=
  if x.epoch.toNat = s.start.winEpoch then s
  else { s with cairns := [], start := { s.start with kept := s.start.kept.map fun (y : Nat × Img) => (y.1, { y.2 with masterLost := true }) } }

/-! Step 6: time offset (R414). -/

/-- The time port advances over the series. -/
def timeAdvances (x : StartIn) : Bool :=
  x.times.length == 64 && decide ((x.times.headD 0#64).toNat < (x.times.getLastD 0#64).toNat)
def State.step6 (s : State) (x : StartIn) : State :=
  { s with start := { s.start with timeSum := sumBy (·.toNat) x.times, timeKhz := s.freqKhz } }

/-! Step 7: ledger counts and cancelled streams (R416, R417). -/

/-- The last committed snapshot. -/
def lastSnap (s : State) : Option Snap := (sortAsc (·.seq) (s.persist.snaps.filter (·.committed))).getLast?
def State.restoreLedger (s : State) : State :=
  match lastSnap s with
  | some n => { s with tenants := n.rows.map fun (r : SnapRow) => (r.tenant, { Tenant.dflt with k := r.k, x := r.x, u := r.u }) }
  | none => s
/-- Streams whose record in the mirror verifies, to be reported at their ring's first doorbell; a reset stack holds none (R416). -/
def State.ghostStreams (s : State) (x : StartIn) : State :=
  if x.epoch.toNat ≠ s.start.winEpoch then s
  else (x.mirror.filter fun m => m.crc == m.sum).foldl (fun s m => s.setRing m.ring fun r => { r with ghosts := r.ghosts ++ [(m.handle.toNat, m.charged)] }) s

/-! Step 8: images (R415, R418, R453). -/

/-- Slots whose latest committed activation record says active, with that record. -/
def activeRecs (s : State) : List ActRec :=
  let latest := s.persist.acts.filter fun a => a.committed && !(s.persist.acts.any fun b => b.committed && b.slot == a.slot && a.seq < b.seq)
  latest.filter fun a => a.state == 1
/-- Bytes of an image from its committed parts, if all are there. -/
def imageParts (s : State) (a : ActRec) : Option (List Byte) :=
  let ps := s.persist.parts.filter fun p => p.committed && p.slot == a.slot && p.imageId == a.imageId && p.gen == a.gen
  let pick (k : Nat) : Option Part := (sortAsc (·.seq) (ps.filter fun p => p.num == k)).getLast?
  match ps with
  | [] => none
  | p :: _ =>
    let xs := (List.range p.count).map pick
    if xs.all (·.isSome) then some (xs.flatMap fun x => (x.map (·.bytes)).getD []) else none
/-- Live updates of a pattern set from its master, while the window still holds it (R246, Table 14-5). -/
def liveBody (s : State) (same : Bool) (a : ActRec) (b : ImgBody) (img : List Byte) : ImgBody × List Byte :=
  match AMap.get? s.start.kept a.slot, b with
  | some i, .patternSet _ =>
    if same && i.hdr.imageId == a.imageId && i.hdr.gen == a.gen then
      (i.body, i.bytes)
    else (b, img)
  | _, _ => (b, img)
/-- An image that fails at start is logged; its slot stays empty (R418). -/
def State.rejectAtStart (s : State) (a : ActRec) (status : Nat) : State :=
  s.log 0x0050 1 51 (w64 [(a.slot, 0)]) (w64 [(a.imageId, 0)]) (w64 [(status, 0)])
/-- One image reloaded with every check of LOAD_IMAGE. -/
def State.reloadOne (same : Bool) (s : State) (a : ActRec) : State :=
  match imageParts s a with
  | none => s.rejectAtStart a stCorrupt
  | some img =>
    match loadCheck s img.length img with
    | .error e => s.rejectAtStart a e
    | .ok (h, b) =>
      let (b, img) := liveBody s same a b img
      match s.installImage a.slot h b img with
      | none => s.rejectAtStart a stCapacity
      | some s => s.setImg a.slot fun i => { i with status := 0, committed := true, badTiles := [] }
/-- A pattern set kept on the die put into the store again from its master, or from the persistent window (Table 14-5). -/
def State.replaceSet (same : Bool) (s : State) (slot : Nat) : State :=
  match s.img? slot with
  | some i =>
    match i.body with
    | .patternSet p =>
      let q := if same then p
        else match ((activeRecs s).find? fun a => a.slot == slot).bind (imageParts s) with
          | some img => (match parseBody .patternSet (sliceB img 256 i.hdr.sectionLength) 0 with | .patternSet x => x | _ => p)
          | none => p
      match placeSet s q ((i.pinned.getD (allRidges s)).flatMap fun r => [2 * r, 2 * r + 1]) with
      | some (pl, s) => s.setImg slot fun x => { x with placed := pl, body := .patternSet q }
      | none => s.dropImage slot
    | _ => s
  | none => s
/-- Step 8: kept on the die after a good scan, else reloaded kind by kind. -/
def State.step8 (s : State) (x : StartIn) : State :=
  let same := x.epoch.toNat = s.start.winEpoch
  let kept := s.start.kept.filter fun y => y.2.status == 0 || y.2.status == 1
  let whole := (AMap.vals kept).all fun i => i.badTiles.isEmpty && i.badMasks.isEmpty
  if s.start.warm && s.start.tilesKept && x.scanOk && whole then
    let runs := s.stack.imgRuns.filter fun z => AMap.has kept z.1
    let s := { s with start := { s.start with imgKept := true }, images := kept,
                      stack := { s.stack with imgRuns := runs, rewriteLeft := if same then [] else AMap.keys kept } }
    (AMap.keys kept).foldl (State.replaceSet same) s
  else (sortAsc (fun a => a.kind * 256 + a.slot) (activeRecs s)).foldl (State.reloadOne same) { s with stack := { s.stack with imgRuns := [] } }

/-! GO (R413). -/

/-- Steps 4 to 8 in order; the first that fails fails the start. -/
def State.steps48 (s : State) (x : StartIn) : State :=
  let s := { s with start := { s.start with phase := .steps48 } }
  let s := s.integ.cellsOut.foldl (fun s c => s.log 0x0031 2 51 (w64 [(c, 0)]) (w64 [(Config.unlistedCause 13, 0)]) 0#64) s
  let s := (s.step4 x).identify x
  if stackBad s x then (s.fault 0).failStart 5
  else
    let s := (s.measureBrt x).windowCheck x
    if !timeAdvances x then s.failStart 6
    else
      let s := s.step6 x
      if !x.persistOk || 4 < s.persistAttr then s.failStart 7
      else ((s.restoreLedger).ghostStreams x).step8 x
def execGo (v : W32) (x : StartIn) (s : State) : Host.Outcome State Fault Refusal :=
  .next (if bit v 0 && s.start.phase == .awaiting then s.steps48 x else s)

/-! Start completion (R412, R414, R418). -/

/-- The nearest whole number of n / d. -/
def roundDiv (n : Int) (d : Nat) : Int := (2 * n + d) / (2 * (max 1 d : Nat))
/-- The time offset: m + p_c × t_b, where m is the mean of the 64 values less p × t_b. The count p_c is that whose boundary lies nearest the
time of completion (log 41). -/
def offsetOf (k : StartS) (time : W64) : Int :=
  let f := k.timeKhz
  let m64 : Int := (k.timeSum * f : Nat) - (2080 * 235000000 : Nat)
  let pc := roundDiv (64 * f * time.toNat - m64) (64 * 235000000)
  roundDiv (m64 + 64 * pc * 235000000) (64 * f)
/-- An image reloaded or kept as active is activated at start completion (R418, R453). -/
def State.activateAtStart (s : State) (slot : Nat) : State :=
  match s.img? slot with
  | none => s
  | some i =>
    let d := match i.policy? with | some p => s.delayOf p | none => 0
    let s := s.setImg slot fun x => { x with status := 1, fixedD := d, brt := s.stack.brt }
    if s.start.imgKept then s else s.actWrite slot i.hdr 1 0
/-- The beat boundary that follows step 8; with stop_i high the block stops there, before beat 0 (Table 14-11). -/
def State.completeStart (s : State) (time : W64) : State :=
  let off := BitVec.ofInt 64 (offsetOf s.start time)
  let s := { s with
    start := { s.start with phase := .complete, failCount := 0, savedEpoch := s.stack.epoch, winEpoch := s.stack.epoch, keptBrt := s.stack.brt,
                            kept := [], tilesKept := true, offset := off },
    clk := { s.clk with beat := 0, phase := 0, lastTime := time } }
  let s := { s with plan := s.freePlan }
  let on := if s.start.imgKept then (s.images.filter fun x => x.2.status == 1).map (·.1) else AMap.keys s.images
  let s := on.foldl State.activateAtStart s
  let s := (s.raise 1).log 0x0001 0 51 (w64 [(s.startStatus.toNat, 0)]) (w64 [(s.stack.brt, 0)]) off
  if s.stopDue then s.stopNow else s
def execStartComplete (time : W64) (s : State) : Host.Outcome State Fault Refusal :=
  .next (if s.start.phase == .steps48 then s.completeStart time else s)

end Sys2Proof.Machine
end

