-- ==== Sys2Proof/Machine/TestAccess.lean ====
section
/-! DEFINITION. The test access port: its instructions and the fuses (R490, R491, Tables 16-20 and 16-21). -/

namespace Sys2Proof.Machine

def State.setTest (s : State) (f : TestS → TestS) : State := { s with test := f s.test }
/-- An instruction that acts as BYPASS: the 1-bit register captures 0. -/
def State.asBypass (s : State) (ir : Nat) : State := (s.setTest fun t => { t with ir := ir }).emit (.tdo 1 0)
/-- Private instructions act only in test mode and under reset (R490). -/
def actsNow (p : TestPins) : Bool := p.testMode && p.resetAsserted

/-- The bits shifted in leave one place later, behind the captured 0; the first bit out is the least significant of the value. -/
def execBypass (bits : List Bool) (s : State) : Host.Outcome State Fault Refusal :=
  .next ((s.setTest fun t => { t with ir := 0xFF }).emit (.tdo (bits.length + 1) (boolsNat (false :: bits))))
/-- The identification code (Table 16-21). -/
def idcode (s : State) : Nat := pack [(1, 0), (s.build.mfr.toNat, 1), (0x1A20, 12), (2, 28)]
def execIdcode (s : State) : Host.Outcome State Fault Refusal :=
  .next ((s.setTest fun t => { t with ir := 0x01 }).emit (.tdo 32 (idcode s)))
/-- After SCAN or MBIST the next reset release runs a cold start. -/
def State.forceCold (s : State) : State := { s with start := { s.start with coldNext := true } }
def execMbist (pins : TestPins) (groups failed : BitVec 16) (s : State) : Host.Outcome State Fault Refusal :=
  .next (if actsNow pins then
      (s.setTest fun t => { t with ir := 0x10, groupsDone := groups, groupsFailed := failed &&& groups }).forceCold
    else s.asBypass 0x10)
def execMbistResult (pins : TestPins) (s : State) : Host.Outcome State Fault Refusal :=
  .next (if actsNow pins then
      (s.setTest fun t => { t with ir := 0x11 }).emit (.tdo 32 (pack [(s.test.groupsDone.toNat, 0), (s.test.groupsFailed.toNat, 16)]))
    else s.asBypass 0x11)
def execScan (pins : TestPins) (s : State) : Host.Outcome State Fault Refusal :=
  .next (if actsNow pins then (s.setTest fun t => { t with ir := 0x20 }).forceCold else s.asBypass 0x20)

/-- A fuse target after a programming request; one that breaks the rules changes nothing (R491). -/
def FuseS.prog (f : FuseS) (target value : Nat) : FuseS :=
  if target < 4 then
    if f.keyState.getD target 0 = 0 then { f with keyHash := f.keyHash.set target value } else f
  else if target < 8 then
    let old := f.keyState.getD (target - 4) 0
    let new := value % 4
    if (old = 0 && new = 1) || (old = 1 && new = 3) then { f with keyState := f.keyState.set (target - 4) new } else f
  else if 0x11 ≤ target && target ≤ 0x1A then
    let v := value % 128
    if f.rollback.getD (target - 0x11) 0 < v && v ≤ 64 then { f with rollback := f.rollback.set (target - 0x11) v } else f
  else f
/-- What a fuse target reads. -/
def FuseS.value (f : FuseS) (target : Nat) : Nat :=
  if target < 4 then f.keyHash.getD target 0
  else if target < 8 then f.keyState.getD (target - 4) 0
  else if 0x11 ≤ target && target ≤ 0x1A then f.rollback.getD (target - 0x11) 0
  else 0
def execFuseProg (pins : TestPins) (value : BitVec 256) (target : BitVec 8) (s : State) : Host.Outcome State Fault Refusal :=
  .next (if actsNow pins then
      { (s.setTest fun t => { t with ir := 0x30, fuseTarget := target }) with fuses := s.fuses.prog target.toNat value.toNat }
    else s.asBypass 0x30)
def execFuseRead (pins : TestPins) (target : BitVec 8) (s : State) : Host.Outcome State Fault Refusal :=
  .next (if actsNow pins then
      (s.setTest fun t => { t with ir := 0x31, fuseTarget := target }).emit
        (.tdo 264 (pack [(s.fuses.value target.toNat, 0), (target.toNat, 256)]))
    else s.asBypass 0x31)
/-- trst_n_i: the port is back at its identification instruction and drives nothing. -/
def execTestReset (s : State) : Host.Outcome State Fault Refusal :=
  .next ((s.setTest fun t => { t with ir := 0x01 }).emit (.tdo 0 0))

end Sys2Proof.Machine
end

