-- ==== Sys2Proof/Machine/Beat.lean ====
section
/-! DEFINITION. The beat boundary and the release phase: what falls due between two beats, in order (R14, R29, R45, R56, R57, R59, R118,
R119, R240, R290). -/

namespace Sys2Proof.Machine

/-! Effects due at a boundary that no row has applied (log 2). -/

/-- Order in which the kinds of effect fall at one boundary; bindings come once the new beat has its number. -/
def Eff.rank : Eff → Nat
  | .chanEnd _ => 0 | .program _ => 1 | .cancel _ _ _ _ => 0 | .openS _ _ => 1 | .closeS _ => 2 | .endOutput _ _ => 3 | .ringReset _ => 4 | .activate _ => 5
  | .tenant _ _ _ _ _ _ => 6 | .policy _ _ _ _ => 7 | .invalidate _ _ => 8 | .writeE _ _ => 8 | .validate _ _ => 8
  | .bankWidth _ _ => 8 | .dropSet _ _ => 8 | .shiftMove _ => 9 | .trace _ _ _ _ => 10 | .counter _ _ _ _ => 11 | .releaseClass _ => 12
  | .tileGood _ _ => 13 | .streamGood _ => 14 | .pinGood _ _ => 15 | .allowGood _ => 15 | .entryGood _ _ => 16 | .chanBack _ => 17 | .chanOut _ _ => 17 | .cellOut _ _ => 18
  | .cellBack _ => 19 | .wear _ _ => 20 | .leaveRange => 21 | .joinRange _ _ => 21 | .bindS _ _ _ => 22
/-- The first effect of the lowest rank due at the coming boundary. -/
def nextDue (s : State) : Option Eff :=
  (leastBy (fun k => k) ((s.sched.filter fun e => beatLe e.at_ s.nextB && e.eff.rank < 22).map (·.eff.rank))).bind fun k =>
    (s.sched.find? fun e => beatLe e.at_ s.nextB && e.eff.rank == k).map (·.eff)
/-- A stream's open takes hold (Table 4-1). -/
def State.openNow (s : State) (h : Nat) : State :=
  match s.stream? h with
  | some st => if st.phase = .opening then (s.setStream h fun x => { x with phase := .inputOpen }).count 107 1 else s
  | none => s
/-- Chunks and INGEST jobs of a stream that are complete (R58, R112). -/
def endInput : Nat → Nat → State → State
  | 0, _, s => s
  | f + 1, h, s =>
    match s.stream? h with
    | some st =>
      if (chunkReady st).isSome then endInput f h (s.chunkDone h)
      else if (st.jobs.head?.map (·.ready)).getD false then endInput f h (s.ingestDone h)
      else s
    | none => s
/-- A stream's close takes hold, if the stream is still there. -/
def State.closeNow (s : State) (h : Nat) : State :=
  let s := endInput 2048 h s
  if (s.stream? h).isSome then s.closeAt h (closeCmd s h) else s
/-- The boundary of a close (R112, Table 5-5). -/
def execStreamCloseBoundary (h : W32) (s : State) : Host.Outcome State Fault Refusal :=
  .next (match s.takeEff fun e => e == .closeS h.toNat with
    | some (_, s) => s.closeNow h.toNat
    | none => s)
/-- A channel that answered its pings is back in service (R326). -/
def State.chanNow (s : State) (c : Nat) : State := s.setChan c fun x => { x with inService := true, faulted := false }
/-- An effect brought about, once it has left the schedule. -/
def State.applyEff (s : State) (e : Eff) : State :=
  match e with
  | .openS h _ => s.openNow h
  | .closeS h => s.closeNow h
  | .bindS h slot cmd => s.bindNow h slot cmd
  | .cancel h _ _ _ => s.takeCancel h
  | .endOutput h code => s.endAt h code
  | .ringReset r => s.resetRingNow r
  | .activate slot => s.activateNow slot
  | .program slot => s.programNow slot
  | .tenant t on ban pd td cmd => s.tenantNow t on ban pd td cmd
  | .policy pid id on _ => s.policyNow pid id on
  | .invalidate k _ => s.setBank k fun b => b.after k e
  | .writeE k _ => s.setBank k fun b => b.after k e
  | .validate k _ => s.setBank k fun b => b.after k e
  | .bankWidth k _ => s.setBank k fun b => b.after k e
  | .dropSet k _ => s.setBank k fun b => b.after k e
  | .shiftMove k => s.shiftNow k
  | .trace on base size mask => s.traceNow on base size mask
  | .counter on k base size => s.counterNow on k base size
  | .releaseClass rc => { s with gov := { s.gov with reserved := AMap.erase s.gov.reserved rc } }
  | .leaveRange => s.leaveNow
  | .joinRange f d => s.joinRange f d
  | .cellOut cell cause => s.cellLeaves cell cause
  | .cellBack cell => s.cellReturns cell
  | .chanBack c => s.chanNow c
  | .tileGood slot t => s.tileNow slot t
  | .streamGood h => s.streamNow h
  | .chanOut c cmd => s.chanLeaves c cmd
  | .chanEnd c => s.chanEnds c
  | .pinGood slot m => s.pinNow slot m
  | .allowGood h => s.allowNow h
  | .entryGood k u => s.entryNow k u
  | .wear a b => s.wearNow a b
/-- One effect taken and brought about; a cancel takes its stream's entries of the schedule itself. -/
def State.oneDue (s : State) (e : Eff) : State :=
  match e with
  | .cancel h _ _ _ => s.takeCancel h
  | _ => match s.takeEff fun x => x == e with | some (_, s) => s.applyEff e | none => s
/-- Every effect due at the coming boundary, by rank. -/
def applyDue : Nat → State → State
  | 0, s => s
  | f + 1, s => match nextDue s with | some e => applyDue f (s.oneDue e) | none => s

/-! Events of the ending beat that no row has shown (log 2). -/

/-- Floors, samples and time syncs that are due. -/
def State.endTimers (s : State) : State :=
  let s := if syncDue s then s.timeSync else s
  let s := if sampleDue s then s.sample else s
  (List.range 8).foldl (fun s k => if floorLate s k then s.floorMiss k else s) s
/-- Waits whose limit has passed: saves, deferred commands, open steps, stalled rings, a range join (R110, R225, R379, R425, Table 4-5). -/
def State.endWaits (s : State) : State :=
  let s := s.openStreams.foldl (fun s st => (s.saveQuiet st.handle).saveTimeout st.handle) s
  let s := s.cmds.foldl (fun s c => if notStarted s c && beatLe (beatAdd c.since 4000000) s.beat then s.finish c { status := stDeferred } else s) s
  let s := (s.openStreams.filterMap (·.slot)).foldl State.stepTimeout s
  let s := (AMap.keys s.rings).foldl State.egressStall s
  match s.forming? with
  | some c => if s.range.role = 2 && !joining s && beatLe (beatAdd c.since s.range.timeout) s.beat then s.formFailed stIncomplete else s
  | none => s
/-- What a range member owes its peers: grants, heartbeats, acknowledgements, and splits that show (R360, R362, R423, R429). -/
def State.endRange (s : State) : State :=
  if !s.range.joined then s
  else
    let s := if grantDue s then s.leaseGrant else s
    let s := (s.heartPeers.filter (heartDue s)).foldl (fun s p => s.relay p 9 []) s
    let s := (AMap.keys s.range.lanes).foldl State.ackSend s
    (AMap.keys s.range.members).foldl (fun s p =>
      if s.range.splitFrom.contains p then s else match splitShows s p with | some k => s.splitFrom p k | none => s) s
/-- Work that goes on by itself while its resources allow. -/
def State.pumpWork (s : State) : State :=
  let s := (AMap.keys s.rings).foldl State.pumpUnlisted s
  let s := s.openStreams.foldl (fun s st => s.runStream st.handle) s
  (pumpMove 65 s.pumpFirms.pumpSaves.pumpRetires.pumpLoads.pumpRetireImages.pumpTests.pumpMasters.pumpMirror.pumpSweep).duePast.pumpProbes.prunePreds

/-! Stream states. -/

/-- An output context begins: the token window holds the fill token, the accumulators are reset (R240, R290). -/
def outputCtx (s : State) (st : Stream) : Ctx :=
  let p := s.streamPol st
  let (accs, n) := match st.accNew with
    | some (b, accs, n) => if b = s.beat then (accs, n) else (accStart s p.outDir, [0, 0, 0])
    | none => (accStart s p.outDir, [0, 0, 0])
  { st.ctx with window := List.replicate 14 p.fillToken, accs := accs, accN := n }
/-- A node state of a draft in flight as the output context begins: its window and accumulators start anew too (R240, log 19). -/
def freshNode (s : State) (st : Stream) (n : Node) : Node :=
  { n with ctx := { n.ctx with window := List.replicate 14 (s.streamPol st).fillToken, accs := accStart s (s.streamPol st).outDir, accN := [0, 0, 0] } }
/-- A stream's change of state at the boundary: input final, output ended by a BLOCK, or the last batch of a closing stream written (R118,
Table 4-1). -/
def State.turn (s : State) (st : Stream) : State :=
  let outOver (s : State) (v : Nat) : State :=
    (s.switchback st.handle none).setStream st.handle fun x => { x with phase := .outputEnded, ended := some (x.ended.getD v) }
  if st.phase = .closing && st.closing.isNone then
    ({ s with port := { s.port with early := s.port.early.filter fun e => st.slot != some e.1 } } : State).setStream st.handle fun x => { x with
      phase := .closed, slot := none }
  else if st.phase = .answering then (if st.ended.isSome then outOver s vBlock else s)
  else if st.phase ≠ .inputOpen then s
  else
    match st.inVerdict with
    | none => s
    | some v => if v = vPass && st.ended.isNone then
        (s.setStream st.handle fun x => { x with
          phase := .answering, ctx := outputCtx s x, nodes := x.nodes.map fun (n : Nat × Node) => (n.1, freshNode s x n.2) }).writeBack st.handle
      else outOver s v
/-- Indices of closed streams are free once their completion or event entry is written (R119). -/
def State.freeClosed (s : State) : State :=
  { s with streams := s.streams.filter fun x =>
      x.2.phase != .closed || (s.ring x.2.ring).cqPend.any fun c => c.stream == x.2.handle }

/-! The boundary. -/

/-- Everything up to the count of the new beat. -/
def State.endBeat (s : State) : State :=
  let s := s.openStreams.foldl (fun s st => endInput 2048 st.handle s) s
  let s := s.endTimers.endWaits.endRange.pumpCalibs
  let s := applyDue (2 * s.sched.length + 64) s
  let s := if refillDue s then s.refillNow else s
  let s := if snapDue s then s.snapNow else s
  let s := if wearDue s then s.wearRotate else s
  let s := if pingDue s then s.pingNow else s
  let s := s.pumpWork
  (s.openStreams.foldl State.turn s).dynClose.dynFree
/-- The new beat's number; it wraps at 48 bits in everything the block writes (R14, R59). -/
def State.nextBeat (s : State) (time : W64) : State :=
  ({ s with clk := { s.clk with beat := s.clk.beat + 1, phase := 0, cycle := 0 }, integ := { s.integ with mismatch := [] } } : State).takeTime time
/-- Bindings whose boundary this is. -/
def State.bindDue (s : State) : State :=
  let due := s.sched.filter fun e => beatLe e.at_ s.beat && e.eff.rank == 22
  due.foldl (fun s e => ({ s with sched := s.sched.erase e } : State).applyEff e.eff) s
/-- What the beat finds when it begins. -/
def State.openBeat (s : State) (x : BeatIn) : State :=
  let s := s.bindDue
  let s := if s.range.joined then s.adoptDue s.clk.lastTime.toNat else s
  let s := s.sampleInputs x
  let s := (x.floorsDone.filter fun k => k != 0).foldl State.floorWork s
  let s := s.sweepStore.freeClosed
  let s := (AMap.keys s.rings).foldl State.askReread s
  s.raiseDelays.stampAll.planBeat.maskBeat.flushTraces
/-- Cycles 224 to 234 (R45, R56): everything due is released and written. -/
def State.releaseBeat (s : State) : State :=
  let s := s.toPhase 3
  (((State.heldBack s s.releaseRecs).pumpRelay.releaseRings).pumpRetireImages.pumpFlushes).recClose
/-- The phases of a beat before a phase, as far as no row has run them (R56, log 48). -/
def State.runTo (s : State) (k : Nat) : State :=
  let s := if s.clk.phase = 0 && 2 ≤ k then s.computeNow [] else s
  let s := if s.clk.phase = 1 && 3 ≤ k then s.sealBeat [] else s
  if s.clk.phase = 2 && 4 ≤ k then s.releaseBeat else s
/-- The seal phase, once in a beat. -/
def execSealPhase (mismatch : List (W32 × Nat)) (s : State) : Host.Outcome State Fault Refusal :=
  .next (if s.complete && !s.clk.stopped && s.clk.phase ≤ 1 then (s.runTo 2).sealBeat mismatch else s)
/-- A beat boundary; a stop asked for takes hold instead of a beat (R433). -/
def State.boundary (s : State) (x : BeatIn) : State :=
  if !s.complete || s.clk.stopped then s
  else
    let s := s.runTo 4
    if s.stopDue then s.settle.stopNow else (s.endBeat.nextBeat x.time).openBeat x
/-- A stop takes hold at the end of the beat it comes in. -/
def execBlockStop (s : State) : Host.Outcome State Fault Refusal := .next (if s.stopDue then (s.runTo 4).settle.stopNow else s)
def execBeatBoundary (x : BeatIn) (s : State) : Host.Outcome State Fault Refusal := .next (s.boundary x)

/-! The release phase. -/

/-- The ring side while no beat runs: completion entries and fetches go on (R113, R421). -/
def State.releaseIdle (s : State) : State :=
  let ks := AMap.keys s.rings
  let s := ks.foldl (fun s k => s.writeCpls (s.ring k).cqPend.length k) s
  (ks.foldl (fun s k => (s.fetchRing k).pumpUnlisted k) s).pumpRelay.pumpFlushes
def execReleasePhase (s : State) : Host.Outcome State Fault Refusal :=
  .next (if !s.serving then s
    else if s.running && s.complete then (if s.clk.phase ≤ 2 then (s.runTo 3).releaseBeat else s)
    else s.releaseIdle)

end Sys2Proof.Machine
end

