-- ==== Sys2Proof/Machine/Dispatch.lean ====
section
/-! DEFINITION. One command's effect: each constructor's arm calls its meaning. -/

namespace Sys2Proof.Machine

def exec (i : Instr) (s : State) : Host.Outcome State Fault Refusal :=
  match i with
  | .powerOnReset boot => Sys2Proof.Machine.execPowerOnReset boot s
  | .warmReset boot => Sys2Proof.Machine.execWarmReset boot s
  | .go v x => Sys2Proof.Machine.execGo v x s
  | .startComplete time => Sys2Proof.Machine.execStartComplete time s
  | .registerWrite off v => Sys2Proof.Machine.execRegisterWrite off v s
  | .beatCountLoRead => Sys2Proof.Machine.execBeatCountLoRead s
  | .timeOffsetLoRead => Sys2Proof.Machine.execTimeOffsetLoRead s
  | .ringReset v => Sys2Proof.Machine.execRingReset v s
  | .ringResetEffect ring => Sys2Proof.Machine.execRingResetEffect ring s
  | .missClr v => Sys2Proof.Machine.execMissClr v s
  | .submissionTailDoorbell num word => Sys2Proof.Machine.execSubmissionTailDoorbell num word s
  | .completionHeadDoorbell num word => Sys2Proof.Machine.execCompletionHeadDoorbell num word s
  | .egressHeadDoorbell num word => Sys2Proof.Machine.execEgressHeadDoorbell num word s
  | .cancelDoorbell num word => Sys2Proof.Machine.execCancelDoorbell num word s
  | .cancelTakesEffect h => Sys2Proof.Machine.execCancelTakesEffect h s
  | .descriptorPhaseReread d => Sys2Proof.Machine.execDescriptorPhaseReread d s
  | .openStream d allow => Sys2Proof.Machine.execOpenStream d allow s
  | .closeStream d => Sys2Proof.Machine.execCloseStream d s
  | .streamCloseBoundary h => Sys2Proof.Machine.execStreamCloseBoundary h s
  | .ingest d => Sys2Proof.Machine.execIngest d s
  | .ingestComplete h => Sys2Proof.Machine.execIngestComplete h s
  | .chunkComplete h => Sys2Proof.Machine.execChunkComplete h s
  | .bindSlot d => Sys2Proof.Machine.execBindSlot d s
  | .unbindSlot d => Sys2Proof.Machine.execUnbindSlot d s
  | .cancel d => Sys2Proof.Machine.execCancel d s
  | .saveCairn d => Sys2Proof.Machine.execSaveCairn d s
  | .saveCairnQuietBoundary h => Sys2Proof.Machine.execSaveCairnQuietBoundary h s
  | .saveCairnTimeout h => Sys2Proof.Machine.execSaveCairnTimeout h s
  | .resumeCairn d => Sys2Proof.Machine.execResumeCairn d s
  | .retireCairn d => Sys2Proof.Machine.execRetireCairn d s
  | .loadImage d image => Sys2Proof.Machine.execLoadImage d image s
  | .activateImage d => Sys2Proof.Machine.execActivateImage d s
  | .imageActivationBoundary slot => Sys2Proof.Machine.execImageActivationBoundary slot s
  | .retireImage d => Sys2Proof.Machine.execRetireImage d s
  | .queryImage d => Sys2Proof.Machine.execQueryImage d s
  | .setTenant d => Sys2Proof.Machine.execSetTenant d s
  | .setBudget d => Sys2Proof.Machine.execSetBudget d s
  | .setPolicy d => Sys2Proof.Machine.execSetPolicy d s
  | .matchUpdateInvalidate d => Sys2Proof.Machine.execMatchUpdateInvalidate d s
  | .matchUpdateWrite d recs => Sys2Proof.Machine.execMatchUpdateWrite d recs s
  | .matchUpdateValidate d => Sys2Proof.Machine.execMatchUpdateValidate d s
  | .matchShift d => Sys2Proof.Machine.execMatchShift d s
  | .matchShiftMove bank => Sys2Proof.Machine.execMatchShiftMove bank s
  | .matchSearch d key => Sys2Proof.Machine.execMatchSearch d key s
  | .selfTest d failed => Sys2Proof.Machine.execSelfTest d failed s
  | .calibrateThermalTrims d bad => Sys2Proof.Machine.execCalibrateThermalTrims d bad s
  | .calibrateDroopDetectors d => Sys2Proof.Machine.execCalibrateDroopDetectors d s
  | .calibrateStackRoundTrip d => Sys2Proof.Machine.execCalibrateStackRoundTrip d s
  | .commandDeferred ring index => Sys2Proof.Machine.execCommandDeferred ring index s
  | .traceCtl d => Sys2Proof.Machine.execTraceCtl d s
  | .counterCtl d => Sys2Proof.Machine.execCounterCtl d s
  | .logFlush d => Sys2Proof.Machine.execLogFlush d s
  | .stop d => Sys2Proof.Machine.execStop d s
  | .resume d => Sys2Proof.Machine.execResume d s
  | .hangReport d => Sys2Proof.Machine.execHangReport d s
  | .rangeJoin d => Sys2Proof.Machine.execRangeJoin d s
  | .rangeJoinTimeout => Sys2Proof.Machine.execRangeJoinTimeout s
  | .rangeLeave d => Sys2Proof.Machine.execRangeLeave d s
  | .rangeStatus d => Sys2Proof.Machine.execRangeStatus d s
  | .expertQuery d => Sys2Proof.Machine.execExpertQuery d s
  | .expertPinImage d => Sys2Proof.Machine.execExpertPinImage d s
  | .expertReserveSlots d => Sys2Proof.Machine.execExpertReserveSlots d s
  | .expertReleaseSlots d => Sys2Proof.Machine.execExpertReleaseSlots d s
  | .expertSetBankWidth d => Sys2Proof.Machine.execExpertSetBankWidth d s
  | .expertGovBound d => Sys2Proof.Machine.execExpertGovBound d s
  | .committedToken w => Sys2Proof.Machine.execCommittedToken w s
  | .draftToken w => Sys2Proof.Machine.execDraftToken w s
  | .acceptMarker w => Sys2Proof.Machine.execAcceptMarker w s
  | .stepEnd w => Sys2Proof.Machine.execStepEnd w s
  | .featureFrame f => Sys2Proof.Machine.execFeatureFrame f s
  | .stepOpenTimeout slot => Sys2Proof.Machine.execStepOpenTimeout slot s
  | .beatBoundary x => Sys2Proof.Machine.execBeatBoundary x s
  | .sealPhase mismatch => Sys2Proof.Machine.execSealPhase mismatch s
  | .releasePhase => Sys2Proof.Machine.execReleasePhase s
  | .stackDuePoint chan tag => Sys2Proof.Machine.execStackDuePoint chan tag s
  | .tileReadResponse r => Sys2Proof.Machine.execTileReadResponse r s
  | .tileWriteResponse r => Sys2Proof.Machine.execTileWriteResponse r s
  | .featureStageResponse r => Sys2Proof.Machine.execFeatureStageResponse r s
  | .treeWalkResponse r => Sys2Proof.Machine.execTreeWalkResponse r s
  | .maskCombineResponse r => Sys2Proof.Machine.execMaskCombineResponse r s
  | .gatherSumResponse r => Sys2Proof.Machine.execGatherSumResponse r s
  | .cairnSaveResponse r => Sys2Proof.Machine.execCairnSaveResponse r s
  | .cairnLoadResponse r => Sys2Proof.Machine.execCairnLoadResponse r s
  | .scrubRangeResponse r => Sys2Proof.Machine.execScrubRangeResponse r s
  | .pingResponse r => Sys2Proof.Machine.execPingResponse r s
  | .stackCreditReturn chan n => Sys2Proof.Machine.execStackCreditReturn chan n s
  | .hostReadData tag data poison => Sys2Proof.Machine.execHostReadData tag data poison s
  | .hostWriteAck tag fail => Sys2Proof.Machine.execHostWriteAck tag fail s
  | .maskCreditReturn n => Sys2Proof.Machine.execMaskCreditReturn n s
  | .irqMessage v => Sys2Proof.Machine.execIrqMessage v s
  | .egressStallTimeout ring => Sys2Proof.Machine.execEgressStallTimeout ring s
  | .tornTileReread h u => Sys2Proof.Machine.execTornTileReread h u s
  | .tileReloadInstall slot tile => Sys2Proof.Machine.execTileReloadInstall slot tile s
  | .recoveryExtExpiry rec => Sys2Proof.Machine.execRecoveryExtExpiry rec s
  | .mgmtTrap before o after => Sys2Proof.Machine.execMgmtTrap before o after s
  | .governorPeriod x => Sys2Proof.Machine.execGovernorPeriod x s
  | .refillBoundary => Sys2Proof.Machine.execRefillBoundary s
  | .ledgerSnapshot => Sys2Proof.Machine.execLedgerSnapshot s
  | .backgroundPing => Sys2Proof.Machine.execBackgroundPing s
  | .wearRotation => Sys2Proof.Machine.execWearRotation s
  | .timeSync => Sys2Proof.Machine.execTimeSync s
  | .counterSample => Sys2Proof.Machine.execCounterSample s
  | .floorMissed k => Sys2Proof.Machine.execFloorMissed k s
  | .traceRecordDrop => Sys2Proof.Machine.execTraceRecordDrop s
  | .stopIHigh => Sys2Proof.Machine.execStopIHigh s
  | .stopILow => Sys2Proof.Machine.execStopILow s
  | .blockStop => Sys2Proof.Machine.execBlockStop s
  | .blockResume => Sys2Proof.Machine.execBlockResume s
  | .relayRec r => Sys2Proof.Machine.execRelayRec r s
  | .relayChunk r => Sys2Proof.Machine.execRelayChunk r s
  | .relayJoin r => Sys2Proof.Machine.execRelayJoin r s
  | .relayMembers r => Sys2Proof.Machine.execRelayMembers r s
  | .relayProbe r => Sys2Proof.Machine.execRelayProbe r s
  | .relayGrant r => Sys2Proof.Machine.execRelayGrant r s
  | .relayReport r => Sys2Proof.Machine.execRelayReport r s
  | .relayAck r => Sys2Proof.Machine.execRelayAck r s
  | .relayHeartbeat r => Sys2Proof.Machine.execRelayHeartbeat r s
  | .relayStop r => Sys2Proof.Machine.execRelayStop r s
  | .relayResume r => Sys2Proof.Machine.execRelayResume r s
  | .relayLeave r => Sys2Proof.Machine.execRelayLeave r s
  | .relayAckSend lane => Sys2Proof.Machine.execRelayAckSend lane s
  | .heartbeatSend => Sys2Proof.Machine.execHeartbeatSend s
  | .relayTimeout peer => Sys2Proof.Machine.execRelayTimeout peer s
  | .leaseGrant => Sys2Proof.Machine.execLeaseGrant s
  | .leaseAdoption => Sys2Proof.Machine.execLeaseAdoption s
  | .bypass bits => Sys2Proof.Machine.execBypass bits s
  | .idcode => Sys2Proof.Machine.execIdcode s
  | .mbist pins groups failed => Sys2Proof.Machine.execMbist pins groups failed s
  | .mbistResult pins => Sys2Proof.Machine.execMbistResult pins s
  | .scan pins => Sys2Proof.Machine.execScan pins s
  | .fuseProg pins value target => Sys2Proof.Machine.execFuseProg pins value target s
  | .fuseRead pins target => Sys2Proof.Machine.execFuseRead pins target s
  | .computePhase evts => Sys2Proof.Machine.execComputePhase evts s
  | .droopEvent ridge => Sys2Proof.Machine.execDroopEvent ridge s
  | .testReset => Sys2Proof.Machine.execTestReset s

end Sys2Proof.Machine
end

