-- ==== Sys2Proof/Safety.lean ====
section
/-! DEFINITION. What counts as a safe run, and the terms statements are written in: legal registers, the order of fuses, what a descriptor's
command leaves behind, and what a command leaves alone. -/

namespace Sys2Proof.Machine

/-- The state after a step, when there is one. -/
def State.next? (s : State) : Option State :=
  match step s with
  | .next t => some t
  | _ => none

/-- An egress entry of screened bytes is safe when it carries bytes only under a verdict that releases them (R47, Table 4-6). -/
def EgEntry.safe (e : EgEntry) : Bool := e.etype != 1 || releases e.verdict || e.bytes.isEmpty

/-- Every entry waiting for the host is safe. -/
def State.egressSafe (s : State) : Bool :=
  s.rings.all fun r => r.2.egPend.all fun b => b.sections.all fun c => c.entries.all EgEntry.safe

/-! Legal registers. -/

/-- The five attribute codes of HOSTPORT_CFG are below the reserved ones (R477). -/
def hostportLegal (w : W32) : Bool := [0, 4, 8, 12, 16].all fun lo => fld w (lo + 2) lo ≤ 4
/-- GOV_THERM: thresholds strictly ascending, hysteresis not 0 (R370). -/
def govThermLegal (w : W32) : Bool := fld w 7 0 < fld w 15 8 && fld w 15 8 < fld w 23 16 && fld w 27 24 != 0
/-- RCLASS_LIMIT: each field within its range (R85, Table 2-6). -/
def rclassLegal (w : W32) : Bool :=
  fld w 15 0 != 1 && (fld w 24 16 == 0 || (8 ≤ fld w 24 16 && fld w 24 16 ≤ 256)) && fld w 31 25 ≤ 64
/-- STACK_CFG: both sizes within 8 to 128, a present channel enabled and no absent one (R515). -/
def stackCfgLegal (chans : Nat) (w : W32) : Bool :=
  8 ≤ fld w 7 0 && fld w 7 0 ≤ 128 && 8 ≤ fld w 15 8 && fld w 15 8 ≤ 128 && fld w 23 16 != 0 && fld w 23 16 < 2 ^ chans
/-- Every register that a write can refuse holds a value within its range. -/
def RegS.legal (r : RegS) (chans : Nat) : Bool :=
  (500000 ≤ fld r.coreClock 19 0 && fld r.coreClock 19 0 ≤ 940000) && hostportLegal r.hostport && govThermLegal r.govTherm
    && stackCfgLegal chans r.stackCfg && r.rclass.all fun x => rclassLegal x.2
/-- The registers of a state are legal for its configuration. -/
def State.regsLegal (s : State) : Bool := s.regs.legal s.channels

/-! Fuses. -/

/-- The order in which fuses are programmed: counts rise, key states rise, and the hash of a slot whose state is not 00 stays (R491). -/
def FuseS.before (f g : FuseS) : Prop :=
  (∀ k, f.rollback.getD k 0 ≤ g.rollback.getD k 0) ∧ (∀ n, f.keyState.getD n 0 ≤ g.keyState.getD n 0)
    ∧ ∀ n, f.keyState.getD n 0 ≠ 0 → g.keyHash.getD n 0 = f.keyHash.getD n 0
/-- Every key slot's state is 00, 01 or 11. -/
def FuseS.statesLegal (f : FuseS) : Bool := f.keyState.all fun x => x == 0 || x == 1 || x == 3

/-! Descriptors. -/

/-- The state in which the own effect of a descriptor's command begins: the descriptor is taken, the command runs. -/
def State.started (s : State) (d : Desc) : State := (s.begin d).2
/-- The command of a descriptor that starts now. -/
def State.startedCmd (s : State) (d : Desc) : Cmd := (s.begin d).1
/-- The descriptor starts now (R105) and meets no refusal that every command shares. -/
def State.accepts (s : State) (d : Desc) : Bool := s.canStart d && (descStatus (s.started d) d true).isNone
/-- The command of d is over: its ring holds one more completion entry, with d's tag, index, opcode and interrupt flag and these results,
d is no longer fetched, and no command runs for it. -/
def Completes (s t : State) (d : Desc) (r : Done) : Prop :=
  (∃ c : Cpl, (t.ring d.ring.toNat).cqPend = (s.ring d.ring.toNat).cqPend ++ [c] ∧ c.kind = 0 ∧ c.tag = dTag d ∧ c.index = d.index.toNat
    ∧ c.opcode = d.opcode ∧ c.irq = dIrq d ∧ c.stream = (if r.stream = 0 then dStream d else r.stream) ∧ c.status = r.status ∧ c.resA = r.resA
    ∧ c.resB = r.resB ∧ c.verdict = r.verdict ∧ c.pos = r.pos)
  ∧ (t.ring d.ring.toNat).fetched = (s.ring d.ring.toNat).fetched.erase d ∧ ∀ c ∈ t.cmds, c ∈ s.cmds
/-- The command of d runs on as k, and no completion entry is queued for it yet. -/
def Runs (s t : State) (d : Desc) (k : CmdK) : Prop :=
  (∃ c ∈ t.cmds, c.ring = d.ring.toNat ∧ c.index = d.index.toNat ∧ c.tag = dTag d ∧ c.opcode = d.opcode ∧ c.k = k)
  ∧ (t.ring d.ring.toNat).cqPend = (s.ring d.ring.toNat).cqPend ∧ (t.ring d.ring.toNat).fetched = (s.ring d.ring.toNat).fetched.erase d

/-! Frames. -/

/-- Streams, their records, masks and open counts are as before. -/
def SameStreams (s t : State) : Prop := t.streams = s.streams ∧ t.recs = s.recs ∧ t.masks = s.masks ∧ t.opens = s.opens
/-- Images, the associative store, policies and cairns are as before. -/
def SameStores (s t : State) : Prop :=
  t.images = s.images ∧ t.banks = s.banks ∧ t.policies = s.policies ∧ t.cairns = s.cairns ∧ t.tokCache = s.tokCache
/-- Tenants and their counts are as before. -/
def SameTenants (s t : State) : Prop := t.tenants = s.tenants
/-- The stack's channels, windows and regions are as before. -/
def SameStack (s t : State) : Prop := t.stack = s.stack
/-- Registers, fuses, start state, clock, governor, integrity and range state, the port and the test port are as before. -/
def SameControl (s t : State) : Prop :=
  t.regs = s.regs ∧ t.fuses = s.fuses ∧ t.build = s.build ∧ t.start = s.start ∧ t.clk = s.clk ∧ t.gov = s.gov ∧ t.integ = s.integ
    ∧ t.range = s.range ∧ t.port = s.port ∧ t.test = s.test ∧ t.pending = s.pending
/-- Every ring but one is as before. -/
def SameRingsBut (k : Nat) (s t : State) : Prop := ∀ j, j ≠ k → t.ring j = s.ring j

/-- Beats run: the start is complete and no stop holds. -/
def State.live (s : State) : Bool := s.complete && !s.clk.stopped
/-- An effect is due at the coming boundary. -/
def State.dueNow (s : State) (e : Eff) : Bool := (s.takeEff fun x => x == e).isSome
/-- The state with the first due entry of an effect taken from the schedule. -/
def State.taken (s : State) (e : Eff) : State := match s.takeEff fun x => x == e with | some x => x.2 | none => s


end Sys2Proof.Machine
end

