-- ==== Sys2Proof/Certificates/Slice0/Obligations.lean ====
section
/-! DEFINITION. Statements for the provers, by chapter of the manual: what each command does and what it leaves alone. -/

open Sys2Proof Sys2Proof.Machine

/-! The queue. -/

/-- A step takes the command at the front of the queue and runs it on the state with the queue's rest. -/
def Obligations.FrontCommandRuns : Prop :=
  ∀ (c : Instr) (rest : List Instr) (s : State), step { s with pending := c :: rest } = exec c { s with pending := rest }

/-- Commands leave the queue in order, one a step, and no command puts one in. -/
def Obligations.QueueFirstInFirstOut : Prop := ∀ s t : State, step s = .next t → t.pending = s.pending.tail

/-- Every command answers a next state in every state: none is refused and none stops the block. -/
def Obligations.EveryCommandAnswers : Prop := ∀ (c : Instr) (s : State), ∃ t, exec c s = .next t

/-! Reset and start (Chapter 14). -/

/-- The power-on reset: every register at its reset value, nothing open, and start steps 1 to 3 with what they find (R412, R420, R496). -/
def Obligations.PowerOnResetRunsSteps1To3 : Prop :=
  ∀ (b : BootIn) (s : State), ∃ t, exec (.powerOnReset b) s = .next t
    ∧ t.regs = RegS.reset s.build.cfg ∧ t.clk.beat = 0 ∧ t.start.savedEpoch = 0 ∧ t.start.warm = false
    ∧ (t.rings = [] ∧ t.cmds = [] ∧ t.sched = [] ∧ t.streams = [] ∧ t.recs = [] ∧ t.masks = [] ∧ t.images = [] ∧ t.banks = []
      ∧ t.tenants = [] ∧ t.policies = [])
    ∧ (t.fuses = s.fuses ∧ t.build = s.build ∧ t.test = s.test ∧ t.pending = s.pending ∧ t.cairns = s.cairns.filter fun x => x.2.current.isSome)
    ∧ (b.fuseOk = false → t.start.phase = .failed ∧ t.start.failedStep = 1 ∧ t.start.failCount = 1 ∧ t.start.halted = true
        ∧ t.integ.faults = 16 ∧ t.host.irqStatus = 1)
    ∧ (b.fuseOk = true → b.romOk = false → t.start.phase = .failed ∧ t.start.failedStep = 2 ∧ t.start.failCount = 1
        ∧ t.start.halted = true ∧ t.integ.faults = 16 ∧ t.host.irqStatus = 1)
    ∧ (b.fuseOk = true → b.romOk = true →
        t.start.fuseCopy = s.fuses ∧ t.integ.cellsOut = (b.badCells.filter fun c => c < s.cells).eraseDups
        ∧ ((b.otherBad = true ∨ 16 < t.integ.cellsOut.length) → t.start.phase = .failed ∧ t.start.failedStep = 3 ∧ t.start.failCount = 1
            ∧ t.start.halted = false ∧ t.host.irqStatus = 1)
        ∧ (b.otherBad = false → t.integ.cellsOut.length ≤ 16 → t.start.phase = .awaiting ∧ t.start.failCount = 0 ∧ t.host.irqStatus = 0))

/-- The warm reset: registers at their reset values, FAIL_COUNT and SAVED_EPOCH kept, steps 1 to 3, and safe mode left alone
(R412, R420, R421, R496). -/
def Obligations.WarmResetKeepsFailCount : Prop :=
  ∀ (b : BootIn) (s : State), ∃ t, exec (.warmReset b) s = .next t
    ∧ t.regs = RegS.reset s.build.cfg ∧ t.clk.beat = 0 ∧ t.start.savedEpoch = s.start.savedEpoch
    ∧ (t.streams = [] ∧ t.rings = [] ∧ t.cmds = [] ∧ t.images = [] ∧ t.tenants = [])
    ∧ (t.fuses = s.fuses ∧ t.build = s.build ∧ t.test = s.test ∧ t.pending = s.pending ∧ t.cairns = s.cairns.filter fun x => x.2.current.isSome)
    ∧ (s.start.phase = .safeMode → s.start.coldNext = false →
        t.start.phase = .safeMode ∧ t.start.failCount = 3 ∧ t.start.failedStep = 0)
    ∧ ((s.start.phase ≠ .safeMode ∨ s.start.coldNext = true) →
        t.start.warm = !s.start.coldNext
        ∧ (b.fuseOk = false → t.start.phase = .failed ∧ t.start.failedStep = 1 ∧ t.start.failCount = min 3 (s.start.failCount + 1)
            ∧ t.start.halted = true)
        ∧ (b.fuseOk = true → b.romOk = false → t.start.phase = .failed ∧ t.start.failedStep = 2
            ∧ t.start.failCount = min 3 (s.start.failCount + 1) ∧ t.start.halted = true)
        ∧ (b.fuseOk = true → b.romOk = true → s.start.coldNext = false →
            t.start.phase = .awaiting ∧ t.start.failCount = s.start.failCount ∧ t.start.halted = false)
        ∧ (b.fuseOk = true → b.romOk = true → s.start.coldNext = true → b.otherBad = true →
            t.start.phase = (if 2 ≤ s.start.failCount then .safeMode else .failed) ∧ t.start.failedStep = 3
            ∧ t.start.failCount = min 3 (s.start.failCount + 1) ∧ t.start.halted = false))

/-- GO runs steps 4 to 8 only while the block awaits configuration. Steps 5, 6 and 7 fail a start; the third failure in a row enters safe
mode; a start with no failure waits for its completion with B_rt measured or kept (R68, R71, R413, R414, R420, R421). -/
def Obligations.GoRunsSteps4To8 : Prop :=
  ∀ (v : W32) (x : StartIn) (s : State),
    ((bit v 0 = false ∨ s.start.phase ≠ .awaiting) → exec (.go v x) s = .next s)
    ∧ (bit v 0 = true → s.start.phase = .awaiting →
      let bad5 := stackBad (s.identify x) x
      let bad7 := !x.persistOk || decide (4 < s.persistAttr)
      let keep := s.start.warm && x.epoch.toNat == s.start.savedEpoch
      ∃ t, exec (.go v x) s = .next t ∧ t.regs = s.regs ∧ t.fuses = s.fuses ∧ t.clk = s.clk ∧ t.pending = s.pending
        ∧ ((bad5 = true ∨ timeAdvances x = false ∨ bad7 = true) →
            t.start.failedStep = (if bad5 then 5 else if timeAdvances x then 7 else 6)
            ∧ t.start.phase = (if 2 ≤ s.start.failCount then .safeMode else .failed)
            ∧ t.start.failCount = min 3 (s.start.failCount + 1) ∧ t.start.halted = false ∧ t.host.irqStatus = s.host.irqStatus ||| 1
            ∧ t.integ.faults = (if bad5 then s.integ.faults ||| 1 else s.integ.faults) ∧ t.images = s.images)
        ∧ (bad5 = false → timeAdvances x = true → bad7 = false →
            t.start.phase = .steps48 ∧ t.start.failCount = s.start.failCount ∧ t.start.brtKept = keep
            ∧ t.start.timeSum = sumBy (·.toNat) x.times ∧ t.start.timeKhz = s.freqKhz
            ∧ t.stack.brt = max (if keep then s.start.keptBrt else max 1 (cdiv (x.rtMax + 35) 235)) s.regs.rtFloor.toNat
            ∧ t.stack.epoch = x.epoch.toNat))

/-- The boundary of start completion: the beat counter reads 0, FAIL_COUNT is 0, the epoch is saved, the offset is stored and the management
interrupt is raised; in any other state nothing completes (R412, R414, R420). The place of p_c is the model's choice of log 41. -/
def Obligations.StartCompletesAtBoundaryZero : Prop :=
  ∀ (time : W64) (s : State),
    (s.start.phase ≠ .steps48 → exec (.startComplete time) s = .next s)
    ∧ (s.start.phase = .steps48 → ∃ t, exec (.startComplete time) s = .next t
        ∧ t.start.phase = .complete ∧ t.rwl = false ∧ t.clk.beat = 0 ∧ t.start.failCount = 0 ∧ t.start.savedEpoch = s.stack.epoch
        ∧ t.start.offset = BitVec.ofInt 64 (offsetOf s.start time) ∧ t.host.irqStatus = s.host.irqStatus ||| 2
        ∧ t.regs = s.regs ∧ t.fuses = s.fuses ∧ t.streams = s.streams ∧ t.rings = s.rings ∧ t.tenants = s.tenants
        ∧ t.pending = s.pending)

/-! Registers (Chapter 17). -/

/-- The registers that hold a value right after reset, in the configuration the model takes (Tables 17-4 to 17-15; the configuration is the
model's choice of log 13). -/
def Obligations.ResetRegisterValues : Prop :=
  ∀ x ∈ [(0x0000, 0x02020300#32), (0x0004, 0x00001A20#32), (0x0008, 2#32), (0x0010, 0x18080410#32), (0x0014, 0x100#32),
      (0x0018, 0x4000#32), (0x001C, 0x10000#32), (0x0020, 0x10000#32), (0x0024, 0x08000020#32), (0x0028, 0x4000#32), (0x1000, 0#32),
      (0x1004, 0#32), (0x1008, 0x000E57E0#32), (0x1010, 0#32), (0x1018, 0#32), (0x2000, 0x00030000#32), (0x2008, 0#32), (0x2014, 0#32),
      (0x2100, 0#32), (0x2180, 0#32), (0x3000, 0x00FF2008#32), (0x3004, 0#32), (0x3010, 0#32), (0x3030, 0#32), (0x4000, 0#32),
      (0x404C, 0#32), (0x5000, 0x00001004#32), (0x5004, 0x0369645F#32), (0x5008, 0#32), (0x5020, 0#32), (0x5080, 0#32), (0x6000, 0#32),
      (0x6004, 1#32), (0x6400, 0#32), (0x7000, 0#32), (0x7004, 0#32), (0x7008, 0x0000FA00#32), (0x7010, 0#32), (0x7040, 0#32),
      (0x8000, 0#32)], State.reset.regRead x.1 = x.2

/-- The size registers read the values of their table in every configuration (R498). -/
def Obligations.SizeRegistersFollowConfiguration : Prop :=
  ∀ s : State,
    let f (a b c : W32) : W32 := match s.build.cfg with | .c4 => a | .c8 => b | .c16 => c
    s.regRead 0x0010 = f 0x0C020104#32 0x10040208#32 0x18080410#32 ∧ s.regRead 0x0014 = f 0x40#32 0x80#32 0x100#32
    ∧ s.regRead 0x0018 = f 0x1000#32 0x2000#32 0x4000#32 ∧ s.regRead 0x001C = f 0x4000#32 0x8000#32 0x10000#32
    ∧ s.regRead 0x0020 = f 0x4000#32 0x8000#32 0x10000#32 ∧ s.regRead 0x0024 = f 0x08000008#32 0x08000010#32 0x08000020#32
    ∧ s.regRead 0x0028 = f 0x1000#32 0x2000#32 0x4000#32

/-- A plain register reads back what a write puts into its fields, reserved bits ignored; a field locked at start completion keeps its value
from then on; every other register of the map reads as before (R19, R21, R495). The masks are those of the registers' field tables. -/
def Obligations.PlainRegistersReadBack : Prop :=
  ∀ (off : BitVec 16) (m v : W32) (s : State),
    let locked : List (BitVec 16 × W32) := [(0x2008, 0xFFFFF000), (0x200C, 0x01FFFFFF), (0x2020, 0xFFF00000), (0x2024, 0x01FFFFFF),
      (0x2028, 0x77), (0x2030, 0xFFFFF7FF), (0x2034, 0x01FFFFFF), (0x2040, 0xFFFF000F), (0x2044, 0x01FFFFFF), (0x2048, 0x7F3F),
      (0x3010, 0xFFFFFFFF), (0x3014, 0xFFFFFFFF), (0x3018, 0xFFFFFFFF), (0x301C, 0xFFFFFFFF), (0x4040, 1), (0x4048, 0xFFFFFFFF),
      (0x5000, 0xFFFFFFFF), (0x8000, 0xF)]
    let free : List (BitVec 16 × W32) := [(0x6004, 0xF), (0x7008, 0x00FFFFFF), (0x6400, 0xFFFFFFFC), (0x67F4, 0x81FFFFFF), (0x6418, 0xFFFFFFFF)]
    ∃ t, exec (.registerWrite off v) s = .next t
      ∧ ((off, m) ∈ locked → s.rwl = true → t.regRead off.toNat = v &&& m)
      ∧ ((off, m) ∈ locked → s.rwl = false → t = s)
      ∧ ((off, m) ∈ free → t.regRead off.toNat = v &&& m)
      ∧ ((off, m) ∈ locked ++ free → ∀ o : Nat, o % 4 = 0 → o ≠ off.toNat → t.regRead o = s.regRead o)

/-- Writes out of range: RCLASS_LIMIT, HOSTPORT_CFG and STACK_CFG keep that field and apply the others; GOV_THERM and CORE_CLOCK stay
(R85, R370, R477, R500, R515). -/
def Obligations.OutOfRangeFieldsKeepTheirValue : Prop :=
  ∀ (v : W32) (s : State), s.rwl = true →
    (∀ n < 16, ∃ t, exec (.registerWrite (BitVec.ofNat 16 (0x4000 + 4 * n)) v) s = .next t
      ∧ t.latBound n = (if fld v 15 0 = 1 then s.latBound n else fld v 15 0)
      ∧ t.maskDeadline n = (if fld v 24 16 = 0 ∨ 8 ≤ fld v 24 16 ∧ fld v 24 16 ≤ 256 then fld v 24 16 else s.maskDeadline n)
      ∧ t.maxDraft n = (if fld v 31 25 ≤ 64 then fld v 31 25 else s.maxDraft n)
      ∧ ∀ k, k ≠ n → t.rclassReg k = s.rclassReg k)
    ∧ (∃ t, exec (.registerWrite 0x2000 v) s = .next t ∧ ∀ lo ∈ [0, 4, 8, 12, 16],
        fld t.regs.hostport (lo + 2) lo = (if fld v (lo + 2) lo ≤ 4 then fld v (lo + 2) lo else fld s.regs.hostport (lo + 2) lo))
    ∧ (∃ t, exec (.registerWrite 0x3000 v) s = .next t ∧
        (let new := t.regs.stackCfg
         let old := s.regs.stackCfg
         let en := fld v 23 16 % 2 ^ s.channels
         fld new 7 0 = (if 8 ≤ fld v 7 0 ∧ fld v 7 0 ≤ 128 then fld v 7 0 else fld old 7 0)
         ∧ fld new 15 8 = (if 8 ≤ fld v 15 8 ∧ fld v 15 8 ≤ 128 then fld v 15 8 else fld old 15 8)
         ∧ fld new 23 16 = (if en = 0 then fld old 23 16 else en)))
    ∧ (∃ t, exec (.registerWrite 0x5004 v) s = .next t ∧ t.regs.govTherm =
        (if fld v 7 0 < fld v 15 8 ∧ fld v 15 8 < fld v 23 16 ∧ fld v 27 24 ≠ 0 then v &&& 0x0FFFFFFF#32 else s.regs.govTherm))
    ∧ (∃ t, exec (.registerWrite 0x1008 v) s = .next t ∧ t.regs.coreClock =
        (if 500000 ≤ fld v 19 0 ∧ fld v 19 0 ≤ 940000 then v &&& 0x000FFFFF#32 else s.regs.coreClock))

/-- A 1 written to a W1C bit clears it and a 0 leaves it: the fault, floor and interrupt status registers, and DOORBELL_FAULT; MGMT_HALT is
read-only, ECC_COUNT takes its value (R19, R21).
Two reads latch: the beat counter's low half the high half, and the time offset's low half its high half; the pair is one value
(R60, Table 14-4). -/
def Obligations.StatusBitsAndPairedReads : Prop :=
  (∀ (v : W32) (s : State),
    (∃ t, exec (.registerWrite 0x7000 v) s = .next t ∧ t.regs = s.regs ∧ t.host = s.host
      ∧ ∀ i, t.integ.faults.testBit i = (s.integ.faults.testBit i && !(v.getLsbD i && i != 4 && decide (i < 8))))
    ∧ (∃ t, exec (.registerWrite 0x5010 v) s = .next t ∧ t.regs = s.regs ∧ t.host = s.host
      ∧ ∀ i, t.integ.floorStatus.testBit i = (s.integ.floorStatus.testBit i && !(v.getLsbD i && decide (i < 8))))
    ∧ (∃ t, exec (.registerWrite 0x6000 v) s = .next t ∧ t.regs = s.regs ∧ t.integ = s.integ
      ∧ ∀ i, t.host.irqStatus.testBit i = (s.host.irqStatus.testBit i && !(v.getLsbD i && decide (i < 4))))
    ∧ (∃ t, exec (.registerWrite 0x7004 v) s = .next t ∧ t.regs = s.regs ∧ t.host = s.host ∧ t.integ.faults = s.integ.faults
      ∧ t.integ.eccCorr = fld v 15 0 ∧ t.integ.eccUncorr = fld v 23 16 ∧ t.integ.eccTorn = fld v 31 24)
    ∧ (∃ t, exec (.missClr v) s = .next t ∧ t.regs = s.regs ∧ t.integ = s.integ ∧ t.rings = s.rings
      ∧ t.host.dbFault = (s.host.dbFault && !v.getLsbD 14) ∧ t.host.dbOverrun = (s.host.dbOverrun && !v.getLsbD 15)
      ∧ t.host.resetBusy = (s.host.resetBusy && !v.getLsbD 16) ∧ t.host.cancelMiss = (if v.getLsbD 23 then 0 else s.host.cancelMiss)
      ∧ t.host.dbRing = s.host.dbRing ∧ t.host.dbCause = s.host.dbCause))
  ∧ (∀ s : State,
    (∃ t, exec .beatCountLoRead s = .next t ∧ t.out = s.out ++ [.regData 0x1010 (BitVec.ofNat 32 (s.beat % 2 ^ 32))]
      ∧ t.regRead 0x1014 = BitVec.ofNat 32 (s.beat / 2 ^ 32)
      ∧ (t.regRead 0x1014).toNat * 2 ^ 32 + (t.regRead 0x1010).toNat = s.beat
      ∧ t.clk.beat = s.clk.beat ∧ t.streams = s.streams ∧ t.regs = s.regs ∧ t.host = s.host)
    ∧ (∃ t, exec .timeOffsetLoRead s = .next t ∧ t.out = s.out ++ [.regData 0x1020 (BitVec.ofNat 32 (s.start.offset.toNat % 2 ^ 32))]
      ∧ (t.regRead 0x1024).toNat * 2 ^ 32 + (t.regRead 0x1020).toNat = s.start.offset.toNat
      ∧ t.start = s.start ∧ t.streams = s.streams ∧ t.regs = s.regs ∧ t.host = s.host))

/-- Every register that a write can refuse holds a value within its range, and every step keeps it so. -/
def Obligations.StepKeepsRegistersLegal : Prop := ∀ s t : State, s.regsLegal = true → step s = .next t → t.regsLegal = true

/-- The registers right after reset are within their ranges. -/
def Obligations.ResetRegistersLegal : Prop := State.reset.regsLegal = true

/-- Only a register write and the two resets change a writable register, whatever else a command does. -/
def Obligations.OnlyWritesAndResetsChangeRegisters : Prop :=
  ∀ (c : Instr) (s t : State), exec c s = .next t → t.regs ≠ s.regs →
    (∃ off v, c = .registerWrite off v) ∨ (∃ b, c = .powerOnReset b) ∨ ∃ b, c = .warmReset b

/-! Rings and doorbells (Chapter 3). -/

/-- A ring doorbell the block does not serve changes nothing. One that it discards is recorded in DOORBELL_FAULT, the first with its ring and
cause, a further one as an overrun, and the ring stays as it was (R93, R97, R98, Table 17-8). -/
def Obligations.DiscardedDoorbellsAreRecorded : Prop :=
  ∀ (num : BitVec 11) (word : W64) (s : State) (c : Instr) (which : Nat),
    (c, which) ∈ [(.submissionTailDoorbell num word, 0), (.completionHeadDoorbell num word, 1), (.egressHeadDoorbell num word, 2)] →
    let k := num.toNat % 1024
    let r := s.ring k
    let i := fld word 25 10
    let recorded (cause : Nat) : Prop := ∃ t, exec c s = .next t ∧ t.rings = s.rings ∧ t.streams = s.streams ∧ t.host.dbFault = true
      ∧ (s.host.dbFault = false → t.host.dbRing = k ∧ t.host.dbCause = cause ∧ t.host.dbOverrun = s.host.dbOverrun)
      ∧ (s.host.dbFault = true → t.host.dbRing = s.host.dbRing ∧ t.host.dbCause = s.host.dbCause ∧ t.host.dbOverrun = true)
    (s.serving = false → exec c s = .next s)
    ∧ (s.serving = true → fld word 9 0 ≠ k → recorded 5)
    ∧ (s.serving = true → fld word 9 0 = k → r.resetAsked = false →
      (r.faulted = true → recorded r.cause)
      ∧ (r.faulted = false → fld word 27 26 = 3 → recorded 7)
      ∧ (r.faulted = false → fld word 27 26 = which → ∀ e, r.entry = some e →
        (ringSize (if which = 0 then e.sqSize else if which = 1 then e.cqSize else e.egSize) ≤ i → recorded 6)
        ∧ (which = 1 → i < ringSize e.cqSize → r.cqDone < (i + ringSize e.cqSize - r.cqHead) % ringSize e.cqSize → recorded 0xA)
        ∧ (which = 2 → i < ringSize e.egSize → r.egDone < (i + ringSize e.egSize - r.egHead) % ringSize e.egSize → recorded 0xA)))

/-- A good doorbell: the submission tail moves unless the ring is halted; a head doorbell returns every entry or slot before the new head
(R94, R96, R98). -/
def Obligations.DoorbellsMoveTailAndHeads : Prop :=
  ∀ (num : BitVec 11) (word : W64) (s : State) (e : RingEntry),
    let k := num.toNat % 1024
    let r := s.ring k
    let i := fld word 25 10
    s.serving = true → fld word 9 0 = k → r.resetAsked = false → r.faulted = false → r.entry = some e →
    (fld word 27 26 = 0 → i < ringSize e.sqSize →
      (r.halted = true → exec (.submissionTailDoorbell num word) s = .next s)
      ∧ (r.halted = false → ∃ t, exec (.submissionTailDoorbell num word) s = .next t ∧ (t.ring k).sqTail = i ∧ (t.ring k).stale = false
          ∧ (t.ring k).sqHead = r.sqHead ∧ (t.ring k).cqHead = r.cqHead ∧ (t.ring k).egHead = r.egHead ∧ SameRingsBut k s t
          ∧ t.streams = s.streams ∧ t.regs = s.regs ∧ t.host.dbFault = s.host.dbFault))
    ∧ (fld word 27 26 = 1 → i < ringSize e.cqSize → (i + ringSize e.cqSize - r.cqHead) % ringSize e.cqSize ≤ r.cqDone →
      ∃ t, exec (.completionHeadDoorbell num word) s = .next t ∧ (t.ring k).cqHead = i
        ∧ (t.ring k).cqUsed = r.cqUsed - (i + ringSize e.cqSize - r.cqHead) % ringSize e.cqSize
        ∧ (t.ring k).cqDone = r.cqDone - (i + ringSize e.cqSize - r.cqHead) % ringSize e.cqSize
        ∧ (t.ring k).sqTail = r.sqTail ∧ (t.ring k).egHead = r.egHead ∧ SameRingsBut k s t ∧ t.streams = s.streams ∧ t.regs = s.regs
        ∧ t.host.dbFault = s.host.dbFault)
    ∧ (fld word 27 26 = 2 → i < ringSize e.egSize → (i + ringSize e.egSize - r.egHead) % ringSize e.egSize ≤ r.egDone →
      ∃ t, exec (.egressHeadDoorbell num word) s = .next t ∧ (t.ring k).egHead = i
        ∧ (t.ring k).egUsed = r.egUsed - (i + ringSize e.egSize - r.egHead) % ringSize e.egSize
        ∧ (t.ring k).egDone = r.egDone - (i + ringSize e.egSize - r.egHead) % ringSize e.egSize
        ∧ (t.ring k).sqTail = r.sqTail ∧ (t.ring k).cqHead = r.cqHead ∧ SameRingsBut k s t ∧ t.streams = s.streams ∧ t.regs = s.regs
        ∧ t.host = s.host)

/-- The first doorbell of a ring whose entry is not held reads the ring table and waits; later ones wait with it. When the entry arrives, a
failed check or poison marks the ring faulted with its cause, and a good entry is kept. A read that overlaps a write packet not yet
acknowledged waits (R92, R93, R407, R475). -/
def Obligations.RingEntryIsReadAndChecked : Prop :=
  ∀ (num : BitVec 11) (word : W64) (tag : BitVec 8) (data : List Byte) (poison : Bool) (s : State),
    let k := num.toNat % 1024
    let r := s.ring k
    (s.serving = true → fld word 9 0 = k → r.resetAsked = false → r.faulted = false → r.entry = none → fld word 27 26 = 0 →
      ∃ t, exec (.submissionTailDoorbell num word) s = .next t ∧ (t.ring k).early = r.early ++ [(0, fld word 25 10)]
        ∧ SameRingsBut k s t ∧ t.streams = s.streams
        ∧ (r.early ≠ [] → t.out = s.out)
        ∧ (r.early = [] → ∀ g, freeTag s.host.reads = some g → unacked s (ringTableBase s + 64 * k) 64 = false →
            t.out = s.out ++ [.hmRead (ringTableBase s + 64 * k) 1 g (s.hpAttr 0)] ∧ AMap.get? t.host.reads g = some (.table k))
        ∧ (r.early = [] → unacked s (ringTableBase s + 64 * k) 64 = true →
            t.out = s.out ∧ t.host.readQ = s.host.readQ ++ [(.table k, ringTableBase s + 64 * k, 1, s.hpAttr 0)]))
    ∧ (AMap.get? s.host.reads tag.toNat = none → exec (.hostReadData tag data poison) s = .next s)
    ∧ (AMap.get? s.host.reads tag.toNat = some (.table k) → r.entry = none → r.early ≠ [] →
      ∃ t, exec (.hostReadData tag data poison) s = .next t ∧ t.streams = s.streams ∧ t.regs = s.regs
        ∧ (poison = true → (t.ring k).faulted = true ∧ (t.ring k).cause = 8 ∧ (t.ring k).entry = none ∧ t.host.dbFault = true)
        ∧ (poison = false → ∀ c, entryCause (parseRing data) = some c →
            (t.ring k).faulted = true ∧ (t.ring k).cause = c ∧ (t.ring k).entry = none ∧ t.host.dbFault = true)
        ∧ (poison = false → entryCause (parseRing data) = none →
            (t.ring k).entry = some (parseRing data) ∧ (t.ring k).faulted = r.faulted ∧ (t.ring k).early = []))

/-- A cancel doorbell: an open stream of the ring is cancelled at the next boundary, twice as once, and an INGEST of it that completed in this
beat and whose entry is not yet written completes BAD_STREAM (Table 1-3); any other is counted in CANCEL_MISS, which stays at 0xFF (R99).
CANCEL asks for the stream's cancel at the next boundary and runs on; with one asked already, its own checks refuse it (R112, R146). -/
def Obligations.CancelsAreAskedOnce : Prop :=
  (∀ (num : BitVec 11) (word : W64) (s : State),
    let k := num.toNat % 1024
    let h := fld word 41 10
    (s.serving = false → exec (.cancelDoorbell num word) s = .next s)
    ∧ (s.serving = true → fld word 9 0 = k → ∃ t, exec (.cancelDoorbell num word) s = .next t
      ∧ t.streams = s.streams ∧ t.regs = s.regs ∧ t.recs = s.recs
      ∧ (∀ st, s.stream? h = some st → st.ring = k → st.phase ≠ .opening → t.host = s.host ∧ SameRingsBut k s t
          ∧ (t.ring k).cqPend = (s.ring k).cqPend.map (fun c => if c.opcode = 3 ∧ c.kind = 0 ∧ c.stream = st.handle ∧ c.since = s.beat
              then { c with status := stBadStream } else c)
          ∧ t.sched = if cancelDue s h then s.sched else s.sched ++ [⟨s.nextB, .cancel h vCancelled 0 true, 0⟩])
      ∧ ((∀ st, s.stream? h = some st → st.ring ≠ k ∨ st.phase = .opening) →
          t.host.cancelMiss = min 0xFF (s.host.cancelMiss + 1) ∧ t.sched = s.sched ∧ t.rings = s.rings)))
  ∧ (∀ (d : Desc) (s : State), s.accepts d = true → d.opcode = 0x05 → ∃ t, exec (.cancel d) s = .next t
    ∧ Runs s t d (.cancelC (dStream d)) ∧ t.sched = s.sched ++ [⟨s.nextB, .cancel (dStream d) vCancelled 0 false, 0⟩]
    ∧ t.streams = s.streams ∧ t.recs = s.recs ∧ t.tenants = s.tenants ∧ t.regs = s.regs)

/-- The boundary of an asked cancel: the stream is closed, its records are gone with its masks not begun, and a cancel doorbell's stream
event is queued with the charged count; with none due nothing changes (R50, R99, R146). -/
def Obligations.CancelEndsTheStream : Prop :=
  ∀ (h : W32) (b : Nat) (st : Stream) (s : State),
    (s.sched = [] → exec (.cancelTakesEffect h) s = .next s)
    ∧ (s.clk.stopped = false → s.atEnd = true → beatLe b s.nextB = true →
      (∀ x ∈ s.sched, x = ⟨b, .cancel h.toNat vCancelled 0 true, 0⟩) → s.sched ≠ [] →
      s.stream? h.toNat = some st → (∀ c ∈ s.cmds, c.stream ≠ h.toNat) →
      ∃ t, exec (.cancelTakesEffect h) s = .next t ∧ t.stream? h.toNat = none ∧ t.sched = []
        ∧ t.recs = s.recs.filter (fun r => r.h != h.toNat) ∧ t.masks = s.masks.filter (fun m => m.h != h.toNat || m.begun)
        ∧ (∃ c ∈ (t.ring st.ring).cqPend, c.kind = 3 ∧ c.stream = h.toNat ∧ c.verdict = vCancelled ∧ c.pos = st.charged)
        ∧ t.images = s.images ∧ t.tenants = s.tenants ∧ t.cmds = s.cmds ∧ t.regs = s.regs)

/-- RING_RESET asks for a reset of the ring at the next boundary, twice as once. At its boundary it is refused with RESET_BUSY while a stream
of the ring is open or a fetched command waits or runs; else the ring is as after a reset, and no read or write begun before it is the
ring's any more (R92, R94, R98, R502). -/
def Obligations.RingResetAtTheBoundary : Prop :=
  ∀ (v : W32) (ring : BitVec 10) (s : State),
    let k := fld v 9 0
    let r := ring.toNat
    let busy := !(streamsOf s r).isEmpty || !(s.ring r).fetched.isEmpty || s.cmds.any fun c => c.ring == r
    ((s.ring k).resetAsked = true → exec (.ringReset v) s = .next s)
    ∧ ((s.ring k).resetAsked = false → ∃ t, exec (.ringReset v) s = .next t ∧ (t.ring k).resetAsked = true
        ∧ t.sched = s.sched ++ [⟨s.nextB, .ringReset k, 0⟩] ∧ SameRingsBut k s t ∧ t.streams = s.streams ∧ t.regs = s.regs)
    ∧ (s.dueNow (.ringReset r) = false → exec (.ringResetEffect ring) s = .next s)
    ∧ (s.dueNow (.ringReset r) = true → ∃ t, exec (.ringResetEffect ring) s = .next t ∧ SameRingsBut r s t
        ∧ t.streams = s.streams ∧ t.regs = s.regs ∧ (t.ring r).resetAsked = false
        ∧ (busy = true → t.host.resetBusy = true ∧ (t.ring r).fetched = (s.ring r).fetched ∧ (t.ring r).cqPend = (s.ring r).cqPend)
        ∧ (busy = false → t.ring r = Ring.blank ∧ t.host.resetBusy = s.host.resetBusy ∧ t.host.dbFault = s.host.dbFault
            ∧ t.host.irqStatus = s.host.irqStatus ∧ t.host.writes = s.host.writes ∧ (∀ x ∈ t.host.reads, ROwner.ofRing r x.2 = false)
            ∧ (∀ x ∈ t.host.readQ, ROwner.ofRing r x.1 = false)
            ∧ ∀ x ∈ t.host.jobs, (∀ i c, x.2.owner ≠ .cpl r i c) ∧ (∀ n, x.2.owner ≠ .batch r n) ∧ x.2.owner ≠ .tokens r))

/-- A re-read of a descriptor whose phase was wrong: taken once its phase is right, read again up to the fourth time, then reported
RING_STALE with tag and opcode 0 while the ring stops fetching (R95, R100). A descriptor for which no re-read is under way changes nothing.
Descriptor data arrives: a row whose phase is right is fetched, the first whose phase is wrong is to be re-read, and poison halts the
ring (R95, R100, R407). A descriptor that no row of the command table names completes BAD_DESCRIPTOR as soon as it may start (R22). -/
def Obligations.DescriptorsAreTakenByTheirPhase : Prop :=
  (∀ (d : Desc) (n : Nat) (e : RingEntry) (s : State),
    let k := d.ring.toNat
    let r := s.ring k
    ((r.reread = none ∨ r.fetching ≠ [d.index.toNat]) → exec (.descriptorPhaseReread d) s = .next s)
    ∧ (r.reread = some n → r.entry = some e → r.served = true → r.fetching = [d.index.toNat] → (∀ x ∈ d :: r.fetched, descListed x = true) →
      ∃ t, exec (.descriptorPhaseReread d) s = .next t ∧ SameRingsBut k s t ∧ t.streams = s.streams ∧ t.cmds = s.cmds
        ∧ (dPhase d = r.sqPhase → (t.ring k).fetched = r.fetched ++ [d] ∧ (t.ring k).reread = none
            ∧ (t.ring k).sqHead = (if r.sqHead + 1 = ringSize e.sqSize then 0 else r.sqHead + 1)
            ∧ (t.ring k).sqPhase = (if r.sqHead + 1 = ringSize e.sqSize then !r.sqPhase else r.sqPhase)
            ∧ (t.ring k).cqPend = r.cqPend)
        ∧ (dPhase d ≠ r.sqPhase → n < 3 → (t.ring k).reread = some (n + 1) ∧ (t.ring k).fetched = r.fetched
            ∧ (t.ring k).cqPend = r.cqPend)
        ∧ (dPhase d ≠ r.sqPhase → 3 ≤ n → (t.ring k).reread = none ∧ (t.ring k).stale = true ∧ (t.ring k).fetched = r.fetched
            ∧ ∃ c, (t.ring k).cqPend = r.cqPend ++ [c] ∧ c.status = stStale ∧ c.tag = 0 ∧ c.opcode = 0 ∧ c.index = r.sqHead)))
  ∧ (∀ (tag : BitVec 8) (data : List Byte) (k : Nat) (e : RingEntry) (s : State),
    let r := s.ring k
    AMap.get? s.host.reads tag.toNat = some (.desc k r.sqHead) → r.fetching = [r.sqHead] → r.reread = none → r.entry = some e →
    data.length = 64 →
    (let d := mkDesc k r.sqHead data
     ((∀ x ∈ d :: r.fetched, descListed x = true) →
      ∃ t, exec (.hostReadData tag data false) s = .next t ∧ t.streams = s.streams ∧ t.cmds = s.cmds ∧ SameRingsBut k s t
      ∧ (dPhase d = r.sqPhase → (t.ring k).fetched = r.fetched ++ [d]
          ∧ (t.ring k).sqHead = (if r.sqHead + 1 = ringSize e.sqSize then 0 else r.sqHead + 1))
      ∧ (dPhase d ≠ r.sqPhase → (t.ring k).reread = some 0 ∧ (t.ring k).fetched = r.fetched ∧ (t.ring k).sqHead = r.sqHead))
     ∧ (descListed d = false → dPhase d = r.sqPhase → r.fetched = [] → s.cmds = [] → s.serving = true → s.start.halted = false →
        r.served = true → k < 1024 →
        ∃ t c, exec (.hostReadData tag data false) s = .next t ∧ t.streams = s.streams ∧ t.cmds = [] ∧ (t.ring k).fetched = []
          ∧ (t.ring k).cqPend = r.cqPend ++ [c] ∧ c.status = stBadDesc ∧ c.tag = dTag d ∧ c.index = d.index.toNat))
    ∧ (∃ t, exec (.hostReadData tag data true) s = .next t ∧ (t.ring k).halted = true))

/-! Stream commands (Chapters 2, 3 and 4). -/

/-- OPEN_STREAM of a stream with no allow list and no cairn: the tenant, the named objects and the admission checks decide in this order;
once they pass, a stream is made on an allowed ridge at a free index, with the next open sequence of that index, and it opens at the next
boundary (R83, R118, R119, R339, Table 3-7). Which free index is used is the model's free choice (log 4). -/
def Obligations.OpenStreamMakesAStream : Prop :=
  ∀ (d : Desc) (allow : List Byte) (o : OpenObj) (s : State),
    let u := s.started d
    let k := d.ring.toNat
    let a := openArgs d allow
    let rc := ((u.ring k).entry.map (·.rclass)).getD 0
    let cand := ridgeCand u (u.maxDraft rc) a.ridge (pinnedRidges u a o)
    s.accepts d = true → d.opcode = 0x01 → a.allowAddr = 0 → a.resume = false →
    (tenantOk u k a.tenant = false → ∃ t, exec (.openStream d allow) s = .next t ∧ Completes s t d { status := stBadTenant }
      ∧ t.streams = s.streams ∧ t.sched = s.sched ∧ t.tenants = s.tenants)
    ∧ (∀ e, tenantOk u k a.tenant = true → openObjects u a = .error e → ∃ t, exec (.openStream d allow) s = .next t
      ∧ Completes s t d { status := e } ∧ t.streams = s.streams ∧ t.sched = s.sched ∧ t.tenants = s.tenants)
    ∧ (∀ e, tenantOk u k a.tenant = true → openObjects u a = .ok o → cand = [] → openAdmit u rc a o none false = some e →
      ∃ t, exec (.openStream d allow) s = .next t ∧ Completes s t d { status := e } ∧ t.streams = s.streams ∧ t.sched = s.sched)
    ∧ (tenantOk u k a.tenant = true → openObjects u a = .ok o → cand ≠ [] → o.allow = none →
      (∀ r ∈ cand, openAdmit u rc a o (some r) false = none) →
      ∃ (t : State) (h : Nat) (st : Stream), exec (.openStream d allow) s = .next t
        ∧ Completes s t d { status := stOK, stream := h }
        ∧ AMap.get? s.streams (hIndex h) = none ∧ AMap.get? t.streams (hIndex h) = some st
        ∧ h / 2 ^ 14 = (AMap.getD s.opens (hIndex h) 0 + 1) % 2 ^ 18
        ∧ st.handle = h ∧ st.phase = .opening ∧ st.ring = k ∧ st.tenant = a.tenant ∧ st.policy = a.policy ∧ st.ridge ∈ cand
        ∧ st.rc = rc ∧ st.pos = 0 ∧ st.charged = 0 ∧ st.slot = none
        ∧ (∀ i, i ≠ hIndex h → AMap.get? t.streams i = AMap.get? s.streams i)
        ∧ t.sched = s.sched ++ [⟨s.nextB, .openS h 0, 0⟩] ∧ t.tenants = s.tenants ∧ t.images = s.images ∧ t.recs = s.recs ∧ t.regs = s.regs)

/-- CLOSE_STREAM asks for the close at the next boundary and runs on. At that boundary, with no chunk or INGEST complete then, intake ends:
the open chunk, drafts with their masks not begun, and unstamped records other than complete chunks are dropped, the open step closes, and
the stream drains; no close due changes nothing (R112, R178, R220, Table 5-5). -/
def Obligations.CloseDrainsTheStream : Prop :=
  ∀ (d : Desc) (h : W32) (s : State),
    (s.accepts d = true → d.opcode = 0x02 → ∃ t, exec (.closeStream d) s = .next t ∧ Runs s t d (.closeS (dStream d))
      ∧ t.sched = s.sched ++ [⟨s.nextB, .closeS (dStream d), 0⟩] ∧ t.streams = s.streams ∧ t.recs = s.recs ∧ t.regs = s.regs)
    ∧ (s.dueNow (.closeS h.toNat) = false → exec (.streamCloseBoundary h) s = .next s)
    ∧ (s.dueNow (.closeS h.toNat) = true → ∀ st, s.stream? h.toNat = some st → chunkReady st = none →
      (∀ j js, st.jobs = j :: js → j.ready = false) →
      ∃ t st', exec (.streamCloseBoundary h) s = .next t ∧ t.stream? h.toNat = some st' ∧ st'.phase = .closing ∧ st'.step = none
        ∧ st'.toks = [] ∧ st'.parts = [] ∧ st'.jobs = [] ∧ st'.nodes = [] ∧ st'.held = st.held ∧ st'.charged = st.charged
        ∧ st'.slot = st.slot
        ∧ t.recs = s.recs.filter (fun r => !(r.h == h.toNat && ((r.stamp.isNone && r.kind != RecK.chunk) || r.kind == RecK.draft)))
        ∧ (∀ i, i ≠ hIndex h.toNat → AMap.get? t.streams i = AMap.get? s.streams i) ∧ t.rings = s.rings
        ∧ t.masks = s.masks.filter (fun m => !(m.h == h.toNat && !m.taken && !m.begun && (m.rid.map (st.nodes.map (·.1)).contains).getD false))
        ∧ t.cmds = s.cmds ∧ t.regs = s.regs)

/-- BIND_SLOT binds and unbinds at the next boundary. A stream not open, a slot in use, or records, masks or drafts in flight refuse it
(R112, Table 3-7). -/
def Obligations.BindSlotAtTheBoundary : Prop :=
  ∀ (d : Desc) (st : Stream) (s : State),
    let u := s.started d
    let slot := dfld d 2 13 0
    s.accepts d = true → d.opcode = 0x04 → s.stream? (dStream d) = some st →
    (dbit d 2 16 = false →
      ((bindOk st = false ∨ slotTaken u slot st.handle = true ∨ (st.slot.isSome = true ∧ slotBusy u st = true)) →
        ∃ t, exec (.bindSlot d) s = .next t ∧ Completes s t d { status := stState } ∧ t.streams = s.streams ∧ t.sched = s.sched)
      ∧ (bindOk st = true → slotTaken u slot st.handle = false → (st.slot.isSome = true → slotBusy u st = false) →
          (st.grammar.isSome = true → u.fitsDeadlines u.adms = true) →
        ∃ t, exec (.bindSlot d) s = .next t ∧ Runs s t d (.bindS st.handle)
          ∧ t.sched = s.sched ++ [⟨s.nextB, .bindS st.handle (some slot) s.nextId, 0⟩] ∧ t.streams = s.streams ∧ t.recs = s.recs))
    ∧ (dbit d 2 16 = true →
      ((bindOk st = false ∨ slotBusy u st = true) →
        ∃ t, exec (.unbindSlot d) s = .next t ∧ Completes s t d { status := stState } ∧ t.streams = s.streams ∧ t.sched = s.sched)
      ∧ (bindOk st = true → slotBusy u st = false → ∃ t, exec (.unbindSlot d) s = .next t ∧ Runs s t d (.bindS st.handle)
          ∧ t.sched = s.sched ++ [⟨s.nextB, .bindS st.handle none s.nextId, 0⟩] ∧ t.streams = s.streams ∧ t.recs = s.recs))

/-- INGEST: refused once the end of input is announced, tokenizing has stopped or the stream takes no input; else its buffer joins the
stream's jobs and is read in parts between 4 KiB boundaries; no token is produced before a segment is in (R149 to R151, R167, R173, R473). -/
def Obligations.IngestReadsItsBuffer : Prop :=
  ∀ (d : Desc) (st : Stream) (s : State),
    let addr := dfld d 2 56 0
    let len := dfld d 3 25 0
    let h := dStream d
    s.accepts d = true → d.opcode = 0x03 → s.stream? h = some st →
    ((st.eoi = true ∨ st.stoppedTok = true ∨ inputTaken st = false ∨ s.isFirst = false) →
      ∃ t, exec (.ingest d) s = .next t ∧ Completes s t d { status := stState } ∧ t.streams = s.streams ∧ t.out = s.out)
    ∧ (st.eoi = false → st.stoppedTok = false → inputTaken st = true → s.isFirst = true → (∀ j ∈ st.jobs, j.ready = true) → 0 < len →
      segPre 0 (preToks (s.vocabOf st) st.carry [] false (dbit d 3 32)).1 = none →
      ∃ (t : State) (st' : Stream) (j : Ingest), exec (.ingest d) s = .next t ∧ Runs s t d (.ingest h) ∧ t.stream? h = some st'
        ∧ st'.jobs = st.jobs ++ [j] ∧ j.addr = addr ∧ j.len = len ∧ j.ready = false ∧ j.did = 0 ∧ j.reads = ingestParts addr len
        ∧ st'.eoi = dbit d 3 32 ∧ st'.ingested = true ∧ st'.toks = st.toks ∧ st'.pos = st.pos ∧ st'.charged = st.charged
        ∧ t.recs = s.recs ∧ t.tenants = s.tenants ∧ t.sched = s.sched
        ∧ (ingestParts addr len = 1 → ∀ g, freeTag s.host.reads = some g →
            unacked s (addr / 64 * 64) (64 * cdiv (addr % 64 + len) 64) = false →
            t.out = s.out ++ [.hmRead (addr / 64 * 64) (cdiv (addr % 64 + len) 64) g (((s.ring d.ring.toNat).entry.map (·.attr)).getD 0)]))

/-- An INGEST whose bytes are consumed completes with their number, OK or CAPACITY when the token buffer filled, unless a cancel of its
stream is asked for, which then ends it (Table 1-3); a chunk whose last token is there arrives as a record, and the stream's indices and
position move past it; a chunk beyond position 4,194,304 is discarded and ends the output (R58, R112, R147, R170, R171, R173). -/
def Obligations.IngestAndChunkComplete : Prop :=
  ∀ (h : W32) (st : Stream) (s : State), s.complete = true → s.stream? h.toNat = some st →
    (((∀ j js, st.jobs = j :: js → j.ready = false) ∨ cancelDue s h.toNat = true) → exec (.ingestComplete h) s = .next s)
    ∧ (∀ j js c, st.jobs = j :: js → j.ready = true → cancelDue s h.toNat = false → (∀ x ∈ js, x.ready = true) → s.cmd? j.cmd = some c →
      ∃ t st', exec (.ingestComplete h) s = .next t ∧ t.stream? h.toNat = some st' ∧ st'.jobs = js ∧ st'.toks = st.toks
        ∧ t.cmds = s.cmds.filter (fun x => x.id != c.id) ∧ t.recs = s.recs
        ∧ ∃ e, (t.ring c.ring).cqPend = (s.ring c.ring).cqPend ++ [e] ∧ e.tag = c.tag ∧ e.status = (if j.full then stCapacity else stOK)
          ∧ e.resA = j.consumed ∧ e.pos = j.posAfter)
    ∧ (chunkReady st = none → exec (.chunkComplete h) s = .next s)
    ∧ (∀ n last, chunkReady st = some (n, last) → 4194304 < st.pos + n →
      ∃ t st', exec (.chunkComplete h) s = .next t ∧ t.stream? h.toNat = some st' ∧ t.recs = s.recs ∧ st'.toks = []
        ∧ st'.stoppedTok = true ∧ st'.pos = st.pos ∧ t.sched = s.sched ++ [⟨s.nextB, .endOutput h.toNat vIncomplete, 0⟩])
    ∧ (∀ n last, chunkReady st = some (n, last) → st.pos + n ≤ 4194304 →
      ∃ t st' r, exec (.chunkComplete h) s = .next t ∧ t.stream? h.toNat = some st' ∧ t.recs = s.recs ++ [r]
        ∧ r.kind = .chunk ∧ r.h = h.toNat ∧ r.token = st.chunkNo ∧ r.n = n ∧ r.arrived = true ∧ r.stamp = none
        ∧ r.step = b2n last ∧ r.pos = st.p0 + st.tokIdx + n
        ∧ st'.toks = st.toks.drop n ∧ st'.tokIdx = st.tokIdx + n ∧ st'.chunkNo = st.chunkNo + 1 ∧ st'.pos = st.pos + n
        ∧ st'.lastMade = last ∧ st'.charged = st.charged ∧ st'.jobs = st.jobs ∧ t.tenants = s.tenants ∧ t.cmds = s.cmds)

/-- A token record, an accept marker or a step end that meets no condition of a slot fault is taken: its part of the step moves on, a part of
an earlier step closes, and the record waits for its stamp (R57, R121, R124, R126, R127, R210, R211). -/
def Obligations.PortRecordsJoinTheirStep : Prop :=
  ∀ (w : W64) (st : Stream) (s : State) (c : Instr) (k : Nat) (kind : RecK),
    (c, k, kind) ∈ [(.committedToken w, 0, RecK.committed), (.draftToken w, 1, .draft), (.acceptMarker w, 2, .marker), (.stepEnd w, 3, .stepEnd)] →
    let seq := tkStep w
    let p : StepPart := match st.step with
      | some p => if p.seq = seq then p else ⟨seq, s.beat, [], none, false⟩
      | none => ⟨seq, s.beat, [], none, false⟩
    s.portOpen = true → tkKind w = k → s.bound? (tkSlot w) = some st → s.stream? st.handle = some st → st.phase ≠ .closing →
    badFields (s.vocabOf st) k w = false → (∀ l, st.lastClosed = some l → stepAfter seq l = true) →
    (∀ q, st.step = some q → q.seq = seq ∨ stepAfter seq q.seq = true) → partFault p (s.maxDraft st.rc) k w = false →
    ∃ t st' pre r, exec c s = .next t ∧ t.recs = s.recs ++ pre ++ [r] ∧ (∀ x ∈ pre, x.kind = .marker ∧ x.n = 0 ∧ x.h = st.handle)
      ∧ r.kind = kind ∧ r.h = st.handle ∧ r.slot = tkSlot w ∧ r.step = seq ∧ r.stamp = none ∧ r.sealed = false
      ∧ (k < 2 → r.token = tkToken w ∧ r.node = tkNode w ∧ r.parent = tkParent w) ∧ (k = 2 → r.n = fld w 6 0)
      ∧ ((s.streamPol st).tokCount = 0 → r.arrived = true)
      ∧ t.stream? st.handle = some st'
      ∧ st'.step = (if k = 3 then none else some (p.take k w))
      ∧ (k = 3 → st'.lastClosed = some seq) ∧ st'.pos = st.pos ∧ st'.charged = st.charged ∧ st'.phase = st.phase
      ∧ t.tenants = s.tenants ∧ t.sched = s.sched ∧ t.rings = s.rings ∧ t.regs = s.regs

/-- A record that is not taken: for a slot bound to no stream and for a closing stream it is only counted; one that meets a condition of a
slot fault is discarded and counted, and the output of an open stream ends INCOMPLETE at the next boundary (R121, R128, Table 4-5).
The step timeout completes: a part of a step open for 4,096 beats closes with a slot fault, a token that has waited as long for its frame is
dropped with one, and before that nothing changes (R126, R128, Table 4-5). -/
def Obligations.SlotFaultsEndTheOutput : Prop :=
  (∀ (w : W64) (s : State) (c : Instr) (k : Nat),
    (c, k) ∈ [(.committedToken w, 0), (.draftToken w, 1), (.acceptMarker w, 2), (.stepEnd w, 3)] →
    let seq := tkStep w
    (s.portOpen = false → exec c s = .next s)
    ∧ (s.portOpen = true → tkKind w = k → s.bound? (tkSlot w) = none → exec c s = .next (s.count 11 1))
    ∧ (∀ st, s.portOpen = true → tkKind w = k → s.bound? (tkSlot w) = some st → st.phase = .closing → exec c s = .next (s.count 12 1))
    ∧ (∀ st, s.portOpen = true → tkKind w = k → s.bound? (tkSlot w) = some st → st.phase ≠ .closing →
      (badFields (s.vocabOf st) k w = true ∨ (∃ l, st.lastClosed = some l ∧ stepAfter seq l = false)
        ∨ (∃ q, st.step = some q ∧ q.seq ≠ seq ∧ stepAfter seq q.seq = false)
        ∨ (∃ q, st.step = some q ∧ q.seq = seq ∧ partFault q (s.maxDraft st.rc) k w = true)) →
      ∃ t, exec c s = .next t ∧ t.recs = s.recs ∧ t.streams = s.streams ∧ t.tenants = s.tenants ∧ t.rings = s.rings
        ∧ AMap.getD t.mgmt.counters 10 0 = (AMap.getD s.mgmt.counters 10 0 + 1) % 2 ^ 64
        ∧ t.sched = (if st.phase = .inputOpen ∨ st.phase = .answering then s.sched ++ [⟨s.nextB, .endOutput st.handle vIncomplete, 0⟩]
            else s.sched)))
  ∧ (∀ (slot : BitVec 14) (s : State), (s.portOpen = false ∨ s.bound? slot.toNat = none) → exec (.stepOpenTimeout slot) s = .next s)
  ∧ (∀ (slot : BitVec 14) (st : Stream) (s : State), s.portOpen = true → s.bound? slot.toNat = some st → s.stream? st.handle = some st →
    let late := fun r : Rec => r.h == st.handle && r.needFrame && !r.arrived && beatLe (beatAdd r.arriveBeat 4096) s.beat
    ((∀ p, st.step = some p → beatLe (beatAdd p.first 4096) s.beat = false) →
      (s.recs.any late = false → exec (.stepOpenTimeout slot) s = .next s)
      ∧ (s.recs.any late = true → (st.phase = .inputOpen ∨ st.phase = .answering) → ∃ t, exec (.stepOpenTimeout slot) s = .next t
        ∧ t.recs = s.recs.filter (fun r => !late r) ∧ t.sched = s.sched ++ [⟨s.nextB, .endOutput st.handle vIncomplete, 0⟩]
        ∧ t.streams = s.streams ∧ t.tenants = s.tenants ∧ t.rings = s.rings))
    ∧ (∀ p, st.step = some p → beatLe (beatAdd p.first 4096) s.beat = true → s.recs.any late = false →
      (st.phase = .inputOpen ∨ st.phase = .answering) →
      ∃ t st', exec (.stepOpenTimeout slot) s = .next t ∧ t.stream? st.handle = some st' ∧ st'.step = none
        ∧ st'.lastClosed = some p.seq ∧ t.sched = s.sched ++ [⟨s.nextB, .endOutput st.handle vIncomplete, 0⟩]
        ∧ t.tenants = s.tenants ∧ t.rings = s.rings))

/-- A whole feature frame of the declared count and type completes with its effect: a token frame (use 00 for the committed token, use 10 for a draft
node) joins the token that waits for it, or waits for its token; a span frame (use 01) of a passed span is taken in, and makes a record where
a request-level classifier reads it. A frame cut short, or of a step at or before the last one closed or before the open one, is a slot
fault; a frame for no stream is counted (R40, R122, R124, R125, R128,
R482). -/
def Obligations.FeatureFrameMeetsItsToken : Prop :=
  ∀ (f : FrameIn) (st : Stream) (s : State),
    let w := f.hdr
    let p := s.streamPol st
    let d0 := f.desc.headD 0#64
    let start := fld d0 55 32
    let use := fld w 18 17
    let key := if use = 2 then 64 + tkNode w else 0
    let feats : Feats := ⟨fld w 16 15, frameElems (fld w 16 15) (fld w 14 0) f.data, fld d0 15 0, fld d0 31 16⟩
    let waits := fun r : Rec => r.h == st.handle && r.slot == tkSlot w && r.step == tkStep w && r.needFrame && !r.arrived
      && (if use = 2 then r.kind == .draft && r.node == tkNode w else r.kind == .committed)
    let late := (match st.lastClosed with | some l => !stepAfter (tkStep w) l | none => false)
      || (match st.step with | some q => q.seq != tkStep w && !stepAfter (tkStep w) q.seq | none => false)
    (s.portOpen = false → exec (.featureFrame f) s = .next s)
    ∧ (s.portOpen = true → tkKind w = 4 → s.bound? (tkSlot w) = none → ∃ t, exec (.featureFrame f) s = .next t ∧ t.recs = s.recs
      ∧ t.port = s.port ∧ t.streams = s.streams ∧ t.sched = s.sched
      ∧ AMap.getD t.mgmt.counters 11 0 = (AMap.getD s.mgmt.counters 11 0 + 1) % 2 ^ 64)
    ∧ (s.portOpen = true → tkKind w = 4 → s.bound? (tkSlot w) = some st → st.ended = none → (st.phase = .inputOpen ∨ st.phase = .answering) →
      (frameWhole f = false → ∃ t, exec (.featureFrame f) s = .next t ∧ t.recs = s.recs ∧ t.port = s.port ∧ t.streams = s.streams
        ∧ t.sched = s.sched ++ [⟨s.nextB, .endOutput st.handle vIncomplete, 0⟩])
      ∧ (frameWhole f = true → (use = 0 ∧ tkNode w = 0 ∨ use = 2 ∧ tkNode w < s.maxDraft st.rc) →
        (fld w 14 0, fld w 16 15) = (p.tokCount, p.tokType) → tkParent w = 0 →
        (late = true →
          ∃ t, exec (.featureFrame f) s = .next t ∧ t.recs = s.recs ∧ t.port = s.port ∧ t.streams = s.streams
            ∧ t.sched = s.sched ++ [⟨s.nextB, .endOutput st.handle vIncomplete, 0⟩])
        ∧ (∀ r, late = false → s.recs.find? waits = some r → ∃ t, exec (.featureFrame f) s = .next t ∧ t.port = s.port ∧ t.streams = s.streams
          ∧ t.sched = s.sched ∧ t.recs = s.recs.map (fun x => if x.id = r.id then { x with feats := some feats, arrived := true } else x))
        ∧ (late = false → s.recs.find? waits = none →
            earlyFrame s (tkSlot w) (tkStep w) key = none → ∃ t, exec (.featureFrame f) s = .next t ∧ t.recs = s.recs
          ∧ t.streams = s.streams ∧ t.sched = s.sched ∧ t.port.early = s.port.early ++ [(tkSlot w, tkStep w, key, feats)]
          ∧ t.port.credit = s.port.credit))
      ∧ (frameWhole f = true → use = 1 → (fld w 14 0, fld w 16 15) = (p.spanCount, p.spanType) → tkParent w = 0 → tkNode w = 0 →
        tkStep w = 0 → start % 64 = 0 → spanPassed st start = true → start ∉ st.spans → s.stream? st.handle = some st →
        ∃ t st', exec (.featureFrame f) s = .next t ∧ t.stream? st.handle = some st' ∧ st'.spans = st.spans ++ [start] ∧ t.sched = s.sched
          ∧ t.port = s.port
          ∧ ((st.inVerdict.isSome = true ∨ spanRead s p.inDir ((start - st.spanBase) / 64) = false) → t.recs = s.recs)
          ∧ (st.inVerdict = none → spanRead s p.inDir ((start - st.spanBase) / 64) = true →
              ∃ r, t.recs = s.recs ++ [r] ∧ r.kind = .span ∧ r.h = st.handle ∧ r.token = start ∧ r.feats = some feats ∧ r.arrived = true
                ∧ r.stamp = none)))

/-! Beats, screening and release (Chapters 1, 2 and 4). -/

/-- A beat boundary counts one beat, modulo 2^48, and takes the time port; the value taken never falls. Where a stop is asked for, the stop
takes hold at the end of the beat and no beat starts; before the start's completion and while stopped there is no boundary (R14, R59, R433,
R488). A boundary runs the phases of the ending beat that no row has run (the model's choice of log 48). -/
def Obligations.BeatBoundaryCountsOneBeat : Prop :=
  ∀ (x : BeatIn) (s : State),
    ((s.complete = false ∨ s.clk.stopped = true) → exec (.beatBoundary x) s = .next s)
    ∧ (s.live = true → s.stopAsked = true → s.clk.phase < 3 → ∃ t, exec (.beatBoundary x) s = .next t
        ∧ t.clk = { s.clk with phase := 3, cycle := (phaseCycles 3).1, stopped := true } ∧ t.start = s.start ∧ t.regs = s.regs)
    ∧ (s.live = true → s.stopAsked = true → s.clk.phase = 3 → (∀ e ∈ s.sched, ∀ k, e.eff ≠ .program k) → ∃ t, exec (.beatBoundary x) s = .next t
        ∧ t.clk = { s.clk with stopped := true } ∧ t.streams = s.streams ∧ t.recs = s.recs ∧ t.sched = s.sched ∧ t.cmds = s.cmds.map (fun c => { c with paused := true })
        ∧ t.start = s.start ∧ t.regs = s.regs)
    ∧ (s.live = true → s.stopAsked = false → ∃ t, exec (.beatBoundary x) s = .next t
        ∧ t.clk.beat = s.clk.beat + 1 ∧ t.clk.phase = 0 ∧ t.clk.stopped = false
        ∧ t.clk.lastTime = (if x.time.toNat < s.clk.lastTime.toNat then s.clk.lastTime else x.time)
        ∧ t.clk.timeSteps = (if x.time.toNat < s.clk.lastTime.toNat then s.clk.timeSteps + 1 else s.clk.timeSteps)
        ∧ t.start = s.start ∧ t.regs = s.regs ∧ s.fuses.before t.fuses ∧ t.test = s.test ∧ t.pending = s.pending)

/-- The three phases of a beat come in their order, each at most once: compute, seal, release. None of them moves the beat counter, and none
runs before the start's completion or while stopped, when the release phase serves the rings alone (R56, R113, R421). A row whose phase is
past changes nothing (the model's choice of log 48). -/
def Obligations.PhasesKeepTheBeat : Prop :=
  ∀ (evts : List IntegEvt) (mis : List (W32 × Nat)) (s : State),
    (s.live = false → exec (.computePhase evts) s = .next s ∧ exec (.sealPhase mis) s = .next s)
    ∧ (s.live = true →
        (s.clk.phase ≠ 0 → exec (.computePhase evts) s = .next s) ∧ (1 < s.clk.phase → exec (.sealPhase mis) s = .next s)
        ∧ (2 < s.clk.phase → exec .releasePhase s = .next s)
        ∧ (s.clk.phase = 0 → ∃ t, exec (.computePhase evts) s = .next t ∧ t.clk = { s.clk with phase := 1, cycle := (phaseCycles 1).1 } ∧ t.regs = s.regs ∧ t.fuses = s.fuses
          ∧ t.tenants = s.tenants ∧ t.start = s.start)
        ∧ (s.clk.phase ≤ 1 → ∃ t, exec (.sealPhase mis) s = .next t ∧ t.clk = { s.clk with phase := 2, cycle := (phaseCycles 2).1 } ∧ t.regs = s.regs ∧ t.fuses = s.fuses
          ∧ t.tenants = s.tenants ∧ t.start = s.start ∧ (s.clk.phase = 1 → t.rings = s.rings))
        ∧ (s.clk.phase ≤ 2 → ∃ t, exec .releasePhase s = .next t ∧ t.clk = { s.clk with phase := 3, cycle := (phaseCycles 3).1 } ∧ t.regs = s.regs ∧ t.fuses = s.fuses
          ∧ t.tenants = s.tenants ∧ t.start = s.start))
    ∧ (s.serving = false → exec .releasePhase s = .next s)
    ∧ (s.serving = true → s.live = false → ∃ t, exec .releasePhase s = .next t ∧ t.clk = s.clk ∧ t.streams = s.streams ∧ t.recs = s.recs
          ∧ t.masks = s.masks ∧ t.tenants = s.tenants)

/-- A committed record stamped at a boundary carries the beat of its stamp, its place in the stream's output and the release beat its stamp
fixes: the stamp plus the path's D less 1. The stream's position moves on by one, and its charged count by one unless its tenant had no
token left (R57, R61, R147, R349). -/
def Obligations.StampFixesReleaseBeat : Prop :=
  ∀ (r : Rec) (st : Stream) (s : State), s.rec? r.id = some r → (∀ x ∈ s.recs, x.id = r.id → x = r) → s.stream? r.h = some st →
    r.kind = .committed → r.stamp = none → r.arrived = true → stageReady s r = true → r.maskDone = true →
    (st.phase = .inputOpen ∨ st.phase = .answering) → st.ended = none → st.base = none → st.pos < 4194304 → s.isFirst = true → s.grammarOf st = none →
    let d := s.dRangeOf (stampPolicy s st).2.2.1
    ∃ st' x, (State.stampOne (s, []) r.id).1.stream? r.h = some st' ∧ (State.stampOne (s, []) r.id).1.rec? r.id = some x
      ∧ (State.stampOne (s, []) r.id).2 = []
      ∧ x.stamp = some s.beat ∧ x.pos = st.pos ∧ x.rel = beatAdd s.beat (d - 1) ∧ x.sealBy = x.rel ∧ x.token = r.token ∧ x.sealed = r.sealed
      ∧ st'.pos = st.pos + 1 ∧ x.draw ≤ 3 ∧ st'.charged = st.charged + (if x.draw = 3 then 0 else 1)
      ∧ (State.stampOne (s, []) r.id).1.recs.length = s.recs.length

/-- A screened record with no model outstanding is sealed in the seal phase of its release beat with the verdict of the lowest rank among
its results, THROTTLED holds, a held stack tier and a draw without a token among them; two check codes that differ make it INDETERMINATE (R35, R82, R131,
R135, R348). -/
def Obligations.SealedVerdictHasTheLowestRank : Prop :=
  (∀ (vs : List Nat) (v : Nat), (v ∈ vs ∨ v = vPass) → vRank (combine vs) ≤ vRank v)
  ∧ (∀ vs : List Nat, combine vs ∈ vs ∨ combine vs = vPass)
  ∧ ∀ (mis : List (W32 × Nat)) (r : Rec) (st : Stream) (s : State), s.live = true → s.clk.phase = 1 → s.isFirst = true → r ∈ s.recs →
    (∀ x ∈ s.recs, x.id = r.id → x = r) → (∀ x ∈ s.recs, x.models = []) → s.stream? r.h = some st → r.kind = .committed →
    sealDue s r = true → hasFlag r.flags fNanSeen = false →
    ∃ t x, exec (.sealPhase mis) s = .next t ∧ t.rec? r.id = some x ∧ x.sealed = true
      ∧ x.verdict = (if mis.any (fun y => y.1.toNat == r.h && y.2 == r.pos) then vIndet
          else combine (r.results ++ (if r.draw = 3 then [vBudget] else []) ++ (if r.noStack then [vHold] else []) ++ (if r.shed = 1 then [vHold] else if r.shed = 2 then [vBudget] else [])))
      ∧ x.rel = beatMax r.rel s.beat ∧ x.pos = r.pos ∧ x.bytes = r.bytes ∧ x.stamp = r.stamp

/-- The gate: a record whose verdict's effect is neither PASS nor REDACT brings no byte to the gate; a byte is freed only below every
pending pattern; and each byte of an entry the gate writes is a freed byte, a byte of a replacement, or one of an entry that waits for the
input verdict already (R47, R138, R140, R141, R143). -/
def Obligations.WithheldBytesStayInTheGate : Prop :=
  (∀ (g : Gate) (p : PolicyImg) (r : Rec) (v : Nat), (p.mapIndet = vHold ∨ p.mapIndet = vBlock) →
    (p.mapIncomplete = vHold ∨ p.mapIncomplete = vBlock) → v ≠ vPass → v ≠ vRedact → (∀ x ∈ g.bytes, x.item < g.items.length) →
    ∀ x ∈ (g.take p r v).bytes, x.item < g.items.length)
  ∧ (∀ (g : Gate) (p : PolicyImg) (r : Rec) (v : Nat) (x : GByte), x ∈ (g.take p r v).bytes → x.fate = 1 →
      x ∈ g.bytes ∨ x.pos < holdLo (g.take p r v).pends (r.off + r.bytes.length))
  ∧ ∀ (g : Gate) (h : Nat) (bad : List Nat) (waiting : List EgEntry) (x : Nat × EgEntry) (b : Byte), x ∈ (g.close h bad waiting).1 →
      b ∈ x.2.bytes → (∃ y ∈ g.bytes, y.fate = 1 ∧ y.b = b) ∨ (∃ y ∈ g.spans, b ∈ y.repl) ∨ ∃ y ∈ waiting, b ∈ y.bytes

/-- The release phase writes a ring's waiting completion entries in order while the ring has entries the host has returned: the tail, the
phase and the entries in use move past each one written, and what does not fit waits (R106, R110, R113).
A batch or completion entry a ring could not write for 4,000 beats cancels every open stream of the ring at the next boundary, each
once (R110). -/
def Obligations.CompletionEntriesGoOutInOrder : Prop :=
  (∀ (k : Nat) (e : RingEntry) (s : State), s.serving = true → s.live = false → (s.ring k).entry = some e → (s.ring k).resetAsked = false →
    (∀ c ∈ s.cmds, ∀ q, c.k ≠ .flush q) → (∀ j, ∀ d ∈ (s.ring j).fetched, descListed d = true) → (s.ring k).cqTail < ringSize e.cqSize →
    (∀ c ∈ (s.ring k).cqPend, c.unsettled s = false) →
    let r := s.ring k
    let n := ringSize e.cqSize
    let m := min r.cqPend.length (n - r.cqUsed)
    ∃ t, exec .releasePhase s = .next t ∧ (t.ring k).cqPend = r.cqPend.drop m ∧ (t.ring k).cqUsed = r.cqUsed + m
      ∧ (t.ring k).cqTail = (r.cqTail + m) % n ∧ (t.ring k).cqPhase = (if n ≤ r.cqTail + m then !r.cqPhase else r.cqPhase)
      ∧ (t.ring k).cqHead = r.cqHead ∧ (t.ring k).cqDone = r.cqDone ∧ (t.ring k).egPend = r.egPend ∧ (t.ring k).egUsed = r.egUsed)
  ∧ (∀ (ring : BitVec 10) (s : State),
    let k := ring.toNat
    let r := s.ring k
    let stalled := r.egPend.any (fun b => beatLe (beatAdd b.since 4000) s.beat) || r.cqPend.any fun c => beatLe (beatAdd c.since 4000) s.beat
    ((s.live = false ∨ stalled = false) → exec (.egressStallTimeout ring) s = .next s)
    ∧ (s.live = true → stalled = true → ∃ t, exec (.egressStallTimeout ring) s = .next t ∧ t.streams = s.streams ∧ t.recs = s.recs
        ∧ t.rings = s.rings ∧ t.cmds = s.cmds
        ∧ (∀ x ∈ s.sched, x ∈ t.sched)
        ∧ (∀ st ∈ streamsOf s k, s.stream? st.handle = some st → cancelDue t st.handle = true)
        ∧ (∀ x ∈ t.sched, x ∈ s.sched ∨ ∃ st ∈ streamsOf s k, x = ⟨s.nextB, .cancel st.handle vCancelled 0 true, 0⟩)))

/-! The host memory port, the mask port and interrupts (Chapter 16). -/

/-- The acknowledgement of a structure's last data packet sends its commit word once the writes it waits for are done, that of the commit
word ends the write, and a failed packet ends it without a commit word and halts the ring; a read that waited for an acknowledgement goes
out with it (R388, R475, R476, R478).
Returned mask credit adds to the port's credit and changes nothing else; a vector that is pending, enabled and past its holdoff sends
one message with its address and data and is pending no more (R108, R480, R484). -/
def Obligations.HostWritesCreditAndInterrupts : Prop :=
  (∀ (tag : BitVec 8) (bad : Bool) (j k : Nat) (w : WJob) (s : State),
    (AMap.get? s.host.writes tag.toNat = none → exec (.hostWriteAck tag bad) s = .next s)
    ∧ (s.host.writes = [(tag.toNat, j)] → s.host.jobs = [(j, w)] → w.owner = .cpl k false 0 → w.todo = [] → w.unacked = 1 → w.after = [] →
      j < s.host.nextJob → s.host.readQ = [] →
      (bad = false → w.committing = false → ∀ c, w.commit = some c → ∃ t, exec (.hostWriteAck tag false) s = .next t
        ∧ t.out = s.out ++ [.hmWrite c.1 0 w.attr c.2] ∧ t.host.writes = [(0, j)] ∧ t.rings = s.rings
        ∧ AMap.get? t.host.packets 0 = some (c.1, c.2.length)
        ∧ t.host.jobs = [(j, { w with commit := none, committing := true, todo := [], unacked := 1 })])
      ∧ (bad = false → w.committing = true → w.commit = none → ∃ t, exec (.hostWriteAck tag false) s = .next t ∧ t.out = s.out
        ∧ t.host.writes = [] ∧ t.host.jobs = [] ∧ (t.ring k).cqDone = (s.ring k).cqDone + 1 ∧ SameRingsBut k s t)
      ∧ (bad = true → ∃ t, exec (.hostWriteAck tag true) s = .next t ∧ (t.ring k).halted = true ∧ AMap.get? t.host.jobs j = none))
    ∧ (∀ o a n at_ p g, s.host.writes = [(tag.toNat, j)] → s.host.packets = [(tag.toNat, p)] → s.host.jobs = [(j, w)] → w.owner = .trace →
      w.todo = [] → w.unacked = 1 → w.after = [] → w.commit = none → s.host.readQ = [(o, a, n, at_)] → freeTag s.host.reads = some g →
      ∃ t, exec (.hostWriteAck tag false) s = .next t ∧ t.out = s.out ++ [.hmRead a n g at_] ∧ t.host.readQ = [] ∧ t.host.packets = []
        ∧ AMap.get? t.host.reads g = some o ∧ t.rings = s.rings ∧ t.streams = s.streams))
  ∧ ((∀ (n : BitVec 8) (s : State), exec (.maskCreditReturn n) s = .next { s with port := { s.port with credit := s.port.credit + n.toNat } })
  ∧ ∀ (v : BitVec 6) (s : State),
    let k := v.toNat
    let hi := AMap.getD s.regs.vecHi k 0#32
    let ready := ∀ b, AMap.get? s.host.irqLast k = some b → beatLe (beatAdd b (holdoffOf s k)) s.beat = true
    ((k ∉ s.host.irqPend ∨ bit hi 31 = false ∨ ¬ ready) → exec (.irqMessage v) s = .next s)
    ∧ (k ∈ s.host.irqPend → bit hi 31 = true → ready → ∃ t, exec (.irqMessage v) s = .next t
        ∧ k ∉ t.host.irqPend ∧ (∀ x ∈ s.host.irqPend, x ≠ k → x ∈ t.host.irqPend) ∧ AMap.get? t.host.irqLast k = some s.beat
        ∧ (∀ g, (AMap.getD s.regs.vecLo k 0#32).toNat % 4 = 0 → freeTag s.host.writes = some g → t.out = s.out ++ [.hmWrite ((AMap.getD s.regs.vecLo k 0#32).toNat + fld hi 24 0 * 2 ^ 32) g
            (s.hpAttr 16) (natToBytes 4 (AMap.getD s.regs.vecData k 0#32).toNat)])
        ∧ t.rings = s.rings ∧ t.streams = s.streams ∧ t.regs = s.regs ∧ t.host.irqStatus = s.host.irqStatus))

/-! Prefix cairns (Chapter 7). -/

/-- SAVE_CAIRN: refused while the stream's static conditions fail, on a handle of another tenant or without the replace bit, and with no
free pair for a new handle, which the first save gives its owner; behind a retire of the handle the first save that waits gives the owner of
the cairn to come; else it waits for a quiet boundary, of which it takes the first with no earlier save or retire of the handle under way,
staging the record in a work tile of the next generation, open for writing; once that tile reads good its payload is written to the location
that is not current, and a tile that reads corrupt ends the save with no commit word written; after 4,000 beats of waiting it completes STATE
(R169, R223, R225, R227, R233, R393, R394, R401). -/
def Obligations.SaveCairnWaitsForAQuietBoundary : Prop :=
  ∀ (d : Desc) (h : W32) (st : Stream) (s : State),
    let u := s.started d
    let x := dfld d 2 63 0
    (s.accepts d = true → d.opcode = 0x06 → s.stream? (dStream d) = some st →
      ((saveStatic u st = false ∨ retiring s x = false ∧ ∃ k, AMap.get? s.cairns x = some k ∧ (k.tenant ≠ st.tenant ∨ dbit d 3 0 = false)) →
        ∃ t, exec (.saveCairn d) s = .next t ∧ Completes s t d { status := stState } ∧ t.cairns = s.cairns ∧ t.streams = s.streams)
      ∧ (saveStatic u st = true → retiring s x = true →
        (∀ y, heirOf s x = some y → (y.2 ≠ st.tenant ∨ dbit d 3 0 = false) → ∃ t, exec (.saveCairn d) s = .next t
          ∧ Completes s t d { status := stState } ∧ t.cairns = s.cairns ∧ t.streams = s.streams)
        ∧ ((∀ y, heirOf s x = some y → y.2 = st.tenant ∧ dbit d 3 0 = true) → ∃ t, exec (.saveCairn d) s = .next t
          ∧ Runs s t d (.saveC st.handle x s.beat 0 0 (b2n (dbit d 3 0))) ∧ t.cairns = s.cairns ∧ t.streams = s.streams ∧ t.out = s.out))
      ∧ (saveStatic u st = true → retiring s x = false → AMap.get? s.cairns x = none → freePairs s = [] →
        ∃ t, exec (.saveCairn d) s = .next t ∧ Completes s t d { status := stCapacity } ∧ t.cairns = s.cairns)
      ∧ (saveStatic u st = true → retiring s x = false → (∀ k, AMap.get? s.cairns x = some k → k.tenant = st.tenant ∧ dbit d 3 0 = true) →
          (AMap.get? s.cairns x = none → freePairs s ≠ []) →
        ∃ t k, exec (.saveCairn d) s = .next t ∧ Runs s t d (.saveC st.handle x s.beat 0 0 1) ∧ t.streams = s.streams ∧ t.out = s.out
          ∧ AMap.get? t.cairns x = some k ∧ k.tenant = st.tenant ∧ (∀ y, y ≠ x → AMap.get? t.cairns y = AMap.get? s.cairns y)
          ∧ (AMap.get? s.cairns x ≠ none → t.cairns = s.cairns)
          ∧ (AMap.get? s.cairns x = none → k.pair ∈ freePairs s ∧ k.gen0 = none ∧ k.gen1 = none)))
    ∧ (waitingSave s h.toNat = none → exec (.saveCairnQuietBoundary h) s = .next s ∧ exec (.saveCairnTimeout h) s = .next s)
    ∧ (∀ c handle since rp, waitingSave s h.toNat = some (c, handle, since, rp) → (∀ y ∈ s.cmds, y.id = c.id → y = c) → c ∈ s.cmds →
      ((s.atEnd = false ∨ s.clk.stopped = true ∨ handleBusy s c.id handle = true ∨ s.stream? h.toNat = some st ∧ quiet s st = false) → exec (.saveCairnQuietBoundary h) s = .next s)
      ∧ (∀ k, s.atEnd = true → s.clk.stopped = false → s.stream? h.toNat = some st → quiet s st = true → handleBusy s c.id handle = false →
          AMap.get? s.cairns handle = some k → k.tenant = st.tenant → (k.current.isSome = true → rp ≠ 0) →
        let dest : Nat × Nat := match k.current with | some (l, g) => (1 - l, (g + 1) % 2 ^ 32) | none => (0, 1)
        ∃ t, exec (.saveCairnQuietBoundary h) s = .next t ∧ t.cairns = s.cairns ∧ t.streams = s.streams
          ∧ (∃ y ∈ t.cmds, y.id = c.id ∧ y.k = .saveC st.handle handle st.pos 3 dest.1 dest.2) ∧ t.out = s.out ∧ t.stack = s.stack
          ∧ (∃ n z, AMap.get? t.dyn n = some z ∧ z.use = some (.cairn c.id) ∧ z.writeOpen = true ∧ z.next = cairnRecord s st handle dest.2
            ∧ z.generation = ((AMap.getD s.dyn n DynTile.blank).generation + 1) % 2 ^ 32))
      ∧ (beatLe (beatAdd since 4000) s.beat = false → exec (.saveCairnTimeout h) s = .next s)
      ∧ (beatLe (beatAdd since 4000) s.beat = true → ∃ t e, exec (.saveCairnTimeout h) s = .next t ∧ (t.ring c.ring).cqPend = (s.ring c.ring).cqPend ++ [e]
          ∧ e.status = stState ∧ e.tag = c.tag ∧ t.cmds = s.cmds.filter (fun y => y.id != c.id) ∧ t.streams = s.streams
          ∧ (∀ k, AMap.get? s.cairns handle = some k → k.current.isSome = true → t.cairns = s.cairns)))
    ∧ (∀ c x pos loc gen i z k, c ∈ s.cmds → (∀ y ∈ s.cmds, y.id = c.id → y = c) → c.k = .saveC h.toNat x pos 3 loc gen → c.paused = false →
        s.tileOf (.cairn c.id) = some (i, z) → AMap.get? s.cairns x = some k → z.tornAt ≠ some s.beat →
      (tileClass (z.read i s.free) = .torn → s.sendSave c = s)
      ∧ (tileClass (z.read i s.free) = .good → s.stack.firm = [] → s.clk.stopped = false → s.start.halted = false → s.liveChans ≠ [] →
          (∀ n ∈ s.liveChans, 9 + s.creditKeep ≤ (s.chan n).credit ∧ 9 ≤ winRoom s n .back ∧ 1 ≤ respRoom s n .back false) →
          (∀ n ∈ s.stack.chans, ∀ o ∈ n.2.outs, o.op ≠ 7) → z.payload.length = 512 →
        (∃ y ∈ (s.sendSave c).cmds, y.id = c.id ∧ y.k = .saveC h.toNat x pos 1 loc gen)
        ∧ ∃ n tag due, (s.sendSave c).out = s.out ++ [.stReq n 7 tag s.stack.epoch 8 due [w64 [(cairnOff s k.pair loc, 0)]] z.payload]
          ∧ ((s.sendSave c).chan n).credit = (s.chan n).credit - 9)
      ∧ (tileClass (z.read i s.free) = .corrupt → (s.sendSave c).out = s.out
        ∧ ∃ e, ((s.sendSave c).ring c.ring).cqPend = (s.ring c.ring).cqPend ++ [e] ∧ e.status = stCorrupt ∧ e.tag = c.tag
          ∧ (s.sendSave c).cmds = s.cmds.filter fun y => y.id != c.id))

/-- RESUME_CAIRN reads both locations of a pair of the stream's tenant, on a stream that has taken no input; RETIRE_CAIRN clears both
locations once no resume from the cairn and no earlier save or retire of it runs (R112, R228, R230, R231, R233). -/
def Obligations.ResumeAndRetireCairn : Prop :=
  ∀ (d : Desc) (s : State),
    let u := s.started d
    let x := dfld d 2 63 0
    let room := u.stack.firm = [] ∧ s.clk.stopped = false ∧ s.start.halted = false ∧ u.liveChans ≠ []
      ∧ (∀ c ∈ u.liveChans, 2 + u.creditKeep ≤ (u.chan c).credit ∧ 2 ≤ winRoom u c .back ∧ 18 ≤ respRoom u c .back false)
      ∧ ∀ c ∈ u.stack.chans, ∀ o ∈ c.2.outs, o.op ≠ 7
    (∀ st, s.accepts d = true → d.opcode = 0x07 → s.stream? (dStream d) = some st →
      let fresh := st.pos = 0 ∧ st.ingested = false ∧ st.phase = .inputOpen ∧ st.p0 = 0
      ((¬ fresh ∨ ∃ k, AMap.get? s.cairns x = some k ∧ k.tenant ≠ st.tenant) → (fresh → AMap.get? s.cairns x ≠ none) →
        ∃ t, exec (.resumeCairn d) s = .next t ∧ Completes s t d { status := stState } ∧ t.streams = s.streams ∧ t.cairns = s.cairns)
      ∧ (fresh → AMap.get? s.cairns x = none →
        ∃ t, exec (.resumeCairn d) s = .next t ∧ Completes s t d { status := stNotFound } ∧ t.streams = s.streams)
      ∧ (∀ k, fresh → AMap.get? s.cairns x = some k → k.tenant = st.tenant → room → (∀ c ∈ s.cmds, c.id ≠ s.nextId) →
        ∃ t, exec (.resumeCairn d) s = .next t ∧ Runs s t d (.resumeC st.handle x []) ∧ t.streams = s.streams ∧ t.cairns = s.cairns
          ∧ ∃ a b, t.out = s.out ++ [a, b] ∧ (∃ c tag due, a = .stReq c 8 tag s.stack.epoch 0 due [w64 [(cairnOff s k.pair 0, 0)]] [])
            ∧ ∃ c tag due, b = .stReq c 8 tag s.stack.epoch 0 due [w64 [(cairnOff s k.pair 1, 0)]] []))
    ∧ (∀ e, s.accepts d = true → d.opcode = 0x08 → (u.ring d.ring.toNat).entry = some e → (∀ c ∈ s.cmds, ∀ y, c.k ≠ .retireC y 0) →
      (∀ c ∈ s.cmds, c.id ≠ s.nextId) →
      let tn := dfld d 3 11 0
      (e.admin = false → e.tenant ≠ tn → ∃ t, exec (.retireCairn d) s = .next t ∧ Completes s t d { status := stBadTenant }
          ∧ t.cairns = s.cairns)
      ∧ ((e.admin = true ∨ e.tenant = tn) → AMap.get? s.cairns x = none →
        ∃ t, exec (.retireCairn d) s = .next t ∧ Completes s t d { status := stNotFound } ∧ t.cairns = s.cairns)
      ∧ (∀ k, (e.admin = true ∨ e.tenant = tn) → AMap.get? s.cairns x = some k →
        (k.tenant ≠ tn → ∃ t, exec (.retireCairn d) s = .next t ∧ Completes s t d { status := stBadTenant } ∧ t.cairns = s.cairns)
        ∧ (k.tenant = tn → (resuming s x = true ∨ handleBusy s s.nextId x = true) → ∃ t, exec (.retireCairn d) s = .next t ∧ Runs s t d (.retireC x 0) ∧ t.cairns = s.cairns
            ∧ t.out = s.out)
        ∧ (k.tenant = tn → resuming s x = false → handleBusy s s.nextId x = false → room → ∃ t, exec (.retireCairn d) s = .next t ∧ Runs s t d (.retireC x 2)
            ∧ t.cairns = s.cairns ∧ ∃ a b, t.out = s.out ++ [a, b]
            ∧ (∃ c tag due, a = .stReq c 7 tag s.stack.epoch 0 due [w64 [(cairnOff s k.pair 0, 0), (1, 40)]] [])
            ∧ ∃ c tag due, b = .stReq c 7 tag s.stack.epoch 0 due [w64 [(cairnOff s k.pair 1, 0), (1, 40)]] [])))

/-! Images (Chapter 15). -/

/-- LOAD_IMAGE: a slot in use refuses it, and the checks of Table 15-9 decide in their order (key and signature, rollback count, duplicate,
space, content code, kind); an image that passes takes its slot and its tiles and parts are written; no room leaves nothing behind (R443,
R448 to R451, R112). -/
def Obligations.LoadImageChecksThenInstalls : Prop :=
  ∀ (d : Desc) (image : List Byte) (s : State),
    let u := s.started d
    let slot := dfld d 4 7 0
    let len := dfld d 3 31 0
    let hd := parseHdr image
    s.accepts d = true → d.opcode = 0x10 →
    (AMap.has s.images slot = true → ∃ t, exec (.loadImage d image) s = .next t ∧ Completes s t d { status := stState }
      ∧ t.images = s.images ∧ t.banks = s.banks)
    ∧ (AMap.has s.images slot = false → len ≤ image.length →
      (∀ e, loadCheck u len image = .error e → ∃ t, exec (.loadImage d image) s = .next t ∧ Completes s t d { status := e }
        ∧ t.images = s.images ∧ t.banks = s.banks ∧ t.fuses = s.fuses ∧ t.stack.imgRuns = s.stack.imgRuns)
      ∧ ((kindOf hd.kind).isSome = true → hdrOk hd len image.length = true →
        ((keyUsable s hd image = false ∨ signatureOk image = false) → loadCheck u len image = .error stSigBad)
        ∧ (keyUsable s hd image = true → signatureOk image = true →
          (hd.rbVersion < s.fuses.rollback.getD (hd.kind - 1) 0 → loadCheck u len image = .error stRollback)
          ∧ (s.fuses.rollback.getD (hd.kind - 1) 0 ≤ hd.rbVersion →
            (∃ k i, (k, i) ∈ s.images ∧ i.hdr.imageId = hd.imageId ∧ i.hdr.gen = hd.gen) → loadCheck u len image = .error stState)))
      ∧ (∀ h b, loadCheck u len image = .ok (h, b) → u.installImage slot h b image = none → ∃ t, exec (.loadImage d image) s = .next t
          ∧ Completes s t d { status := stCapacity } ∧ t.images = s.images ∧ t.banks = s.banks ∧ t.stack.imgRuns = s.stack.imgRuns)
      ∧ (∀ h b v, loadCheck u len image = .ok (h, b) → u.installImage slot h b image = some v →
          (∀ c ∈ s.cmds, c.id < s.nextId) → liveRows u + len / 64 ≤ storeRows u →
          (∀ c ∈ s.cmds, ∀ a n k left j, c.k = .loadI a n k left → s.img? a = some j → c.paused = true ∨ k < j.bytes.length / 4096 ∨ left ≠ 0) →
        ∃ t i n, exec (.loadImage d image) s = .next t ∧ Runs s t d (.loadI slot n 0 (cdiv len (partBytes u)))
          ∧ AMap.get? t.images slot = some i ∧ i.status = 3 ∧ i.hdr = h ∧ i.body = b ∧ i.bytes = image
          ∧ (∀ k, k ≠ slot → AMap.get? t.images k = AMap.get? s.images k) ∧ t.fuses = s.fuses ∧ t.streams = s.streams))

/-- ACTIVATE_IMAGE completes with the boundary it falls at; where the image asks for it, the rollback count is programmed at the end of the
beat, or, where that programming fails (a free value, log 63), the completion becomes INTERNAL and the image stays as it is; at the boundary
it falls at, the image becomes the active generation and the one before it stops being so (R65, R66, R83, R300, R451, R453).
RETIRE_IMAGE of a loaded image nothing holds begins its retirement; one that is active, retiring or held is refused. QUERY_IMAGE
reports image id, generation, delay, kind and state and changes nothing else (R159, R190, R453, Table 3-7). -/
def Obligations.ActivationRetirementAndQuery : Prop :=
  (∀ (d : Desc) (slot : BitVec 8) (i : Img) (s : State),
    (let u := s.started d
     let k := dfld d 2 7 0
     let want := dfld d 3 47 0
     let at_ := if want = 0 then s.nextB else want
     s.accepts d = true → d.opcode = 0x11 →
     (s.img? k = none → ∃ t, exec (.activateImage d) s = .next t ∧ Completes s t d { status := stNotFound } ∧ t.sched = s.sched)
     ∧ (s.img? k = some i →
       (i.status = 3 → ∃ t, exec (.activateImage d) s = .next t ∧ Completes s t d { status := stNotFound } ∧ t.sched = s.sched)
       ∧ (i.status ≠ 3 → i.status ≠ 0 → ∃ t, exec (.activateImage d) s = .next t ∧ Completes s t d { status := stState } ∧ t.sched = s.sched)
       ∧ (i.status = 0 → want ≠ 0 → beatLt want (beatAdd s.beat 2) = true → ∃ t, exec (.activateImage d) s = .next t ∧ Completes s t d { status := stBadDesc }
           ∧ t.sched = s.sched ∧ t.fuses = s.fuses)
       ∧ (i.status = 0 → (want = 0 ∨ beatLt want (beatAdd s.beat 2) = false) → deltaBlocks u i.hdr = false →
           (∀ p, i.policy? = some p → namesActive (imagesAt u at_ k) p = true ∧ activateFails u k at_ i p = none) →
         ∃ t, exec (.activateImage d) s = .next t ∧ t.images = s.images ∧ t.fuses = s.fuses
           ∧ Completes s t d { status := stOK, resB := beat48 at_ }
           ∧ t.sched = s.sched ++ [⟨at_, .activate k, s.nextId⟩]
             ++ (if i.hdr.raise = true ∧ s.fuses.rollback.getD (i.hdr.kind - 1) 0 < i.hdr.rbVersion then [⟨s.nextB, .program k, 0⟩] else []))
       ∧ (i.status = 0 → (want = 0 ∨ beatLt want (beatAdd s.beat 2) = false) → ∀ p, i.policy? = some p →
         (namesActive (imagesAt u at_ k) p = false → ∃ t, exec (.activateImage d) s = .next t ∧ Completes s t d { status := stNotFound }
           ∧ t.sched = s.sched)
         ∧ ∀ e, namesActive (imagesAt u at_ k) p = true → activateFails u k at_ i p = some e → ∃ t, exec (.activateImage d) s = .next t
           ∧ Completes s t d { status := e } ∧ t.sched = s.sched)))
    ∧ (∀ e, s.img? slot.toNat = some i → s.sched.find? (fun e => e.eff == .activate slot.toNat) = some e →
      let t := s.applyEff (.program slot.toNat)
      ((i.hdr.raise = false ∨ i.hdr.rbVersion ≤ s.fuses.rollback.getD (i.hdr.kind - 1) 0) → t = s)
      ∧ (i.hdr.raise = true → s.fuses.rollback.getD (i.hdr.kind - 1) 0 < i.hdr.rbVersion →
        (Config.fuseFails s.free = false → t.fuses = { s.fuses with rollback := s.fuses.rollback.set (i.hdr.kind - 1) i.hdr.rbVersion }
          ∧ t.sched = s.sched ∧ t.images = s.images ∧ t.rings = s.rings)
        ∧ (Config.fuseFails s.free = true → t.fuses = s.fuses ∧ t.sched = s.sched.erase e ∧ t.images = s.images
          ∧ ∀ r x c, s.rings = [(r, x)] → x.cqPend = [c] → c.kind = 0 → c.cmd = e.cmd → c.status = stOK → c.since = s.beat →
            ∃ y, (t.ring r).cqPend = [y] ∧ y.status = stInternal ∧ y.tag = c.tag ∧ y.resB = 0)))
    ∧ (s.dueNow (.activate slot.toNat) = false → exec (.imageActivationBoundary slot) s = .next s)
    ∧ (s.dueNow (.activate slot.toNat) = true → s.img? slot.toNat = some i → i.status = 0 →
      ∃ t j, exec (.imageActivationBoundary slot) s = .next t ∧ t.img? slot.toNat = some j ∧ j.status = 1 ∧ j.hdr = i.hdr ∧ j.body = i.body
        ∧ j.bytes = i.bytes ∧ j.brt = s.stack.brt ∧ j.fixedD = (match i.policy? with | some p => s.delayOf p | none => 0)
        ∧ (∀ k y, k ≠ slot.toNat → s.img? k = some y → ∃ z, t.img? k = some z ∧ z.hdr = y.hdr
            ∧ (y.status ≠ 1 → z = y)
            ∧ (y.status = 1 → y.hdr.kind = i.hdr.kind → y.hdr.imageId = i.hdr.imageId → z.status = 0)
            ∧ (y.hdr.kind ≠ i.hdr.kind → z = y))
        ∧ t.streams = s.streams ∧ t.fuses = s.fuses ∧ t.cmds = s.cmds))
  ∧ (∀ (d : Desc) (s : State),
    let u := s.started d
    let k := dfld d 2 7 0
    s.accepts d = true →
    (d.opcode = 0x13 →
      ((s.img? k = none ∨ ∃ i, s.img? k = some i ∧ i.status = 3) → ∃ t, exec (.queryImage d) s = .next t
        ∧ Completes s t d { status := stNotFound } ∧ t.images = s.images)
      ∧ (∀ i, s.img? k = some i → i.status ≠ 3 → ∃ t, exec (.queryImage d) s = .next t ∧ t.images = s.images
        ∧ Completes s t d { status := stOK, resA := i.hdr.imageId, resB := pack [(i.hdr.gen, 0),
            ((match i.policy? with | some p => if i.status = 0 then u.delayOf p else i.fixedD | none => 0), 32), (i.hdr.kind, 48), (i.status, 56)] }
        ∧ SameStreams s t ∧ SameStores s t ∧ SameTenants s t ∧ SameStack s t ∧ SameControl s t))
    ∧ (d.opcode = 0x12 →
      ((s.img? k = none ∨ ∃ i, s.img? k = some i ∧ i.status = 3) → ∃ t, exec (.retireImage d) s = .next t
        ∧ Completes s t d { status := stNotFound } ∧ t.images = s.images)
      ∧ (∀ i, s.img? k = some i → i.status ≠ 3 →
        ((i.status ≠ 0 ∨ tenantHolds u k i = true ∨ lifeHolds u k i = true) → ∃ t, exec (.retireImage d) s = .next t
          ∧ Completes s t d { status := stState } ∧ t.images = s.images)
        ∧ (i.status = 0 → tenantHolds u k i = false → lifeHolds u k i = false → ∃ t, exec (.retireImage d) s = .next t
          ∧ Runs s t d (.retireI k) ∧ AMap.get? t.images k = some { i with status := 2, retireBeat := s.nextB }
          ∧ (∀ j, j ≠ k → AMap.get? t.images j = AMap.get? s.images j) ∧ t.streams = s.streams ∧ t.tenants = s.tenants))))

/-! Tenants (Chapter 11). -/

/-- SET_BUDGET of an enabled tenant within the commit cap keeps its values for the next refill. SET_TENANT and SET_POLICY take effect at
the next boundary; a missing delta image or policy image, and open streams under what would go, refuse them, and so does a bound that the
policy's delay breaks with everything accepted before it (R83, R340, R341, R347, R351).
What those effects do once their boundary comes: SET_TENANT's settings are in force and its command completes, and a policy id is bound
to its image or to none (R299, R340, R341). -/
def Obligations.TenantsBudgetsAndPolicies : Prop :=
  (∀ (d : Desc) (s : State),
    let u := s.started d
    let n := dfld d 2 11 0
    s.accepts d = true →
    (d.opcode = 0x19 →
      ((s.tenant n).enabled = false → ∃ t, exec (.setBudget d) s = .next t ∧ Completes s t d { status := stBadTenant } ∧ t.tenants = s.tenants)
      ∧ ((s.tenant n).enabled = true → s.regs.commitCap.toNat < committedSum s n (dfld d 3 31 0) →
        ∃ t, exec (.setBudget d) s = .next t ∧ Completes s t d { status := stCapacity } ∧ t.tenants = s.tenants)
      ∧ ((s.tenant n).enabled = true → committedSum s n (dfld d 3 31 0) ≤ s.regs.commitCap.toNat →
        ∃ t, exec (.setBudget d) s = .next t ∧ Completes s t d { status := stOK }
          ∧ t.tenant n = { s.tenant n with pend := some (dfld d 3 31 0, dfld d 3 63 32, dfld d 4 31 0) }
          ∧ (∀ m, m ≠ n → t.tenant m = s.tenant m) ∧ SameStreams s t ∧ SameStores s t ∧ SameStack s t ∧ SameControl s t))
    ∧ (d.opcode = 0x18 →
      let on := dbit d 2 12
      let ban := if dbit d 3 18 then some (dfld d 3 17 0) else none
      let pd := if dbit d 4 8 then some (dfld d 4 7 0) else none
      let td := if dbit d 4 24 then some (dfld d 4 23 16) else none
      ((deltaExists s pd 8 = false ∨ deltaExists s td 9 = false) → ∃ t, exec (.setTenant d) s = .next t
        ∧ Completes s t d { status := stNotFound } ∧ t.tenants = s.tenants ∧ t.sched = s.sched)
      ∧ (∀ e, deltaExists s pd 8 = true → deltaExists s td 9 = true → banRefusal u n ban = some e → ∃ t, exec (.setTenant d) s = .next t
        ∧ Completes s t d { status := e } ∧ t.tenants = s.tenants ∧ t.sched = s.sched)
      ∧ (deltaExists s pd 8 = true → deltaExists s td 9 = true → banRefusal u n ban = none →
        (on = false → tenantStreams s n ≠ [] → ∃ t, exec (.setTenant d) s = .next t ∧ Completes s t d { status := stState }
          ∧ t.tenants = s.tenants ∧ t.sched = s.sched)
        ∧ ((on = true ∨ tenantStreams s n = []) → ∃ t, exec (.setTenant d) s = .next t ∧ Runs s t d .boundary ∧ t.tenants = s.tenants
          ∧ t.sched = s.sched ++ [⟨s.nextB, .tenant n on ban pd td s.nextId, 0⟩] ∧ SameStreams s t ∧ SameStores s t)))
    ∧ (d.opcode = 0x1A →
      let pid := dfld d 2 9 0
      (dbit d 2 18 = false → streamsOnPolicy s pid ≠ [] → ∃ t, exec (.setPolicy d) s = .next t ∧ Completes s t d { status := stState }
        ∧ t.sched = s.sched)
      ∧ (dbit d 2 18 = false → streamsOnPolicy s pid = [] → ∃ t, exec (.setPolicy d) s = .next t ∧ Completes s t d { status := stOK }
        ∧ t.sched = s.sched ++ [⟨s.nextB, .policy pid 0 false 0, 0⟩] ∧ t.policies = s.policies)
      ∧ (∀ i, dbit d 2 18 = true → s.img? (dfld d 2 17 10) = some i → i.status = 1 → i.policy?.isSome = true →
        ((rangeDOk s (liveD s i) = false ∨ (∃ st ∈ streamsOnPolicy s pid, s.latBound st.rc < s.dRangeOf (liveD s i) + 1) ∨ bindingFails u pid i = true) →
          ∃ t, exec (.setPolicy d) s = .next t ∧ Completes s t d { status := stLatency } ∧ t.sched = s.sched)
        ∧ (bindingFails u pid i = false → ∃ t, exec (.setPolicy d) s = .next t
          ∧ Completes s t d { status := stOK } ∧ t.sched = s.sched ++ [⟨s.nextB, .policy pid i.hdr.imageId true 0, s.nextId⟩] ∧ t.policies = s.policies))))
  ∧ (∀ (n : Nat) (on : Bool) (ban pd td : Option Nat) (c : Cmd) (s : State), s.cmd? c.id = some c →
    (let t := s.applyEff (.tenant n on ban pd td c.id)
     (t.tenant n).enabled = on ∧ (t.tenant n).ban = ban ∧ (t.tenant n).c = (s.tenant n).c ∧ (t.tenant n).k = (s.tenant n).k
      ∧ (pd = none → (t.tenant n).pd = none ∧ (t.tenant n).pdNext = none)
      ∧ (∀ k, pd = some k → if bindingActive s k then (t.tenant n).pd = some k ∧ (t.tenant n).pdNext = none
          else (t.tenant n).pd = (s.tenant n).pd ∧ (t.tenant n).pdNext = some k)
      ∧ (∀ m, m ≠ n → t.tenant m = s.tenant m)
      ∧ (∃ e, (t.ring c.ring).cqPend = (s.ring c.ring).cqPend ++ [e] ∧ e.status = stOK ∧ e.tag = c.tag))
    ∧ (∀ pid id, AMap.get? (s.applyEff (.policy pid id true 0)).policies pid = some ⟨id, true⟩
        ∧ AMap.get? (s.applyEff (.policy pid id false 0)).policies pid = none
        ∧ (s.applyEff (.policy pid id true 0)).tenants = s.tenants))

/-! The associative store (Chapter 8). -/

/-- MATCH_UPDATE: a range outside its bank is a bad descriptor; a running shift or a set closed to updates refuses. Invalidate and write
complete and take effect at the next boundary; validate writes the set's master first, which is refused where the images region has no room
for it to grow (the status is the model's choice, log 35), and with the last tile written it completes and its bits are set at the next
boundary (R246, R255, R256). -/
def Obligations.MatchUpdateWaitsForItsBoundary : Prop :=
  ∀ (d : Desc) (recs : List Byte) (s : State),
    let u := s.started d
    let k := dfld d 2 7 3
    let b := bankSoon s k
    let n := dfld d 2 30 20 + 1
    let us := targetUnits b.width (dfld d 2 18 8) n
    let fits := rangeOk b.width (dfld d 2 18 8) n
    s.accepts d = true → d.opcode = 0x20 →
    (dfld d 2 1 0 = 0 →
      (fits = false → ∃ t, exec (.matchUpdateInvalidate d) s = .next t ∧ Completes s t d { status := stBadDesc } ∧ t.sched = s.sched)
      ∧ (fits = true → updateOk u k b us = false → ∃ t, exec (.matchUpdateInvalidate d) s = .next t ∧ Completes s t d { status := stState }
          ∧ t.sched = s.sched)
      ∧ (fits = true → updateOk u k b us = true → ∃ t, exec (.matchUpdateInvalidate d) s = .next t ∧ Completes s t d { status := stOK }
          ∧ t.sched = s.sched ++ [⟨s.nextB, .invalidate k us, 0⟩] ∧ t.banks = s.banks))
    ∧ (dfld d 2 1 0 = 1 → fits = true → n * (16 + 32 * b.width) ≤ recs.length →
      let es := parseEntries b.width n recs
      (es.all (fun r => entryOk b.width r && !fillClash u k b.width r) = false → ∃ t, exec (.matchUpdateWrite d recs) s = .next t
        ∧ Completes s t d { status := stBadDesc } ∧ t.sched = s.sched)
      ∧ (es.all (fun r => entryOk b.width r && !fillClash u k b.width r) = true →
        ((inShift b us = true ∨ (∃ e ∈ entriesAt b us, e.valid = true) ∨ ∃ r ∈ es, setLive u k r.set = false) →
          ∃ t, exec (.matchUpdateWrite d recs) s = .next t ∧ Completes s t d { status := stState } ∧ t.sched = s.sched)
        ∧ (inShift b us = false → (∀ e ∈ entriesAt b us, e.valid = false) → (∀ r ∈ es, setLive u k r.set = true) →
          ∃ t new, exec (.matchUpdateWrite d recs) s = .next t ∧ Completes s t d { status := stOK }
            ∧ t.sched = s.sched ++ [⟨s.nextB, .writeE k new, 0⟩] ∧ t.banks = s.banks ∧ new.map (·.rec_) = es ∧ new.map (·.unit) = us
            ∧ ∀ e ∈ new, e.valid = false ∧ e.written = true)))
    ∧ (dfld d 2 1 0 = 2 → fits = true →
      let es := entriesAt b us
      ((updateOk u k b us = false ∨ es.length < n ∨ ∃ e ∈ es, e.written = false) → ∃ t, exec (.matchUpdateValidate d) s = .next t
        ∧ Completes s t d { status := stState } ∧ t.sched = s.sched ∧ t.images = s.images)
      ∧ (updateOk u k b us = true → n ≤ es.length → (∀ e ∈ es, e.written = true) →
        let ps := placedEntries u k es
        let m := withEntries u k ps
        (growRuns u m = none → ∃ t, exec (.matchUpdateValidate d) s = .next t ∧ Completes s t d { status := stState }
          ∧ t.images = s.images ∧ t.banks = s.banks ∧ t.sched = s.sched)
        ∧ (∀ runs moved, growRuns u m = some (runs, moved) →
          let n := (masterTiles u m moved k ps).length
          ∃ t, exec (.matchUpdateValidate d) s = .next t ∧ Runs s t d (.validate k us n ps) ∧ t.sched = s.sched ∧ t.banks = s.banks
            ∧ t.images = s.images ∧ t.stack.imgRuns = runs)))
    ∧ (∀ c us es, s.cmd? c.id = some c → c.k = .validate k us 1 es → sameEntries (entriesAt b us) es = true →
      (s.masterStep c.id).images = withEntries s k es
      ∧ (s.masterStep c.id).sched = s.sched ++ [⟨s.nextB, .writeE k es, 0⟩, ⟨s.nextB, .validate k us, 0⟩]
      ∧ ∃ e, ((s.masterStep c.id).ring c.ring).cqPend = (s.ring c.ring).cqPend ++ [e] ∧ e.status = stOK ∧ e.tag = c.tag)

/-- A shift: refused while one runs or where its free entry is valid; else each boundary copies an entry into the free one or invalidates
the original, until its last entry has moved (R256). A search reports its nth distinct match (R248, R249, R253).
MATCH_SEARCH reports the match of the number asked for among the distinct matches of the banks named, in priority order, with whether
there are several and the next number; it changes no stored entry, and puts the entries that matched falsely down for the sweep's rewrite
(R248, R249, R253, R257, R259). -/
def Obligations.ShiftsAndSearchesOfTheStore : Prop :=
  (∀ (d : Desc) (bank : BitVec 5) (s : State),
    (let k := dfld d 2 7 3
     let b := bankSoon s k
     let first := dfld d 2 18 8
     let n := dfld d 2 30 20 + 1
     let up := !dbit d 2 32
     let free := if up then first + b.width * n else first - b.width
     s.accepts d = true → d.opcode = 0x21 → rangeOk b.width first (if up then n + 1 else n) = true → (up = false → b.width ≤ first) →
     ((b.shift.isSome = true ∨ ∃ e ∈ entriesAt b [free], e.valid = true) → ∃ t, exec (.matchShift d) s = .next t
        ∧ Completes s t d { status := stState } ∧ t.banks = s.banks)
     ∧ (b.shift = none → (∀ e ∈ entriesAt b [free], e.valid = false) → ∃ t, exec (.matchShift d) s = .next t ∧ Runs s t d (.shift k)
        ∧ (t.bank k).shift = some ⟨first, n, up, 0, false, s.nextId⟩ ∧ (t.bank k).entries = (s.bank k).entries
        ∧ (∀ j, j ≠ k → t.bank j = s.bank j) ∧ t.sched = s.sched ++ [⟨s.nextB, .shiftMove k, 0⟩]))
    ∧ (let k := bank.toNat
       let b := s.bank k
       (s.dueNow (.shiftMove k) = false → exec (.matchShiftMove bank) s = .next s)
       ∧ (∀ h, s.dueNow (.shiftMove k) = true → b.shift = some h →
         let src := (h.move b.width).1
         let dst := (h.move b.width).2
         ∃ t, exec (.matchShiftMove bank) s = .next t ∧ (∀ j, j ≠ k → t.bank j = s.bank j) ∧ (t.bank k).width = b.width
           ∧ (∀ e, e.unit ≠ src → e.unit ≠ dst → (e ∈ (t.bank k).entries ↔ e ∈ b.entries))
           ∧ (h.copied = false → (t.bank k).shift = some { h with copied := true }
               ∧ (src ≠ dst → ∀ e ∈ b.entries, e.unit = src → e ∈ (t.bank k).entries ∧ { e with unit := dst } ∈ (t.bank k).entries))
           ∧ (h.copied = true → (∀ e ∈ (t.bank k).entries, e.unit = src → e.valid = false)
               ∧ (t.bank k).shift = (if h.done + 1 = h.count then none else some { h with done := h.done + 1, copied := false }))
           ∧ (h.copied = true → h.done + 1 = h.count → ∀ c, s.cmd? h.cmd = some c →
               ∃ e, (t.ring c.ring).cqPend = (s.ring c.ring).cqPend ++ [e] ∧ e.status = stOK ∧ e.tag = c.tag)
           ∧ t.streams = s.streams ∧ t.images = s.images ∧ t.tenants = s.tenants)))
  ∧ (∀ (d : Desc) (key : List Byte) (w : Nat) (sets x : Nat) (s : State),
    let ks := (List.range s.nBanks).filter fun k => (dfld d 2 31 0).testBit k && (s.bank k).width == w
    let hits := sortAsc hitKey (ks.flatMap fun k => bankHits k sets x (s.bank k).entries)
    let hs := distinctHits s x hits []
    let kept (t : State) : Prop := (∀ k, (t.bank k).entries = (s.bank k).entries ∧ (t.bank k).width = (s.bank k).width)
      ∧ (∀ h ∈ hits, falseMatch x h.2 = true → h.1 % 2048 ∈ (t.bank (h.1 / 2048)).rewrite)
      ∧ ((∀ h ∈ hits, falseMatch x h.2 = false) → t.banks = s.banks)
    let n := dfld d 4 15 0
    s.accepts d = true → d.opcode = 0x22 → keyBytes key ≤ key.length →
    (searchKey key = (w, sets, x, false) → ∃ t, exec (.matchSearch d key) s = .next t ∧ Completes s t d { status := stBadDesc }
      ∧ t.banks = s.banks)
    ∧ (searchKey key = (w, sets, x, true) → w ≠ 0 →
      ((hs.length ≤ n ∨ ∃ h ∈ hits, h.2.shadowBad = true) → ∃ t, exec (.matchSearch d key) s = .next t
        ∧ Completes s t d { status := stNotFound } ∧ kept t)
      ∧ (∀ k e, hs[n]? = some (k, e) → (∀ h ∈ hits, h.2.shadowBad = false) → ∃ t, exec (.matchSearch d key) s = .next t
        ∧ Completes s t d { status := stOK, resA := k, resB := pack [(b2n (2 ≤ hs.length), 0), (e.rec_.priority, 1),
            (if n + 1 < hs.length then n + 1 else 0, 16)] }
        ∧ kept t ∧ SameStreams s t ∧ t.images = s.images ∧ SameTenants s t ∧ SameStack s t)))

/-! Tests, calibration, logs and stops (Chapters 12, 14 and 15). -/

/-- SELF_TEST: a unit outside its target is a bad descriptor; a unit tested in slices reports its result at once and leaves rotation when
it failed, a cell at the next boundary; a cell with margin and nothing placed on it is tested out of rotation, which it leaves at the next
boundary and joins at the one after (R29, R53, R378, R379). That a
sliced test completes at once is the model's choice.
CALIBRATE: the thermal trims and the droop detectors complete with B_rt, restart their floors and set the power model anew; the stack round trip takes its
channels out of service one by one, each at a boundary, for their share of 4,096 pings and completes when none is left; a self-test or
calibration not started in 4,000,000 beats is deferred (R29, R68, R329, R372, R376, R379). -/
def Obligations.SelfTestsAndCalibrations : Prop :=
  (∀ (d : Desc) (failed : Bool) (s : State),
    let u := s.started d
    let tg := dfld d 2 3 0
    let un := dfld d 2 15 8
    s.accepts d = true → d.opcode = 0x28 →
    (testUnits s tg ≤ un → ∃ t, exec (.selfTest d failed) s = .next t ∧ Completes s t d { status := stBadDesc } ∧ t.integ = s.integ)
    ∧ (un < testUnits s tg → (tg ≠ 0 ∨ s.complete = false ∨ testMargin u = false ∨ un ∈ s.integ.cellsOut) →
      ∃ t, exec (.selfTest d failed) s = .next t ∧ Completes s t d { status := stOK, resB := b2n failed }
        ∧ (failed = false → t.integ = s.integ ∧ t.sched = s.sched)
        ∧ (failed = true → tg ≠ 0 → t.integ.unitsOut = s.integ.unitsOut ++ [(tg, un)] ∧ t.sched = s.sched)
        ∧ (failed = true → tg = 0 → t.integ = s.integ ∧ t.sched = s.sched ++ [⟨s.nextB, .cellOut un (Config.unlistedCause 2), 0⟩])
        ∧ t.images = s.images ∧ t.streams = s.streams)
    ∧ (un < testUnits s tg → tg = 0 → s.complete = true → testMargin u = true → un ∉ s.integ.cellsOut → s.integ.moving = none →
      cellTiles s un = [] → (∀ c ∈ s.cmds, c.id ≠ s.nextId ∧ ∀ a b e f, c.k ≠ .test a b e f) →
      let out : Sched := ⟨s.nextB, .cellOut un (Config.unlistedCause 2), 0⟩
      ∃ t, exec (.selfTest d failed) s = .next t ∧ t.integ = s.integ ∧ t.streams = s.streams ∧ t.images = s.images
        ∧ (failed = true → Completes s t d { status := stOK, resB := 1 } ∧ t.sched = s.sched ++ [out])
        ∧ (failed = false → Runs s t d (.test 0 un false true) ∧ t.sched = s.sched ++ [out, ⟨beatAdd s.nextB 1, .cellBack un, 0⟩])))
  ∧ (∀ (d : Desc) (bad : List Nat) (s : State),
    let u := s.started d
    (s.accepts d = true → d.opcode = 0x29 →
      (dfld d 2 1 0 = 0 → ∃ (t : State) (i p : Nat), exec (.calibrateThermalTrims d bad) s = .next t ∧ Completes s t d { status := stOK, resB := s.stack.brt }
        ∧ t.gov = { s.gov with sensorsBad := bad, idleMw := i, dynMw := p } ∧ AMap.get? t.integ.floorAt 3 = some s.beat ∧ t.stack = s.stack ∧ t.streams = s.streams)
      ∧ (dfld d 2 1 0 = 1 → ∃ (t : State) (i p : Nat), exec (.calibrateDroopDetectors d) s = .next t ∧ Completes s t d { status := stOK, resB := s.stack.brt }
        ∧ AMap.get? t.integ.floorAt 4 = some s.beat ∧ t.gov = { s.gov with idleMw := i, dynMw := p } ∧ t.stack = s.stack ∧ t.streams = s.streams)
      ∧ (dfld d 2 1 0 = 2 → (∀ c ∈ s.cmds, c.id ≠ s.nextId ∧ ∀ a b e f g, c.k ≠ .calib a b e f g) →
        (s.stack.rewriteLeft ≠ [] → ∃ t, exec (.calibrateStackRoundTrip d) s = .next t ∧ Runs s t d (.calib 2 0 0 0 false) ∧ t.stack = s.stack)
        ∧ (s.stack.rewriteLeft = [] → (AMap.vals s.stack.chans).any (·.calibrating) = false → s.liveChans = [] → ∃ t, exec (.calibrateStackRoundTrip d) s = .next t
            ∧ Completes s t d { status := stOK, resB := s.stack.brt } ∧ t.stack = s.stack)
        ∧ (∀ k ks, s.stack.rewriteLeft = [] → (AMap.vals s.stack.chans).any (·.calibrating) = false → s.liveChans = k :: ks →
            chanSpare u k = true → ∃ t, exec (.calibrateStackRoundTrip d) s = .next t ∧ Runs s t d (.calib 2 k (seriesPings s k) 0 true)
            ∧ t.sched = s.sched ++ [⟨s.nextB, .chanOut k s.nextId, 0⟩] ∧ t.stack = s.stack ∧ t.streams = s.streams)))
    ∧ (∀ (c : Cmd) (k n w : Nat) (on : Bool), s.cmd? c.id = some c → c.k = .calib 2 k n w on → (s.chan k).inService = true →
      let t := s.applyEff (.chanOut k c.id)
      (t.chan k).inService = false ∧ (t.chan k).calibrating = true ∧ (∀ j, j ≠ k → t.chan j = s.chan j) ∧ t.streams = s.streams)
    ∧ ∀ (ring : BitVec 10) (index : BitVec 16),
      let late := fun c : Cmd => c.ring == ring.toNat && c.index == index.toNat && notStarted s c && beatLe (beatAdd c.since 4000000) s.beat
      (s.cmds.find? late = none → exec (.commandDeferred ring index) s = .next s)
      ∧ (∀ c, s.cmds.find? late = some c → ∃ t e, exec (.commandDeferred ring index) s = .next t
        ∧ (t.ring c.ring).cqPend = (s.ring c.ring).cqPend ++ [e] ∧ e.status = stDeferred ∧ e.tag = c.tag
        ∧ t.cmds = s.cmds.filter (fun y => y.id != c.id) ∧ t.stack = s.stack ∧ t.integ = s.integ))

/-- TRACE_CTL and COUNTER_CTL complete and apply at the next boundary; LOG_FLUSH completes when every record before it is committed, or runs
until then; HANG_REPORT writes the wait-for graph to the log and reports its edges, at most 4,096 (R445, R455, R460, R463, R464). -/
def Obligations.TraceCountersLogAndHangReport : Prop :=
  ∀ (d : Desc) (s : State),
    let u := s.started d
    s.accepts d = true →
    (d.opcode = 0x30 → ∃ t, exec (.traceCtl d) s = .next t ∧ Completes s t d { status := stOK }
      ∧ t.sched = s.sched ++ [⟨s.nextB, .trace (dbit d 2 0) (dfld d 3 56 0) (dfld d 4 3 0) (dfld d 5 63 0), 0⟩] ∧ t.mgmt.traceOn = s.mgmt.traceOn
      ∧ SameStreams s t ∧ SameStores s t ∧ SameTenants s t ∧ SameStack s t ∧ SameControl s t)
    ∧ (d.opcode = 0x31 → ∃ t, exec (.counterCtl d) s = .next t ∧ Completes s t d { status := stOK }
      ∧ t.sched = s.sched ++ [⟨s.nextB, .counter (dbit d 2 0) (dfld d 2 12 8) (dfld d 3 56 0) (dfld d 4 3 0), 0⟩] ∧ t.mgmt.cntOn = s.mgmt.cntOn
      ∧ SameStreams s t ∧ SameStores s t ∧ SameTenants s t ∧ SameStack s t ∧ SameControl s t)
    ∧ (d.opcode = 0x32 →
      (unflushed s s.mgmt.logSeq = false → ∃ t, exec (.logFlush d) s = .next t ∧ Completes s t d { status := stOK } ∧ t.persist = s.persist)
      ∧ (unflushed s s.mgmt.logSeq = true → ∃ t, exec (.logFlush d) s = .next t ∧ Runs s t d (.flush s.mgmt.logSeq) ∧ t.persist = s.persist))
    ∧ (d.opcode = 0x3A →
      let es := waitEdges u
      let roots := (es.map (·.1)).eraseDups
      let n := min 4096 (bfsEdges es (es.length + 1) roots roots).length
      ∃ t, exec (.hangReport d) s = .next t ∧ Completes s t d { status := stOK, resA := n }
        ∧ t.mgmt.logSeq = (s.mgmt.logSeq + 2 + cdiv n 3) % 2 ^ 32
        ∧ SameStreams s t ∧ SameStores s t ∧ SameTenants s t ∧ SameStack s t ∧ SameControl s t)

/-- The records and samples made at their times: a trace record older than 4 beats is dropped, a counter sample is latched or, while the
last is unwritten, skipped and its floor missed, a time-sync record is logged every 2^24 beats, and a floor that was not met sets its bit
and raises the management interrupt (R376, R458, R460, R465).
Every 2^20 beats an unloaded ping goes out, at the first boundary from then on with room for it, and the tiles of the busiest cell begin a
move to a less busy one; a move's tiles stay in use
where they are until the whole cell has been read (R69, R329, R377). -/
def Obligations.TimedRecordsFloorsAndBackground : Prop :=
  (∀ (k : BitVec 3) (s : State),
    ((s.mgmt.traceBuf = [] ∨ ∃ r rs, s.mgmt.traceBuf = r :: rs ∧ beatLe (beatAdd r.beat 4) s.beat = false) → exec .traceRecordDrop s = .next s)
    ∧ (∀ r rs, s.mgmt.traceBuf = r :: rs → beatLe (beatAdd r.beat 4) s.beat = true → ∃ t, exec .traceRecordDrop s = .next t ∧ t.mgmt.traceBuf = rs
        ∧ t.mgmt.traceDropped = s.mgmt.traceDropped + 1 ∧ t.mgmt.logSeq = s.mgmt.logSeq ∧ t.rings = s.rings ∧ SameStreams s t)
    ∧ ((s.live = false ∨ sampleDue s = false) → exec .counterSample s = .next s)
    ∧ (s.live = true → sampleDue s = true →
      (s.mgmt.cntPend = none → ∃ t, exec .counterSample s = .next t ∧ t.mgmt.cntPend = some s.beat ∧ t.mgmt.cntSeq = s.mgmt.cntSeq + 1
        ∧ t.mgmt.cntTail = (if s.mgmt.cntTail + 1 = 2 ^ (s.mgmt.cntSize + 4) then 0 else s.mgmt.cntTail + 1)
        ∧ t.mgmt.cntPhase = (if s.mgmt.cntTail + 1 = 2 ^ (s.mgmt.cntSize + 4) then !s.mgmt.cntPhase else s.mgmt.cntPhase)
        ∧ t.mgmt.counters = s.mgmt.counters ∧ t.mgmt.cntDone = s.beat)
      ∧ (s.mgmt.cntPend.isSome = true → ∃ t, exec .counterSample s = .next t ∧ t.mgmt.cntPend = s.mgmt.cntPend
        ∧ t.mgmt.cntSeq = s.mgmt.cntSeq + 1 ∧ t.mgmt.cntTail = s.mgmt.cntTail ∧ t.integ.floorStatus = s.integ.floorStatus ||| 64
        ∧ t.host.irqStatus = s.host.irqStatus ||| 2))
    ∧ ((s.live = false ∨ syncDue s = false) → exec .timeSync s = .next s)
    ∧ (s.live = true → syncDue s = true → ∃ t l, exec .timeSync s = .next t ∧ t.mgmt.syncDone = s.beat ∧ l ∈ t.persist.logs ∧ l.code = 0x80
        ∧ l.d0 = BitVec.ofNat 64 s.beat ∧ l.d1 = s.clk.lastTime ∧ l.seq = s.mgmt.logSeq ∧ t.mgmt.logSeq = (s.mgmt.logSeq + 1) % 2 ^ 32
        ∧ t.rings = s.rings ∧ SameStreams s t)
    ∧ ((s.live = false ∨ floorLate s k.toNat = false) → exec (.floorMissed k) s = .next s)
    ∧ (s.live = true → floorLate s k.toNat = true → ∃ t, exec (.floorMissed k) s = .next t
        ∧ t.integ.floorStatus = s.integ.floorStatus ||| 2 ^ k.toNat ∧ t.integ.floorsLate = s.integ.floorsLate ++ [k.toNat]
        ∧ t.integ.faults = (if k.toNat ≤ 2 then s.integ.faults ||| 8 else s.integ.faults) ∧ t.host.irqStatus = s.host.irqStatus ||| 2
        ∧ t.rings = s.rings ∧ SameStreams s t))
  ∧ (∀ (s : State),
    let due (k : Nat) := s.live = true ∧ s.nextB % 2 ^ 20 = 0 ∧ k ≠ s.nextB
    let ping := due s.integ.pingDone ∨ s.live = true ∧ s.integ.pingOwed = true
    (¬ ping → exec .backgroundPing s = .next s)
    ∧ (ping → ∃ t, exec .backgroundPing s = .next t ∧ t.integ = { s.integ with pingDone := s.nextB, pingOwed := !bgRoom s 1 10 }
        ∧ (bgRoom s 1 10 = true → ∃ c ∈ s.liveChans, (∃ tag b, t.out = s.out ++ [.stReq c 10 tag s.stack.epoch 0 b [w64 [(65, 0)]] []])
          ∧ (t.chan c).credit = (s.chan c).credit - 1)
        ∧ (bgRoom s 1 10 = false → t.out = s.out ∧ t.stack = s.stack)
        ∧ SameStreams s t ∧ SameTenants s t ∧ t.rings = s.rings)
    ∧ ((¬ due s.integ.wearDone ∨ s.atEnd = false ∨ s.start.halted = true ∨ s.integ.moving.isSome = true) → exec .wearRotation s = .next s)
    ∧ (due s.integ.wearDone → s.atEnd = true → s.start.halted = false → s.integ.moving = none →
      let used := (List.range s.cells).filter fun c => !s.integ.cellsOut.contains c && !(cellTiles s c).isEmpty
      ∃ t, exec .wearRotation s = .next t ∧ t.integ.wearDone = s.nextB ∧ t.images = s.images ∧ SameStreams s t ∧ SameTenants s t
        ∧ (used = [] → t.integ.moving = none)
        ∧ (∀ m, t.integ.moving = some m → m.src ∈ used ∧ (∀ c ∈ used, min (2 ^ 64) (activityOf s c) ≤ min (2 ^ 64) (activityOf s m.src))
            ∧ m.dst ∈ moveDests s m.src ∧ activityOf s m.dst < activityOf s m.src ∧ m.cmd = none)
        ∧ (∀ c ∈ used, (∀ x ∈ used, activityOf s x < 2 ^ 64 ∧ (x ≠ c → activityOf s x < activityOf s c)) →
            (∃ e ∈ moveDests s c, activityOf s e < activityOf s c) →
            (∀ x ∈ cellTiles s c, ∃ i, s.img? x.1 = some i ∧ i.masterLost = false) → ∃ m, t.integ.moving = some m ∧ m.src = c)))

/-- STOP and RESUME complete with the boundary they bear on; the level of stop_i is taken as it comes. The block stops at the boundary after
a reason arises, its beat complete, with every running command paused and stop_o high, and resumes when no reason is left (R433, R434, R435,
R489). The beat a RESUME reports after a stop ahead of beat 0 is the model's reading (log 62). -/
def Obligations.StopAndResume : Prop :=
  ∀ (d : Desc) (s : State),
    (s.accepts d = true → d.opcode = 0x38 → ∃ t, exec (.stop d) s = .next t ∧ Completes s t d { status := stOK, resB := beat48 s.nextB }
      ∧ t.clk = { s.clk with stopCmd := true } ∧ SameStreams s t ∧ SameStores s t ∧ SameTenants s t ∧ SameStack s t ∧ t.sched = s.sched)
    ∧ (s.accepts d = true → d.opcode = 0x39 →
      (s.clk.stopped = true → ∃ t, exec (.resume d) s = .next t ∧ Completes s t d { status := stOK, resB := beat48 s.resumeB }
        ∧ t.clk = { s.clk with stopCmd := false } ∧ SameStreams s t ∧ SameStores s t ∧ t.sched = s.sched)
      ∧ (s.clk.stopped = false → ∃ t, exec (.resume d) s = .next t ∧ Completes s t d { status := stOK } ∧ t.clk = s.clk
        ∧ SameStreams s t ∧ SameStores s t ∧ t.sched = s.sched))
    ∧ exec .stopIHigh s = .next { s with clk := { s.clk with stopPin := true } }
    ∧ exec .stopILow s = .next { s with clk := { s.clk with stopPin := false } }
    ∧ ((s.live = false ∨ s.stopAsked = false) → exec .blockStop s = .next s)
    ∧ (s.live = true → s.stopAsked = true → s.clk.phase < 3 → ∃ t, exec .blockStop s = .next t
        ∧ t.clk = { s.clk with phase := 3, cycle := (phaseCycles 3).1, stopped := true } ∧ Out.stopPin true ∈ t.out ∧ (∀ c ∈ t.cmds, c.paused = true) ∧ SameTenants s t)
    ∧ (s.live = true → s.stopAsked = true → s.clk.phase = 3 → (∀ e ∈ s.sched, ∀ k, e.eff ≠ .program k) → ∃ t, exec .blockStop s = .next t ∧ t.clk = { s.clk with stopped := true }
        ∧ Out.stopPin true ∈ t.out ∧ t.cmds = s.cmds.map (fun c => { c with paused := true }) ∧ SameStreams s t ∧ t.rings = s.rings
        ∧ t.sched = s.sched ∧ SameTenants s t)
    ∧ ((s.clk.stopped = false ∨ s.stopAsked = true) → exec .blockResume s = .next s)
    ∧ (s.clk.stopped = true → s.stopAsked = false → s.stack.held = [] → ∃ t, exec .blockResume s = .next t ∧ t.clk = { s.clk with stopped := false }
        ∧ Out.stopPin false ∈ t.out ∧ (∀ c ∈ t.cmds, c.paused = false) ∧ t.streams = s.streams ∧ t.recs = s.recs ∧ SameTenants s t)

/-- The actions of EXPERT: a query changes nothing; a bank's width changes at the next boundary when every entry of it is invalid; a class's
amounts are reserved where what is admitted still fits, and released at the next boundary; bounds of the allowance are kept for the next
period; an image is pinned to the ridges named when it is loaded and they hold it (R80, R103, R115, R235, R245, R373). -/
def Obligations.ExpertActions : Prop :=
  ∀ (d : Desc) (s : State),
    let u := s.started d
    s.accepts d = true → d.opcode = 0x48 →
    (d.fnAct.2 = 0 →
      (4 ≤ d.fnAct.1 → ∃ t, exec (.expertQuery d) s = .next t ∧ Completes s t d { status := stBadDesc })
      ∧ (d.fnAct.1 < 4 → ∃ (t : State) (a b : Nat), exec (.expertQuery d) s = .next t ∧ Completes s t d { status := stOK, resA := a, resB := b }
          ∧ a < 2 ^ 32 ∧ b < 2 ^ 64 ∧ SameStreams s t ∧ SameStores s t ∧ SameTenants s t ∧ SameStack s t ∧ SameControl s t))
    ∧ (d.fnAct = (2, 1) →
      let b := bankSoon s (dfld d 3 4 0)
      ((bankAllInvalid b = false ∨ b.shift.isSome = true) → ∃ t, exec (.expertSetBankWidth d) s = .next t ∧ Completes s t d { status := stState }
        ∧ t.sched = s.sched)
      ∧ (bankAllInvalid b = true → b.shift = none → ∃ t, exec (.expertSetBankWidth d) s = .next t ∧ Completes s t d { status := stOK }
        ∧ t.sched = s.sched ++ [⟨s.nextB, .bankWidth (dfld d 3 4 0) (2 ^ dfld d 3 9 8), 0⟩] ∧ t.banks = s.banks))
    ∧ (d.fnAct = (1, 1) →
      let g := AMap.set s.gov.reserved (dfld d 3 3 0) (Config.reserveAmounts d.w4 d.w5)
      let v := { u with gov := { u.gov with reserved := g } }
      ((v.fitsItems v.adms && v.fitsStack v.adms) = true → ∃ t, exec (.expertReserveSlots d) s = .next t ∧ Completes s t d { status := stOK }
        ∧ t.gov = { s.gov with reserved := g } ∧ SameStreams s t)
      ∧ ((v.fitsItems v.adms && v.fitsStack v.adms) = false → ∃ t, exec (.expertReserveSlots d) s = .next t
        ∧ Completes s t d { status := stCapacity } ∧ t.gov = s.gov ∧ SameStreams s t))
    ∧ (d.fnAct = (1, 2) → ∃ t, exec (.expertReleaseSlots d) s = .next t ∧ Completes s t d { status := stOK } ∧ t.gov = s.gov
        ∧ t.sched = s.sched ++ [⟨s.nextB, .releaseClass (dfld d 3 3 0), 0⟩])
    ∧ (d.fnAct = (3, 1) → ∃ t, exec (.expertGovBound d) s = .next t ∧ Completes s t d { status := stOK } ∧ t.gov.level = s.gov.level
        ∧ (∀ i p, ((Config.govBounds d.w3 d.w4).take 5)[i]? = some p → AMap.get? t.gov.bounds i = some p)
        ∧ t.gov.lane = s.gov.lane ∧ SameStreams s t ∧ SameStores s t)
    ∧ (d.fnAct = (0, 1) →
      let slot := dfld d 3 7 0
      let rs := (List.range 16).filter fun r => dbit d 3 (16 + r)
      ((s.img? slot = none ∨ ∃ i, s.img? slot = some i ∧ i.status ≠ 0) → ∃ t, exec (.expertPinImage d) s = .next t
        ∧ Completes s t d { status := stState } ∧ t.images = s.images ∧ t.banks = s.banks)
      ∧ (∀ i, s.img? slot = some i → i.status = 0 →
        ((∃ r ∈ rs, s.ridges ≤ r) → ∃ t, exec (.expertPinImage d) s = .next t ∧ Completes s t d { status := stBadDesc } ∧ t.images = s.images)
        ∧ ((∀ r ∈ rs, r < s.ridges) → rs = [] → ∃ t, exec (.expertPinImage d) s = .next t ∧ Completes s t d { status := stCapacity }
            ∧ t.images = s.images)
        ∧ (∀ cells ps placed v, (∀ r ∈ rs, r < s.ridges) → rs ≠ [] → (baseRidges u i.body).all rs.contains = true →
            placeBody { u.unplace slot i with images := AMap.erase u.images slot } i.body rs = some ((cells, ps, placed), v) →
          ∃ t, exec (.expertPinImage d) s = .next t ∧ Completes s t d { status := stOK } ∧ t.banks = v.banks
            ∧ AMap.get? t.images slot = some { i with cells := cells, ridges := ps, placed := placed, pinned := some rs, badTiles := [] }
            ∧ (∀ k, k ≠ slot → AMap.get? t.images k = AMap.get? s.images k) ∧ SameStreams s t)))

/-! The governor, the ledger and background work (Chapters 11 and 12). -/

/-- A governor period boundary sets level, factor and allowance for the period from the readings of the last one and takes at most one step
up or down; without a period due, or before the end of the beat ahead of it, nothing changes. A droop report is counted (R365 to R374). -/
def Obligations.GovernorSetsThePeriod : Prop :=
  ∀ (x : GovIn) (ridge : BitVec 4) (s : State),
    ((s.live = false ∨ periodDue s = false ∨ s.atEnd = false ∧ s.beat ≠ 0) → exec (.governorPeriod x) s = .next s)
    ∧ (s.live = true → periodDue s = true → (s.atEnd = true ∨ s.beat = 0) →
      let level := nextLevel s ((List.range s.sensors).map (periodTemp s)) x.throttle.toNat
      let f := powerFactor s (powerTarget s x.budgetMw.toNat x.estMw).1
      ∃ t, exec (.governorPeriod x) s = .next t ∧ t.gov.level = level ∧ t.gov.factor = f ∧ t.gov.donePeriod = periodB s ∧ t.gov.periodSeen = true
        ∧ t.gov.droops = 0 ∧ t.gov.peaks = [] ∧ t.gov.railSum = 0 ∧ t.gov.railBeats = 0 ∧ t.gov.levelReq = x.throttle.toNat
        ∧ (s.gov.bounds = [] → t.gov.lane = scaled (184 * 64 * s.cells) f 0 level ∧ t.gov.walk = scaled (184 * s.cells) f 1 level
            ∧ t.gov.assoc = scaled 235 f 2 level ∧ t.gov.stFirst = scaled 184 f 3 level ∧ t.gov.stDep = scaled 35 f 3 level
            ∧ t.gov.host = scaled 30080 f 4 level)
        ∧ t.gov.steps ≤ s.gov.steps + 1 ∧ s.gov.steps ≤ t.gov.steps + 1 ∧ (s.gov.steps ≤ 4 → t.gov.steps ≤ 4)
        ∧ Out.power (min 65535 (x.estMw / 10)) level ∈ t.out ∧ t.streams = s.streams ∧ t.recs = s.recs ∧ t.tenants = s.tenants ∧ t.rings = s.rings)
    ∧ (s.live = false → exec (.droopEvent ridge) s = .next s)
    ∧ (s.live = true → ∃ t, exec (.droopEvent ridge) s = .next t ∧ t.gov = { s.gov with droops := s.gov.droops + 1 }
        ∧ AMap.getD t.mgmt.counters 76 0 = (AMap.getD s.mgmt.counters 76 0 + 1) % 2 ^ 64 ∧ SameStreams s t ∧ SameTenants s t)

/-- Every 4,000 beats each enabled tenant is refilled: new settings apply, a debt is repaid first, the best-effort allowance and the period's
draws restart. A draw takes from the fill, then the best-effort allowance, and else fails. Every 4,000,000 beats the ledger is written with
every tenant's counts; one that finds no room in the store is skipped (R347, R348, R353, R364). -/
def Obligations.RefillsDrawsAndSnapshots : Prop :=
  ∀ (s : State),
    ((s.live = false ∨ s.atEnd = false ∨ refillDue s = false) → exec .refillBoundary s = .next s)
    ∧ (s.live = true → s.atEnd = true → refillDue s = true → s.range.joined = false → ∃ t, exec .refillBoundary s = .next t
        ∧ (∀ n x, AMap.get? s.tenants n = some x → ∃ y, AMap.get? t.tenants n = some y ∧ y.enabled = x.enabled ∧ y.pend = none ∧ y.ban = x.ban
          ∧ (x.pend = none → y.c = x.c ∧ y.b = x.b ∧ y.e = x.e) ∧ (∀ c b e, x.pend = some (c, b, e) → y.c = c ∧ y.b = b ∧ y.e = e)
          ∧ (x.enabled = true → y.k = satK (min (x.k + y.c) ((y.c + burstScaled y.b (scaleNow s) : Nat) : Int)) ∧ y.x = y.e ∧ y.u = 0)
          ∧ (x.enabled = false → y.k = x.k ∧ y.x = x.x ∧ y.u = x.u))
        ∧ t.gov.refillDone = s.nextB ∧ SameStreams s t ∧ t.rings = s.rings ∧ t.regs = s.regs)
    ∧ (∀ n, s.range.joined = false → let x := s.tenant n
        (0 < x.k → x.u < x.c → s.draw n = (0, s.setTenant n fun _ => { x with k := x.k - 1, u := x.u + 1 }))
        ∧ (0 < x.k → x.c ≤ x.u → s.draw n = (1, s.setTenant n fun _ => { x with k := x.k - 1 }))
        ∧ (x.k ≤ 0 → 0 < x.x → s.draw n = (2, s.setTenant n fun _ => { x with x := x.x - 1 }))
        ∧ (x.k ≤ 0 → x.x = 0 → s.draw n = (3, s.setTenant n fun _ => x)))
    ∧ ((s.live = false ∨ s.atEnd = false ∨ snapDue s = false) → exec .ledgerSnapshot s = .next s)
    ∧ (s.live = true → s.atEnd = true → snapDue s = true → refillDue s = false → snapRoom s = false → ∃ t, exec .ledgerSnapshot s = .next t
        ∧ (∀ n ∈ t.persist.snaps, ∃ m ∈ s.persist.snaps, n.seq = m.seq ∧ n.rows = m.rows) ∧ t.persist.entrySeq = s.persist.entrySeq ∧ t.gov.snapDone = s.nextB ∧ t.tenants = s.tenants ∧ SameStreams s t)
    ∧ (s.live = true → s.atEnd = true → snapDue s = true → refillDue s = false → snapRoom s = true → ∃ t n, exec .ledgerSnapshot s = .next t ∧ n ∈ t.persist.snaps
        ∧ n.beat = s.nextB ∧ n.seq = s.persist.entrySeq ∧ n.committed = false ∧ t.persist.entrySeq = s.persist.entrySeq + 1
        ∧ n.rows = s.tenants.map (fun x => snapOf s x.1 x.2) ∧ t.gov.snapDone = s.nextB ∧ t.tenants = s.tenants ∧ SameStreams s t)

/-! The stack port (Chapter 10). -/

/-- The ten response rows: a response is taken under the tag and operation at the head of its channel, in order; anything else puts the
channel in fault, under reset and out of service with nothing outstanding, and so does a reserved opcode; one on a channel held in reset is
discarded. A response taken leaves the head, its round trip counts towards
the largest, and one that comes too late or to an operation already absent is used for nothing; a round trip beyond what B_rt covers raises
B_rt (R69, R314, R318, R326 to R331, R337). The result of a command paused by a stop is kept for RESUME.
A due point that passes completes: the operation's result is absent while its tag is still awaited, and a model's result gives TIMEOUT. A
return of credit completes: it adds to the channel's, lets the pings of a channel under reset go out, and is a protocol error where the sum
passes 65,535 or the channel is held in reset (R36, R315, R326 to R328, R337, R485, R486). -/
def Obligations.ResponsesDuePointsAndCredit : Prop :=
  (∀ (r : Rsp) (s : State) (c : Instr) (k : Nat),
    (c, k) ∈ [(.tileReadResponse r, 1), (.tileWriteResponse r, 2), (.featureStageResponse r, 3), (.treeWalkResponse r, 4),
      (.maskCombineResponse r, 5), (.gatherSumResponse r, 6), (.cairnSaveResponse r, 7), (.cairnLoadResponse r, 8), (.scrubRangeResponse r, 9),
      (.pingResponse r, 10)] →
    let ch := r.chan.toNat
    let fits := fun o : SOp => o.tag = r.tag.toNat ∧ o.op = r.op.toNat ∧ r.status.toNat ≤ 5 ∧ respTransfers o r = r.respLen.toNat
    let calm := fun o : SOp => overBrt s (roundTrip s o r) = false ∨ ∃ i, o.purp = .pingSeries i
    ((s.complete = false ∨ r.op.toNat ≠ k ∧ opReserved r.op.toNat = false) → exec c s = .next s)
    ∧ (s.complete = true → s.chanEn ch = false → (s.chan ch).outs = [] → exec c s = .next s)
    ∧ (s.complete = true → (r.op.toNat = k ∨ opReserved r.op.toNat = true) → (s.chanEn ch = true ∨ (s.chan ch).outs ≠ []) →
        (∀ o rest, (s.chan ch).outs = o :: rest → ¬ fits o) →
      ∃ t, exec c s = .next t ∧ (t.chan ch).outs = [] ∧ (t.chan ch).inService = false ∧ (t.chan ch).faulted = true ∧ (t.chan ch).credit = 0
        ∧ (t.chan ch).pingsLeft = 64 ∧ t.integ.faults = s.integ.faults ||| 32 ∧ Out.stReset ch ∈ t.out ∧ t.regs = s.regs)
    ∧ (∀ o rest, s.complete = true → r.op.toNat = k → (s.chan ch).outs = o :: rest → fits o → r.epoch.toNat = s.stack.epoch →
      (o.dead = true → (∀ i, o.purp ≠ .pingSeries i) → overBrt s (roundTrip s o r) = true → ∃ t, exec c s = .next t
        ∧ t.stack.brt = max s.stack.brt (cdiv (roundTrip s o r + 35) 235) ∧ t.integ.faults.testBit 1 = true ∧ t.host.irqStatus.testBit 1 = true)
      ∧ (o.dead = true → o.purp ≠ .pingFault → calm o → ∃ t, exec c s = .next t ∧ (t.chan ch).outs = rest
        ∧ t.stack.maxCycles = max s.stack.maxCycles (min (roundTrip s o r) 65535) ∧ SameStreams s t ∧ t.images = s.images
        ∧ t.cairns = s.cairns ∧ t.cmds = s.cmds ∧ t.rings = s.rings)
      ∧ (∀ i x, o.dead = false → calm o → (beatLt o.due s.beat = false ∧ ¬ (o.due = s.beat ∧ 199 < r.cycle.toNat)) → r.status = 0#4 →
        o.purp.cmd? = some i → s.cmd? i = some x → x.paused = true → ∃ t, exec c s = .next t
        ∧ t.stack.held = s.stack.held ++ [(o, 0, roundTrip s o r, r.payload)] ∧ (t.chan ch).outs = rest ∧ SameStreams s t ∧ t.cmds = s.cmds)
      ∧ (o.dead = false → (beatLt o.due s.beat = true ∨ o.due = s.beat ∧ 199 < r.cycle.toNat) → (∀ i, o.purp ≠ .pingSeries i) → ∃ t, exec c s = .next t
        ∧ t.stack.maxCycles = max s.stack.maxCycles (min (roundTrip s o r) 65535) ∧ t.cairns.length ≤ s.cairns.length
        ∧ AMap.getD t.mgmt.counters 59 0 = (AMap.getD s.mgmt.counters 59 0 + 1) % 2 ^ 64)))
  ∧ (∀ (chan : BitVec 3) (tag n : BitVec 16) (s : State),
    let ch := chan.toNat
    let late := fun o : SOp => o.tag == tag.toNat && duePassed s o
    let mark := fun x : Chan => { x with outs := x.outs.map fun y => if y.tag = tag.toNat then { y with dead := true } else y }
    ((s.complete = false ∨ (s.chan ch).outs.find? late = none) → exec (.stackDuePoint chan tag) s = .next s)
    ∧ (∀ o, s.complete = true → (s.chan ch).outs.find? late = some o →
      exec (.stackDuePoint chan tag) s = .next ((s.setChan ch mark).result o 1 default 0)
      ∧ ((o.purp = .pingBg ∨ o.purp = .pingFault ∨ (∃ k, o.purp = .scrub k) ∨ (∃ k l, o.purp = .mirror k l) ∨ (∃ k l, o.purp = .master k l)) →
          ∃ t, exec (.stackDuePoint chan tag) s = .next t ∧ t.chan ch = mark (s.chan ch) ∧ SameStreams s t ∧ SameStores s t ∧ t.rings = s.rings
            ∧ AMap.getD t.mgmt.counters 58 0 = (AMap.getD s.mgmt.counters 58 0 + 1) % 2 ^ 64)
      ∧ (∀ rid mi x, (o.purp = .walk rid mi ∨ (∃ g, o.purp = .stage rid mi g) ∨ ∃ g, o.purp = .gather rid mi g) → s.rec? rid = some x →
          x.sealed = false → ∃ t y, exec (.stackDuePoint chan tag) s = .next t ∧ t.rec? rid = some y
        ∧ y.models = x.models.map (fun m => if m.mi = mi ∧ m.st ≠ 4 then { m with st := 3 } else m) ∧ y.flags = setFlag x.flags fTimeout
        ∧ t.chan ch = mark (s.chan ch) ∧ t.rings = s.rings ∧ t.streams = s.streams))
    ∧ ((s.complete = false ∨ s.channels ≤ ch) → exec (.stackCreditReturn chan n) s = .next s)
    ∧ (s.complete = true → ch < s.channels →
      exec (.stackCreditReturn chan n) s = .next (s.creditIn ch n.toNat)
      ∧ ((65535 < (s.chan ch).credit + n.toNat ∨ s.chanEn ch = false ∧ n ≠ 0#16) → ∃ t, exec (.stackCreditReturn chan n) s = .next t ∧ (t.chan ch).outs = []
        ∧ (t.chan ch).inService = false ∧ (t.chan ch).faulted = true ∧ (t.chan ch).credit = 0 ∧ (t.chan ch).pingsLeft = 64
        ∧ t.integ.faults = s.integ.faults ||| 32 ∧ Out.stReset ch ∈ t.out ∧ t.regs = s.regs)
      ∧ ((s.chan ch).credit + n.toNat ≤ 65535 → (s.chanEn ch = true ∨ n = 0#16) → (∀ c ∈ s.cmds, ∀ a b e f, c.k ≠ .loadI a b e f) →
        (∀ c ∈ s.cmds, ∀ a b e f g, c.k ≠ .calib a b e f g) → s.stack.firm = [] →
        ∃ t, exec (.stackCreditReturn chan n) s = .next t ∧ (∀ j, j ≠ ch → t.chan j = s.chan j) ∧ SameStreams s t ∧ t.rings = s.rings
          ∧ ((s.chan ch).faulted = false → t.chan ch = { s.chan ch with credit := (s.chan ch).credit + n.toNat } ∧ t.out = s.out)
          ∧ ((s.chan ch).faulted = true → (s.chan ch).outs.length ≤ (s.chan ch).pingsLeft → (s.chan ch).pingsLeft ≤ 64 →
              (t.chan ch).outs.length = min (s.chan ch).pingsLeft ((s.chan ch).outs.length + (s.chan ch).credit + n.toNat)
              ∧ (t.chan ch).outs.length + (t.chan ch).credit = (s.chan ch).outs.length + (s.chan ch).credit + n.toNat))))

/-- What a response in time with status OK and a round trip that B_rt covers does for what asked for it, its command not paused: a staged segment, a walk's or gather's scores, a combined mask, a
reloaded tile, a mirrored tile, the tile of a load, a cairn written or read, swept rows, the background ping (R200, R227, R228, R288, R296,
R303, R376, R399, R402, R443). -/
def Obligations.ResponsesReachWhatAskedForThem : Prop :=
  ∀ (r : Rsp) (o : SOp) (rest : List SOp) (s : State),
    let ch := r.chan.toNat
    s.complete = true → (s.chan ch).outs = o :: rest → o.tag = r.tag.toNat → o.op = r.op.toNat → r.status = 0#4 →
    respTransfers o r = r.respLen.toNat → r.epoch.toNat = s.stack.epoch → o.dead = false →
    beatLt o.due s.beat = false → (o.due = s.beat → r.cycle.toNat ≤ 199) → overBrt s (roundTrip s o r) = false → (∀ i x, o.purp.cmd? = some i → s.cmd? i = some x → x.paused = false) →
    (∀ rid mi seg x, o.op = 3 → o.purp = .stage rid mi seg → s.rec? rid = some x → ∃ t y, exec (.featureStageResponse r) s = .next t
      ∧ t.rec? rid = some y ∧ y.models = x.models.map (fun m => if m.mi = mi ∧ m.st = 1 then { m with stagesLeft := m.stagesLeft - 1 } else m)
      ∧ y.sealed = x.sealed ∧ t.rings = s.rings)
    ∧ (∀ rid mi x, o.op = 4 → o.purp = .walk rid mi → s.rec? rid = some x → ∃ t y, exec (.treeWalkResponse r) s = .next t
      ∧ t.rec? rid = some y ∧ (∀ m ∈ x.models, m.mi = mi → m.st = 2 → ∃ n ∈ y.models, n.mi = mi
          ∧ AMap.get? n.parts 0 = some (payload32 r.payload 16) ∧ n.nan = (m.nan || bit r.w1 0) ∧ n.st = (if m.stagesLeft ≤ 1 then 4 else 2))
      ∧ t.rings = s.rings)
    ∧ (∀ rid mi first x, o.op = 6 → o.purp = .gather rid mi first → s.rec? rid = some x → ∃ t y, exec (.gatherSumResponse r) s = .next t
      ∧ t.rec? rid = some y ∧ (∀ m ∈ x.models, m.mi = mi → m.st = 2 → ∃ n ∈ y.models, n.mi = mi
          ∧ AMap.get? n.parts first = some (payload32 r.payload (gatherCount s rid mi first)) ∧ n.st = (if m.stagesLeft ≤ 1 then 4 else 2))
      ∧ t.rings = s.rings)
    ∧ (∀ mid m st, o.op = 5 → o.purp = .mask mid → s.masks.find? (fun m => m.id == mid && m.waiting) = some m →
      (∀ x ∈ s.masks, x.id = mid → x = m) → s.stream? m.h = some st →
      (∀ x, canonicalMask (s.vocabOf st).nTokens (r.payload.take (8 * fld r.w1 13 0)) = some x → x.empty = false →
        ∃ t y, exec (.maskCombineResponse r) s = .next t ∧ t.masks.find? (fun y => y.id == mid) = some y ∧ y.mask = x ∧ y.composed = true
          ∧ y.waiting = false ∧ y.cause = m.cause ∧ t.recs = s.recs)
      ∧ (canonicalMask (s.vocabOf st).nTokens (r.payload.take (8 * fld r.w1 13 0)) = none →
        ∃ t y, exec (.maskCombineResponse r) s = .next t ∧ t.masks.find? (fun y => y.id == mid) = some y ∧ y.mask = Mask.none m.mask.n
          ∧ y.composed = true ∧ y.waiting = false ∧ y.cause = 2))
    ∧ (∀ slot key i, o.op = 1 → o.purp = .reload slot key → s.img? slot = some i →
      (tileCheck i (keyTile key) r.payload = true → ∃ t, exec (.tileReadResponse r) s = .next t
        ∧ t.sched = s.sched ++ [⟨beatAdd (beatMax o.due s.beat) 1, .tileGood slot key, 0⟩] ∧ t.images = s.images ∧ t.recs = s.recs)
      ∧ (tileCheck i (keyTile key) r.payload = false → ∃ t, exec (.tileReadResponse r) s = .next t ∧ t.sched = s.sched
        ∧ (slot, key) ∈ t.stack.repairs ∧ (∀ x ∈ s.recs, (slot, key) ∈ x.waitTile → ∃ y ∈ t.recs, y.id = x.id ∧ vIndet ∈ y.results)))
    ∧ (∀ tile h g st, o.op = 2 → o.purp = .mirror tile [(h, g)] → s.stream? h = some st → ∃ t, exec (.tileWriteResponse r) s = .next t
      ∧ t.stream? h = some { st with mirrorGen := g } ∧ t.images = s.images)
    ∧ (∀ id c slot next acked i, o.op = 2 → o.purp = .imgWrite id → s.cmd? id = some c → c.k = .loadI slot next acked 0 →
      s.img? slot = some i → i.bytes.length / 4096 ≤ acked + 1 → ∃ t e, exec (.tileWriteResponse r) s = .next t
      ∧ t.img? slot = some { i with status := 0, committed := true } ∧ (t.ring c.ring).cqPend = (s.ring c.ring).cqPend ++ [e]
      ∧ e.status = stOK ∧ e.tag = c.tag ∧ e.resA = i.hdr.imageId ∧ t.cmds = s.cmds.filter (fun x => x.id != c.id))
    ∧ (∀ id c h handle pos n loc gen k, o.op = 7 → o.purp = .cairnClear id → s.cmd? id = some c → c.k = .saveC h handle pos n loc gen →
      AMap.get? s.cairns handle = some k → ∃ t e, exec (.cairnSaveResponse r) s = .next t
      ∧ AMap.get? t.cairns handle = some (if loc = 0 then { k with gen0 := some gen, gen1 := none } else { k with gen0 := none, gen1 := some gen })
      ∧ (t.ring c.ring).cqPend = (s.ring c.ring).cqPend ++ [e] ∧ e.status = stOK ∧ e.tag = c.tag ∧ e.pos = pos)
    ∧ (∀ id c h handle loc, o.op = 8 → o.purp = .cairnLoad id loc → s.cmd? id = some c → c.k = .resumeC h handle [] →
      ∃ t, exec (.cairnLoadResponse r) s = .next t ∧ (∃ y ∈ t.cmds, y.id = id ∧ y.k = .resumeC h handle [(loc, r.payload)])
        ∧ t.streams = s.streams ∧ t.rings = s.rings ∧ t.cairns = s.cairns)
    ∧ (∀ region, o.op = 9 → o.purp = .scrub region → ∃ t, exec (.scrubRangeResponse r) s = .next t
      ∧ AMap.getD t.mgmt.counters 92 0 = (AMap.getD s.mgmt.counters 92 0 + fld r.w1 15 0) % 2 ^ 64 ∧ SameStreams s t ∧ t.images = s.images)
    ∧ (o.op = 10 → o.purp = .pingBg → ∃ t, exec (.pingResponse r) s = .next t ∧ AMap.get? t.integ.floorAt 5 = some s.beat
      ∧ SameStreams s t ∧ t.images = s.images ∧ s.stack.brt ≤ t.stack.brt)

/-! Integrity (Chapter 13). -/

/-- The compute phase, once in a beat, screens a stamped token: its bytes are those of its vocabulary and the stream's token window takes it in; a
shed one is screened by nothing, and the window takes it in all the same; corrected errors are counted and saturate, and their words are put
down for the sweep's rewrite (R82, R174, R240, R405). -/
def Obligations.ComputePhaseScreensTheToken : Prop :=
  ∀ (r : Rec) (st : Stream) (s : State),
    (∀ l, (s.live = false ∨ s.clk.phase ≠ 0) → exec (.computePhase l) s = .next s)
    ∧ (∀ ws, s.live = true → s.clk.phase = 0 → s.recs = [] → s.masks = [] → ∃ t, exec (.computePhase [.eccSingle ws]) s = .next t ∧ t.clk.phase = 1
      ∧ t.integ.eccCorr = min 65535 (s.integ.eccCorr + ws.length) ∧ t.integ.eccUncorr = s.integ.eccUncorr
      ∧ t.integ.rewrites = s.integ.rewrites ++ ws ∧ t.recs = [])
    ∧ (s.live = true → s.clk.phase = 0 → s.recs = [r] → s.stream? r.h = some st → r.kind = .committed → r.spec = false → runsNow s r = true → r.models = [] →
      (r.ext = false ∨ r.stamp = some s.beat) →
      r.feats = none → s.masks = [] → tileWaits (tokImgs s st ((s.polOf r.polSlot).getD default)) = [] →
      ∃ t x st', exec (.computePhase []) s = .next t ∧ t.recs = [x] ∧ t.stream? r.h = some st' ∧ x.screened = true ∧ x.stamp = r.stamp
        ∧ x.rel = r.rel ∧ x.sealed = r.sealed
        ∧ (r.shed = 0 → x.bytes = (s.vocabOf st).decode.getD r.token [] ∧ st'.ctx.window = (r.token :: st.ctx.window).take 14
            ∧ st'.ctx.off = st.ctx.off + x.bytes.length)
        ∧ (r.shed ≠ 0 → x.bytes = r.bytes ∧ x.results = r.results ∧ st'.ctx = skipToken st.ctx r.token)
        ∧ st'.pos = st.pos ∧ st'.charged = st.charged ∧ t.rings = s.rings ∧ t.tenants = s.tenants)

/-- A torn stream record is read again in a later beat: good, its records go on; torn again or stale, the run grows and is counted; corrupt
with a current mirror, its records wait for the mirror's copy. A feature-staging tile that reads torn in four beats in a row while no write to
it is open makes the record that reads it INDETERMINATE (R395, R396, R398, R400, R401). A reloaded tile is put in place at its boundary, and what
waited for it can go on (R402). The management core's accesses are made in order: a narrow store is merged into its word, a load reads it back and
other words as before, and a row of data-path memory is written whole; a trap resumes once for an address of the RAM area and else halts the
core (R384, R406, R408, R409).
A record whose recovery has not finished by the end of its second extension beat is given up: screened, with INDETERMINATE among its
results and RECOVERY_EXT set; any other is left alone (R74). -/
def Obligations.RecoveryRereadsReloadsAndTraps : Prop :=
  (∀ (h : W32) (u : UseRead) (slot : BitVec 8) (tile : Nat) (s : State),
    let again := fun r : Rec => r.torn && r.tornAt != s.beat
    let torn := fun st : Stream => (s.recs.any fun r => r.h == h.toNat && again r) || st.parts.any fun q => q.2.torn
    ((s.live = false ∨ s.stream? h.toNat = none) → exec (.tornTileReread h u) s = .next s)
    ∧ (∀ st, s.stream? h.toNat = some st → (st.tornAt = s.beat ∨ torn st = false) → exec (.tornTileReread h u) s = .next s)
    ∧ (∀ st, s.live = true → s.stream? h.toNat = some st → st.tornAt ≠ s.beat → torn st = true → (∀ x ∈ st.nodes, x.2.tornRun = 0) →
      (∀ r ∈ s.recs, r.h = h.toNat → r.torn = true → r.tornN = 0) →
      (recClass st.gen u = .good → ∃ t st', exec (.tornTileReread h u) s = .next t ∧ t.stream? h.toNat = some st' ∧ st'.tornRun = 0
        ∧ st'.parts = st.parts.map (fun q => (q.1, { q.2 with torn := false }))
        ∧ t.recs = s.recs.map (fun r => if r.h == h.toNat && again r then { r with torn := false, tornN := 0 } else r) ∧ t.rings = s.rings ∧ t.integ = s.integ)
      ∧ ((recClass st.gen u = .torn ∨ recClass st.gen u = .stale) → ¬ (beatAdd st.tornAt 1 = s.beat ∧ 3 ≤ st.tornRun ∧ st.wbOpen = false) →
        ∃ t st', exec (.tornTileReread h u) s = .next t
          ∧ t.stream? h.toNat = some st' ∧ st'.tornRun = (if beatAdd st.tornAt 1 = s.beat then st.tornRun + 1 else 1) ∧ st'.tornAt = s.beat
          ∧ t.integ.eccTorn = min 255 (s.integ.eccTorn + 1) ∧ t.recs.map (·.id) = s.recs.map (·.id) ∧ t.rings = s.rings)
      ∧ (recClass st.gen u = .corrupt → st.mirrorGen = st.gen → ∃ t st', exec (.tornTileReread h u) s = .next t ∧ t.stream? h.toNat = some st'
          ∧ st'.tornRun = 0 ∧ t.recs.map (·.id) = s.recs.map (·.id) ∧ t.integ.eccTorn = s.integ.eccTorn
          ∧ (∀ r ∈ s.recs, r.h = h.toNat → r.torn = true → ∃ y ∈ t.recs, y.id = r.id ∧ y.torn = false ∧ (256, h.toNat) ∈ y.waitTile)
          ∧ ∀ q ∈ st.parts, q.2.torn = true → ∃ y ∈ st'.parts, y.1 = q.1 ∧ y.2.torn = false ∧ y.2.waits = [(256, h.toNat)]))
    ∧ (∀ st x k z, s.live = true → s.stream? h.toNat = some st → st.tornAt ≠ s.beat → (s.recs.map (·.id)).Nodup → x ∈ s.recs → x.h = h.toNat →
      x.torn = true → x.tornAt ≠ s.beat → 0 < x.tornN → (∀ y ∈ st.nodes, y.2.tornRun = 0) → x.feats.isSome = true → tileClass u = .torn →
      s.tileOf (.staging x.id) = some (k, z) →
      let run := (z.tornMore s.beat).tornRun
      ∃ t, exec (.tornTileReread h u) s = .next t ∧ t.integ.eccTorn = min 255 (s.integ.eccTorn + 1)
        ∧ ∃ y ∈ t.recs, y.id = x.id ∧ (4 ≤ run → z.writeOpen = false → y.torn = false ∧ y.results = x.results ++ [vIndet])
          ∧ ((run < 4 ∨ z.writeOpen = true) → y.torn = true ∧ y.tornN = run ∧ y.results = x.results))
    ∧ (s.dueNow (.tileGood slot.toNat tile) = false → exec (.tileReloadInstall slot tile) s = .next s)
    ∧ (∀ i, s.dueNow (.tileGood slot.toNat tile) = true → s.img? slot.toNat = some i →
      (∀ c, AMap.get? i.cells tile = some c → c ∉ s.integ.cellsOut) → ∃ t j, exec (.tileReloadInstall slot tile) s = .next t
        ∧ t.img? slot.toNat = some j ∧ j = { i with badTiles := i.badTiles.filter fun x => x != tile, badMasks := j.badMasks }
        ∧ (slot.toNat, tile) ∉ t.stack.repairs
        ∧ t.recs = s.recs.map (fun r => { r with waitTile := r.waitTile.filter fun x => x != (slot.toNat, tile) })
        ∧ t.streams = s.streams ∧ t.rings = s.rings ∧ t.cmds = s.cmds))
  ∧ (∀ (o p : CoreOp) (os ps : List CoreOp) (addr : W32) (s : State),
    let halts := fun (ecc : Bool) (t : State) => t.start = { s.start with halted := true } ∧ t.integ.faults = s.integ.faults ||| 16
      ∧ t.host.irqStatus = s.host.irqStatus ||| 1 ∧ t.integ.eccUncorr = (if ecc then min 255 (s.integ.eccUncorr + 1) else s.integ.eccUncorr)
      ∧ SameStreams s t ∧ t.rings = s.rings ∧ t.cmds = s.cmds
    (s.start.halted = true → exec (.mgmtTrap os o ps) s = .next s)
    ∧ exec (.mgmtTrap (p :: os) o ps) s = exec (.mgmtTrap os o ps) (s.coreOp p)
    ∧ exec (.mgmtTrap [] o (p :: ps)) s = exec (.mgmtTrap [] p ps) (s.coreOp o)
    ∧ (s.start.halted = false →
      (addr ∉ s.start.trapAddrs → ∃ t, exec (.mgmtTrap [] (.fetch addr false) []) s = .next t
        ∧ t.start = { s.start with trapAddrs := s.start.trapAddrs ++ [addr] } ∧ t.integ.faults = s.integ.faults
        ∧ t.host.irqStatus = s.host.irqStatus ∧ t.integ.eccUncorr = min 255 (s.integ.eccUncorr + 1) ∧ SameStreams s t ∧ t.rings = s.rings ∧ t.cmds = s.cmds)
      ∧ (∀ rom, (rom = true ∨ addr ∈ s.start.trapAddrs) → ∃ t, exec (.mgmtTrap [] (.fetch addr rom) []) s = .next t ∧ halts true t)
      ∧ (∀ n, s.mgmt.core.reads addr.toNat n = true → ∃ t, exec (.mgmtTrap [] (.load addr n true) []) s = .next t ∧ halts true t)
      ∧ (∀ n bad, (bad = false ∨ s.mgmt.core.reads addr.toNat n = false) → exec (.mgmtTrap [] (.load addr n bad) []) s = .next s)
      ∧ (∀ e rest, s.mgmt.core.buf = e :: rest → e.full = false → ∃ t, exec (.mgmtTrap [] (.barrier true) []) s = .next t ∧ halts true t)
      ∧ (∃ t, exec (.mgmtTrap [] (.barrier false) []) s = .next t ∧ t.mgmt.core.buf = [] ∧ ∀ a n, t.mgmt.core.load a n = s.mgmt.core.load a n)
      ∧ (∀ bs : List Byte, bs ≠ [] → addr.toNat % 8 + bs.length ≤ 8 → (∀ e ∈ s.mgmt.core.buf, e.bytes.length = 8) →
          (∀ x ∈ s.mgmt.core.ram, x.2.length = 8) → ∃ t, exec (.mgmtTrap [] (.store addr bs false) []) s = .next t
        ∧ t.mgmt.core.load addr.toNat bs.length = bs ∧ (∀ a n, a / 8 ≠ addr.toNat / 8 → t.mgmt.core.load a n = s.mgmt.core.load a n)
        ∧ t.start = s.start ∧ t.integ = s.integ ∧ SameStreams s t ∧ t.rings = s.rings)
      ∧ (∀ tile row bs, bs.length ≠ 64 → ∃ t, exec (.mgmtTrap [] (.window addr tile row bs) []) s = .next t ∧ halts false t ∧ t.dyn = s.dyn)
      ∧ (∀ tile row z bs, bs.length = 64 → row < 64 → z.payload.length ≤ 4096 → AMap.get? s.dyn tile = some z →
        ∃ t y, exec (.mgmtTrap [] (.window addr tile row bs) []) s = .next t ∧ AMap.get? t.dyn tile = some y ∧ rowOf y.payload row = bs
          ∧ (∀ j, j < 64 → j ≠ row → rowOf y.payload j = rowOf (padTo 4096 0#8 z.payload) j) ∧ y.generation = z.generation ∧ y.crc = z.crc
          ∧ (∀ k, k ≠ tile → AMap.get? t.dyn k = AMap.get? s.dyn k) ∧ t.start = s.start ∧ SameStreams s t ∧ t.rings = s.rings)))
  ∧ (∀ (id : Nat) (r : Rec) (st : Stream) (s : State), s.rec? id = some r → (∀ x ∈ s.recs, x.id = id → x = r) → s.stream? r.h = some st →
    ((s.live = false ∨ expired s r = false) → exec (.recoveryExtExpiry id) s = .next s)
    ∧ (s.live = true → expired s r = true → r.kind ≠ .marker → ∃ t x, exec (.recoveryExtExpiry id) s = .next t ∧ t.rec? id = some x
        ∧ x.screened = true ∧ x.results = r.results ++ [vIndet] ∧ x.flags = setFlag r.flags fRecExt ∧ x.waitTile = [] ∧ x.sealed = r.sealed
        ∧ x.rel = r.rel ∧ x.stamp = r.stamp ∧ (∀ y ∈ s.recs, y.id ≠ id → y ∈ t.recs) ∧ t.rings = s.rings ∧ t.tenants = s.tenants ∧ t.regs = s.regs))

/-! Ranges (Chapter 14). -/

/-- RANGE_JOIN of a member in no range begins formation; RANGE_LEAVE leaves at the boundary after its records can be written and is refused while
range streams are open; RANGE_STATUS makes a copy at its address uncommitted, writes its record and runs until it is written (R390, log 51). A
tail that waits its timeout for the other members gives up; a member joins at a boundary, without a lease (R29, R361, R422, R425, R426, R431,
R432).
What a member sends and sees in its own time: slots of a lane returned after 32 records or 64 beats, heartbeats to the successor and the
head when nothing went there for 256 beats, each put down for the release phase, which writes it where the lane has room; and a split from a peer
that is silent for the relay timeout, in which the results that wait for it are kept as INCOMPLETE (R54, R56, R423, R429, log 63). -/
def Obligations.RangeCommandsAndTimers : Prop :=
  (∀ (d : Desc) (s : State),
    let u := s.started d
    (s.accepts d = true → d.opcode = 0x40 →
      let timeout := dfld d 4 31 0
      let free := s.range.joined = false ∧ u.forming? = none ∧ s.range.leaving = false ∧ 64 ≤ timeout ∧ fld s.regs.rangeMember 14 8 ≠ 0
      (¬ free → ∃ t, exec (.rangeJoin d) s = .next t ∧ Completes s t d { status := stState } ∧ t.range = s.range)
      ∧ (free → (dfld d 2 1 0 ≠ 2 ∨ s.range.members.length + 1 < fld s.regs.rangeMember 14 8) → s.range.members = [] →
        ∃ t, exec (.rangeJoin d) s = .next t ∧ Runs s t d (.join s.beat) ∧ t.range.forming = some s.nextId ∧ t.range.role = dfld d 2 1 0
          ∧ t.range.succInbox = dfld d 3 56 0 ∧ t.range.timeout = timeout ∧ t.range.probes = 0 ∧ t.range.joined = false ∧ SameStreams s t))
    ∧ (s.accepts d = true → d.opcode = 0x41 →
      (s.range.joined = true → s.openStreams ≠ [] → ∃ t, exec (.rangeLeave d) s = .next t ∧ Completes s t d { status := stState }
        ∧ t.range = s.range ∧ t.sched = s.sched)
      ∧ (s.range.joined = false → u.forming? = none → ∃ t, exec (.rangeLeave d) s = .next t ∧ Completes s t d { status := stOK }
        ∧ t.range = s.range ∧ t.sched = s.sched)
      ∧ (s.range.joined = true → s.openStreams = [] → u.forming? = none → s.range.leaving = false → ∃ t, exec (.rangeLeave d) s = .next t
        ∧ Completes s t d { status := stOK } ∧ t.range.leaving = true ∧ t.range.joined = true
        ∧ t.sched = s.sched ++ [⟨if s.clk.phase ≤ 2 then s.nextB else beatAdd s.nextB 1, .leaveRange, 0⟩]))
    ∧ (s.accepts d = true → d.opcode = 0x42 → ∃ t w, exec (.rangeStatus d) s = .next t ∧ Runs s t d (.status (dfld d 2 56 0) false)
        ∧ AMap.get? t.host.jobs s.host.nextJob = some w ∧ w.owner = .rangeStatus s.nextId ∧ t.range = s.range ∧ SameStreams s t)
    ∧ ((s.forming? = none ∨ s.range.role ≠ 2 ∨ s.clk.stopped = true ∨ joining s = true) → exec .rangeJoinTimeout s = .next s)
    ∧ (∀ c, s.forming? = some c → s.range.role = 2 → s.clk.stopped = false → joining s = false →
      (beatLe (beatAdd c.since s.range.timeout) s.beat = false → exec .rangeJoinTimeout s = .next s)
      ∧ (beatLe (beatAdd c.since s.range.timeout) s.beat = true → ∃ t e, exec .rangeJoinTimeout s = .next t ∧ t.range.forming = none ∧ t.range.members = []
          ∧ t.range.joined = s.range.joined ∧ (t.ring c.ring).cqPend = (s.ring c.ring).cqPend ++ [e] ∧ e.status = stIncomplete ∧ e.tag = c.tag
          ∧ t.cmds = s.cmds.filter (fun x => x.id != c.id)))
    ∧ ∀ (f dr : Nat),
      let t := s.joinRange f dr
      t.range.joined = true ∧ t.range.forming = none ∧ t.range.formation = f ∧ t.range.lastFormation = f ∧ t.range.dRange = dr
      ∧ t.range.formedBeat = s.beat ∧ t.range.split = false ∧ t.range.members.map (·.1) = s.range.members.map (·.1)
      ∧ (∀ n x, AMap.get? t.tenants n = some x → x.k = 0 ∧ x.x = 0 ∧ x.u = 0) ∧ SameStreams s t
      ∧ ∀ c, s.forming? = some c → ∃ e, (t.ring c.ring).cqPend = (s.ring c.ring).cqPend ++ [e] ∧ e.status = stOK ∧ e.resA = dr ∧ e.tag = c.tag)
  ∧ (∀ (lane peer : BitVec 6) (s : State),
    let l := lane.toNat
    let at_ := AMap.getD s.range.lanes l (0, 0, 0)
    let due := at_.2.1 ≠ 0 ∧ peerInbox s l ≠ 0 ∧ (32 ≤ at_.2.1 ∨ beatLt s.beat (beatAdd at_.2.2 64) = false)
    ((s.live = false ∨ ¬ due) → exec (.relayAckSend lane) s = .next s)
    ∧ (s.live = true → due → (l ∉ s.range.splitFrom ∨ laneRoom s l = true) → ∃ t x, exec (.relayAckSend lane) s = .next t
        ∧ AMap.get? t.range.lanes l = some (at_.1, 0, 0) ∧ t.range.backlog = s.range.backlog ++ [x] ∧ x.peer = l ∧ x.kind = 8
        ∧ x.words = [w64 [(at_.1 % 65536, 0)]] ∧ t.range.send = s.range.send ∧ SameStreams s t ∧ t.rings = s.rings)
    ∧ (∀ x, s.range.backlog = [x] →
        (laneRoom s x.peer = true → s.pumpRelay.range.backlog = [] ∧ AMap.get? s.pumpRelay.range.sentTo x.peer = some s.beat
          ∧ AMap.get? s.pumpRelay.range.send x.peer = some ((AMap.getD s.range.send x.peer (0, 0)).1 + 1, (AMap.getD s.range.send x.peer (0, 0)).2))
        ∧ (laneRoom s x.peer = false → s.pumpRelay = s))
    ∧ ((s.range.joined = false ∨ s.clk.stopped = true ∨ s.heartPeers.filter (heartDue s) = []) → exec .heartbeatSend s = .next s)
    ∧ (s.range.joined = true → s.clk.stopped = false → ∃ t, exec .heartbeatSend s = .next t
        ∧ (∀ p ∈ s.heartPeers, heartDue s p = true → (p ∉ s.range.splitFrom ∨ laneRoom s p = true) →
            ∃ x ∈ t.range.backlog, x.peer = p ∧ x.kind = 9 ∧ x.sender = s.selfId)
        ∧ (∀ x ∈ s.range.backlog, x ∈ t.range.backlog) ∧ (∀ x ∈ t.range.backlog, x ∈ s.range.backlog ∨ x.kind = 9)
        ∧ t.range.members = s.range.members ∧ SameStreams s t ∧ t.rings = s.rings)
    ∧ ((s.range.joined = false ∨ s.clk.stopped = true ∨ peer.toNat ∈ s.range.splitFrom ∨ splitShows s peer.toNat = none) →
        exec (.relayTimeout peer) s = .next s)
    ∧ (∀ k, s.range.joined = true → s.clk.stopped = false → peer.toNat ∉ s.range.splitFrom → splitShows s peer.toNat = some k →
        ∃ t, exec (.relayTimeout peer) s = .next t ∧ t.range.split = true ∧ t.range.splitFrom = s.range.splitFrom ++ [peer.toNat]
          ∧ (∀ x ∈ t.range.backlog, x.peer = peer.toNat → ∃ y ∈ s.range.backlog, y.peer = peer.toNat ∧ relayKept y.kind = true ∧ x = y.marked)
          ∧ (∀ y ∈ s.range.backlog, y.peer = peer.toNat → relayKept y.kind = true → y.marked ∈ t.range.backlog)
          ∧ t.host.irqStatus = s.host.irqStatus ||| 8 ∧ t.range.members = s.range.members ∧ SameStreams s t ∧ t.rings = s.rings))

/-- The relay records: one at the head of its lane with the expected phase moves the lane on; one of another formation or kind, or with a reserved
encoding, is only counted; and each kind of this formation has its effect, shown here where no split is in force and no grant is missed; with
the last of the roster a member joins at the next boundary (R23, R29, R361, R423 to R429, R431, R435). -/
def Obligations.RelayRecordsTakeEffect : Prop :=
  ∀ (r : RelayIn) (s : State) (c : Instr) (k : Nat),
    (c, k) ∈ [(.relayRec r, 1), (.relayChunk r, 2), (.relayJoin r, 3), (.relayMembers r, 4), (.relayProbe r, 5), (.relayGrant r, 6),
      (.relayReport r, 7), (.relayAck r, 8), (.relayHeartbeat r, 9), (.relayStop r, 10), (.relayResume r, 11), (.relayLeave r, 12)] →
    let lane := r.lane.toNat
    let at_ := AMap.getD s.range.lanes lane (0, 0, 0)
    let next := (at_.1 + 1, at_.2.1 + 1, if at_.2.1 = 0 then s.beat else at_.2.2)
    let taken := s.complete = true ∧ fld s.regs.rangeMember 14 8 ≠ 0 ∧ bit r.w7 63 = decide (at_.1 / laneSlots s % 2 = 0)
    (¬ taken → exec c s = .next s)
    ∧ (taken → relayGood s r k = false → ∃ t, exec c s = .next t ∧ t.range = { s.range with lanes := AMap.set s.range.lanes lane next }
        ∧ AMap.getD t.mgmt.counters 114 0 = (AMap.getD s.mgmt.counters 114 0 + 1) % 2 ^ 64 ∧ SameStreams s t ∧ t.rings = s.rings
        ∧ t.tenants = s.tenants)
    ∧ (taken → relayGood s r k = true → s.range.splitFrom = [] → s.range.starved = 0 → ∃ t, exec c s = .next t
      ∧ AMap.get? t.range.lanes lane = some next ∧ t.regs = s.regs
      ∧ (k = 1 → s.range.joined = true → s.isFirst = false → ∃ p, t.range.preds = s.range.preds ++ [p] ∧ p.slot = fld r.w1 13 0
          ∧ p.step = fld r.w1 29 14 ∧ p.kind = fld r.w1 37 36 ∧ p.verdict = fld r.w1 41 38 ∧ p.flags = fld r.w1 53 42 ∧ p.time = r.w3
          ∧ p.beat = s.beat)
      ∧ (k = 2 → s.range.joined = true → s.isFirst = false → ∀ st g, s.bound? (fld r.w1 13 0) = some st → s.stream? st.handle = some st → fld r.w1 36 24 ≠ 0 →
          freeTag s.host.reads = some g →
          s.range.chunkQ = [] → readingChunk s st.handle = false →
          (∀ m, AMap.get? s.range.members lane = some m → r.time.toNat - r.w6.toNat ≤ m.hop) →
          (let p := chunkPart (fld r.w1 36 24) (fld r.w2 56 0) []
           unacked s (p.1 / 64 * 64) (64 * cdiv (p.1 % 64 + p.2) 64) = false) →
          AMap.get? t.host.reads g = some (.chunk st.handle (fld r.w1 23 14) (fld r.w1 36 24) (fld r.w1 40 37)
            (fld r.w1 52 41) (fld r.w2 56 0) []))
      ∧ (k = 3 → s.range.joined = false → s.forming? = none → ∃ m, AMap.get? t.range.members (fld r.w0 9 4) = some m
          ∧ m.role = fld r.w1 1 0 ∧ m.di = fld r.w1 23 8 ∧ m.inbox = fld r.w2 56 0)
      ∧ (k = 4 → s.forming?.isSome = true → s.range.role ≠ 2 → joining s = false → AMap.has s.range.members (fld r.w0 9 4) = false →
          t.range.joined = s.range.joined ∧ t.range.forming = s.range.forming ∧ (AMap.get? t.range.members (fld r.w0 9 4)).isSome = true
          ∧ (s.range.members.length + 1 < fld s.regs.rangeMember 14 8 → t.sched = s.sched)
          ∧ (fld s.regs.rangeMember 14 8 ≤ s.range.members.length + 1 →
              t.sched = s.sched ++ [⟨s.nextB, .joinRange (fld r.w4 31 16) (fld r.w4 15 0), 0⟩]))
      ∧ (k = 5 → AMap.get? t.range.hops lane = some (max (AMap.getD s.range.hops lane 0) (r.time.toNat - r.w6.toNat)))
      ∧ (k = 6 → s.range.joined = true → t.range.grants = s.range.grants
          ++ [⟨fld r.w1 11 0, fld r.w1 63 32, fld r.w2 31 0, fld r.w2 63 32, fld r.w3 31 0, r.w4⟩])
      ∧ (k = 7 → s.range.joined = true → s.range.role = 0 → s.range.split = false →
          let n := fld r.w1 11 0
          let a := s.anchorOf n
          let raw := fld r.w2 63 32
          t.anchorOf n = (satK (min (a.1 + (if raw < 2 ^ 31 then (raw : Int) else (raw : Int) - 2 ^ 32)) (anchorCap s (s.tenant n))), a.2.1, a.2.2))
      ∧ (k = 8 → ∀ tail ret, AMap.get? s.range.send lane = some (tail, ret) →
          let n := ret + (fld r.w1 15 0 + 65536 - ret % 65536) % 65536
          AMap.get? t.range.send lane = some (tail, if tail < n then ret else n))
      ∧ (k = 9 → (AMap.get? s.range.members lane).isSome = true → ∃ m, AMap.get? t.range.members lane = some m ∧ m.lastHeard = s.beat)
      ∧ (k = 10 → s.range.joined = true → s.clk.stopped = false → s.clk.stopPin = false → s.clk.stopCmd = false → t.range.stopIn = true)
      ∧ (k = 11 → t.range.stopIn = false)
      ∧ (k = 12 → s.forming? = none → s.range.leaving = false → t.range.leaving = true ∧ (⟨s.nextB, .leaveRange, 0⟩ : Sched) ∈ t.sched))

/-- The anchor's grants: in beat 2,000 of a period each enabled tenant's counts are refilled and its leases leave the anchor, the shares of
an amount never more than the amount; a member adopts a grant at its time, its old counts giving way (R360, R361). -/
def Obligations.LeasesLeaveTheAnchor : Prop :=
  (∀ (g : Nat) (u : Nat → Nat) (ms : List Nat), sumBy (fun m => leaseShare g ms.length (u m) (sumBy u ms)) ms ≤ g)
  ∧ ∀ (s : State),
    ((s.live = false ∨ grantDue s = false) → exec .leaseGrant s = .next s)
    ∧ (s.live = true → grantDue s = true → ∃ t, exec .leaseGrant s = .next t ∧ t.range.leasePeriod = s.beat / 4000 + 1
      ∧ ∀ n x, (AMap.keys s.tenants).Nodup → AMap.get? s.tenants n = some x → x.enabled = true →
        let ms := AMap.keys s.range.members
        let y := ({ x with k := (s.anchorOf n).1 } : Tenant).refill s.gov.burst
        let share := fun m => leaseShare y.k.toNat ms.length (usedBy s m n) (sumBy (fun m => usedBy s m n) ms)
        (s.range.split = true → t.anchorOf n = (y.k, y.x, 0) ∧ t.range.outstanding = s.range.outstanding)
        ∧ (s.range.split = false → (t.anchorOf n).1 = y.k - (sumBy share ms : Nat) ∧ (t.anchorOf n).2.1 = y.x
            ∧ t.range.outstanding.filter (fun z => z.2.1 == n) = s.range.outstanding.filter (fun z => z.2.1 == n)
                ++ ms.map (fun m => (m, n, s.beat / 4000 + 1, share m))))
    ∧ (let now := s.nextTime.toNat
       let due := s.range.grants.filter fun g => decide (g.time.toNat ≤ now)
       ((s.live = false ∨ s.atEnd = false ∨ s.range.joined = false ∨ due = []) → exec .leaseAdoption s = .next s)
       ∧ (∀ g, s.live = true → s.atEnd = true → s.range.joined = true → due = [g] → ∃ t, exec .leaseAdoption s = .next t
          ∧ t.tenant g.tenant = { s.tenant g.tenant with k := g.g, x := g.x, u := 0, leaseC := g.c, leaseG := g.g, leaseP := g.period, leaseX := g.x }
          ∧ (∀ m, m ≠ g.tenant → t.tenant m = s.tenant m) ∧ t.range.adopted = s.beat
          ∧ t.range.grants = s.range.grants.filter (fun g => !decide (g.time.toNat ≤ now)) ∧ SameStreams s t ∧ t.rings = s.rings))

/-! Test access (Chapter 16). -/

/-- The test port: each instruction is in force once shifted in and drives its register out; a private one without its pins acts as BYPASS
and touches nothing; FUSE_PROG programs within the rules of its target and FUSE_READ reads it back (R490, R491). -/
def Obligations.TestPortInstructions : Prop :=
  ∀ (pins : TestPins) (bits : List Bool) (groups failed : BitVec 16) (value : BitVec 256) (target : BitVec 8) (s : State),
    let acts := pins.testMode = true ∧ pins.resetAsserted = true
    exec (.bypass bits) s = .next { s with test := { s.test with ir := 0xFF }, out := s.out ++ [.tdo (bits.length + 1) (2 * boolsNat bits)] }
    ∧ exec .idcode s = .next { s with
        test := { s.test with ir := 0x01 }
        out := s.out ++ [.tdo 32 (1 + 2 * s.build.mfr.toNat + 2 ^ 12 * 0x1A20 + 2 ^ 28 * 2)] }
    ∧ exec .testReset s = .next { s with test := { s.test with ir := 0x01 }, out := s.out ++ [.tdo 0 0] }
    ∧ (∀ c k, (c, k) ∈ [(.mbist pins groups failed, 0x10), (.mbistResult pins, 0x11), (.scan pins, 0x20), (.fuseProg pins value target, 0x30),
        (.fuseRead pins target, 0x31)] → ¬ acts → exec c s = .next { s with test := { s.test with ir := k }, out := s.out ++ [.tdo 1 0] })
    ∧ (acts →
      (∃ t, exec (.mbist pins groups failed) s = .next t ∧ t.test = { s.test with ir := 0x10, groupsDone := groups, groupsFailed := failed &&& groups }
        ∧ t.start = { s.start with coldNext := true } ∧ t.fuses = s.fuses ∧ t.regs = s.regs ∧ t.out = s.out)
      ∧ exec (.mbistResult pins) s = .next { s with
          test := { s.test with ir := 0x11 }
          out := s.out ++ [.tdo 32 (s.test.groupsDone.toNat + 2 ^ 16 * s.test.groupsFailed.toNat)] }
      ∧ (∃ t, exec (.scan pins) s = .next t ∧ t.test = { s.test with ir := 0x20 } ∧ t.start = { s.start with coldNext := true }
        ∧ t.fuses = s.fuses ∧ t.regs = s.regs)
      ∧ (∃ t, exec (.fuseProg pins value target) s = .next t ∧ t.test = { s.test with ir := 0x30, fuseTarget := target }
        ∧ t.regs = s.regs ∧ t.start = s.start ∧ t.out = s.out
        ∧ (target.toNat < 4 → s.fuses.keyState.getD target.toNat 0 = 0 → target.toNat < s.fuses.keyHash.length →
            t.fuses.value target.toNat = value.toNat)
        ∧ (target.toNat < 4 → s.fuses.keyState.getD target.toNat 0 ≠ 0 → t.fuses = s.fuses)
        ∧ (4 ≤ target.toNat → target.toNat < 8 → target.toNat - 4 < s.fuses.keyState.length →
            t.fuses.value target.toNat = (if s.fuses.value target.toNat = 0 ∧ value.toNat % 4 = 1 ∨ s.fuses.value target.toNat = 1 ∧ value.toNat % 4 = 3
              then value.toNat % 4 else s.fuses.value target.toNat))
        ∧ (0x11 ≤ target.toNat → target.toNat ≤ 0x1A → target.toNat - 0x11 < s.fuses.rollback.length →
            t.fuses.value target.toNat = (if s.fuses.value target.toNat < value.toNat % 128 ∧ value.toNat % 128 ≤ 64 then value.toNat % 128
              else s.fuses.value target.toNat)))
      ∧ ∃ t, exec (.fuseRead pins target) s = .next t ∧ t.out = s.out ++ [.tdo 264 (pack [(s.fuses.value target.toNat, 0), (target.toNat, 256)])]
        ∧ t.fuses = s.fuses ∧ t.regs = s.regs ∧ t.start = s.start)

/-- Fuses only advance: whatever command a step runs, key states and rollback counts never fall, and the hash of a key slot in use never
changes (R450, R451, R491). -/
def Obligations.FusesOnlyAdvance : Prop :=
  ∀ s t : State, s.fuses.statesLegal = true → step s = .next t → s.fuses.before t.fuses ∧ t.fuses.statesLegal = true
end

