-- ==== Sys2Proof/Laws/Still.lean ====
section
/-! SUPPORT. What the operations of Ops, Issue, Relay, Screen, Operands, Registers, Rings, Admission leave as it was: the queue, the build, the registers, the fuses and the test port.
One lemma for each operation, tagged simp, so that no later proof unfolds one. The operations that do write such a part have none here
(`setRegs`, `raiseRollback`, `setTest`, `cleared`, and what calls them). -/

set_option maxRecDepth 8000
set_option linter.unusedSimpArgs false
namespace Sys2Proof.Machine

/-- The parts of the state that only a few commands write: the waiting commands, the build, the registers, the fuses, the test access port. -/
structure Still where
  pending : List Instr
  build : ElabS
  regs : RegS
  fuses : FuseS
  test : TestS
/-- Those parts of a state. -/
def State.still (s : State) : Still := ⟨s.pending, s.build, s.regs, s.fuses, s.test⟩

@[simp] theorem still_mk (a0 a1 a2 a3 a4 a5 a6 a7 a8 a9 a10 a11 a12 a13 a14 a15 a16 a17 a18 a19 a20 a21 a22 a23 a24 a25 a26 a27 a28 a29 a30 a31 a32) :
  State.still (State.mk a0 a1 a2 a3 a4 a5 a6 a7 a8 a9 a10 a11 a12 a13 a14 a15 a16 a17 a18 a19 a20 a21 a22 a23 a24 a25 a26 a27 a28 a29 a30 a31 a32) = ⟨a0, a1, a3, a2, a28⟩ := Eq.trans rfl rfl
@[simp] theorem still_fold (s : State) : Still.mk s.pending s.build s.regs s.fuses s.test = s.still := Eq.trans rfl rfl
@[simp] theorem still_ite (c : Prop) [Decidable c] (a b : State) : (if c then a else b).still = if c then a.still else b.still := by split <;> rfl
@[simp] theorem still_foldl {α : Type} (f : State → α → State) (h : ∀ s a, (f s a).still = s.still) (l : List α) (s : State) : (l.foldl f s).still = s.still := by
  induction l generalizing s with
  | nil => rfl
  | cons a l ih => simp [ih, h]
theorem still_foldlP {α β : Type} (f : State × β → α → State × β) (h : ∀ s a, (f s a).1.still = s.1.still) (l : List α) (s : State × β) :
    (l.foldl f s).1.still = s.1.still := by
  induction l generalizing s with
  | nil => rfl
  | cons a l ih => simp [ih, h]
theorem still_foldlQ {α β : Type} (f : β × State → α → β × State) (h : ∀ s a, (f s a).2.still = s.2.still) (l : List α) (s : β × State) :
    (l.foldl f s).2.still = s.2.still := by
  induction l generalizing s with
  | nil => rfl
  | cons a l ih => simp [ih, h]
theorem still_if {c : Prop} [Decidable c] {a b t : State} (h1 : a.still = t.still) (h2 : b.still = t.still) : (if c then a else b).still = t.still := by
  split <;> assumption
theorem still_foldlO {α β : Type} (f : Option (β × State) → α → Option (β × State)) (t : Still)
    (h0 : ∀ a, f none a = none) (h : ∀ x a y, x.2.still = t → f (some x) a = some y → y.2.still = t)
    (l : List α) (x : β × State) (hx : x.2.still = t) : ∀ y, l.foldl f (some x) = some y → y.2.still = t := by
  have hn : ∀ l : List α, l.foldl f none = none := by
    intro l; induction l with
    | nil => rfl
    | cons a l ih => simp [h0, ih]
  induction l generalizing x with
  | nil => intro y e; cases e; exact hx
  | cons a l ih =>
    intro y e
    rw [List.foldl_cons] at e
    cases hfa : f (some x) a with
    | none => rw [hfa, hn] at e; cases e
    | some z => rw [hfa] at e; exact ih z (h x a z hx hfa) y e
theorem still_ifO {c : Prop} [Decidable c] {a b : Option State} {u : Still} (h1 : ∀ x, a = some x → x.still = u) (h2 : ∀ x, b = some x → x.still = u) :
    ∀ x, (if c then a else b) = some x → x.still = u := by
  split <;> assumption
theorem still_some {a : State} {u : Still} (h : a.still = u) : ∀ x, some a = some x → x.still = u := by
  intro x e; cases e; exact h
theorem still_none {u : Still} : ∀ x : State, none = some x → x.still = u := by
  intro x e; cases e

/-! Ops. -/

@[simp] theorem State.pick_still (s : State) (n : ℕ) : (State.pick s n).2.still = s.still := by
  unfold State.pick; split <;> simp [still_ite]
@[simp] theorem State.emit_still (s : State) (o : Out) : (State.emit s o).still = s.still := by
  rfl
@[simp] theorem State.count_still (s : State) (i : ℕ) (n : ℕ) : (State.count s i n).still = s.still := by
  rfl
@[simp] theorem State.raise_still (s : State) (i : ℕ) : (State.raise s i).still = s.still := by
  rfl
@[simp] theorem State.fault_still (s : State) (i : ℕ) : (State.fault s i).still = s.still := by
  rfl
@[simp] theorem State.at_still (s : State) (b : ℕ) (e : Eff) : (State.at s b e).still = s.still := by
  rfl
@[simp] theorem State.atFor_still (s : State) (b : ℕ) (e : Eff) (c : ℕ) : (State.atFor s b e c).still = s.still := by
  rfl
@[simp] theorem State.fresh_still (s : State) : (State.fresh s).2.still = s.still := by
  rfl
@[simp] theorem State.trace_still (s : State) (engine : ℕ) (event : ℕ) (tag : ℕ) (layerId : ℕ) (opId : ℕ) (policy : ℕ) (stream : ℕ) (detail : W64) : (State.trace s engine event tag layerId opId policy stream detail).still = s.still := by
  simp [State.trace, still_ite]
@[simp] theorem State.ev_still (s : State) (engine : ℕ) (event : ℕ) (stream : ℕ) (detail : List (ℕ × ℕ)) : (State.ev s engine event stream detail).still = s.still := by
  simp [State.ev, still_ite]
@[simp] theorem pumpPackets_still (n j : Nat) (s : State) : (pumpPackets n j s).still = s.still := by
  induction n generalizing s with
  | zero => rfl
  | succ n ih =>
    unfold pumpPackets
    repeat' split
    all_goals simp [ih]
@[simp] theorem pumpAll_still (s : State) : (pumpAll s).still = s.still := by
  simp [pumpAll, still_ite]
@[simp] theorem State.write_still (s : State) (owner : WOwner) (attr : ℕ) (data : List (ℕ × List Byte)) (commit : Option (ℕ × List Byte)) (after : List ℕ) : (State.write s owner attr data commit after).2.still = s.still := by
  simp [State.write, still_ite]
@[simp] theorem State.write'_still (s : State) (owner : WOwner) (attr : ℕ) (data : List (ℕ × List Byte)) (commit : Option (ℕ × List Byte)) : (State.write' s owner attr data commit).still = s.still := by
  simp [State.write', still_ite]
@[simp] theorem State.read_still (s : State) (o : ROwner) (addr : ℕ) (rows : ℕ) (attr : ℕ) : (State.read s o addr rows attr).still = s.still := by
  unfold State.read; split <;> simp [still_ite]
@[simp] theorem State.setSeg_still (s : State) (i : ℕ) (f : Seg → Seg) : (State.setSeg s i f).still = s.still := by
  rfl
@[simp] theorem State.dropReads_still (s : State) (p : ROwner → Bool) : (State.dropReads s p).still = s.still := by
  rfl
@[simp] theorem freeSeg_still (s : State) (i : ℕ) : (freeSeg s i).still = s.still := by
  simp [freeSeg, still_ite]
@[simp] theorem State.segFreed_still (s : State) (i : ℕ) : (State.segFreed s i).still = s.still := by
  rfl
@[simp] theorem takeSeg_still (s : State) (role : ℕ) : (takeSeg s role).still = s.still := by
  unfold takeSeg; split <;> simp [still_ite]
@[simp] theorem State.writeRows_still (s : State) (what : ℕ) (key : ℕ) (addr : ℕ) (bs : List Byte) : (State.writeRows s what key addr bs).still = s.still := by
  simp [State.writeRows, still_ite]
@[simp] theorem putRows_still (s : State) (what : ℕ) (key : ℕ) (bs : List Byte) : (putRows s what key bs).still = s.still := by
  unfold putRows
  generalize (if hasRoom s (roleOf what) (bs.length / 64) then openOf s (roleOf what) else none) = o
  cases o with
  | none => rfl
  | some i => exact (State.writeRows_still _ _ _ _ _).trans rfl
@[simp] theorem copyRows_still (s : State) (what : ℕ) (key : ℕ) (bs : List Byte) : (copyRows s what key bs).still = s.still := by
  simp [copyRows, still_ite]
@[simp] theorem copyOut_still (s : State) (i : ℕ) : (copyOut s i).still = s.still := by
  unfold copyOut
  refine (still_foldl _ (fun s a => by simp) _ _).trans ((still_foldl _ (fun s a => by simp) _ _).trans (still_foldl _ (fun s a => by simp) _ _))
@[simp] theorem compactMore_still (s : State) (i : ℕ) : (compactMore s i).still = s.still := by
  simp [compactMore, still_ite]
@[simp] theorem compact_still (s : State) (i : ℕ) : (compact s i).still = s.still := by
  simp [compact, still_ite]
@[simp] theorem State.pumpCompact_still (s : State) : (State.pumpCompact s).still = s.still := by
  simp [State.pumpCompact]
@[simp] theorem openSeg_still (s : State) (role : ℕ) : (openSeg s role).still = s.still := by
  (unfold openSeg; dsimp only; repeat' split) <;> simp [still_ite]
@[simp] theorem State.placeRows_still (s : State) (what : ℕ) (key : ℕ) (bs : List Byte) : (State.placeRows s what key bs).still = s.still := by
  simp [State.placeRows, still_ite]
@[simp] theorem State.pumpRows_still (s : State) : (State.pumpRows s).still = s.still := by
  exact (still_foldl _ (fun s a => by simp) _ _).trans rfl
@[simp] theorem State.log_still (s : State) (code : ℕ) (severity : ℕ) (engine : ℕ) (d0 : W64) (d1 : W64) (d2 : W64) : (State.log s code severity engine d0 d1 d2).still = s.still := by
  simp [State.log, still_ite]
@[simp] theorem State.setTenant_still (s : State) (t : ℕ) (f : Tenant → Tenant) : (State.setTenant s t f).still = s.still := by
  rfl
@[simp] theorem State.setRing_still (s : State) (r : ℕ) (f : Ring → Ring) : (State.setRing s r f).still = s.still := by
  rfl
@[simp] theorem State.setStream_still (s : State) (h : ℕ) (f : Stream → Stream) : (State.setStream s h f).still = s.still := by
  unfold State.setStream; split <;> simp [still_ite]
@[simp] theorem State.setRec_still (s : State) (id : ℕ) (f : Rec → Rec) : (State.setRec s id f).still = s.still := by
  rfl
@[simp] theorem State.setCmd_still (s : State) (id : ℕ) (f : Cmd → Cmd) : (State.setCmd s id f).still = s.still := by
  rfl
@[simp] theorem State.setMask_still (s : State) (id : ℕ) (f : MaskJ → MaskJ) : (State.setMask s id f).still = s.still := by
  rfl
@[simp] theorem State.setImg_still (s : State) (slot : ℕ) (f : Img → Img) : (State.setImg s slot f).still = s.still := by
  rfl
@[simp] theorem State.post_still (s : State) (ring : ℕ) (c : Cpl) : (State.post s ring c).still = s.still := by
  rfl
@[simp] theorem State.postVerdict_still (s : State) (st : Stream) (kind : ℕ) (verdict : ℕ) (flags : ℕ) (relBeat : ℕ) (chunk : ℕ) (pos : ℕ) (after : List ℕ) : (State.postVerdict s st kind verdict flags relBeat chunk pos after).still = s.still := by
  rfl
@[simp] theorem countRefusal_still (s : State) (st : ℕ) : (countRefusal s st).still = s.still := by
  simp [countRefusal, still_ite]
@[simp] theorem State.finish_still (s : State) (c : Cmd) (d : Done) : (State.finish s c d).still = s.still := by
  simp [State.finish, still_ite]
@[simp] theorem State.finishId_still (s : State) (id : ℕ) (d : Done) : (State.finishId s id d).still = s.still := by
  unfold State.finishId; split <;> simp [still_ite]
@[simp] theorem State.dbFaultAt_still (s : State) (ring : ℕ) (cause : ℕ) : (State.dbFaultAt s ring cause).still = s.still := by
  simp [State.dbFaultAt, still_ite]
@[simp] theorem State.raiseVec_still (s : State) (v : ℕ) : (State.raiseVec s v).still = s.still := by
  simp [State.raiseVec, still_ite]
@[simp] theorem State.cellLeaves_still (s : State) (cell : ℕ) (cause : ℕ) : (State.cellLeaves s cell cause).still = s.still := by
  simp [State.cellLeaves, still_ite]
@[simp] theorem State.takeTime_still (s : State) (t : W64) : (State.takeTime s t).still = s.still := by
  simp [State.takeTime, still_ite]

@[simp] theorem State.reach_still (s : State) (k : ℕ) : (State.reach s k).still = s.still := by
  rfl
@[simp] theorem State.toPhase_still (s : State) (k : ℕ) : (State.toPhase s k).still = s.still := by
  rfl

/-! Tiles. -/

@[simp] theorem State.dynWrite_still (s : State) (u : TileUse) (p : List Byte) : (State.dynWrite s u p).still = s.still := by
  rfl
@[simp] theorem State.dynClose_still (s : State) : (State.dynClose s).still = s.still := by
  rfl
@[simp] theorem State.dynFree_still (s : State) : (State.dynFree s).still = s.still := by
  rfl

@[simp] theorem State.tileTorn_still (s : State) (u : TileUse) : (State.tileTorn s u).still = s.still := by
  rfl
@[simp] theorem State.writeBack_still (s : State) (h : ℕ) : (State.writeBack s h).still = s.still := by
  simp [State.writeBack]
@[simp] theorem State.writeNode_still (s : State) (h id : ℕ) : (State.writeNode s h id).still = s.still := by
  unfold State.writeNode
  extract_lets t
  have ht : t.still = s.still := State.setStream_still _ _ _
  clear_value t
  split
  · split
    · exact (State.dynWrite_still _ _ _).trans ht
    · exact ht
  · exact ht
@[simp] theorem State.recClose_still (s : State) : (State.recClose s).still = s.still := by
  rfl
@[simp] theorem State.heldBack_still (a s : State) : (State.heldBack a s).still = s.still := by
  simp [State.heldBack]

/-! Issue. -/

@[simp] theorem State.setChan_still (s : State) (c : ℕ) (f : Chan → Chan) : (State.setChan s c f).still = s.still := by
  rfl
@[simp] theorem State.sendOn_still (s : State) (c : ℕ) (w : Win) (op : ℕ) (purp : Purp) (words : List W64) (payload : List Byte) (respLen : ℕ) : (State.sendOn s c w op purp words payload respLen).still = s.still := by
  (unfold State.sendOn; dsimp only; repeat' split) <;> simp [still_ite]
@[simp] theorem State.noIssue_still (s : State) (e c op : ℕ) : (State.noIssue s e c op).still = s.still := by
  simp [State.noIssue]
@[simp] theorem pumpFirm_still (n : ℕ) (s : State) : (pumpFirm n s).still = s.still := by
  induction n generalizing s with
  | zero => rfl
  | succ n ih =>
    unfold pumpFirm
    split
    · rfl
    · dsimp only
      split
      · exact (ih _).trans rfl
      · split
        · split
          · exact (ih _).trans ((State.sendOn_still _ _ _ _ _ _ _ _).trans rfl)
          · rfl
        · rfl
@[simp] theorem State.pumpFirms_still (s : State) : (State.pumpFirms s).still = s.still := by
  simp [State.pumpFirms, still_ite]
@[simp] theorem State.firm_still (s : State) (op : ℕ) (purp : Purp) (words : List W64) (payload : List Byte) (respLen : ℕ) : (State.firm s op purp words payload respLen).still = s.still := by
  exact (State.pumpFirms_still _).trans rfl
@[simp] theorem State.issueOn_still (s : State) (c : ℕ) (w : Win) (op : ℕ) (purp : Purp) (words : List W64) (payload : List Byte) (respLen : ℕ) : (State.issueOn s c w op purp words payload respLen).2.still = s.still := by
  unfold State.issueOn; split <;> simp
@[simp] theorem State.issue_still (s : State) (w : Win) (op : ℕ) (purp : Purp) (words : List W64) (payload : List Byte) (respLen : ℕ) : (State.issue s w op purp words payload respLen).2.still = s.still := by
  unfold State.issue; split <;> simp [still_ite]
@[simp] theorem State.maskFlag_still (s : State) (m : MaskJ) (f : ℕ) : (State.maskFlag s m f).still = s.still := by
  unfold State.maskFlag; split <;> simp [still_ite]
@[simp] theorem State.maskReplaced_still (s : State) (id : ℕ) (f : ℕ) : (State.maskReplaced s id f).still = s.still := by
  unfold State.maskReplaced; split <;> simp [still_ite]
@[simp] theorem State.modelAbsent_still (s : State) (rid : ℕ) (mi : ℕ) : (State.modelAbsent s rid mi).still = s.still := by
  rfl
@[simp] theorem State.setBank_still (s : State) (b : ℕ) (f : Bank → Bank) : (State.setBank s b f).still = s.still := by
  rfl
@[simp] theorem State.bankAt_still (s : State) (k : ℕ) (e : Eff) : (State.bankAt s k e).still = s.still := by
  simp [State.bankAt, still_ite]
@[simp] theorem State.dropPlaced_still (s : State) (i : Img) : (State.dropPlaced s i).still = s.still := by
  simp [State.dropPlaced, still_ite]
@[simp] theorem State.dropImage_still (s : State) (slot : ℕ) : (State.dropImage s slot).still = s.still := by
  unfold State.dropImage; split <;> simp [still_ite]
@[simp] theorem State.dropNewCairn_still (s : State) (id handle : ℕ) : (State.dropNewCairn s id handle).still = s.still := by
  unfold State.dropNewCairn
  extract_lets other
  generalize other = o
  split
  · rename_i k _
    generalize k.current.isNone = b
    cases b <;> cases o <;> rfl
  · rfl
@[simp] theorem State.dropSave_still (s : State) (c : Cmd) : (State.dropSave s c).still = s.still := by
  unfold State.dropSave; repeat' split
  all_goals simp [still_ite]
@[simp] theorem State.unopen_still (s : State) (h : ℕ) : (State.unopen s h).still = s.still := by
  unfold State.unopen
  generalize (h / 2 ^ 14 + 2 ^ 18 - 1) % 2 ^ 18 = q
  repeat' split
  all_goals rfl
@[simp] theorem State.cmdAbsent_still (s : State) (id : ℕ) (status : ℕ) : (State.cmdAbsent s id status).still = s.still := by
  (unfold State.cmdAbsent; repeat' split) <;> simp [still_ite]

/-! Relay. -/

@[simp] theorem State.relayWrite_still (s : State) (r : RelayOut) : (State.relayWrite s r).still = s.still := by
  simp [State.relayWrite, still_ite]
@[simp] theorem State.pumpRelay_still (s : State) : (State.pumpRelay s).still = s.still := by
  simp [State.pumpRelay, still_ite]
@[simp] theorem State.relayAs_still (s : State) (sender : ℕ) (peer : ℕ) (kind : ℕ) (ws : List W64) : (State.relayAs s sender peer kind ws).still = s.still := by
  simp [State.relayAs, still_ite]
@[simp] theorem State.relay_still (s : State) (peer : ℕ) (kind : ℕ) (ws : List W64) : (State.relay s peer kind ws).still = s.still := by
  simp [State.relay, still_ite]
@[simp] theorem State.relayAll_still (s : State) (kind : ℕ) (ws : List W64) : (State.relayAll s kind ws).still = s.still := by
  simp [State.relayAll, still_ite]
@[simp] theorem State.dropPred_still (s : State) (r : Rec) : (State.dropPred s r).still = s.still := by
  unfold State.dropPred; split <;> simp [still_ite]
@[simp] theorem State.relayRec_still (s : State) (r : Rec) : (State.relayRec s r).still = s.still := by
  simp [State.relayRec, still_ite]
@[simp] theorem State.relayChunk_still (s : State) (st : Stream) (r : Rec) : (State.relayChunk s st r).still = s.still := by
  simp [State.relayChunk, still_ite]

/-! Screen. -/

@[simp] theorem State.failStream_still (s : State) (st : Stream) (gi : GrammarImg) (rel : ℕ) : (State.failStream s st gi rel).still = s.still := by
  simp [State.failStream, still_ite]
@[simp] theorem State.putDeadEnd_still (s : State) (m : MaskJ) (st : Stream) (gimg dimg : Img) (gi : GrammarImg) (di : DictImg) : (State.putDeadEnd s m st gimg dimg gi di).still = s.still := by
  unfold State.putDeadEnd; repeat' split
  all_goals simp
@[simp] theorem State.maskDead_still (s : State) (m : MaskJ) (st : Stream) (gimg dimg : Img) (gi : GrammarImg) (di : DictImg) : (State.maskDead s m st gimg dimg gi di).still = s.still := by
  unfold State.maskDead; dsimp only; split <;> simp
@[simp] theorem State.askCombine_still (s : State) (m : MaskJ) (st : Stream) (gid dslot : ℕ) (dimg : Img) : (State.askCombine s m st gid dslot dimg).still = s.still := by
  unfold State.askCombine
  extract_lets n ops words payload t
  have ht : t.still = s.still := rfl
  clear_value n words payload t
  have h : ∀ p : Bool × State, p.2.still = s.still → (if p.1 then p.2 else p.2.maskReplaced m.id fTimeout).still = s.still :=
    fun p hp => still_if hp (by simp [hp])
  refine h (match (if dimg.masterLost then none else some m.chan) with
    | some (some c) => t.issueOn c (.first st.brt) 5 (.mask m.id) words payload (maskResp n)
    | some none => (false, t.noIssue 51 0 5)
    | none => (false, t)) ?_
  generalize (if dimg.masterLost = true then none else some m.chan) = o
  match o with
  | some (some c) => simp [ht]
  | some none => simp [ht]
  | none => simp [ht]
@[simp] theorem State.composeMask_still (s : State) (m : MaskJ) (st : Stream) (gimg : Img) (gi : GrammarImg) (gid dslot : ℕ) (dimg : Img) (di : DictImg) : (State.composeMask s m st gimg gi gid dslot dimg di).still = s.still := by
  unfold State.composeMask
  refine still_if (by simp) (still_if (by simp) (still_if (by simp) (still_if (by simp) ?_)))
  extract_lets x
  exact still_if (by simp) (by simp)
@[simp] theorem composeOne_still (s : State) (m : MaskJ) : (composeOne s m).still = s.still := by
  unfold composeOne
  split
  · rfl
  · extract_lets v
    refine still_if rfl ?_
    split
    · split
      · rfl
      · rename_i t _ _ _ _ _ _ _ _ _ _ _ _ _
        have ht : t.still = s.still := still_if rfl rfl
        clear_value t
        exact still_if (by simp [ht]) (still_if (by simp [ht]) (still_if (by simp [ht]) (by simp [ht])))
    · rfl
@[simp] theorem State.uncorrectable_still (s : State) (n : ℕ) : (State.uncorrectable s n).still = s.still := by
  rfl
@[simp] theorem State.searchFinds_still (s : State) (bad lost : List ℕ) : (State.searchFinds s bad lost).still = s.still := by
  simp [State.searchFinds, still_ite]
@[simp] theorem State.fitRedo_still (s : State) (r : Rec) (w : Bool) : (State.fitRedo s r w).2.still = s.still := by
  unfold State.fitRedo
  dsimp only
  rw [apply_ite Prod.snd]
  exact still_if rfl rfl
@[simp] theorem State.waitFor_still (s : State) (rid : ℕ) (ks : List (ℕ × ℕ)) : (State.waitFor s rid ks).still = s.still := by
  rfl
@[simp] theorem State.stageOn_still (s : State) (c : ℕ) (w : Win) (rid mi seg : ℕ) (int : Bool) (xs : List W32) : (State.stageOn s c w rid mi seg int xs).2.still = s.still := by
  unfold State.stageOn; split <;> simp
@[simp] theorem stageSegs_still (s : State) (r : Rec) (mi : Nat) (int : Bool) (k : Nat) (l : List (List W32)) (p u : List Nat) :
    (stageSegs s r mi int k l p u).1.still = s.still := by
  induction l generalizing s k p u with
  | nil => rfl
  | cons x l ih =>
    unfold stageSegs
    dsimp only
    split
    · simp
    · simp [ih]
@[simp] theorem issueAll_still (s : State) (c : Nat) (w : Win) (l : List (Purp × Nat × List W64 × Nat)) : (issueAll s c w l).1.still = s.still := by
  induction l generalizing s with
  | nil => rfl
  | cons x l ih => simp [issueAll, ih]
@[simp] theorem startRound_still (s : State) (r : Rec) (mi : ℕ) (k : ℕ) (int : Bool) (lost : Bool) (xs : List W32) : (startRound s r mi k int lost xs).1.still = s.still := by
  unfold startRound
  dsimp only
  split
  · rfl
  split
  · split
    · simp
    · rename_i c _
      have h := State.stageOn_still s c (s.roundWin r) r.id mi 0 int xs
      revert h
      generalize s.stageOn c (s.roundWin r) r.id mi 0 int xs = p
      obtain ⟨o, t⟩ := p
      intro h
      cases o <;> simp_all
  · split <;> simp
@[simp] theorem headOn_still (s : State) (r : Rec) (f : Feats) (mi k : Nat) (i : Img) (h : HeadImg) : (headOn s r f mi k i h).1.still = s.still := by
  unfold headOn
  dsimp only
  repeat' split
  all_goals simp
@[simp] theorem ensOn_still (s : State) (r : Rec) (f : Feats) (mi k : Nat) (i : Img) (e : EnsImg) : (ensOn s r f mi k i e).1.still = s.still := by
  unfold ensOn
  dsimp only
  repeat' split
  all_goals simp
@[simp] theorem runHead_still (s : State) (r : Rec) (f : Feats) (mi id : Nat) : (runHead s r f mi id).1.still = s.still := by
  unfold runHead
  repeat' split
  all_goals simp
@[simp] theorem runEns_still (s : State) (r : Rec) (f : Feats) (mi id : Nat) : (runEns s r f mi id).1.still = s.still := by
  unfold runEns
  repeat' split
  all_goals simp
@[simp] theorem rerun_still (s : State) (r : Rec) (m : ModelR) : (rerun s r m).1.still = s.still := by
  unfold rerun
  repeat' split
  all_goals simp
@[simp] theorem State.rerunRec_still (s : State) (id : Nat) : (s.rerunRec id).still = s.still := by
  unfold State.rerunRec
  dsimp only
  repeat' split
  · rfl
  · rfl
  · simp
  · exact (still_foldl _ (fun s m => by simp) _ _).trans (by simp)
@[simp] theorem runModels_still (s : State) (r : Rec) (d : PolDir) (f : Feats) : (runModels s r d f).1.still = s.still := by
  unfold runModels
  refine (still_foldlP _ (fun s a => by simp) _ _).trans ((still_foldlP _ (fun s a => by simp) _ _).trans rfl)

/-! Operands. -/

@[simp] theorem State.begin_still (s : State) (d : Desc) : (State.begin s d).2.still = s.still := by
  simp [State.begin, still_ite]
@[simp] theorem runDesc_still (s : State) (d : Desc) (rowOk : Bool) (body : State → Cmd → State) (hbody : ∀ y0 y1, (body y0 y1).still = y0.still) : (runDesc s d rowOk body).still = s.still := by
  (unfold runDesc; dsimp only; repeat' split) <;> simp [hbody, still_ite]
@[simp] theorem State.keep_still (s : State) (c : Cmd) (k : CmdK) : (State.keep s c k).still = s.still := by
  rfl

/-! Registers. -/

@[simp] theorem State.writeDoorbellFault_still (s : State) (v : W32) : (State.writeDoorbellFault s v).still = s.still := by
  rfl
@[simp] theorem State.askRingReset_still (s : State) (r : ℕ) : (State.askRingReset s r).still = s.still := by
  simp [State.askRingReset, still_ite]

/-! Rings. -/

@[simp] theorem pumpUnlisted_still (n k : ℕ) (s : State) : (Sys2Proof.Machine.pumpUnlisted n k s).still = s.still := by
  induction n generalizing s with
  | zero => rfl
  | succ n ih =>
    unfold Sys2Proof.Machine.pumpUnlisted
    split
    · simp [ih]
    · rfl
@[simp] theorem State.pumpUnlisted_still (s : State) (k : ℕ) : (State.pumpUnlisted s k).still = s.still := by
  simp [State.pumpUnlisted]
@[simp] theorem State.fetchRing_still (s : State) (k : ℕ) : (State.fetchRing s k).still = s.still := by
  (unfold State.fetchRing; dsimp only; repeat' split) <;> simp [still_ite]
@[simp] theorem State.rereadIn_still (s : State) (k : ℕ) (e : RingEntry) (n : ℕ) (d : Desc) : (State.rereadIn s k e n d).still = s.still := by
  (unfold State.rereadIn; dsimp only; repeat' split) <;> simp [still_ite]
@[simp] theorem State.askReread_still (s : State) (k : ℕ) : (State.askReread s k).still = s.still := by
  (unfold State.askReread; dsimp only; repeat' split) <;> simp [still_ite]
@[simp] theorem State.descArrive_still (s : State) (k i : ℕ) (data : List Byte) : (State.descArrive s k i data).still = s.still := by
  (unfold State.descArrive; dsimp only; repeat' split) <;> simp [still_ite]
@[simp] theorem State.askCancel_still (s : State) (h : ℕ) (code : ℕ) (flags : ℕ) (event : Bool) : (State.askCancel s h code flags event).still = s.still := by
  simp [State.askCancel, still_ite]
@[simp] theorem State.dropEffs_still (s : State) (cmd : ℕ) : (State.dropEffs s cmd).still = s.still := by
  rfl
@[simp] theorem State.abort_still (s : State) (c : Cmd) (status : ℕ) : (State.abort s c status).still = s.still := by
  unfold State.abort; split <;> simp [still_ite]
@[simp] theorem State.haltRing_still (s : State) (k : ℕ) (addr : ℕ) : (State.haltRing s k addr).still = s.still := by
  simp [State.haltRing, still_ite]
@[simp] theorem State.ringDoorbellAct_still (s : State) (k : ℕ) (e : RingEntry) (which : ℕ) (index : ℕ) : (State.ringDoorbellAct s k e which index).still = s.still := by
  (unfold State.ringDoorbellAct; dsimp only; repeat' split) <;> simp [still_ite]
@[simp] theorem State.reportGhosts_still (s : State) (k : ℕ) : (State.reportGhosts s k).still = s.still := by
  simp [State.reportGhosts, still_ite]
@[simp] theorem State.entryArrive_still (s : State) (k : ℕ) (data : List Byte) (poison : Bool) : (State.entryArrive s k data poison).still = s.still := by
  (unfold State.entryArrive; dsimp only; repeat' split) <;> simp [still_ite]
@[simp] theorem State.ringDoorbell_still (s : State) (num : ℕ) (which : ℕ) (word : W64) : (State.ringDoorbell s num which word).still = s.still := by
  (unfold State.ringDoorbell; dsimp only; repeat' split) <;> simp [still_ite]
@[simp] theorem State.cancelMissed_still (s : State) : (State.cancelMissed s).still = s.still := by
  rfl
@[simp] theorem State.cancelIngests_still (s : State) (st : Stream) : (State.cancelIngests s st).still = s.still := by
  rfl
@[simp] theorem State.cancelDoorbell_still (s : State) (num : ℕ) (word : W64) : (State.cancelDoorbell s num word).still = s.still := by
  (unfold State.cancelDoorbell; dsimp only; repeat' split) <;> simp [still_ite]
@[simp] theorem State.rereadDesc_still (s : State) (d : Desc) : (State.rereadDesc s d).still = s.still := by
  (unfold State.rereadDesc; dsimp only; repeat' split) <;> simp [still_ite]
@[simp] theorem State.resetRingNow_still (s : State) (k : ℕ) : (State.resetRingNow s k).still = s.still := by
  simp [State.resetRingNow, still_ite]
theorem State.takeEff_still (s : State) (p : Eff → Bool) : ∀ x, (State.takeEff s p) = some x → x.2.still = s.still := by
  (intro x h; unfold State.takeEff at h; repeat' split at h) <;> simp_all <;> (subst h; simp)

/-! Admission. -/

@[simp] theorem State.soon_still (s : State) : s.soon.still = s.still := by
  refine still_foldl _ (fun v e => ?_) _ _
  split
  · split <;> rfl
  · rfl
@[simp] theorem State.draw_still (s : State) (t : ℕ) : (State.draw s t).2.still = s.still := by
  rfl

end Sys2Proof.Machine
end

