-- ==== Sys2Proof/Laws/Front.lean ====
section
/-! SUPPORT. What the operations that only write, count, log, trace or report leave as it was: everything but the persistent window, the
management engine's state, the host port's state, the outputs and the free-choice counter. One lemma for each operation, then one for each
operation and field, tagged simp, so that no later proof unfolds one. -/

set_option maxRecDepth 8000
set_option linter.unusedSimpArgs false
namespace Sys2Proof.Machine

/-- The state without its persistent window, management state, host-port state, outputs and free-choice counter. -/
structure Front where
  pending : List Instr
  build : ElabS
  fuses : FuseS
  regs : RegS
  start : StartS
  clk : ClockS
  rings : AMap Ring
  cmds : List Cmd
  nextId : Nat
  sched : List Sched
  streams : AMap Stream
  opens : AMap Nat
  recs : List Rec
  masks : List MaskJ
  port : PortS
  images : AMap Img
  banks : AMap Bank
  tenants : AMap Tenant
  policies : AMap PolBind
  cairns : AMap Cairn
  stack : StackS
  tokCache : AMap (List (Nat × Nat))
  gov : GovS
  integ : IntegS
  range : RangeS
  test : TestS
  plan : Plan
  dyn : AMap DynTile

/-- That part of a state. -/
def State.front (s : State) : Front := ⟨s.pending, s.build, s.fuses, s.regs, s.start, s.clk, s.rings, s.cmds, s.nextId, s.sched, s.streams, s.opens, s.recs, s.masks, s.port, s.images, s.banks, s.tenants, s.policies, s.cairns, s.stack, s.tokCache, s.gov, s.integ, s.range, s.test, s.plan, s.dyn⟩
@[simp] theorem front_mk (a0 a1 a2 a3 a4 a5 a6 a7 a8 a9 a10 a11 a12 a13 a14 a15 a16 a17 a18 a19 a20 a21 a22 a23 a24 a25 a26 a27 a28 a29 a30 a31 a32) :
  State.front (State.mk a0 a1 a2 a3 a4 a5 a6 a7 a8 a9 a10 a11 a12 a13 a14 a15 a16 a17 a18 a19 a20 a21 a22 a23 a24 a25 a26 a27 a28 a29 a30 a31 a32) = ⟨a0, a1, a2, a3, a4, a5, a6, a7, a8, a9, a10, a11, a12, a13, a14, a15, a16, a17, a18, a19, a20, a21, a22, a23, a24, a28, a30, a31⟩ := Eq.trans rfl rfl
@[simp] theorem front_fold (s : State) : Front.mk s.pending s.build s.fuses s.regs s.start s.clk s.rings s.cmds s.nextId s.sched s.streams s.opens s.recs s.masks s.port s.images s.banks s.tenants s.policies s.cairns s.stack s.tokCache s.gov s.integ s.range s.test s.plan s.dyn = s.front := Eq.trans rfl rfl
@[simp] theorem front_ite (c : Prop) [Decidable c] (a b : State) : (if c then a else b).front = if c then a.front else b.front := by split <;> rfl
@[simp] theorem front_foldl {α : Type} (f : State → α → State) (h : ∀ s a, (f s a).front = s.front) (l : List α) (s : State) : (l.foldl f s).front = s.front := by
  induction l generalizing s with
  | nil => rfl
  | cons a l ih => simp [ih, h]
@[simp] theorem State.pick_front (s : State) (n : ℕ) : (State.pick s n).2.front = s.front := by
  unfold State.pick; split <;> simp [front_ite]
@[simp] theorem State.emit_front (s : State) (o : Out) : (State.emit s o).front = s.front := by
  rfl
@[simp] theorem State.count_front (s : State) (i : ℕ) (n : ℕ) : (State.count s i n).front = s.front := by
  rfl
@[simp] theorem State.raise_front (s : State) (i : ℕ) : (State.raise s i).front = s.front := by
  rfl
@[simp] theorem State.trace_front (s : State) (engine : ℕ) (event : ℕ) (tag : ℕ) (layerId : ℕ) (opId : ℕ) (policy : ℕ) (stream : ℕ) (detail : W64) : (State.trace s engine event tag layerId opId policy stream detail).front = s.front := by
  simp [State.trace, front_ite]
@[simp] theorem State.ev_front (s : State) (engine : ℕ) (event : ℕ) (stream : ℕ) (detail : List (ℕ × ℕ)) : (State.ev s engine event stream detail).front = s.front := by
  simp [State.ev, front_ite]
@[simp] theorem pumpPackets_front (n j : Nat) (s : State) : (pumpPackets n j s).front = s.front := by
  induction n generalizing s with
  | zero => rfl
  | succ n ih =>
    unfold pumpPackets
    repeat' split
    all_goals simp [ih]
@[simp] theorem pumpAll_front (s : State) : (pumpAll s).front = s.front := by
  simp [pumpAll, front_ite]
@[simp] theorem State.write_front (s : State) (owner : WOwner) (attr : ℕ) (data : List (ℕ × List Byte)) (commit : Option (ℕ × List Byte)) (after : List ℕ) : (State.write s owner attr data commit after).2.front = s.front := by
  simp [State.write, front_ite]
@[simp] theorem State.write'_front (s : State) (owner : WOwner) (attr : ℕ) (data : List (ℕ × List Byte)) (commit : Option (ℕ × List Byte)) : (State.write' s owner attr data commit).front = s.front := by
  simp [State.write', front_ite]
@[simp] theorem State.read_front (s : State) (o : ROwner) (addr : ℕ) (rows : ℕ) (attr : ℕ) : (State.read s o addr rows attr).front = s.front := by
  unfold State.read; split <;> simp [front_ite]
@[simp] theorem State.setSeg_front (s : State) (i : ℕ) (f : Seg → Seg) : (State.setSeg s i f).front = s.front := by
  rfl
@[simp] theorem State.dropReads_front (s : State) (p : ROwner → Bool) : (State.dropReads s p).front = s.front := by
  rfl
@[simp] theorem freeSeg_front (s : State) (i : ℕ) : (freeSeg s i).front = s.front := by
  simp [freeSeg, front_ite]
@[simp] theorem State.segFreed_front (s : State) (i : ℕ) : (State.segFreed s i).front = s.front := by
  rfl
@[simp] theorem takeSeg_front (s : State) (role : ℕ) : (takeSeg s role).front = s.front := by
  unfold takeSeg; split <;> simp [front_ite]
@[simp] theorem State.writeRows_front (s : State) (what : ℕ) (key : ℕ) (addr : ℕ) (bs : List Byte) : (State.writeRows s what key addr bs).front = s.front := by
  simp [State.writeRows, front_ite]
@[simp] theorem putRows_front (s : State) (what : ℕ) (key : ℕ) (bs : List Byte) : (putRows s what key bs).front = s.front := by
  unfold putRows
  generalize (if hasRoom s (roleOf what) (bs.length / 64) then openOf s (roleOf what) else none) = o
  cases o with
  | none => rfl
  | some i => exact (State.writeRows_front _ _ _ _ _).trans rfl
@[simp] theorem copyRows_front (s : State) (what : ℕ) (key : ℕ) (bs : List Byte) : (copyRows s what key bs).front = s.front := by
  simp [copyRows, front_ite]
@[simp] theorem copyOut_front (s : State) (i : ℕ) : (copyOut s i).front = s.front := by
  unfold copyOut
  refine (front_foldl _ (fun s a => by simp) _ _).trans ((front_foldl _ (fun s a => by simp) _ _).trans (front_foldl _ (fun s a => by simp) _ _))
@[simp] theorem compactMore_front (s : State) (i : ℕ) : (compactMore s i).front = s.front := by
  simp [compactMore, front_ite]
@[simp] theorem compact_front (s : State) (i : ℕ) : (compact s i).front = s.front := by
  simp [compact, front_ite]
@[simp] theorem State.pumpCompact_front (s : State) : (State.pumpCompact s).front = s.front := by
  simp [State.pumpCompact]
@[simp] theorem openSeg_front (s : State) (role : ℕ) : (openSeg s role).front = s.front := by
  (unfold openSeg; dsimp only; repeat' split) <;> simp [front_ite]
@[simp] theorem State.placeRows_front (s : State) (what : ℕ) (key : ℕ) (bs : List Byte) : (State.placeRows s what key bs).front = s.front := by
  simp [State.placeRows, front_ite]
@[simp] theorem State.pumpRows_front (s : State) : (State.pumpRows s).front = s.front := by
  exact (front_foldl _ (fun s a => by simp) _ _).trans rfl
@[simp] theorem State.log_front (s : State) (code : ℕ) (severity : ℕ) (engine : ℕ) (d0 : W64) (d1 : W64) (d2 : W64) : (State.log s code severity engine d0 d1 d2).front = s.front := by
  simp [State.log, front_ite]
theorem front_pending (s : State) : s.front.pending = s.pending := rfl
theorem front_build (s : State) : s.front.build = s.build := rfl
theorem front_fuses (s : State) : s.front.fuses = s.fuses := rfl
theorem front_regs (s : State) : s.front.regs = s.regs := rfl
theorem front_start (s : State) : s.front.start = s.start := rfl
theorem front_clk (s : State) : s.front.clk = s.clk := rfl
theorem front_rings (s : State) : s.front.rings = s.rings := rfl
theorem front_cmds (s : State) : s.front.cmds = s.cmds := rfl
theorem front_nextId (s : State) : s.front.nextId = s.nextId := rfl
theorem front_sched (s : State) : s.front.sched = s.sched := rfl
theorem front_streams (s : State) : s.front.streams = s.streams := rfl
theorem front_opens (s : State) : s.front.opens = s.opens := rfl
theorem front_recs (s : State) : s.front.recs = s.recs := rfl
theorem front_masks (s : State) : s.front.masks = s.masks := rfl
theorem front_port (s : State) : s.front.port = s.port := rfl
theorem front_images (s : State) : s.front.images = s.images := rfl
theorem front_banks (s : State) : s.front.banks = s.banks := rfl
theorem front_tenants (s : State) : s.front.tenants = s.tenants := rfl
theorem front_policies (s : State) : s.front.policies = s.policies := rfl
theorem front_cairns (s : State) : s.front.cairns = s.cairns := rfl
theorem front_stack (s : State) : s.front.stack = s.stack := rfl
theorem front_tokCache (s : State) : s.front.tokCache = s.tokCache := rfl
theorem front_gov (s : State) : s.front.gov = s.gov := rfl
theorem front_integ (s : State) : s.front.integ = s.integ := rfl
theorem front_range (s : State) : s.front.range = s.range := rfl
theorem front_test (s : State) : s.front.test = s.test := rfl
theorem front_plan (s : State) : s.front.plan = s.plan := rfl
theorem front_dyn (s : State) : s.front.dyn = s.dyn := rfl

@[simp] theorem State.pick_pending (s : State) (n : Nat) : ((State.pick s n).2).pending = s.pending := (front_pending _).symm.trans ((congrArg Front.pending (State.pick_front s n)).trans (front_pending _))
@[simp] theorem State.pick_build (s : State) (n : Nat) : ((State.pick s n).2).build = s.build := (front_build _).symm.trans ((congrArg Front.build (State.pick_front s n)).trans (front_build _))
@[simp] theorem State.pick_fuses (s : State) (n : Nat) : ((State.pick s n).2).fuses = s.fuses := (front_fuses _).symm.trans ((congrArg Front.fuses (State.pick_front s n)).trans (front_fuses _))
@[simp] theorem State.pick_regs (s : State) (n : Nat) : ((State.pick s n).2).regs = s.regs := (front_regs _).symm.trans ((congrArg Front.regs (State.pick_front s n)).trans (front_regs _))
@[simp] theorem State.pick_start (s : State) (n : Nat) : ((State.pick s n).2).start = s.start := (front_start _).symm.trans ((congrArg Front.start (State.pick_front s n)).trans (front_start _))
@[simp] theorem State.pick_clk (s : State) (n : Nat) : ((State.pick s n).2).clk = s.clk := (front_clk _).symm.trans ((congrArg Front.clk (State.pick_front s n)).trans (front_clk _))
@[simp] theorem State.pick_rings (s : State) (n : Nat) : ((State.pick s n).2).rings = s.rings := (front_rings _).symm.trans ((congrArg Front.rings (State.pick_front s n)).trans (front_rings _))
@[simp] theorem State.pick_cmds (s : State) (n : Nat) : ((State.pick s n).2).cmds = s.cmds := (front_cmds _).symm.trans ((congrArg Front.cmds (State.pick_front s n)).trans (front_cmds _))
@[simp] theorem State.pick_nextId (s : State) (n : Nat) : ((State.pick s n).2).nextId = s.nextId := (front_nextId _).symm.trans ((congrArg Front.nextId (State.pick_front s n)).trans (front_nextId _))
@[simp] theorem State.pick_sched (s : State) (n : Nat) : ((State.pick s n).2).sched = s.sched := (front_sched _).symm.trans ((congrArg Front.sched (State.pick_front s n)).trans (front_sched _))
@[simp] theorem State.pick_streams (s : State) (n : Nat) : ((State.pick s n).2).streams = s.streams := (front_streams _).symm.trans ((congrArg Front.streams (State.pick_front s n)).trans (front_streams _))
@[simp] theorem State.pick_opens (s : State) (n : Nat) : ((State.pick s n).2).opens = s.opens := (front_opens _).symm.trans ((congrArg Front.opens (State.pick_front s n)).trans (front_opens _))
@[simp] theorem State.pick_recs (s : State) (n : Nat) : ((State.pick s n).2).recs = s.recs := (front_recs _).symm.trans ((congrArg Front.recs (State.pick_front s n)).trans (front_recs _))
@[simp] theorem State.pick_masks (s : State) (n : Nat) : ((State.pick s n).2).masks = s.masks := (front_masks _).symm.trans ((congrArg Front.masks (State.pick_front s n)).trans (front_masks _))
@[simp] theorem State.pick_port (s : State) (n : Nat) : ((State.pick s n).2).port = s.port := (front_port _).symm.trans ((congrArg Front.port (State.pick_front s n)).trans (front_port _))
@[simp] theorem State.pick_images (s : State) (n : Nat) : ((State.pick s n).2).images = s.images := (front_images _).symm.trans ((congrArg Front.images (State.pick_front s n)).trans (front_images _))
@[simp] theorem State.pick_banks (s : State) (n : Nat) : ((State.pick s n).2).banks = s.banks := (front_banks _).symm.trans ((congrArg Front.banks (State.pick_front s n)).trans (front_banks _))
@[simp] theorem State.pick_tenants (s : State) (n : Nat) : ((State.pick s n).2).tenants = s.tenants := (front_tenants _).symm.trans ((congrArg Front.tenants (State.pick_front s n)).trans (front_tenants _))
@[simp] theorem State.pick_policies (s : State) (n : Nat) : ((State.pick s n).2).policies = s.policies := (front_policies _).symm.trans ((congrArg Front.policies (State.pick_front s n)).trans (front_policies _))
@[simp] theorem State.pick_cairns (s : State) (n : Nat) : ((State.pick s n).2).cairns = s.cairns := (front_cairns _).symm.trans ((congrArg Front.cairns (State.pick_front s n)).trans (front_cairns _))
@[simp] theorem State.pick_stack (s : State) (n : Nat) : ((State.pick s n).2).stack = s.stack := (front_stack _).symm.trans ((congrArg Front.stack (State.pick_front s n)).trans (front_stack _))
@[simp] theorem State.pick_tokCache (s : State) (n : Nat) : ((State.pick s n).2).tokCache = s.tokCache := (front_tokCache _).symm.trans ((congrArg Front.tokCache (State.pick_front s n)).trans (front_tokCache _))
@[simp] theorem State.pick_gov (s : State) (n : Nat) : ((State.pick s n).2).gov = s.gov := (front_gov _).symm.trans ((congrArg Front.gov (State.pick_front s n)).trans (front_gov _))
@[simp] theorem State.pick_integ (s : State) (n : Nat) : ((State.pick s n).2).integ = s.integ := (front_integ _).symm.trans ((congrArg Front.integ (State.pick_front s n)).trans (front_integ _))
@[simp] theorem State.pick_range (s : State) (n : Nat) : ((State.pick s n).2).range = s.range := (front_range _).symm.trans ((congrArg Front.range (State.pick_front s n)).trans (front_range _))
@[simp] theorem State.pick_test (s : State) (n : Nat) : ((State.pick s n).2).test = s.test := (front_test _).symm.trans ((congrArg Front.test (State.pick_front s n)).trans (front_test _))
@[simp] theorem State.pick_plan (s : State) (n : Nat) : ((State.pick s n).2).plan = s.plan := (front_plan _).symm.trans ((congrArg Front.plan (State.pick_front s n)).trans (front_plan _))
@[simp] theorem State.pick_dyn (s : State) (n : Nat) : ((State.pick s n).2).dyn = s.dyn := (front_dyn _).symm.trans ((congrArg Front.dyn (State.pick_front s n)).trans (front_dyn _))

@[simp] theorem State.emit_pending (s : State) (o : Out) : (s.emit o).pending = s.pending := (front_pending _).symm.trans ((congrArg Front.pending (State.emit_front s o)).trans (front_pending _))
@[simp] theorem State.emit_build (s : State) (o : Out) : (s.emit o).build = s.build := (front_build _).symm.trans ((congrArg Front.build (State.emit_front s o)).trans (front_build _))
@[simp] theorem State.emit_fuses (s : State) (o : Out) : (s.emit o).fuses = s.fuses := (front_fuses _).symm.trans ((congrArg Front.fuses (State.emit_front s o)).trans (front_fuses _))
@[simp] theorem State.emit_regs (s : State) (o : Out) : (s.emit o).regs = s.regs := (front_regs _).symm.trans ((congrArg Front.regs (State.emit_front s o)).trans (front_regs _))
@[simp] theorem State.emit_start (s : State) (o : Out) : (s.emit o).start = s.start := (front_start _).symm.trans ((congrArg Front.start (State.emit_front s o)).trans (front_start _))
@[simp] theorem State.emit_clk (s : State) (o : Out) : (s.emit o).clk = s.clk := (front_clk _).symm.trans ((congrArg Front.clk (State.emit_front s o)).trans (front_clk _))
@[simp] theorem State.emit_rings (s : State) (o : Out) : (s.emit o).rings = s.rings := (front_rings _).symm.trans ((congrArg Front.rings (State.emit_front s o)).trans (front_rings _))
@[simp] theorem State.emit_cmds (s : State) (o : Out) : (s.emit o).cmds = s.cmds := (front_cmds _).symm.trans ((congrArg Front.cmds (State.emit_front s o)).trans (front_cmds _))
@[simp] theorem State.emit_nextId (s : State) (o : Out) : (s.emit o).nextId = s.nextId := (front_nextId _).symm.trans ((congrArg Front.nextId (State.emit_front s o)).trans (front_nextId _))
@[simp] theorem State.emit_sched (s : State) (o : Out) : (s.emit o).sched = s.sched := (front_sched _).symm.trans ((congrArg Front.sched (State.emit_front s o)).trans (front_sched _))
@[simp] theorem State.emit_streams (s : State) (o : Out) : (s.emit o).streams = s.streams := (front_streams _).symm.trans ((congrArg Front.streams (State.emit_front s o)).trans (front_streams _))
@[simp] theorem State.emit_opens (s : State) (o : Out) : (s.emit o).opens = s.opens := (front_opens _).symm.trans ((congrArg Front.opens (State.emit_front s o)).trans (front_opens _))
@[simp] theorem State.emit_recs (s : State) (o : Out) : (s.emit o).recs = s.recs := (front_recs _).symm.trans ((congrArg Front.recs (State.emit_front s o)).trans (front_recs _))
@[simp] theorem State.emit_masks (s : State) (o : Out) : (s.emit o).masks = s.masks := (front_masks _).symm.trans ((congrArg Front.masks (State.emit_front s o)).trans (front_masks _))
@[simp] theorem State.emit_port (s : State) (o : Out) : (s.emit o).port = s.port := (front_port _).symm.trans ((congrArg Front.port (State.emit_front s o)).trans (front_port _))
@[simp] theorem State.emit_images (s : State) (o : Out) : (s.emit o).images = s.images := (front_images _).symm.trans ((congrArg Front.images (State.emit_front s o)).trans (front_images _))
@[simp] theorem State.emit_banks (s : State) (o : Out) : (s.emit o).banks = s.banks := (front_banks _).symm.trans ((congrArg Front.banks (State.emit_front s o)).trans (front_banks _))
@[simp] theorem State.emit_tenants (s : State) (o : Out) : (s.emit o).tenants = s.tenants := (front_tenants _).symm.trans ((congrArg Front.tenants (State.emit_front s o)).trans (front_tenants _))
@[simp] theorem State.emit_policies (s : State) (o : Out) : (s.emit o).policies = s.policies := (front_policies _).symm.trans ((congrArg Front.policies (State.emit_front s o)).trans (front_policies _))
@[simp] theorem State.emit_cairns (s : State) (o : Out) : (s.emit o).cairns = s.cairns := (front_cairns _).symm.trans ((congrArg Front.cairns (State.emit_front s o)).trans (front_cairns _))
@[simp] theorem State.emit_stack (s : State) (o : Out) : (s.emit o).stack = s.stack := (front_stack _).symm.trans ((congrArg Front.stack (State.emit_front s o)).trans (front_stack _))
@[simp] theorem State.emit_tokCache (s : State) (o : Out) : (s.emit o).tokCache = s.tokCache := (front_tokCache _).symm.trans ((congrArg Front.tokCache (State.emit_front s o)).trans (front_tokCache _))
@[simp] theorem State.emit_gov (s : State) (o : Out) : (s.emit o).gov = s.gov := (front_gov _).symm.trans ((congrArg Front.gov (State.emit_front s o)).trans (front_gov _))
@[simp] theorem State.emit_integ (s : State) (o : Out) : (s.emit o).integ = s.integ := (front_integ _).symm.trans ((congrArg Front.integ (State.emit_front s o)).trans (front_integ _))
@[simp] theorem State.emit_range (s : State) (o : Out) : (s.emit o).range = s.range := (front_range _).symm.trans ((congrArg Front.range (State.emit_front s o)).trans (front_range _))
@[simp] theorem State.emit_test (s : State) (o : Out) : (s.emit o).test = s.test := (front_test _).symm.trans ((congrArg Front.test (State.emit_front s o)).trans (front_test _))
@[simp] theorem State.emit_plan (s : State) (o : Out) : (s.emit o).plan = s.plan := (front_plan _).symm.trans ((congrArg Front.plan (State.emit_front s o)).trans (front_plan _))
@[simp] theorem State.emit_dyn (s : State) (o : Out) : (s.emit o).dyn = s.dyn := (front_dyn _).symm.trans ((congrArg Front.dyn (State.emit_front s o)).trans (front_dyn _))

@[simp] theorem State.count_pending (s : State) (i n : Nat) : (s.count i n).pending = s.pending := (front_pending _).symm.trans ((congrArg Front.pending (State.count_front s i n)).trans (front_pending _))
@[simp] theorem State.count_build (s : State) (i n : Nat) : (s.count i n).build = s.build := (front_build _).symm.trans ((congrArg Front.build (State.count_front s i n)).trans (front_build _))
@[simp] theorem State.count_fuses (s : State) (i n : Nat) : (s.count i n).fuses = s.fuses := (front_fuses _).symm.trans ((congrArg Front.fuses (State.count_front s i n)).trans (front_fuses _))
@[simp] theorem State.count_regs (s : State) (i n : Nat) : (s.count i n).regs = s.regs := (front_regs _).symm.trans ((congrArg Front.regs (State.count_front s i n)).trans (front_regs _))
@[simp] theorem State.count_start (s : State) (i n : Nat) : (s.count i n).start = s.start := (front_start _).symm.trans ((congrArg Front.start (State.count_front s i n)).trans (front_start _))
@[simp] theorem State.count_clk (s : State) (i n : Nat) : (s.count i n).clk = s.clk := (front_clk _).symm.trans ((congrArg Front.clk (State.count_front s i n)).trans (front_clk _))
@[simp] theorem State.count_rings (s : State) (i n : Nat) : (s.count i n).rings = s.rings := (front_rings _).symm.trans ((congrArg Front.rings (State.count_front s i n)).trans (front_rings _))
@[simp] theorem State.count_cmds (s : State) (i n : Nat) : (s.count i n).cmds = s.cmds := (front_cmds _).symm.trans ((congrArg Front.cmds (State.count_front s i n)).trans (front_cmds _))
@[simp] theorem State.count_nextId (s : State) (i n : Nat) : (s.count i n).nextId = s.nextId := (front_nextId _).symm.trans ((congrArg Front.nextId (State.count_front s i n)).trans (front_nextId _))
@[simp] theorem State.count_sched (s : State) (i n : Nat) : (s.count i n).sched = s.sched := (front_sched _).symm.trans ((congrArg Front.sched (State.count_front s i n)).trans (front_sched _))
@[simp] theorem State.count_streams (s : State) (i n : Nat) : (s.count i n).streams = s.streams := (front_streams _).symm.trans ((congrArg Front.streams (State.count_front s i n)).trans (front_streams _))
@[simp] theorem State.count_opens (s : State) (i n : Nat) : (s.count i n).opens = s.opens := (front_opens _).symm.trans ((congrArg Front.opens (State.count_front s i n)).trans (front_opens _))
@[simp] theorem State.count_recs (s : State) (i n : Nat) : (s.count i n).recs = s.recs := (front_recs _).symm.trans ((congrArg Front.recs (State.count_front s i n)).trans (front_recs _))
@[simp] theorem State.count_masks (s : State) (i n : Nat) : (s.count i n).masks = s.masks := (front_masks _).symm.trans ((congrArg Front.masks (State.count_front s i n)).trans (front_masks _))
@[simp] theorem State.count_port (s : State) (i n : Nat) : (s.count i n).port = s.port := (front_port _).symm.trans ((congrArg Front.port (State.count_front s i n)).trans (front_port _))
@[simp] theorem State.count_images (s : State) (i n : Nat) : (s.count i n).images = s.images := (front_images _).symm.trans ((congrArg Front.images (State.count_front s i n)).trans (front_images _))
@[simp] theorem State.count_banks (s : State) (i n : Nat) : (s.count i n).banks = s.banks := (front_banks _).symm.trans ((congrArg Front.banks (State.count_front s i n)).trans (front_banks _))
@[simp] theorem State.count_tenants (s : State) (i n : Nat) : (s.count i n).tenants = s.tenants := (front_tenants _).symm.trans ((congrArg Front.tenants (State.count_front s i n)).trans (front_tenants _))
@[simp] theorem State.count_policies (s : State) (i n : Nat) : (s.count i n).policies = s.policies := (front_policies _).symm.trans ((congrArg Front.policies (State.count_front s i n)).trans (front_policies _))
@[simp] theorem State.count_cairns (s : State) (i n : Nat) : (s.count i n).cairns = s.cairns := (front_cairns _).symm.trans ((congrArg Front.cairns (State.count_front s i n)).trans (front_cairns _))
@[simp] theorem State.count_stack (s : State) (i n : Nat) : (s.count i n).stack = s.stack := (front_stack _).symm.trans ((congrArg Front.stack (State.count_front s i n)).trans (front_stack _))
@[simp] theorem State.count_tokCache (s : State) (i n : Nat) : (s.count i n).tokCache = s.tokCache := (front_tokCache _).symm.trans ((congrArg Front.tokCache (State.count_front s i n)).trans (front_tokCache _))
@[simp] theorem State.count_gov (s : State) (i n : Nat) : (s.count i n).gov = s.gov := (front_gov _).symm.trans ((congrArg Front.gov (State.count_front s i n)).trans (front_gov _))
@[simp] theorem State.count_integ (s : State) (i n : Nat) : (s.count i n).integ = s.integ := (front_integ _).symm.trans ((congrArg Front.integ (State.count_front s i n)).trans (front_integ _))
@[simp] theorem State.count_range (s : State) (i n : Nat) : (s.count i n).range = s.range := (front_range _).symm.trans ((congrArg Front.range (State.count_front s i n)).trans (front_range _))
@[simp] theorem State.count_test (s : State) (i n : Nat) : (s.count i n).test = s.test := (front_test _).symm.trans ((congrArg Front.test (State.count_front s i n)).trans (front_test _))
@[simp] theorem State.count_plan (s : State) (i n : Nat) : (s.count i n).plan = s.plan := (front_plan _).symm.trans ((congrArg Front.plan (State.count_front s i n)).trans (front_plan _))
@[simp] theorem State.count_dyn (s : State) (i n : Nat) : (s.count i n).dyn = s.dyn := (front_dyn _).symm.trans ((congrArg Front.dyn (State.count_front s i n)).trans (front_dyn _))

@[simp] theorem State.raise_pending (s : State) (i : Nat) : (s.raise i).pending = s.pending := (front_pending _).symm.trans ((congrArg Front.pending (State.raise_front s i)).trans (front_pending _))
@[simp] theorem State.raise_build (s : State) (i : Nat) : (s.raise i).build = s.build := (front_build _).symm.trans ((congrArg Front.build (State.raise_front s i)).trans (front_build _))
@[simp] theorem State.raise_fuses (s : State) (i : Nat) : (s.raise i).fuses = s.fuses := (front_fuses _).symm.trans ((congrArg Front.fuses (State.raise_front s i)).trans (front_fuses _))
@[simp] theorem State.raise_regs (s : State) (i : Nat) : (s.raise i).regs = s.regs := (front_regs _).symm.trans ((congrArg Front.regs (State.raise_front s i)).trans (front_regs _))
@[simp] theorem State.raise_start (s : State) (i : Nat) : (s.raise i).start = s.start := (front_start _).symm.trans ((congrArg Front.start (State.raise_front s i)).trans (front_start _))
@[simp] theorem State.raise_clk (s : State) (i : Nat) : (s.raise i).clk = s.clk := (front_clk _).symm.trans ((congrArg Front.clk (State.raise_front s i)).trans (front_clk _))
@[simp] theorem State.raise_rings (s : State) (i : Nat) : (s.raise i).rings = s.rings := (front_rings _).symm.trans ((congrArg Front.rings (State.raise_front s i)).trans (front_rings _))
@[simp] theorem State.raise_cmds (s : State) (i : Nat) : (s.raise i).cmds = s.cmds := (front_cmds _).symm.trans ((congrArg Front.cmds (State.raise_front s i)).trans (front_cmds _))
@[simp] theorem State.raise_nextId (s : State) (i : Nat) : (s.raise i).nextId = s.nextId := (front_nextId _).symm.trans ((congrArg Front.nextId (State.raise_front s i)).trans (front_nextId _))
@[simp] theorem State.raise_sched (s : State) (i : Nat) : (s.raise i).sched = s.sched := (front_sched _).symm.trans ((congrArg Front.sched (State.raise_front s i)).trans (front_sched _))
@[simp] theorem State.raise_streams (s : State) (i : Nat) : (s.raise i).streams = s.streams := (front_streams _).symm.trans ((congrArg Front.streams (State.raise_front s i)).trans (front_streams _))
@[simp] theorem State.raise_opens (s : State) (i : Nat) : (s.raise i).opens = s.opens := (front_opens _).symm.trans ((congrArg Front.opens (State.raise_front s i)).trans (front_opens _))
@[simp] theorem State.raise_recs (s : State) (i : Nat) : (s.raise i).recs = s.recs := (front_recs _).symm.trans ((congrArg Front.recs (State.raise_front s i)).trans (front_recs _))
@[simp] theorem State.raise_masks (s : State) (i : Nat) : (s.raise i).masks = s.masks := (front_masks _).symm.trans ((congrArg Front.masks (State.raise_front s i)).trans (front_masks _))
@[simp] theorem State.raise_port (s : State) (i : Nat) : (s.raise i).port = s.port := (front_port _).symm.trans ((congrArg Front.port (State.raise_front s i)).trans (front_port _))
@[simp] theorem State.raise_images (s : State) (i : Nat) : (s.raise i).images = s.images := (front_images _).symm.trans ((congrArg Front.images (State.raise_front s i)).trans (front_images _))
@[simp] theorem State.raise_banks (s : State) (i : Nat) : (s.raise i).banks = s.banks := (front_banks _).symm.trans ((congrArg Front.banks (State.raise_front s i)).trans (front_banks _))
@[simp] theorem State.raise_tenants (s : State) (i : Nat) : (s.raise i).tenants = s.tenants := (front_tenants _).symm.trans ((congrArg Front.tenants (State.raise_front s i)).trans (front_tenants _))
@[simp] theorem State.raise_policies (s : State) (i : Nat) : (s.raise i).policies = s.policies := (front_policies _).symm.trans ((congrArg Front.policies (State.raise_front s i)).trans (front_policies _))
@[simp] theorem State.raise_cairns (s : State) (i : Nat) : (s.raise i).cairns = s.cairns := (front_cairns _).symm.trans ((congrArg Front.cairns (State.raise_front s i)).trans (front_cairns _))
@[simp] theorem State.raise_stack (s : State) (i : Nat) : (s.raise i).stack = s.stack := (front_stack _).symm.trans ((congrArg Front.stack (State.raise_front s i)).trans (front_stack _))
@[simp] theorem State.raise_tokCache (s : State) (i : Nat) : (s.raise i).tokCache = s.tokCache := (front_tokCache _).symm.trans ((congrArg Front.tokCache (State.raise_front s i)).trans (front_tokCache _))
@[simp] theorem State.raise_gov (s : State) (i : Nat) : (s.raise i).gov = s.gov := (front_gov _).symm.trans ((congrArg Front.gov (State.raise_front s i)).trans (front_gov _))
@[simp] theorem State.raise_integ (s : State) (i : Nat) : (s.raise i).integ = s.integ := (front_integ _).symm.trans ((congrArg Front.integ (State.raise_front s i)).trans (front_integ _))
@[simp] theorem State.raise_range (s : State) (i : Nat) : (s.raise i).range = s.range := (front_range _).symm.trans ((congrArg Front.range (State.raise_front s i)).trans (front_range _))
@[simp] theorem State.raise_test (s : State) (i : Nat) : (s.raise i).test = s.test := (front_test _).symm.trans ((congrArg Front.test (State.raise_front s i)).trans (front_test _))
@[simp] theorem State.raise_plan (s : State) (i : Nat) : (s.raise i).plan = s.plan := (front_plan _).symm.trans ((congrArg Front.plan (State.raise_front s i)).trans (front_plan _))
@[simp] theorem State.raise_dyn (s : State) (i : Nat) : (s.raise i).dyn = s.dyn := (front_dyn _).symm.trans ((congrArg Front.dyn (State.raise_front s i)).trans (front_dyn _))

@[simp] theorem State.trace_pending (s : State) (e v t l o p st : Nat) (d : W64) : (s.trace e v t l o p st d).pending = s.pending := (front_pending _).symm.trans ((congrArg Front.pending (State.trace_front s e v t l o p st d)).trans (front_pending _))
@[simp] theorem State.trace_build (s : State) (e v t l o p st : Nat) (d : W64) : (s.trace e v t l o p st d).build = s.build := (front_build _).symm.trans ((congrArg Front.build (State.trace_front s e v t l o p st d)).trans (front_build _))
@[simp] theorem State.trace_fuses (s : State) (e v t l o p st : Nat) (d : W64) : (s.trace e v t l o p st d).fuses = s.fuses := (front_fuses _).symm.trans ((congrArg Front.fuses (State.trace_front s e v t l o p st d)).trans (front_fuses _))
@[simp] theorem State.trace_regs (s : State) (e v t l o p st : Nat) (d : W64) : (s.trace e v t l o p st d).regs = s.regs := (front_regs _).symm.trans ((congrArg Front.regs (State.trace_front s e v t l o p st d)).trans (front_regs _))
@[simp] theorem State.trace_start (s : State) (e v t l o p st : Nat) (d : W64) : (s.trace e v t l o p st d).start = s.start := (front_start _).symm.trans ((congrArg Front.start (State.trace_front s e v t l o p st d)).trans (front_start _))
@[simp] theorem State.trace_clk (s : State) (e v t l o p st : Nat) (d : W64) : (s.trace e v t l o p st d).clk = s.clk := (front_clk _).symm.trans ((congrArg Front.clk (State.trace_front s e v t l o p st d)).trans (front_clk _))
@[simp] theorem State.trace_rings (s : State) (e v t l o p st : Nat) (d : W64) : (s.trace e v t l o p st d).rings = s.rings := (front_rings _).symm.trans ((congrArg Front.rings (State.trace_front s e v t l o p st d)).trans (front_rings _))
@[simp] theorem State.trace_cmds (s : State) (e v t l o p st : Nat) (d : W64) : (s.trace e v t l o p st d).cmds = s.cmds := (front_cmds _).symm.trans ((congrArg Front.cmds (State.trace_front s e v t l o p st d)).trans (front_cmds _))
@[simp] theorem State.trace_nextId (s : State) (e v t l o p st : Nat) (d : W64) : (s.trace e v t l o p st d).nextId = s.nextId := (front_nextId _).symm.trans ((congrArg Front.nextId (State.trace_front s e v t l o p st d)).trans (front_nextId _))
@[simp] theorem State.trace_sched (s : State) (e v t l o p st : Nat) (d : W64) : (s.trace e v t l o p st d).sched = s.sched := (front_sched _).symm.trans ((congrArg Front.sched (State.trace_front s e v t l o p st d)).trans (front_sched _))
@[simp] theorem State.trace_streams (s : State) (e v t l o p st : Nat) (d : W64) : (s.trace e v t l o p st d).streams = s.streams := (front_streams _).symm.trans ((congrArg Front.streams (State.trace_front s e v t l o p st d)).trans (front_streams _))
@[simp] theorem State.trace_opens (s : State) (e v t l o p st : Nat) (d : W64) : (s.trace e v t l o p st d).opens = s.opens := (front_opens _).symm.trans ((congrArg Front.opens (State.trace_front s e v t l o p st d)).trans (front_opens _))
@[simp] theorem State.trace_recs (s : State) (e v t l o p st : Nat) (d : W64) : (s.trace e v t l o p st d).recs = s.recs := (front_recs _).symm.trans ((congrArg Front.recs (State.trace_front s e v t l o p st d)).trans (front_recs _))
@[simp] theorem State.trace_masks (s : State) (e v t l o p st : Nat) (d : W64) : (s.trace e v t l o p st d).masks = s.masks := (front_masks _).symm.trans ((congrArg Front.masks (State.trace_front s e v t l o p st d)).trans (front_masks _))
@[simp] theorem State.trace_port (s : State) (e v t l o p st : Nat) (d : W64) : (s.trace e v t l o p st d).port = s.port := (front_port _).symm.trans ((congrArg Front.port (State.trace_front s e v t l o p st d)).trans (front_port _))
@[simp] theorem State.trace_images (s : State) (e v t l o p st : Nat) (d : W64) : (s.trace e v t l o p st d).images = s.images := (front_images _).symm.trans ((congrArg Front.images (State.trace_front s e v t l o p st d)).trans (front_images _))
@[simp] theorem State.trace_banks (s : State) (e v t l o p st : Nat) (d : W64) : (s.trace e v t l o p st d).banks = s.banks := (front_banks _).symm.trans ((congrArg Front.banks (State.trace_front s e v t l o p st d)).trans (front_banks _))
@[simp] theorem State.trace_tenants (s : State) (e v t l o p st : Nat) (d : W64) : (s.trace e v t l o p st d).tenants = s.tenants := (front_tenants _).symm.trans ((congrArg Front.tenants (State.trace_front s e v t l o p st d)).trans (front_tenants _))
@[simp] theorem State.trace_policies (s : State) (e v t l o p st : Nat) (d : W64) : (s.trace e v t l o p st d).policies = s.policies := (front_policies _).symm.trans ((congrArg Front.policies (State.trace_front s e v t l o p st d)).trans (front_policies _))
@[simp] theorem State.trace_cairns (s : State) (e v t l o p st : Nat) (d : W64) : (s.trace e v t l o p st d).cairns = s.cairns := (front_cairns _).symm.trans ((congrArg Front.cairns (State.trace_front s e v t l o p st d)).trans (front_cairns _))
@[simp] theorem State.trace_stack (s : State) (e v t l o p st : Nat) (d : W64) : (s.trace e v t l o p st d).stack = s.stack := (front_stack _).symm.trans ((congrArg Front.stack (State.trace_front s e v t l o p st d)).trans (front_stack _))
@[simp] theorem State.trace_tokCache (s : State) (e v t l o p st : Nat) (d : W64) : (s.trace e v t l o p st d).tokCache = s.tokCache := (front_tokCache _).symm.trans ((congrArg Front.tokCache (State.trace_front s e v t l o p st d)).trans (front_tokCache _))
@[simp] theorem State.trace_gov (s : State) (e v t l o p st : Nat) (d : W64) : (s.trace e v t l o p st d).gov = s.gov := (front_gov _).symm.trans ((congrArg Front.gov (State.trace_front s e v t l o p st d)).trans (front_gov _))
@[simp] theorem State.trace_integ (s : State) (e v t l o p st : Nat) (d : W64) : (s.trace e v t l o p st d).integ = s.integ := (front_integ _).symm.trans ((congrArg Front.integ (State.trace_front s e v t l o p st d)).trans (front_integ _))
@[simp] theorem State.trace_range (s : State) (e v t l o p st : Nat) (d : W64) : (s.trace e v t l o p st d).range = s.range := (front_range _).symm.trans ((congrArg Front.range (State.trace_front s e v t l o p st d)).trans (front_range _))
@[simp] theorem State.trace_test (s : State) (e v t l o p st : Nat) (d : W64) : (s.trace e v t l o p st d).test = s.test := (front_test _).symm.trans ((congrArg Front.test (State.trace_front s e v t l o p st d)).trans (front_test _))
@[simp] theorem State.trace_plan (s : State) (e v t l o p st : Nat) (d : W64) : (s.trace e v t l o p st d).plan = s.plan := (front_plan _).symm.trans ((congrArg Front.plan (State.trace_front s e v t l o p st d)).trans (front_plan _))
@[simp] theorem State.trace_dyn (s : State) (e v t l o p st : Nat) (d : W64) : (s.trace e v t l o p st d).dyn = s.dyn := (front_dyn _).symm.trans ((congrArg Front.dyn (State.trace_front s e v t l o p st d)).trans (front_dyn _))

@[simp] theorem State.ev_pending (s : State) (e v st : Nat) (d : List (Nat × Nat)) : (s.ev e v st d).pending = s.pending := (front_pending _).symm.trans ((congrArg Front.pending (State.ev_front s e v st d)).trans (front_pending _))
@[simp] theorem State.ev_build (s : State) (e v st : Nat) (d : List (Nat × Nat)) : (s.ev e v st d).build = s.build := (front_build _).symm.trans ((congrArg Front.build (State.ev_front s e v st d)).trans (front_build _))
@[simp] theorem State.ev_fuses (s : State) (e v st : Nat) (d : List (Nat × Nat)) : (s.ev e v st d).fuses = s.fuses := (front_fuses _).symm.trans ((congrArg Front.fuses (State.ev_front s e v st d)).trans (front_fuses _))
@[simp] theorem State.ev_regs (s : State) (e v st : Nat) (d : List (Nat × Nat)) : (s.ev e v st d).regs = s.regs := (front_regs _).symm.trans ((congrArg Front.regs (State.ev_front s e v st d)).trans (front_regs _))
@[simp] theorem State.ev_start (s : State) (e v st : Nat) (d : List (Nat × Nat)) : (s.ev e v st d).start = s.start := (front_start _).symm.trans ((congrArg Front.start (State.ev_front s e v st d)).trans (front_start _))
@[simp] theorem State.ev_clk (s : State) (e v st : Nat) (d : List (Nat × Nat)) : (s.ev e v st d).clk = s.clk := (front_clk _).symm.trans ((congrArg Front.clk (State.ev_front s e v st d)).trans (front_clk _))
@[simp] theorem State.ev_rings (s : State) (e v st : Nat) (d : List (Nat × Nat)) : (s.ev e v st d).rings = s.rings := (front_rings _).symm.trans ((congrArg Front.rings (State.ev_front s e v st d)).trans (front_rings _))
@[simp] theorem State.ev_cmds (s : State) (e v st : Nat) (d : List (Nat × Nat)) : (s.ev e v st d).cmds = s.cmds := (front_cmds _).symm.trans ((congrArg Front.cmds (State.ev_front s e v st d)).trans (front_cmds _))
@[simp] theorem State.ev_nextId (s : State) (e v st : Nat) (d : List (Nat × Nat)) : (s.ev e v st d).nextId = s.nextId := (front_nextId _).symm.trans ((congrArg Front.nextId (State.ev_front s e v st d)).trans (front_nextId _))
@[simp] theorem State.ev_sched (s : State) (e v st : Nat) (d : List (Nat × Nat)) : (s.ev e v st d).sched = s.sched := (front_sched _).symm.trans ((congrArg Front.sched (State.ev_front s e v st d)).trans (front_sched _))
@[simp] theorem State.ev_streams (s : State) (e v st : Nat) (d : List (Nat × Nat)) : (s.ev e v st d).streams = s.streams := (front_streams _).symm.trans ((congrArg Front.streams (State.ev_front s e v st d)).trans (front_streams _))
@[simp] theorem State.ev_opens (s : State) (e v st : Nat) (d : List (Nat × Nat)) : (s.ev e v st d).opens = s.opens := (front_opens _).symm.trans ((congrArg Front.opens (State.ev_front s e v st d)).trans (front_opens _))
@[simp] theorem State.ev_recs (s : State) (e v st : Nat) (d : List (Nat × Nat)) : (s.ev e v st d).recs = s.recs := (front_recs _).symm.trans ((congrArg Front.recs (State.ev_front s e v st d)).trans (front_recs _))
@[simp] theorem State.ev_masks (s : State) (e v st : Nat) (d : List (Nat × Nat)) : (s.ev e v st d).masks = s.masks := (front_masks _).symm.trans ((congrArg Front.masks (State.ev_front s e v st d)).trans (front_masks _))
@[simp] theorem State.ev_port (s : State) (e v st : Nat) (d : List (Nat × Nat)) : (s.ev e v st d).port = s.port := (front_port _).symm.trans ((congrArg Front.port (State.ev_front s e v st d)).trans (front_port _))
@[simp] theorem State.ev_images (s : State) (e v st : Nat) (d : List (Nat × Nat)) : (s.ev e v st d).images = s.images := (front_images _).symm.trans ((congrArg Front.images (State.ev_front s e v st d)).trans (front_images _))
@[simp] theorem State.ev_banks (s : State) (e v st : Nat) (d : List (Nat × Nat)) : (s.ev e v st d).banks = s.banks := (front_banks _).symm.trans ((congrArg Front.banks (State.ev_front s e v st d)).trans (front_banks _))
@[simp] theorem State.ev_tenants (s : State) (e v st : Nat) (d : List (Nat × Nat)) : (s.ev e v st d).tenants = s.tenants := (front_tenants _).symm.trans ((congrArg Front.tenants (State.ev_front s e v st d)).trans (front_tenants _))
@[simp] theorem State.ev_policies (s : State) (e v st : Nat) (d : List (Nat × Nat)) : (s.ev e v st d).policies = s.policies := (front_policies _).symm.trans ((congrArg Front.policies (State.ev_front s e v st d)).trans (front_policies _))
@[simp] theorem State.ev_cairns (s : State) (e v st : Nat) (d : List (Nat × Nat)) : (s.ev e v st d).cairns = s.cairns := (front_cairns _).symm.trans ((congrArg Front.cairns (State.ev_front s e v st d)).trans (front_cairns _))
@[simp] theorem State.ev_stack (s : State) (e v st : Nat) (d : List (Nat × Nat)) : (s.ev e v st d).stack = s.stack := (front_stack _).symm.trans ((congrArg Front.stack (State.ev_front s e v st d)).trans (front_stack _))
@[simp] theorem State.ev_tokCache (s : State) (e v st : Nat) (d : List (Nat × Nat)) : (s.ev e v st d).tokCache = s.tokCache := (front_tokCache _).symm.trans ((congrArg Front.tokCache (State.ev_front s e v st d)).trans (front_tokCache _))
@[simp] theorem State.ev_gov (s : State) (e v st : Nat) (d : List (Nat × Nat)) : (s.ev e v st d).gov = s.gov := (front_gov _).symm.trans ((congrArg Front.gov (State.ev_front s e v st d)).trans (front_gov _))
@[simp] theorem State.ev_integ (s : State) (e v st : Nat) (d : List (Nat × Nat)) : (s.ev e v st d).integ = s.integ := (front_integ _).symm.trans ((congrArg Front.integ (State.ev_front s e v st d)).trans (front_integ _))
@[simp] theorem State.ev_range (s : State) (e v st : Nat) (d : List (Nat × Nat)) : (s.ev e v st d).range = s.range := (front_range _).symm.trans ((congrArg Front.range (State.ev_front s e v st d)).trans (front_range _))
@[simp] theorem State.ev_test (s : State) (e v st : Nat) (d : List (Nat × Nat)) : (s.ev e v st d).test = s.test := (front_test _).symm.trans ((congrArg Front.test (State.ev_front s e v st d)).trans (front_test _))
@[simp] theorem State.ev_plan (s : State) (e v st : Nat) (d : List (Nat × Nat)) : (s.ev e v st d).plan = s.plan := (front_plan _).symm.trans ((congrArg Front.plan (State.ev_front s e v st d)).trans (front_plan _))
@[simp] theorem State.ev_dyn (s : State) (e v st : Nat) (d : List (Nat × Nat)) : (s.ev e v st d).dyn = s.dyn := (front_dyn _).symm.trans ((congrArg Front.dyn (State.ev_front s e v st d)).trans (front_dyn _))

@[simp] theorem State.log_pending (s : State) (c v e : Nat) (d0 d1 d2 : W64) : (s.log c v e d0 d1 d2).pending = s.pending := (front_pending _).symm.trans ((congrArg Front.pending (State.log_front s c v e d0 d1 d2)).trans (front_pending _))
@[simp] theorem State.log_build (s : State) (c v e : Nat) (d0 d1 d2 : W64) : (s.log c v e d0 d1 d2).build = s.build := (front_build _).symm.trans ((congrArg Front.build (State.log_front s c v e d0 d1 d2)).trans (front_build _))
@[simp] theorem State.log_fuses (s : State) (c v e : Nat) (d0 d1 d2 : W64) : (s.log c v e d0 d1 d2).fuses = s.fuses := (front_fuses _).symm.trans ((congrArg Front.fuses (State.log_front s c v e d0 d1 d2)).trans (front_fuses _))
@[simp] theorem State.log_regs (s : State) (c v e : Nat) (d0 d1 d2 : W64) : (s.log c v e d0 d1 d2).regs = s.regs := (front_regs _).symm.trans ((congrArg Front.regs (State.log_front s c v e d0 d1 d2)).trans (front_regs _))
@[simp] theorem State.log_start (s : State) (c v e : Nat) (d0 d1 d2 : W64) : (s.log c v e d0 d1 d2).start = s.start := (front_start _).symm.trans ((congrArg Front.start (State.log_front s c v e d0 d1 d2)).trans (front_start _))
@[simp] theorem State.log_clk (s : State) (c v e : Nat) (d0 d1 d2 : W64) : (s.log c v e d0 d1 d2).clk = s.clk := (front_clk _).symm.trans ((congrArg Front.clk (State.log_front s c v e d0 d1 d2)).trans (front_clk _))
@[simp] theorem State.log_rings (s : State) (c v e : Nat) (d0 d1 d2 : W64) : (s.log c v e d0 d1 d2).rings = s.rings := (front_rings _).symm.trans ((congrArg Front.rings (State.log_front s c v e d0 d1 d2)).trans (front_rings _))
@[simp] theorem State.log_cmds (s : State) (c v e : Nat) (d0 d1 d2 : W64) : (s.log c v e d0 d1 d2).cmds = s.cmds := (front_cmds _).symm.trans ((congrArg Front.cmds (State.log_front s c v e d0 d1 d2)).trans (front_cmds _))
@[simp] theorem State.log_nextId (s : State) (c v e : Nat) (d0 d1 d2 : W64) : (s.log c v e d0 d1 d2).nextId = s.nextId := (front_nextId _).symm.trans ((congrArg Front.nextId (State.log_front s c v e d0 d1 d2)).trans (front_nextId _))
@[simp] theorem State.log_sched (s : State) (c v e : Nat) (d0 d1 d2 : W64) : (s.log c v e d0 d1 d2).sched = s.sched := (front_sched _).symm.trans ((congrArg Front.sched (State.log_front s c v e d0 d1 d2)).trans (front_sched _))
@[simp] theorem State.log_streams (s : State) (c v e : Nat) (d0 d1 d2 : W64) : (s.log c v e d0 d1 d2).streams = s.streams := (front_streams _).symm.trans ((congrArg Front.streams (State.log_front s c v e d0 d1 d2)).trans (front_streams _))
@[simp] theorem State.log_opens (s : State) (c v e : Nat) (d0 d1 d2 : W64) : (s.log c v e d0 d1 d2).opens = s.opens := (front_opens _).symm.trans ((congrArg Front.opens (State.log_front s c v e d0 d1 d2)).trans (front_opens _))
@[simp] theorem State.log_recs (s : State) (c v e : Nat) (d0 d1 d2 : W64) : (s.log c v e d0 d1 d2).recs = s.recs := (front_recs _).symm.trans ((congrArg Front.recs (State.log_front s c v e d0 d1 d2)).trans (front_recs _))
@[simp] theorem State.log_masks (s : State) (c v e : Nat) (d0 d1 d2 : W64) : (s.log c v e d0 d1 d2).masks = s.masks := (front_masks _).symm.trans ((congrArg Front.masks (State.log_front s c v e d0 d1 d2)).trans (front_masks _))
@[simp] theorem State.log_port (s : State) (c v e : Nat) (d0 d1 d2 : W64) : (s.log c v e d0 d1 d2).port = s.port := (front_port _).symm.trans ((congrArg Front.port (State.log_front s c v e d0 d1 d2)).trans (front_port _))
@[simp] theorem State.log_images (s : State) (c v e : Nat) (d0 d1 d2 : W64) : (s.log c v e d0 d1 d2).images = s.images := (front_images _).symm.trans ((congrArg Front.images (State.log_front s c v e d0 d1 d2)).trans (front_images _))
@[simp] theorem State.log_banks (s : State) (c v e : Nat) (d0 d1 d2 : W64) : (s.log c v e d0 d1 d2).banks = s.banks := (front_banks _).symm.trans ((congrArg Front.banks (State.log_front s c v e d0 d1 d2)).trans (front_banks _))
@[simp] theorem State.log_tenants (s : State) (c v e : Nat) (d0 d1 d2 : W64) : (s.log c v e d0 d1 d2).tenants = s.tenants := (front_tenants _).symm.trans ((congrArg Front.tenants (State.log_front s c v e d0 d1 d2)).trans (front_tenants _))
@[simp] theorem State.log_policies (s : State) (c v e : Nat) (d0 d1 d2 : W64) : (s.log c v e d0 d1 d2).policies = s.policies := (front_policies _).symm.trans ((congrArg Front.policies (State.log_front s c v e d0 d1 d2)).trans (front_policies _))
@[simp] theorem State.log_cairns (s : State) (c v e : Nat) (d0 d1 d2 : W64) : (s.log c v e d0 d1 d2).cairns = s.cairns := (front_cairns _).symm.trans ((congrArg Front.cairns (State.log_front s c v e d0 d1 d2)).trans (front_cairns _))
@[simp] theorem State.log_stack (s : State) (c v e : Nat) (d0 d1 d2 : W64) : (s.log c v e d0 d1 d2).stack = s.stack := (front_stack _).symm.trans ((congrArg Front.stack (State.log_front s c v e d0 d1 d2)).trans (front_stack _))
@[simp] theorem State.log_tokCache (s : State) (c v e : Nat) (d0 d1 d2 : W64) : (s.log c v e d0 d1 d2).tokCache = s.tokCache := (front_tokCache _).symm.trans ((congrArg Front.tokCache (State.log_front s c v e d0 d1 d2)).trans (front_tokCache _))
@[simp] theorem State.log_gov (s : State) (c v e : Nat) (d0 d1 d2 : W64) : (s.log c v e d0 d1 d2).gov = s.gov := (front_gov _).symm.trans ((congrArg Front.gov (State.log_front s c v e d0 d1 d2)).trans (front_gov _))
@[simp] theorem State.log_integ (s : State) (c v e : Nat) (d0 d1 d2 : W64) : (s.log c v e d0 d1 d2).integ = s.integ := (front_integ _).symm.trans ((congrArg Front.integ (State.log_front s c v e d0 d1 d2)).trans (front_integ _))
@[simp] theorem State.log_range (s : State) (c v e : Nat) (d0 d1 d2 : W64) : (s.log c v e d0 d1 d2).range = s.range := (front_range _).symm.trans ((congrArg Front.range (State.log_front s c v e d0 d1 d2)).trans (front_range _))
@[simp] theorem State.log_test (s : State) (c v e : Nat) (d0 d1 d2 : W64) : (s.log c v e d0 d1 d2).test = s.test := (front_test _).symm.trans ((congrArg Front.test (State.log_front s c v e d0 d1 d2)).trans (front_test _))
@[simp] theorem State.log_plan (s : State) (c v e : Nat) (d0 d1 d2 : W64) : (s.log c v e d0 d1 d2).plan = s.plan := (front_plan _).symm.trans ((congrArg Front.plan (State.log_front s c v e d0 d1 d2)).trans (front_plan _))
@[simp] theorem State.log_dyn (s : State) (c v e : Nat) (d0 d1 d2 : W64) : (s.log c v e d0 d1 d2).dyn = s.dyn := (front_dyn _).symm.trans ((congrArg Front.dyn (State.log_front s c v e d0 d1 d2)).trans (front_dyn _))

@[simp] theorem State.write'_pending (s : State) (o : WOwner) (a : Nat) (d : List (Nat × List Byte)) (c : Option (Nat × List Byte)) : (s.write' o a d c).pending = s.pending := (front_pending _).symm.trans ((congrArg Front.pending (State.write'_front s o a d c)).trans (front_pending _))
@[simp] theorem State.write'_build (s : State) (o : WOwner) (a : Nat) (d : List (Nat × List Byte)) (c : Option (Nat × List Byte)) : (s.write' o a d c).build = s.build := (front_build _).symm.trans ((congrArg Front.build (State.write'_front s o a d c)).trans (front_build _))
@[simp] theorem State.write'_fuses (s : State) (o : WOwner) (a : Nat) (d : List (Nat × List Byte)) (c : Option (Nat × List Byte)) : (s.write' o a d c).fuses = s.fuses := (front_fuses _).symm.trans ((congrArg Front.fuses (State.write'_front s o a d c)).trans (front_fuses _))
@[simp] theorem State.write'_regs (s : State) (o : WOwner) (a : Nat) (d : List (Nat × List Byte)) (c : Option (Nat × List Byte)) : (s.write' o a d c).regs = s.regs := (front_regs _).symm.trans ((congrArg Front.regs (State.write'_front s o a d c)).trans (front_regs _))
@[simp] theorem State.write'_start (s : State) (o : WOwner) (a : Nat) (d : List (Nat × List Byte)) (c : Option (Nat × List Byte)) : (s.write' o a d c).start = s.start := (front_start _).symm.trans ((congrArg Front.start (State.write'_front s o a d c)).trans (front_start _))
@[simp] theorem State.write'_clk (s : State) (o : WOwner) (a : Nat) (d : List (Nat × List Byte)) (c : Option (Nat × List Byte)) : (s.write' o a d c).clk = s.clk := (front_clk _).symm.trans ((congrArg Front.clk (State.write'_front s o a d c)).trans (front_clk _))
@[simp] theorem State.write'_rings (s : State) (o : WOwner) (a : Nat) (d : List (Nat × List Byte)) (c : Option (Nat × List Byte)) : (s.write' o a d c).rings = s.rings := (front_rings _).symm.trans ((congrArg Front.rings (State.write'_front s o a d c)).trans (front_rings _))
@[simp] theorem State.write'_cmds (s : State) (o : WOwner) (a : Nat) (d : List (Nat × List Byte)) (c : Option (Nat × List Byte)) : (s.write' o a d c).cmds = s.cmds := (front_cmds _).symm.trans ((congrArg Front.cmds (State.write'_front s o a d c)).trans (front_cmds _))
@[simp] theorem State.write'_nextId (s : State) (o : WOwner) (a : Nat) (d : List (Nat × List Byte)) (c : Option (Nat × List Byte)) : (s.write' o a d c).nextId = s.nextId := (front_nextId _).symm.trans ((congrArg Front.nextId (State.write'_front s o a d c)).trans (front_nextId _))
@[simp] theorem State.write'_sched (s : State) (o : WOwner) (a : Nat) (d : List (Nat × List Byte)) (c : Option (Nat × List Byte)) : (s.write' o a d c).sched = s.sched := (front_sched _).symm.trans ((congrArg Front.sched (State.write'_front s o a d c)).trans (front_sched _))
@[simp] theorem State.write'_streams (s : State) (o : WOwner) (a : Nat) (d : List (Nat × List Byte)) (c : Option (Nat × List Byte)) : (s.write' o a d c).streams = s.streams := (front_streams _).symm.trans ((congrArg Front.streams (State.write'_front s o a d c)).trans (front_streams _))
@[simp] theorem State.write'_opens (s : State) (o : WOwner) (a : Nat) (d : List (Nat × List Byte)) (c : Option (Nat × List Byte)) : (s.write' o a d c).opens = s.opens := (front_opens _).symm.trans ((congrArg Front.opens (State.write'_front s o a d c)).trans (front_opens _))
@[simp] theorem State.write'_recs (s : State) (o : WOwner) (a : Nat) (d : List (Nat × List Byte)) (c : Option (Nat × List Byte)) : (s.write' o a d c).recs = s.recs := (front_recs _).symm.trans ((congrArg Front.recs (State.write'_front s o a d c)).trans (front_recs _))
@[simp] theorem State.write'_masks (s : State) (o : WOwner) (a : Nat) (d : List (Nat × List Byte)) (c : Option (Nat × List Byte)) : (s.write' o a d c).masks = s.masks := (front_masks _).symm.trans ((congrArg Front.masks (State.write'_front s o a d c)).trans (front_masks _))
@[simp] theorem State.write'_port (s : State) (o : WOwner) (a : Nat) (d : List (Nat × List Byte)) (c : Option (Nat × List Byte)) : (s.write' o a d c).port = s.port := (front_port _).symm.trans ((congrArg Front.port (State.write'_front s o a d c)).trans (front_port _))
@[simp] theorem State.write'_images (s : State) (o : WOwner) (a : Nat) (d : List (Nat × List Byte)) (c : Option (Nat × List Byte)) : (s.write' o a d c).images = s.images := (front_images _).symm.trans ((congrArg Front.images (State.write'_front s o a d c)).trans (front_images _))
@[simp] theorem State.write'_banks (s : State) (o : WOwner) (a : Nat) (d : List (Nat × List Byte)) (c : Option (Nat × List Byte)) : (s.write' o a d c).banks = s.banks := (front_banks _).symm.trans ((congrArg Front.banks (State.write'_front s o a d c)).trans (front_banks _))
@[simp] theorem State.write'_tenants (s : State) (o : WOwner) (a : Nat) (d : List (Nat × List Byte)) (c : Option (Nat × List Byte)) : (s.write' o a d c).tenants = s.tenants := (front_tenants _).symm.trans ((congrArg Front.tenants (State.write'_front s o a d c)).trans (front_tenants _))
@[simp] theorem State.write'_policies (s : State) (o : WOwner) (a : Nat) (d : List (Nat × List Byte)) (c : Option (Nat × List Byte)) : (s.write' o a d c).policies = s.policies := (front_policies _).symm.trans ((congrArg Front.policies (State.write'_front s o a d c)).trans (front_policies _))
@[simp] theorem State.write'_cairns (s : State) (o : WOwner) (a : Nat) (d : List (Nat × List Byte)) (c : Option (Nat × List Byte)) : (s.write' o a d c).cairns = s.cairns := (front_cairns _).symm.trans ((congrArg Front.cairns (State.write'_front s o a d c)).trans (front_cairns _))
@[simp] theorem State.write'_stack (s : State) (o : WOwner) (a : Nat) (d : List (Nat × List Byte)) (c : Option (Nat × List Byte)) : (s.write' o a d c).stack = s.stack := (front_stack _).symm.trans ((congrArg Front.stack (State.write'_front s o a d c)).trans (front_stack _))
@[simp] theorem State.write'_tokCache (s : State) (o : WOwner) (a : Nat) (d : List (Nat × List Byte)) (c : Option (Nat × List Byte)) : (s.write' o a d c).tokCache = s.tokCache := (front_tokCache _).symm.trans ((congrArg Front.tokCache (State.write'_front s o a d c)).trans (front_tokCache _))
@[simp] theorem State.write'_gov (s : State) (o : WOwner) (a : Nat) (d : List (Nat × List Byte)) (c : Option (Nat × List Byte)) : (s.write' o a d c).gov = s.gov := (front_gov _).symm.trans ((congrArg Front.gov (State.write'_front s o a d c)).trans (front_gov _))
@[simp] theorem State.write'_integ (s : State) (o : WOwner) (a : Nat) (d : List (Nat × List Byte)) (c : Option (Nat × List Byte)) : (s.write' o a d c).integ = s.integ := (front_integ _).symm.trans ((congrArg Front.integ (State.write'_front s o a d c)).trans (front_integ _))
@[simp] theorem State.write'_range (s : State) (o : WOwner) (a : Nat) (d : List (Nat × List Byte)) (c : Option (Nat × List Byte)) : (s.write' o a d c).range = s.range := (front_range _).symm.trans ((congrArg Front.range (State.write'_front s o a d c)).trans (front_range _))
@[simp] theorem State.write'_test (s : State) (o : WOwner) (a : Nat) (d : List (Nat × List Byte)) (c : Option (Nat × List Byte)) : (s.write' o a d c).test = s.test := (front_test _).symm.trans ((congrArg Front.test (State.write'_front s o a d c)).trans (front_test _))
@[simp] theorem State.write'_plan (s : State) (o : WOwner) (a : Nat) (d : List (Nat × List Byte)) (c : Option (Nat × List Byte)) : (s.write' o a d c).plan = s.plan := (front_plan _).symm.trans ((congrArg Front.plan (State.write'_front s o a d c)).trans (front_plan _))
@[simp] theorem State.write'_dyn (s : State) (o : WOwner) (a : Nat) (d : List (Nat × List Byte)) (c : Option (Nat × List Byte)) : (s.write' o a d c).dyn = s.dyn := (front_dyn _).symm.trans ((congrArg Front.dyn (State.write'_front s o a d c)).trans (front_dyn _))

@[simp] theorem State.write_pending (s : State) (o : WOwner) (a : Nat) (d : List (Nat × List Byte)) (c : Option (Nat × List Byte)) (x : List Nat) : ((s.write o a d c x).2).pending = s.pending := (front_pending _).symm.trans ((congrArg Front.pending (State.write_front s o a d c x)).trans (front_pending _))
@[simp] theorem State.write_build (s : State) (o : WOwner) (a : Nat) (d : List (Nat × List Byte)) (c : Option (Nat × List Byte)) (x : List Nat) : ((s.write o a d c x).2).build = s.build := (front_build _).symm.trans ((congrArg Front.build (State.write_front s o a d c x)).trans (front_build _))
@[simp] theorem State.write_fuses (s : State) (o : WOwner) (a : Nat) (d : List (Nat × List Byte)) (c : Option (Nat × List Byte)) (x : List Nat) : ((s.write o a d c x).2).fuses = s.fuses := (front_fuses _).symm.trans ((congrArg Front.fuses (State.write_front s o a d c x)).trans (front_fuses _))
@[simp] theorem State.write_regs (s : State) (o : WOwner) (a : Nat) (d : List (Nat × List Byte)) (c : Option (Nat × List Byte)) (x : List Nat) : ((s.write o a d c x).2).regs = s.regs := (front_regs _).symm.trans ((congrArg Front.regs (State.write_front s o a d c x)).trans (front_regs _))
@[simp] theorem State.write_start (s : State) (o : WOwner) (a : Nat) (d : List (Nat × List Byte)) (c : Option (Nat × List Byte)) (x : List Nat) : ((s.write o a d c x).2).start = s.start := (front_start _).symm.trans ((congrArg Front.start (State.write_front s o a d c x)).trans (front_start _))
@[simp] theorem State.write_clk (s : State) (o : WOwner) (a : Nat) (d : List (Nat × List Byte)) (c : Option (Nat × List Byte)) (x : List Nat) : ((s.write o a d c x).2).clk = s.clk := (front_clk _).symm.trans ((congrArg Front.clk (State.write_front s o a d c x)).trans (front_clk _))
@[simp] theorem State.write_rings (s : State) (o : WOwner) (a : Nat) (d : List (Nat × List Byte)) (c : Option (Nat × List Byte)) (x : List Nat) : ((s.write o a d c x).2).rings = s.rings := (front_rings _).symm.trans ((congrArg Front.rings (State.write_front s o a d c x)).trans (front_rings _))
@[simp] theorem State.write_cmds (s : State) (o : WOwner) (a : Nat) (d : List (Nat × List Byte)) (c : Option (Nat × List Byte)) (x : List Nat) : ((s.write o a d c x).2).cmds = s.cmds := (front_cmds _).symm.trans ((congrArg Front.cmds (State.write_front s o a d c x)).trans (front_cmds _))
@[simp] theorem State.write_nextId (s : State) (o : WOwner) (a : Nat) (d : List (Nat × List Byte)) (c : Option (Nat × List Byte)) (x : List Nat) : ((s.write o a d c x).2).nextId = s.nextId := (front_nextId _).symm.trans ((congrArg Front.nextId (State.write_front s o a d c x)).trans (front_nextId _))
@[simp] theorem State.write_sched (s : State) (o : WOwner) (a : Nat) (d : List (Nat × List Byte)) (c : Option (Nat × List Byte)) (x : List Nat) : ((s.write o a d c x).2).sched = s.sched := (front_sched _).symm.trans ((congrArg Front.sched (State.write_front s o a d c x)).trans (front_sched _))
@[simp] theorem State.write_streams (s : State) (o : WOwner) (a : Nat) (d : List (Nat × List Byte)) (c : Option (Nat × List Byte)) (x : List Nat) : ((s.write o a d c x).2).streams = s.streams := (front_streams _).symm.trans ((congrArg Front.streams (State.write_front s o a d c x)).trans (front_streams _))
@[simp] theorem State.write_opens (s : State) (o : WOwner) (a : Nat) (d : List (Nat × List Byte)) (c : Option (Nat × List Byte)) (x : List Nat) : ((s.write o a d c x).2).opens = s.opens := (front_opens _).symm.trans ((congrArg Front.opens (State.write_front s o a d c x)).trans (front_opens _))
@[simp] theorem State.write_recs (s : State) (o : WOwner) (a : Nat) (d : List (Nat × List Byte)) (c : Option (Nat × List Byte)) (x : List Nat) : ((s.write o a d c x).2).recs = s.recs := (front_recs _).symm.trans ((congrArg Front.recs (State.write_front s o a d c x)).trans (front_recs _))
@[simp] theorem State.write_masks (s : State) (o : WOwner) (a : Nat) (d : List (Nat × List Byte)) (c : Option (Nat × List Byte)) (x : List Nat) : ((s.write o a d c x).2).masks = s.masks := (front_masks _).symm.trans ((congrArg Front.masks (State.write_front s o a d c x)).trans (front_masks _))
@[simp] theorem State.write_port (s : State) (o : WOwner) (a : Nat) (d : List (Nat × List Byte)) (c : Option (Nat × List Byte)) (x : List Nat) : ((s.write o a d c x).2).port = s.port := (front_port _).symm.trans ((congrArg Front.port (State.write_front s o a d c x)).trans (front_port _))
@[simp] theorem State.write_images (s : State) (o : WOwner) (a : Nat) (d : List (Nat × List Byte)) (c : Option (Nat × List Byte)) (x : List Nat) : ((s.write o a d c x).2).images = s.images := (front_images _).symm.trans ((congrArg Front.images (State.write_front s o a d c x)).trans (front_images _))
@[simp] theorem State.write_banks (s : State) (o : WOwner) (a : Nat) (d : List (Nat × List Byte)) (c : Option (Nat × List Byte)) (x : List Nat) : ((s.write o a d c x).2).banks = s.banks := (front_banks _).symm.trans ((congrArg Front.banks (State.write_front s o a d c x)).trans (front_banks _))
@[simp] theorem State.write_tenants (s : State) (o : WOwner) (a : Nat) (d : List (Nat × List Byte)) (c : Option (Nat × List Byte)) (x : List Nat) : ((s.write o a d c x).2).tenants = s.tenants := (front_tenants _).symm.trans ((congrArg Front.tenants (State.write_front s o a d c x)).trans (front_tenants _))
@[simp] theorem State.write_policies (s : State) (o : WOwner) (a : Nat) (d : List (Nat × List Byte)) (c : Option (Nat × List Byte)) (x : List Nat) : ((s.write o a d c x).2).policies = s.policies := (front_policies _).symm.trans ((congrArg Front.policies (State.write_front s o a d c x)).trans (front_policies _))
@[simp] theorem State.write_cairns (s : State) (o : WOwner) (a : Nat) (d : List (Nat × List Byte)) (c : Option (Nat × List Byte)) (x : List Nat) : ((s.write o a d c x).2).cairns = s.cairns := (front_cairns _).symm.trans ((congrArg Front.cairns (State.write_front s o a d c x)).trans (front_cairns _))
@[simp] theorem State.write_stack (s : State) (o : WOwner) (a : Nat) (d : List (Nat × List Byte)) (c : Option (Nat × List Byte)) (x : List Nat) : ((s.write o a d c x).2).stack = s.stack := (front_stack _).symm.trans ((congrArg Front.stack (State.write_front s o a d c x)).trans (front_stack _))
@[simp] theorem State.write_tokCache (s : State) (o : WOwner) (a : Nat) (d : List (Nat × List Byte)) (c : Option (Nat × List Byte)) (x : List Nat) : ((s.write o a d c x).2).tokCache = s.tokCache := (front_tokCache _).symm.trans ((congrArg Front.tokCache (State.write_front s o a d c x)).trans (front_tokCache _))
@[simp] theorem State.write_gov (s : State) (o : WOwner) (a : Nat) (d : List (Nat × List Byte)) (c : Option (Nat × List Byte)) (x : List Nat) : ((s.write o a d c x).2).gov = s.gov := (front_gov _).symm.trans ((congrArg Front.gov (State.write_front s o a d c x)).trans (front_gov _))
@[simp] theorem State.write_integ (s : State) (o : WOwner) (a : Nat) (d : List (Nat × List Byte)) (c : Option (Nat × List Byte)) (x : List Nat) : ((s.write o a d c x).2).integ = s.integ := (front_integ _).symm.trans ((congrArg Front.integ (State.write_front s o a d c x)).trans (front_integ _))
@[simp] theorem State.write_range (s : State) (o : WOwner) (a : Nat) (d : List (Nat × List Byte)) (c : Option (Nat × List Byte)) (x : List Nat) : ((s.write o a d c x).2).range = s.range := (front_range _).symm.trans ((congrArg Front.range (State.write_front s o a d c x)).trans (front_range _))
@[simp] theorem State.write_test (s : State) (o : WOwner) (a : Nat) (d : List (Nat × List Byte)) (c : Option (Nat × List Byte)) (x : List Nat) : ((s.write o a d c x).2).test = s.test := (front_test _).symm.trans ((congrArg Front.test (State.write_front s o a d c x)).trans (front_test _))
@[simp] theorem State.write_plan (s : State) (o : WOwner) (a : Nat) (d : List (Nat × List Byte)) (c : Option (Nat × List Byte)) (x : List Nat) : ((s.write o a d c x).2).plan = s.plan := (front_plan _).symm.trans ((congrArg Front.plan (State.write_front s o a d c x)).trans (front_plan _))
@[simp] theorem State.write_dyn (s : State) (o : WOwner) (a : Nat) (d : List (Nat × List Byte)) (c : Option (Nat × List Byte)) (x : List Nat) : ((s.write o a d c x).2).dyn = s.dyn := (front_dyn _).symm.trans ((congrArg Front.dyn (State.write_front s o a d c x)).trans (front_dyn _))

@[simp] theorem State.read_pending (s : State) (o : ROwner) (a n t : Nat) : (s.read o a n t).pending = s.pending := (front_pending _).symm.trans ((congrArg Front.pending (State.read_front s o a n t)).trans (front_pending _))
@[simp] theorem State.read_build (s : State) (o : ROwner) (a n t : Nat) : (s.read o a n t).build = s.build := (front_build _).symm.trans ((congrArg Front.build (State.read_front s o a n t)).trans (front_build _))
@[simp] theorem State.read_fuses (s : State) (o : ROwner) (a n t : Nat) : (s.read o a n t).fuses = s.fuses := (front_fuses _).symm.trans ((congrArg Front.fuses (State.read_front s o a n t)).trans (front_fuses _))
@[simp] theorem State.read_regs (s : State) (o : ROwner) (a n t : Nat) : (s.read o a n t).regs = s.regs := (front_regs _).symm.trans ((congrArg Front.regs (State.read_front s o a n t)).trans (front_regs _))
@[simp] theorem State.read_start (s : State) (o : ROwner) (a n t : Nat) : (s.read o a n t).start = s.start := (front_start _).symm.trans ((congrArg Front.start (State.read_front s o a n t)).trans (front_start _))
@[simp] theorem State.read_clk (s : State) (o : ROwner) (a n t : Nat) : (s.read o a n t).clk = s.clk := (front_clk _).symm.trans ((congrArg Front.clk (State.read_front s o a n t)).trans (front_clk _))
@[simp] theorem State.read_rings (s : State) (o : ROwner) (a n t : Nat) : (s.read o a n t).rings = s.rings := (front_rings _).symm.trans ((congrArg Front.rings (State.read_front s o a n t)).trans (front_rings _))
@[simp] theorem State.read_cmds (s : State) (o : ROwner) (a n t : Nat) : (s.read o a n t).cmds = s.cmds := (front_cmds _).symm.trans ((congrArg Front.cmds (State.read_front s o a n t)).trans (front_cmds _))
@[simp] theorem State.read_nextId (s : State) (o : ROwner) (a n t : Nat) : (s.read o a n t).nextId = s.nextId := (front_nextId _).symm.trans ((congrArg Front.nextId (State.read_front s o a n t)).trans (front_nextId _))
@[simp] theorem State.read_sched (s : State) (o : ROwner) (a n t : Nat) : (s.read o a n t).sched = s.sched := (front_sched _).symm.trans ((congrArg Front.sched (State.read_front s o a n t)).trans (front_sched _))
@[simp] theorem State.read_streams (s : State) (o : ROwner) (a n t : Nat) : (s.read o a n t).streams = s.streams := (front_streams _).symm.trans ((congrArg Front.streams (State.read_front s o a n t)).trans (front_streams _))
@[simp] theorem State.read_opens (s : State) (o : ROwner) (a n t : Nat) : (s.read o a n t).opens = s.opens := (front_opens _).symm.trans ((congrArg Front.opens (State.read_front s o a n t)).trans (front_opens _))
@[simp] theorem State.read_recs (s : State) (o : ROwner) (a n t : Nat) : (s.read o a n t).recs = s.recs := (front_recs _).symm.trans ((congrArg Front.recs (State.read_front s o a n t)).trans (front_recs _))
@[simp] theorem State.read_masks (s : State) (o : ROwner) (a n t : Nat) : (s.read o a n t).masks = s.masks := (front_masks _).symm.trans ((congrArg Front.masks (State.read_front s o a n t)).trans (front_masks _))
@[simp] theorem State.read_port (s : State) (o : ROwner) (a n t : Nat) : (s.read o a n t).port = s.port := (front_port _).symm.trans ((congrArg Front.port (State.read_front s o a n t)).trans (front_port _))
@[simp] theorem State.read_images (s : State) (o : ROwner) (a n t : Nat) : (s.read o a n t).images = s.images := (front_images _).symm.trans ((congrArg Front.images (State.read_front s o a n t)).trans (front_images _))
@[simp] theorem State.read_banks (s : State) (o : ROwner) (a n t : Nat) : (s.read o a n t).banks = s.banks := (front_banks _).symm.trans ((congrArg Front.banks (State.read_front s o a n t)).trans (front_banks _))
@[simp] theorem State.read_tenants (s : State) (o : ROwner) (a n t : Nat) : (s.read o a n t).tenants = s.tenants := (front_tenants _).symm.trans ((congrArg Front.tenants (State.read_front s o a n t)).trans (front_tenants _))
@[simp] theorem State.read_policies (s : State) (o : ROwner) (a n t : Nat) : (s.read o a n t).policies = s.policies := (front_policies _).symm.trans ((congrArg Front.policies (State.read_front s o a n t)).trans (front_policies _))
@[simp] theorem State.read_cairns (s : State) (o : ROwner) (a n t : Nat) : (s.read o a n t).cairns = s.cairns := (front_cairns _).symm.trans ((congrArg Front.cairns (State.read_front s o a n t)).trans (front_cairns _))
@[simp] theorem State.read_stack (s : State) (o : ROwner) (a n t : Nat) : (s.read o a n t).stack = s.stack := (front_stack _).symm.trans ((congrArg Front.stack (State.read_front s o a n t)).trans (front_stack _))
@[simp] theorem State.read_tokCache (s : State) (o : ROwner) (a n t : Nat) : (s.read o a n t).tokCache = s.tokCache := (front_tokCache _).symm.trans ((congrArg Front.tokCache (State.read_front s o a n t)).trans (front_tokCache _))
@[simp] theorem State.read_gov (s : State) (o : ROwner) (a n t : Nat) : (s.read o a n t).gov = s.gov := (front_gov _).symm.trans ((congrArg Front.gov (State.read_front s o a n t)).trans (front_gov _))
@[simp] theorem State.read_integ (s : State) (o : ROwner) (a n t : Nat) : (s.read o a n t).integ = s.integ := (front_integ _).symm.trans ((congrArg Front.integ (State.read_front s o a n t)).trans (front_integ _))
@[simp] theorem State.read_range (s : State) (o : ROwner) (a n t : Nat) : (s.read o a n t).range = s.range := (front_range _).symm.trans ((congrArg Front.range (State.read_front s o a n t)).trans (front_range _))
@[simp] theorem State.read_test (s : State) (o : ROwner) (a n t : Nat) : (s.read o a n t).test = s.test := (front_test _).symm.trans ((congrArg Front.test (State.read_front s o a n t)).trans (front_test _))
@[simp] theorem State.read_plan (s : State) (o : ROwner) (a n t : Nat) : (s.read o a n t).plan = s.plan := (front_plan _).symm.trans ((congrArg Front.plan (State.read_front s o a n t)).trans (front_plan _))
@[simp] theorem State.read_dyn (s : State) (o : ROwner) (a n t : Nat) : (s.read o a n t).dyn = s.dyn := (front_dyn _).symm.trans ((congrArg Front.dyn (State.read_front s o a n t)).trans (front_dyn _))

@[simp] theorem State.writeRows_pending (s : State) (w k a : Nat) (bs : List Byte) : (s.writeRows w k a bs).pending = s.pending := (front_pending _).symm.trans ((congrArg Front.pending (State.writeRows_front s w k a bs)).trans (front_pending _))
@[simp] theorem State.writeRows_build (s : State) (w k a : Nat) (bs : List Byte) : (s.writeRows w k a bs).build = s.build := (front_build _).symm.trans ((congrArg Front.build (State.writeRows_front s w k a bs)).trans (front_build _))
@[simp] theorem State.writeRows_fuses (s : State) (w k a : Nat) (bs : List Byte) : (s.writeRows w k a bs).fuses = s.fuses := (front_fuses _).symm.trans ((congrArg Front.fuses (State.writeRows_front s w k a bs)).trans (front_fuses _))
@[simp] theorem State.writeRows_regs (s : State) (w k a : Nat) (bs : List Byte) : (s.writeRows w k a bs).regs = s.regs := (front_regs _).symm.trans ((congrArg Front.regs (State.writeRows_front s w k a bs)).trans (front_regs _))
@[simp] theorem State.writeRows_start (s : State) (w k a : Nat) (bs : List Byte) : (s.writeRows w k a bs).start = s.start := (front_start _).symm.trans ((congrArg Front.start (State.writeRows_front s w k a bs)).trans (front_start _))
@[simp] theorem State.writeRows_clk (s : State) (w k a : Nat) (bs : List Byte) : (s.writeRows w k a bs).clk = s.clk := (front_clk _).symm.trans ((congrArg Front.clk (State.writeRows_front s w k a bs)).trans (front_clk _))
@[simp] theorem State.writeRows_rings (s : State) (w k a : Nat) (bs : List Byte) : (s.writeRows w k a bs).rings = s.rings := (front_rings _).symm.trans ((congrArg Front.rings (State.writeRows_front s w k a bs)).trans (front_rings _))
@[simp] theorem State.writeRows_cmds (s : State) (w k a : Nat) (bs : List Byte) : (s.writeRows w k a bs).cmds = s.cmds := (front_cmds _).symm.trans ((congrArg Front.cmds (State.writeRows_front s w k a bs)).trans (front_cmds _))
@[simp] theorem State.writeRows_nextId (s : State) (w k a : Nat) (bs : List Byte) : (s.writeRows w k a bs).nextId = s.nextId := (front_nextId _).symm.trans ((congrArg Front.nextId (State.writeRows_front s w k a bs)).trans (front_nextId _))
@[simp] theorem State.writeRows_sched (s : State) (w k a : Nat) (bs : List Byte) : (s.writeRows w k a bs).sched = s.sched := (front_sched _).symm.trans ((congrArg Front.sched (State.writeRows_front s w k a bs)).trans (front_sched _))
@[simp] theorem State.writeRows_streams (s : State) (w k a : Nat) (bs : List Byte) : (s.writeRows w k a bs).streams = s.streams := (front_streams _).symm.trans ((congrArg Front.streams (State.writeRows_front s w k a bs)).trans (front_streams _))
@[simp] theorem State.writeRows_opens (s : State) (w k a : Nat) (bs : List Byte) : (s.writeRows w k a bs).opens = s.opens := (front_opens _).symm.trans ((congrArg Front.opens (State.writeRows_front s w k a bs)).trans (front_opens _))
@[simp] theorem State.writeRows_recs (s : State) (w k a : Nat) (bs : List Byte) : (s.writeRows w k a bs).recs = s.recs := (front_recs _).symm.trans ((congrArg Front.recs (State.writeRows_front s w k a bs)).trans (front_recs _))
@[simp] theorem State.writeRows_masks (s : State) (w k a : Nat) (bs : List Byte) : (s.writeRows w k a bs).masks = s.masks := (front_masks _).symm.trans ((congrArg Front.masks (State.writeRows_front s w k a bs)).trans (front_masks _))
@[simp] theorem State.writeRows_port (s : State) (w k a : Nat) (bs : List Byte) : (s.writeRows w k a bs).port = s.port := (front_port _).symm.trans ((congrArg Front.port (State.writeRows_front s w k a bs)).trans (front_port _))
@[simp] theorem State.writeRows_images (s : State) (w k a : Nat) (bs : List Byte) : (s.writeRows w k a bs).images = s.images := (front_images _).symm.trans ((congrArg Front.images (State.writeRows_front s w k a bs)).trans (front_images _))
@[simp] theorem State.writeRows_banks (s : State) (w k a : Nat) (bs : List Byte) : (s.writeRows w k a bs).banks = s.banks := (front_banks _).symm.trans ((congrArg Front.banks (State.writeRows_front s w k a bs)).trans (front_banks _))
@[simp] theorem State.writeRows_tenants (s : State) (w k a : Nat) (bs : List Byte) : (s.writeRows w k a bs).tenants = s.tenants := (front_tenants _).symm.trans ((congrArg Front.tenants (State.writeRows_front s w k a bs)).trans (front_tenants _))
@[simp] theorem State.writeRows_policies (s : State) (w k a : Nat) (bs : List Byte) : (s.writeRows w k a bs).policies = s.policies := (front_policies _).symm.trans ((congrArg Front.policies (State.writeRows_front s w k a bs)).trans (front_policies _))
@[simp] theorem State.writeRows_cairns (s : State) (w k a : Nat) (bs : List Byte) : (s.writeRows w k a bs).cairns = s.cairns := (front_cairns _).symm.trans ((congrArg Front.cairns (State.writeRows_front s w k a bs)).trans (front_cairns _))
@[simp] theorem State.writeRows_stack (s : State) (w k a : Nat) (bs : List Byte) : (s.writeRows w k a bs).stack = s.stack := (front_stack _).symm.trans ((congrArg Front.stack (State.writeRows_front s w k a bs)).trans (front_stack _))
@[simp] theorem State.writeRows_tokCache (s : State) (w k a : Nat) (bs : List Byte) : (s.writeRows w k a bs).tokCache = s.tokCache := (front_tokCache _).symm.trans ((congrArg Front.tokCache (State.writeRows_front s w k a bs)).trans (front_tokCache _))
@[simp] theorem State.writeRows_gov (s : State) (w k a : Nat) (bs : List Byte) : (s.writeRows w k a bs).gov = s.gov := (front_gov _).symm.trans ((congrArg Front.gov (State.writeRows_front s w k a bs)).trans (front_gov _))
@[simp] theorem State.writeRows_integ (s : State) (w k a : Nat) (bs : List Byte) : (s.writeRows w k a bs).integ = s.integ := (front_integ _).symm.trans ((congrArg Front.integ (State.writeRows_front s w k a bs)).trans (front_integ _))
@[simp] theorem State.writeRows_range (s : State) (w k a : Nat) (bs : List Byte) : (s.writeRows w k a bs).range = s.range := (front_range _).symm.trans ((congrArg Front.range (State.writeRows_front s w k a bs)).trans (front_range _))
@[simp] theorem State.writeRows_test (s : State) (w k a : Nat) (bs : List Byte) : (s.writeRows w k a bs).test = s.test := (front_test _).symm.trans ((congrArg Front.test (State.writeRows_front s w k a bs)).trans (front_test _))
@[simp] theorem State.writeRows_plan (s : State) (w k a : Nat) (bs : List Byte) : (s.writeRows w k a bs).plan = s.plan := (front_plan _).symm.trans ((congrArg Front.plan (State.writeRows_front s w k a bs)).trans (front_plan _))
@[simp] theorem State.writeRows_dyn (s : State) (w k a : Nat) (bs : List Byte) : (s.writeRows w k a bs).dyn = s.dyn := (front_dyn _).symm.trans ((congrArg Front.dyn (State.writeRows_front s w k a bs)).trans (front_dyn _))

end Sys2Proof.Machine
end

