-- ==== Sys2Proof/Laws/Maps.lean ====
section
/-! SUPPORT. Finite maps: a read after a write or an erasure, and the canonical form. -/

namespace Sys2Proof.Machine

@[simp] theorem AMap.get?_set {α : Type} (m : AMap α) (i : Nat) (v : α) (j : Nat) :
    AMap.get? (AMap.set m i v) j = if j = i then some v else AMap.get? m j := by
  induction m with
  | nil =>
    simp only [AMap.set, AMap.get?]
    by_cases h : j = i
    · rw [if_pos h, if_pos h.symm]
    · rw [if_neg h, if_neg (Ne.symm h)]
  | cons x m ih =>
    obtain ⟨k, x⟩ := x
    simp only [AMap.set]
    by_cases h : j = i
    · subst h
      split
      · simp [AMap.get?]
      · split
        · simp [AMap.get?]
        · rename_i hk
          rw [AMap.get?, if_neg (Ne.symm hk), ih, if_pos rfl, if_pos rfl]
    · rw [if_neg h]
      rw [if_neg h] at ih
      split
      · rw [AMap.get?, if_neg (Ne.symm h)]
      · split
        · subst ‹i = k›
          rw [AMap.get?, AMap.get?, if_neg (Ne.symm h), if_neg (Ne.symm h)]
        · rw [AMap.get?, AMap.get?, ih]
@[simp] theorem AMap.getD_set {α : Type} (m : AMap α) (i : Nat) (v : α) (j : Nat) (d : α) :
    AMap.getD (AMap.set m i v) j d = if j = i then v else AMap.getD m j d := by
  simp only [AMap.getD, AMap.get?_set]; split <;> rfl
@[simp] theorem AMap.get?_erase {α : Type} (m : AMap α) (i j : Nat) :
    AMap.get? (AMap.erase m i) j = if j = i then none else AMap.get? m j := by
  induction m with
  | nil => simp [AMap.erase, AMap.get?]
  | cons x m ih =>
    obtain ⟨k, x⟩ := x
    simp only [AMap.erase]
    split
    · subst ‹k = i›
      rw [ih, AMap.get?]
      by_cases h : j = k
      · rw [if_pos h, if_pos h]
      · rw [if_neg h, if_neg h, if_neg (Ne.symm h)]
    · rename_i hk
      rw [AMap.get?, ih, AMap.get?]
      by_cases h : k = j
      · subst h
        rw [if_pos rfl, if_neg hk, if_pos rfl]
      · rw [if_neg h, if_neg h]

/-- A write keeps the canonical form. -/
theorem AMap.set_wf {α : Type} (m : AMap α) (i : Nat) (v : α) (h : AMap.wf m = true) : AMap.wf (AMap.set m i v) = true := by
  induction m with
  | nil => rfl
  | cons x m ih =>
    obtain ⟨k, x⟩ := x
    have hm : AMap.wf m = true := by
      cases m with
      | nil => rfl
      | cons y m => simp only [AMap.wf, Bool.and_eq_true] at h; exact h.2
    simp only [AMap.set]
    split
    · simpa [AMap.wf, h] using ‹i < k›
    · split
      · subst ‹i = k›
        cases m with
        | nil => rfl
        | cons y m => simpa [AMap.wf] using h
      · have := ih hm
        cases m with
        | nil => simp only [AMap.set, AMap.wf, Bool.and_true, decide_eq_true_eq]; omega
        | cons y m =>
          obtain ⟨k', y⟩ := y
          simp only [AMap.wf, Bool.and_eq_true, decide_eq_true_eq] at h
          simp only [AMap.set] at this ⊢
          split
          · rename_i hlt
            rw [if_pos hlt] at this
            simp only [AMap.wf, Bool.and_eq_true, decide_eq_true_eq] at this ⊢
            exact ⟨by omega, this⟩
          · rename_i hge
            rw [if_neg hge] at this
            split
            · rename_i he
              rw [if_pos he] at this
              simp only [AMap.wf, Bool.and_eq_true, decide_eq_true_eq] at *
              exact ⟨by omega, this⟩
            · rename_i hne
              rw [if_neg hne] at this
              simp only [AMap.wf, Bool.and_eq_true, decide_eq_true_eq]
              exact ⟨h.1, this⟩

end Sys2Proof.Machine
end

