-- ==== Sys2Proof/Laws/State.lean ====
section
/-! SUPPORT. One lemma for each field and each update of the state that commands share, so that no later proof unfolds an update. -/

set_option linter.unusedSimpArgs false
namespace Sys2Proof.Machine

@[simp] theorem State.setRing_pending (s : State) (k : Nat) (f : Ring → Ring) : (s.setRing k f).pending = s.pending := rfl
@[simp] theorem State.setRing_build (s : State) (k : Nat) (f : Ring → Ring) : (s.setRing k f).build = s.build := rfl
@[simp] theorem State.setRing_fuses (s : State) (k : Nat) (f : Ring → Ring) : (s.setRing k f).fuses = s.fuses := rfl
@[simp] theorem State.setRing_regs (s : State) (k : Nat) (f : Ring → Ring) : (s.setRing k f).regs = s.regs := rfl
@[simp] theorem State.setRing_start (s : State) (k : Nat) (f : Ring → Ring) : (s.setRing k f).start = s.start := rfl
@[simp] theorem State.setRing_clk (s : State) (k : Nat) (f : Ring → Ring) : (s.setRing k f).clk = s.clk := rfl
@[simp] theorem State.setRing_cmds (s : State) (k : Nat) (f : Ring → Ring) : (s.setRing k f).cmds = s.cmds := rfl
@[simp] theorem State.setRing_nextId (s : State) (k : Nat) (f : Ring → Ring) : (s.setRing k f).nextId = s.nextId := rfl
@[simp] theorem State.setRing_sched (s : State) (k : Nat) (f : Ring → Ring) : (s.setRing k f).sched = s.sched := rfl
@[simp] theorem State.setRing_streams (s : State) (k : Nat) (f : Ring → Ring) : (s.setRing k f).streams = s.streams := rfl
@[simp] theorem State.setRing_opens (s : State) (k : Nat) (f : Ring → Ring) : (s.setRing k f).opens = s.opens := rfl
@[simp] theorem State.setRing_recs (s : State) (k : Nat) (f : Ring → Ring) : (s.setRing k f).recs = s.recs := rfl
@[simp] theorem State.setRing_masks (s : State) (k : Nat) (f : Ring → Ring) : (s.setRing k f).masks = s.masks := rfl
@[simp] theorem State.setRing_port (s : State) (k : Nat) (f : Ring → Ring) : (s.setRing k f).port = s.port := rfl
@[simp] theorem State.setRing_images (s : State) (k : Nat) (f : Ring → Ring) : (s.setRing k f).images = s.images := rfl
@[simp] theorem State.setRing_banks (s : State) (k : Nat) (f : Ring → Ring) : (s.setRing k f).banks = s.banks := rfl
@[simp] theorem State.setRing_tenants (s : State) (k : Nat) (f : Ring → Ring) : (s.setRing k f).tenants = s.tenants := rfl
@[simp] theorem State.setRing_policies (s : State) (k : Nat) (f : Ring → Ring) : (s.setRing k f).policies = s.policies := rfl
@[simp] theorem State.setRing_cairns (s : State) (k : Nat) (f : Ring → Ring) : (s.setRing k f).cairns = s.cairns := rfl
@[simp] theorem State.setRing_stack (s : State) (k : Nat) (f : Ring → Ring) : (s.setRing k f).stack = s.stack := rfl
@[simp] theorem State.setRing_tokCache (s : State) (k : Nat) (f : Ring → Ring) : (s.setRing k f).tokCache = s.tokCache := rfl
@[simp] theorem State.setRing_gov (s : State) (k : Nat) (f : Ring → Ring) : (s.setRing k f).gov = s.gov := rfl
@[simp] theorem State.setRing_integ (s : State) (k : Nat) (f : Ring → Ring) : (s.setRing k f).integ = s.integ := rfl
@[simp] theorem State.setRing_range (s : State) (k : Nat) (f : Ring → Ring) : (s.setRing k f).range = s.range := rfl
@[simp] theorem State.setRing_persist (s : State) (k : Nat) (f : Ring → Ring) : (s.setRing k f).persist = s.persist := rfl
@[simp] theorem State.setRing_mgmt (s : State) (k : Nat) (f : Ring → Ring) : (s.setRing k f).mgmt = s.mgmt := rfl
@[simp] theorem State.setRing_host (s : State) (k : Nat) (f : Ring → Ring) : (s.setRing k f).host = s.host := rfl
@[simp] theorem State.setRing_test (s : State) (k : Nat) (f : Ring → Ring) : (s.setRing k f).test = s.test := rfl
@[simp] theorem State.setRing_plan (s : State) (k : Nat) (f : Ring → Ring) : (s.setRing k f).plan = s.plan := rfl
@[simp] theorem State.setRing_dyn (s : State) (k : Nat) (f : Ring → Ring) : (s.setRing k f).dyn = s.dyn := rfl
@[simp] theorem State.setRing_out (s : State) (k : Nat) (f : Ring → Ring) : (s.setRing k f).out = s.out := rfl
@[simp] theorem State.setRing_free (s : State) (k : Nat) (f : Ring → Ring) : (s.setRing k f).free = s.free := rfl

@[simp] theorem State.at_pending (s : State) (b : Nat) (e : Eff) : (s.at b e).pending = s.pending := rfl
@[simp] theorem State.at_build (s : State) (b : Nat) (e : Eff) : (s.at b e).build = s.build := rfl
@[simp] theorem State.at_fuses (s : State) (b : Nat) (e : Eff) : (s.at b e).fuses = s.fuses := rfl
@[simp] theorem State.at_regs (s : State) (b : Nat) (e : Eff) : (s.at b e).regs = s.regs := rfl
@[simp] theorem State.at_start (s : State) (b : Nat) (e : Eff) : (s.at b e).start = s.start := rfl
@[simp] theorem State.at_clk (s : State) (b : Nat) (e : Eff) : (s.at b e).clk = s.clk := rfl
@[simp] theorem State.at_rings (s : State) (b : Nat) (e : Eff) : (s.at b e).rings = s.rings := rfl
@[simp] theorem State.at_cmds (s : State) (b : Nat) (e : Eff) : (s.at b e).cmds = s.cmds := rfl
@[simp] theorem State.at_nextId (s : State) (b : Nat) (e : Eff) : (s.at b e).nextId = s.nextId := rfl
@[simp] theorem State.at_streams (s : State) (b : Nat) (e : Eff) : (s.at b e).streams = s.streams := rfl
@[simp] theorem State.at_opens (s : State) (b : Nat) (e : Eff) : (s.at b e).opens = s.opens := rfl
@[simp] theorem State.at_recs (s : State) (b : Nat) (e : Eff) : (s.at b e).recs = s.recs := rfl
@[simp] theorem State.at_masks (s : State) (b : Nat) (e : Eff) : (s.at b e).masks = s.masks := rfl
@[simp] theorem State.at_port (s : State) (b : Nat) (e : Eff) : (s.at b e).port = s.port := rfl
@[simp] theorem State.at_images (s : State) (b : Nat) (e : Eff) : (s.at b e).images = s.images := rfl
@[simp] theorem State.at_banks (s : State) (b : Nat) (e : Eff) : (s.at b e).banks = s.banks := rfl
@[simp] theorem State.at_tenants (s : State) (b : Nat) (e : Eff) : (s.at b e).tenants = s.tenants := rfl
@[simp] theorem State.at_policies (s : State) (b : Nat) (e : Eff) : (s.at b e).policies = s.policies := rfl
@[simp] theorem State.at_cairns (s : State) (b : Nat) (e : Eff) : (s.at b e).cairns = s.cairns := rfl
@[simp] theorem State.at_stack (s : State) (b : Nat) (e : Eff) : (s.at b e).stack = s.stack := rfl
@[simp] theorem State.at_tokCache (s : State) (b : Nat) (e : Eff) : (s.at b e).tokCache = s.tokCache := rfl
@[simp] theorem State.at_gov (s : State) (b : Nat) (e : Eff) : (s.at b e).gov = s.gov := rfl
@[simp] theorem State.at_integ (s : State) (b : Nat) (e : Eff) : (s.at b e).integ = s.integ := rfl
@[simp] theorem State.at_range (s : State) (b : Nat) (e : Eff) : (s.at b e).range = s.range := rfl
@[simp] theorem State.at_persist (s : State) (b : Nat) (e : Eff) : (s.at b e).persist = s.persist := rfl
@[simp] theorem State.at_mgmt (s : State) (b : Nat) (e : Eff) : (s.at b e).mgmt = s.mgmt := rfl
@[simp] theorem State.at_host (s : State) (b : Nat) (e : Eff) : (s.at b e).host = s.host := rfl
@[simp] theorem State.at_test (s : State) (b : Nat) (e : Eff) : (s.at b e).test = s.test := rfl
@[simp] theorem State.at_plan (s : State) (b : Nat) (e : Eff) : (s.at b e).plan = s.plan := rfl
@[simp] theorem State.at_dyn (s : State) (b : Nat) (e : Eff) : (s.at b e).dyn = s.dyn := rfl
@[simp] theorem State.at_out (s : State) (b : Nat) (e : Eff) : (s.at b e).out = s.out := rfl
@[simp] theorem State.at_free (s : State) (b : Nat) (e : Eff) : (s.at b e).free = s.free := rfl

@[simp] theorem State.setTenant_pending (s : State) (t : Nat) (f : Tenant → Tenant) : (s.setTenant t f).pending = s.pending := rfl
@[simp] theorem State.setTenant_build (s : State) (t : Nat) (f : Tenant → Tenant) : (s.setTenant t f).build = s.build := rfl
@[simp] theorem State.setTenant_fuses (s : State) (t : Nat) (f : Tenant → Tenant) : (s.setTenant t f).fuses = s.fuses := rfl
@[simp] theorem State.setTenant_regs (s : State) (t : Nat) (f : Tenant → Tenant) : (s.setTenant t f).regs = s.regs := rfl
@[simp] theorem State.setTenant_start (s : State) (t : Nat) (f : Tenant → Tenant) : (s.setTenant t f).start = s.start := rfl
@[simp] theorem State.setTenant_clk (s : State) (t : Nat) (f : Tenant → Tenant) : (s.setTenant t f).clk = s.clk := rfl
@[simp] theorem State.setTenant_rings (s : State) (t : Nat) (f : Tenant → Tenant) : (s.setTenant t f).rings = s.rings := rfl
@[simp] theorem State.setTenant_cmds (s : State) (t : Nat) (f : Tenant → Tenant) : (s.setTenant t f).cmds = s.cmds := rfl
@[simp] theorem State.setTenant_nextId (s : State) (t : Nat) (f : Tenant → Tenant) : (s.setTenant t f).nextId = s.nextId := rfl
@[simp] theorem State.setTenant_sched (s : State) (t : Nat) (f : Tenant → Tenant) : (s.setTenant t f).sched = s.sched := rfl
@[simp] theorem State.setTenant_streams (s : State) (t : Nat) (f : Tenant → Tenant) : (s.setTenant t f).streams = s.streams := rfl
@[simp] theorem State.setTenant_opens (s : State) (t : Nat) (f : Tenant → Tenant) : (s.setTenant t f).opens = s.opens := rfl
@[simp] theorem State.setTenant_recs (s : State) (t : Nat) (f : Tenant → Tenant) : (s.setTenant t f).recs = s.recs := rfl
@[simp] theorem State.setTenant_masks (s : State) (t : Nat) (f : Tenant → Tenant) : (s.setTenant t f).masks = s.masks := rfl
@[simp] theorem State.setTenant_port (s : State) (t : Nat) (f : Tenant → Tenant) : (s.setTenant t f).port = s.port := rfl
@[simp] theorem State.setTenant_images (s : State) (t : Nat) (f : Tenant → Tenant) : (s.setTenant t f).images = s.images := rfl
@[simp] theorem State.setTenant_banks (s : State) (t : Nat) (f : Tenant → Tenant) : (s.setTenant t f).banks = s.banks := rfl
@[simp] theorem State.setTenant_policies (s : State) (t : Nat) (f : Tenant → Tenant) : (s.setTenant t f).policies = s.policies := rfl
@[simp] theorem State.setTenant_cairns (s : State) (t : Nat) (f : Tenant → Tenant) : (s.setTenant t f).cairns = s.cairns := rfl
@[simp] theorem State.setTenant_stack (s : State) (t : Nat) (f : Tenant → Tenant) : (s.setTenant t f).stack = s.stack := rfl
@[simp] theorem State.setTenant_tokCache (s : State) (t : Nat) (f : Tenant → Tenant) : (s.setTenant t f).tokCache = s.tokCache := rfl
@[simp] theorem State.setTenant_gov (s : State) (t : Nat) (f : Tenant → Tenant) : (s.setTenant t f).gov = s.gov := rfl
@[simp] theorem State.setTenant_integ (s : State) (t : Nat) (f : Tenant → Tenant) : (s.setTenant t f).integ = s.integ := rfl
@[simp] theorem State.setTenant_range (s : State) (t : Nat) (f : Tenant → Tenant) : (s.setTenant t f).range = s.range := rfl
@[simp] theorem State.setTenant_persist (s : State) (t : Nat) (f : Tenant → Tenant) : (s.setTenant t f).persist = s.persist := rfl
@[simp] theorem State.setTenant_mgmt (s : State) (t : Nat) (f : Tenant → Tenant) : (s.setTenant t f).mgmt = s.mgmt := rfl
@[simp] theorem State.setTenant_host (s : State) (t : Nat) (f : Tenant → Tenant) : (s.setTenant t f).host = s.host := rfl
@[simp] theorem State.setTenant_test (s : State) (t : Nat) (f : Tenant → Tenant) : (s.setTenant t f).test = s.test := rfl
@[simp] theorem State.setTenant_plan (s : State) (t : Nat) (f : Tenant → Tenant) : (s.setTenant t f).plan = s.plan := rfl
@[simp] theorem State.setTenant_dyn (s : State) (t : Nat) (f : Tenant → Tenant) : (s.setTenant t f).dyn = s.dyn := rfl
@[simp] theorem State.setTenant_out (s : State) (t : Nat) (f : Tenant → Tenant) : (s.setTenant t f).out = s.out := rfl
@[simp] theorem State.setTenant_free (s : State) (t : Nat) (f : Tenant → Tenant) : (s.setTenant t f).free = s.free := rfl

@[simp] theorem State.setCmd_pending (s : State) (i : Nat) (f : Cmd → Cmd) : (s.setCmd i f).pending = s.pending := rfl
@[simp] theorem State.setCmd_build (s : State) (i : Nat) (f : Cmd → Cmd) : (s.setCmd i f).build = s.build := rfl
@[simp] theorem State.setCmd_fuses (s : State) (i : Nat) (f : Cmd → Cmd) : (s.setCmd i f).fuses = s.fuses := rfl
@[simp] theorem State.setCmd_regs (s : State) (i : Nat) (f : Cmd → Cmd) : (s.setCmd i f).regs = s.regs := rfl
@[simp] theorem State.setCmd_start (s : State) (i : Nat) (f : Cmd → Cmd) : (s.setCmd i f).start = s.start := rfl
@[simp] theorem State.setCmd_clk (s : State) (i : Nat) (f : Cmd → Cmd) : (s.setCmd i f).clk = s.clk := rfl
@[simp] theorem State.setCmd_rings (s : State) (i : Nat) (f : Cmd → Cmd) : (s.setCmd i f).rings = s.rings := rfl
@[simp] theorem State.setCmd_nextId (s : State) (i : Nat) (f : Cmd → Cmd) : (s.setCmd i f).nextId = s.nextId := rfl
@[simp] theorem State.setCmd_sched (s : State) (i : Nat) (f : Cmd → Cmd) : (s.setCmd i f).sched = s.sched := rfl
@[simp] theorem State.setCmd_streams (s : State) (i : Nat) (f : Cmd → Cmd) : (s.setCmd i f).streams = s.streams := rfl
@[simp] theorem State.setCmd_opens (s : State) (i : Nat) (f : Cmd → Cmd) : (s.setCmd i f).opens = s.opens := rfl
@[simp] theorem State.setCmd_recs (s : State) (i : Nat) (f : Cmd → Cmd) : (s.setCmd i f).recs = s.recs := rfl
@[simp] theorem State.setCmd_masks (s : State) (i : Nat) (f : Cmd → Cmd) : (s.setCmd i f).masks = s.masks := rfl
@[simp] theorem State.setCmd_port (s : State) (i : Nat) (f : Cmd → Cmd) : (s.setCmd i f).port = s.port := rfl
@[simp] theorem State.setCmd_images (s : State) (i : Nat) (f : Cmd → Cmd) : (s.setCmd i f).images = s.images := rfl
@[simp] theorem State.setCmd_banks (s : State) (i : Nat) (f : Cmd → Cmd) : (s.setCmd i f).banks = s.banks := rfl
@[simp] theorem State.setCmd_tenants (s : State) (i : Nat) (f : Cmd → Cmd) : (s.setCmd i f).tenants = s.tenants := rfl
@[simp] theorem State.setCmd_policies (s : State) (i : Nat) (f : Cmd → Cmd) : (s.setCmd i f).policies = s.policies := rfl
@[simp] theorem State.setCmd_cairns (s : State) (i : Nat) (f : Cmd → Cmd) : (s.setCmd i f).cairns = s.cairns := rfl
@[simp] theorem State.setCmd_stack (s : State) (i : Nat) (f : Cmd → Cmd) : (s.setCmd i f).stack = s.stack := rfl
@[simp] theorem State.setCmd_tokCache (s : State) (i : Nat) (f : Cmd → Cmd) : (s.setCmd i f).tokCache = s.tokCache := rfl
@[simp] theorem State.setCmd_gov (s : State) (i : Nat) (f : Cmd → Cmd) : (s.setCmd i f).gov = s.gov := rfl
@[simp] theorem State.setCmd_integ (s : State) (i : Nat) (f : Cmd → Cmd) : (s.setCmd i f).integ = s.integ := rfl
@[simp] theorem State.setCmd_range (s : State) (i : Nat) (f : Cmd → Cmd) : (s.setCmd i f).range = s.range := rfl
@[simp] theorem State.setCmd_persist (s : State) (i : Nat) (f : Cmd → Cmd) : (s.setCmd i f).persist = s.persist := rfl
@[simp] theorem State.setCmd_mgmt (s : State) (i : Nat) (f : Cmd → Cmd) : (s.setCmd i f).mgmt = s.mgmt := rfl
@[simp] theorem State.setCmd_host (s : State) (i : Nat) (f : Cmd → Cmd) : (s.setCmd i f).host = s.host := rfl
@[simp] theorem State.setCmd_test (s : State) (i : Nat) (f : Cmd → Cmd) : (s.setCmd i f).test = s.test := rfl
@[simp] theorem State.setCmd_plan (s : State) (i : Nat) (f : Cmd → Cmd) : (s.setCmd i f).plan = s.plan := rfl
@[simp] theorem State.setCmd_dyn (s : State) (i : Nat) (f : Cmd → Cmd) : (s.setCmd i f).dyn = s.dyn := rfl
@[simp] theorem State.setCmd_out (s : State) (i : Nat) (f : Cmd → Cmd) : (s.setCmd i f).out = s.out := rfl
@[simp] theorem State.setCmd_free (s : State) (i : Nat) (f : Cmd → Cmd) : (s.setCmd i f).free = s.free := rfl

@[simp] theorem State.keep_pending (s : State) (c : Cmd) (k : CmdK) : (s.keep c k).pending = s.pending := rfl
@[simp] theorem State.keep_build (s : State) (c : Cmd) (k : CmdK) : (s.keep c k).build = s.build := rfl
@[simp] theorem State.keep_fuses (s : State) (c : Cmd) (k : CmdK) : (s.keep c k).fuses = s.fuses := rfl
@[simp] theorem State.keep_regs (s : State) (c : Cmd) (k : CmdK) : (s.keep c k).regs = s.regs := rfl
@[simp] theorem State.keep_start (s : State) (c : Cmd) (k : CmdK) : (s.keep c k).start = s.start := rfl
@[simp] theorem State.keep_clk (s : State) (c : Cmd) (k : CmdK) : (s.keep c k).clk = s.clk := rfl
@[simp] theorem State.keep_rings (s : State) (c : Cmd) (k : CmdK) : (s.keep c k).rings = s.rings := rfl
@[simp] theorem State.keep_nextId (s : State) (c : Cmd) (k : CmdK) : (s.keep c k).nextId = s.nextId := rfl
@[simp] theorem State.keep_sched (s : State) (c : Cmd) (k : CmdK) : (s.keep c k).sched = s.sched := rfl
@[simp] theorem State.keep_streams (s : State) (c : Cmd) (k : CmdK) : (s.keep c k).streams = s.streams := rfl
@[simp] theorem State.keep_opens (s : State) (c : Cmd) (k : CmdK) : (s.keep c k).opens = s.opens := rfl
@[simp] theorem State.keep_recs (s : State) (c : Cmd) (k : CmdK) : (s.keep c k).recs = s.recs := rfl
@[simp] theorem State.keep_masks (s : State) (c : Cmd) (k : CmdK) : (s.keep c k).masks = s.masks := rfl
@[simp] theorem State.keep_port (s : State) (c : Cmd) (k : CmdK) : (s.keep c k).port = s.port := rfl
@[simp] theorem State.keep_images (s : State) (c : Cmd) (k : CmdK) : (s.keep c k).images = s.images := rfl
@[simp] theorem State.keep_banks (s : State) (c : Cmd) (k : CmdK) : (s.keep c k).banks = s.banks := rfl
@[simp] theorem State.keep_tenants (s : State) (c : Cmd) (k : CmdK) : (s.keep c k).tenants = s.tenants := rfl
@[simp] theorem State.keep_policies (s : State) (c : Cmd) (k : CmdK) : (s.keep c k).policies = s.policies := rfl
@[simp] theorem State.keep_cairns (s : State) (c : Cmd) (k : CmdK) : (s.keep c k).cairns = s.cairns := rfl
@[simp] theorem State.keep_stack (s : State) (c : Cmd) (k : CmdK) : (s.keep c k).stack = s.stack := rfl
@[simp] theorem State.keep_tokCache (s : State) (c : Cmd) (k : CmdK) : (s.keep c k).tokCache = s.tokCache := rfl
@[simp] theorem State.keep_gov (s : State) (c : Cmd) (k : CmdK) : (s.keep c k).gov = s.gov := rfl
@[simp] theorem State.keep_integ (s : State) (c : Cmd) (k : CmdK) : (s.keep c k).integ = s.integ := rfl
@[simp] theorem State.keep_range (s : State) (c : Cmd) (k : CmdK) : (s.keep c k).range = s.range := rfl
@[simp] theorem State.keep_persist (s : State) (c : Cmd) (k : CmdK) : (s.keep c k).persist = s.persist := rfl
@[simp] theorem State.keep_mgmt (s : State) (c : Cmd) (k : CmdK) : (s.keep c k).mgmt = s.mgmt := rfl
@[simp] theorem State.keep_host (s : State) (c : Cmd) (k : CmdK) : (s.keep c k).host = s.host := rfl
@[simp] theorem State.keep_test (s : State) (c : Cmd) (k : CmdK) : (s.keep c k).test = s.test := rfl
@[simp] theorem State.keep_plan (s : State) (c : Cmd) (k : CmdK) : (s.keep c k).plan = s.plan := rfl
@[simp] theorem State.keep_dyn (s : State) (c : Cmd) (k : CmdK) : (s.keep c k).dyn = s.dyn := rfl
@[simp] theorem State.keep_out (s : State) (c : Cmd) (k : CmdK) : (s.keep c k).out = s.out := rfl
@[simp] theorem State.keep_free (s : State) (c : Cmd) (k : CmdK) : (s.keep c k).free = s.free := rfl

@[simp] theorem State.setRec_pending (s : State) (i : Nat) (f : Rec → Rec) : (s.setRec i f).pending = s.pending := rfl
@[simp] theorem State.setRec_build (s : State) (i : Nat) (f : Rec → Rec) : (s.setRec i f).build = s.build := rfl
@[simp] theorem State.setRec_fuses (s : State) (i : Nat) (f : Rec → Rec) : (s.setRec i f).fuses = s.fuses := rfl
@[simp] theorem State.setRec_regs (s : State) (i : Nat) (f : Rec → Rec) : (s.setRec i f).regs = s.regs := rfl
@[simp] theorem State.setRec_start (s : State) (i : Nat) (f : Rec → Rec) : (s.setRec i f).start = s.start := rfl
@[simp] theorem State.setRec_clk (s : State) (i : Nat) (f : Rec → Rec) : (s.setRec i f).clk = s.clk := rfl
@[simp] theorem State.setRec_rings (s : State) (i : Nat) (f : Rec → Rec) : (s.setRec i f).rings = s.rings := rfl
@[simp] theorem State.setRec_cmds (s : State) (i : Nat) (f : Rec → Rec) : (s.setRec i f).cmds = s.cmds := rfl
@[simp] theorem State.setRec_nextId (s : State) (i : Nat) (f : Rec → Rec) : (s.setRec i f).nextId = s.nextId := rfl
@[simp] theorem State.setRec_sched (s : State) (i : Nat) (f : Rec → Rec) : (s.setRec i f).sched = s.sched := rfl
@[simp] theorem State.setRec_streams (s : State) (i : Nat) (f : Rec → Rec) : (s.setRec i f).streams = s.streams := rfl
@[simp] theorem State.setRec_opens (s : State) (i : Nat) (f : Rec → Rec) : (s.setRec i f).opens = s.opens := rfl
@[simp] theorem State.setRec_masks (s : State) (i : Nat) (f : Rec → Rec) : (s.setRec i f).masks = s.masks := rfl
@[simp] theorem State.setRec_port (s : State) (i : Nat) (f : Rec → Rec) : (s.setRec i f).port = s.port := rfl
@[simp] theorem State.setRec_images (s : State) (i : Nat) (f : Rec → Rec) : (s.setRec i f).images = s.images := rfl
@[simp] theorem State.setRec_banks (s : State) (i : Nat) (f : Rec → Rec) : (s.setRec i f).banks = s.banks := rfl
@[simp] theorem State.setRec_tenants (s : State) (i : Nat) (f : Rec → Rec) : (s.setRec i f).tenants = s.tenants := rfl
@[simp] theorem State.setRec_policies (s : State) (i : Nat) (f : Rec → Rec) : (s.setRec i f).policies = s.policies := rfl
@[simp] theorem State.setRec_cairns (s : State) (i : Nat) (f : Rec → Rec) : (s.setRec i f).cairns = s.cairns := rfl
@[simp] theorem State.setRec_stack (s : State) (i : Nat) (f : Rec → Rec) : (s.setRec i f).stack = s.stack := rfl
@[simp] theorem State.setRec_tokCache (s : State) (i : Nat) (f : Rec → Rec) : (s.setRec i f).tokCache = s.tokCache := rfl
@[simp] theorem State.setRec_gov (s : State) (i : Nat) (f : Rec → Rec) : (s.setRec i f).gov = s.gov := rfl
@[simp] theorem State.setRec_integ (s : State) (i : Nat) (f : Rec → Rec) : (s.setRec i f).integ = s.integ := rfl
@[simp] theorem State.setRec_range (s : State) (i : Nat) (f : Rec → Rec) : (s.setRec i f).range = s.range := rfl
@[simp] theorem State.setRec_persist (s : State) (i : Nat) (f : Rec → Rec) : (s.setRec i f).persist = s.persist := rfl
@[simp] theorem State.setRec_mgmt (s : State) (i : Nat) (f : Rec → Rec) : (s.setRec i f).mgmt = s.mgmt := rfl
@[simp] theorem State.setRec_host (s : State) (i : Nat) (f : Rec → Rec) : (s.setRec i f).host = s.host := rfl
@[simp] theorem State.setRec_test (s : State) (i : Nat) (f : Rec → Rec) : (s.setRec i f).test = s.test := rfl
@[simp] theorem State.setRec_plan (s : State) (i : Nat) (f : Rec → Rec) : (s.setRec i f).plan = s.plan := rfl
@[simp] theorem State.setRec_dyn (s : State) (i : Nat) (f : Rec → Rec) : (s.setRec i f).dyn = s.dyn := rfl
@[simp] theorem State.setRec_out (s : State) (i : Nat) (f : Rec → Rec) : (s.setRec i f).out = s.out := rfl
@[simp] theorem State.setRec_free (s : State) (i : Nat) (f : Rec → Rec) : (s.setRec i f).free = s.free := rfl

@[simp] theorem State.setMask_pending (s : State) (i : Nat) (f : MaskJ → MaskJ) : (s.setMask i f).pending = s.pending := rfl
@[simp] theorem State.setMask_build (s : State) (i : Nat) (f : MaskJ → MaskJ) : (s.setMask i f).build = s.build := rfl
@[simp] theorem State.setMask_fuses (s : State) (i : Nat) (f : MaskJ → MaskJ) : (s.setMask i f).fuses = s.fuses := rfl
@[simp] theorem State.setMask_regs (s : State) (i : Nat) (f : MaskJ → MaskJ) : (s.setMask i f).regs = s.regs := rfl
@[simp] theorem State.setMask_start (s : State) (i : Nat) (f : MaskJ → MaskJ) : (s.setMask i f).start = s.start := rfl
@[simp] theorem State.setMask_clk (s : State) (i : Nat) (f : MaskJ → MaskJ) : (s.setMask i f).clk = s.clk := rfl
@[simp] theorem State.setMask_rings (s : State) (i : Nat) (f : MaskJ → MaskJ) : (s.setMask i f).rings = s.rings := rfl
@[simp] theorem State.setMask_cmds (s : State) (i : Nat) (f : MaskJ → MaskJ) : (s.setMask i f).cmds = s.cmds := rfl
@[simp] theorem State.setMask_nextId (s : State) (i : Nat) (f : MaskJ → MaskJ) : (s.setMask i f).nextId = s.nextId := rfl
@[simp] theorem State.setMask_sched (s : State) (i : Nat) (f : MaskJ → MaskJ) : (s.setMask i f).sched = s.sched := rfl
@[simp] theorem State.setMask_streams (s : State) (i : Nat) (f : MaskJ → MaskJ) : (s.setMask i f).streams = s.streams := rfl
@[simp] theorem State.setMask_opens (s : State) (i : Nat) (f : MaskJ → MaskJ) : (s.setMask i f).opens = s.opens := rfl
@[simp] theorem State.setMask_recs (s : State) (i : Nat) (f : MaskJ → MaskJ) : (s.setMask i f).recs = s.recs := rfl
@[simp] theorem State.setMask_port (s : State) (i : Nat) (f : MaskJ → MaskJ) : (s.setMask i f).port = s.port := rfl
@[simp] theorem State.setMask_images (s : State) (i : Nat) (f : MaskJ → MaskJ) : (s.setMask i f).images = s.images := rfl
@[simp] theorem State.setMask_banks (s : State) (i : Nat) (f : MaskJ → MaskJ) : (s.setMask i f).banks = s.banks := rfl
@[simp] theorem State.setMask_tenants (s : State) (i : Nat) (f : MaskJ → MaskJ) : (s.setMask i f).tenants = s.tenants := rfl
@[simp] theorem State.setMask_policies (s : State) (i : Nat) (f : MaskJ → MaskJ) : (s.setMask i f).policies = s.policies := rfl
@[simp] theorem State.setMask_cairns (s : State) (i : Nat) (f : MaskJ → MaskJ) : (s.setMask i f).cairns = s.cairns := rfl
@[simp] theorem State.setMask_stack (s : State) (i : Nat) (f : MaskJ → MaskJ) : (s.setMask i f).stack = s.stack := rfl
@[simp] theorem State.setMask_tokCache (s : State) (i : Nat) (f : MaskJ → MaskJ) : (s.setMask i f).tokCache = s.tokCache := rfl
@[simp] theorem State.setMask_gov (s : State) (i : Nat) (f : MaskJ → MaskJ) : (s.setMask i f).gov = s.gov := rfl
@[simp] theorem State.setMask_integ (s : State) (i : Nat) (f : MaskJ → MaskJ) : (s.setMask i f).integ = s.integ := rfl
@[simp] theorem State.setMask_range (s : State) (i : Nat) (f : MaskJ → MaskJ) : (s.setMask i f).range = s.range := rfl
@[simp] theorem State.setMask_persist (s : State) (i : Nat) (f : MaskJ → MaskJ) : (s.setMask i f).persist = s.persist := rfl
@[simp] theorem State.setMask_mgmt (s : State) (i : Nat) (f : MaskJ → MaskJ) : (s.setMask i f).mgmt = s.mgmt := rfl
@[simp] theorem State.setMask_host (s : State) (i : Nat) (f : MaskJ → MaskJ) : (s.setMask i f).host = s.host := rfl
@[simp] theorem State.setMask_test (s : State) (i : Nat) (f : MaskJ → MaskJ) : (s.setMask i f).test = s.test := rfl
@[simp] theorem State.setMask_plan (s : State) (i : Nat) (f : MaskJ → MaskJ) : (s.setMask i f).plan = s.plan := rfl
@[simp] theorem State.setMask_dyn (s : State) (i : Nat) (f : MaskJ → MaskJ) : (s.setMask i f).dyn = s.dyn := rfl
@[simp] theorem State.setMask_out (s : State) (i : Nat) (f : MaskJ → MaskJ) : (s.setMask i f).out = s.out := rfl
@[simp] theorem State.setMask_free (s : State) (i : Nat) (f : MaskJ → MaskJ) : (s.setMask i f).free = s.free := rfl

@[simp] theorem State.setImg_pending (s : State) (k : Nat) (f : Img → Img) : (s.setImg k f).pending = s.pending := rfl
@[simp] theorem State.setImg_build (s : State) (k : Nat) (f : Img → Img) : (s.setImg k f).build = s.build := rfl
@[simp] theorem State.setImg_fuses (s : State) (k : Nat) (f : Img → Img) : (s.setImg k f).fuses = s.fuses := rfl
@[simp] theorem State.setImg_regs (s : State) (k : Nat) (f : Img → Img) : (s.setImg k f).regs = s.regs := rfl
@[simp] theorem State.setImg_start (s : State) (k : Nat) (f : Img → Img) : (s.setImg k f).start = s.start := rfl
@[simp] theorem State.setImg_clk (s : State) (k : Nat) (f : Img → Img) : (s.setImg k f).clk = s.clk := rfl
@[simp] theorem State.setImg_rings (s : State) (k : Nat) (f : Img → Img) : (s.setImg k f).rings = s.rings := rfl
@[simp] theorem State.setImg_cmds (s : State) (k : Nat) (f : Img → Img) : (s.setImg k f).cmds = s.cmds := rfl
@[simp] theorem State.setImg_nextId (s : State) (k : Nat) (f : Img → Img) : (s.setImg k f).nextId = s.nextId := rfl
@[simp] theorem State.setImg_sched (s : State) (k : Nat) (f : Img → Img) : (s.setImg k f).sched = s.sched := rfl
@[simp] theorem State.setImg_streams (s : State) (k : Nat) (f : Img → Img) : (s.setImg k f).streams = s.streams := rfl
@[simp] theorem State.setImg_opens (s : State) (k : Nat) (f : Img → Img) : (s.setImg k f).opens = s.opens := rfl
@[simp] theorem State.setImg_recs (s : State) (k : Nat) (f : Img → Img) : (s.setImg k f).recs = s.recs := rfl
@[simp] theorem State.setImg_masks (s : State) (k : Nat) (f : Img → Img) : (s.setImg k f).masks = s.masks := rfl
@[simp] theorem State.setImg_port (s : State) (k : Nat) (f : Img → Img) : (s.setImg k f).port = s.port := rfl
@[simp] theorem State.setImg_banks (s : State) (k : Nat) (f : Img → Img) : (s.setImg k f).banks = s.banks := rfl
@[simp] theorem State.setImg_tenants (s : State) (k : Nat) (f : Img → Img) : (s.setImg k f).tenants = s.tenants := rfl
@[simp] theorem State.setImg_policies (s : State) (k : Nat) (f : Img → Img) : (s.setImg k f).policies = s.policies := rfl
@[simp] theorem State.setImg_cairns (s : State) (k : Nat) (f : Img → Img) : (s.setImg k f).cairns = s.cairns := rfl
@[simp] theorem State.setImg_stack (s : State) (k : Nat) (f : Img → Img) : (s.setImg k f).stack = s.stack := rfl
@[simp] theorem State.setImg_tokCache (s : State) (k : Nat) (f : Img → Img) : (s.setImg k f).tokCache = s.tokCache := rfl
@[simp] theorem State.setImg_gov (s : State) (k : Nat) (f : Img → Img) : (s.setImg k f).gov = s.gov := rfl
@[simp] theorem State.setImg_integ (s : State) (k : Nat) (f : Img → Img) : (s.setImg k f).integ = s.integ := rfl
@[simp] theorem State.setImg_range (s : State) (k : Nat) (f : Img → Img) : (s.setImg k f).range = s.range := rfl
@[simp] theorem State.setImg_persist (s : State) (k : Nat) (f : Img → Img) : (s.setImg k f).persist = s.persist := rfl
@[simp] theorem State.setImg_mgmt (s : State) (k : Nat) (f : Img → Img) : (s.setImg k f).mgmt = s.mgmt := rfl
@[simp] theorem State.setImg_host (s : State) (k : Nat) (f : Img → Img) : (s.setImg k f).host = s.host := rfl
@[simp] theorem State.setImg_test (s : State) (k : Nat) (f : Img → Img) : (s.setImg k f).test = s.test := rfl
@[simp] theorem State.setImg_plan (s : State) (k : Nat) (f : Img → Img) : (s.setImg k f).plan = s.plan := rfl
@[simp] theorem State.setImg_dyn (s : State) (k : Nat) (f : Img → Img) : (s.setImg k f).dyn = s.dyn := rfl
@[simp] theorem State.setImg_out (s : State) (k : Nat) (f : Img → Img) : (s.setImg k f).out = s.out := rfl
@[simp] theorem State.setImg_free (s : State) (k : Nat) (f : Img → Img) : (s.setImg k f).free = s.free := rfl

@[simp] theorem State.setChan_pending (s : State) (c : Nat) (f : Chan → Chan) : (s.setChan c f).pending = s.pending := rfl
@[simp] theorem State.setChan_build (s : State) (c : Nat) (f : Chan → Chan) : (s.setChan c f).build = s.build := rfl
@[simp] theorem State.setChan_fuses (s : State) (c : Nat) (f : Chan → Chan) : (s.setChan c f).fuses = s.fuses := rfl
@[simp] theorem State.setChan_regs (s : State) (c : Nat) (f : Chan → Chan) : (s.setChan c f).regs = s.regs := rfl
@[simp] theorem State.setChan_start (s : State) (c : Nat) (f : Chan → Chan) : (s.setChan c f).start = s.start := rfl
@[simp] theorem State.setChan_clk (s : State) (c : Nat) (f : Chan → Chan) : (s.setChan c f).clk = s.clk := rfl
@[simp] theorem State.setChan_rings (s : State) (c : Nat) (f : Chan → Chan) : (s.setChan c f).rings = s.rings := rfl
@[simp] theorem State.setChan_cmds (s : State) (c : Nat) (f : Chan → Chan) : (s.setChan c f).cmds = s.cmds := rfl
@[simp] theorem State.setChan_nextId (s : State) (c : Nat) (f : Chan → Chan) : (s.setChan c f).nextId = s.nextId := rfl
@[simp] theorem State.setChan_sched (s : State) (c : Nat) (f : Chan → Chan) : (s.setChan c f).sched = s.sched := rfl
@[simp] theorem State.setChan_streams (s : State) (c : Nat) (f : Chan → Chan) : (s.setChan c f).streams = s.streams := rfl
@[simp] theorem State.setChan_opens (s : State) (c : Nat) (f : Chan → Chan) : (s.setChan c f).opens = s.opens := rfl
@[simp] theorem State.setChan_recs (s : State) (c : Nat) (f : Chan → Chan) : (s.setChan c f).recs = s.recs := rfl
@[simp] theorem State.setChan_masks (s : State) (c : Nat) (f : Chan → Chan) : (s.setChan c f).masks = s.masks := rfl
@[simp] theorem State.setChan_port (s : State) (c : Nat) (f : Chan → Chan) : (s.setChan c f).port = s.port := rfl
@[simp] theorem State.setChan_images (s : State) (c : Nat) (f : Chan → Chan) : (s.setChan c f).images = s.images := rfl
@[simp] theorem State.setChan_banks (s : State) (c : Nat) (f : Chan → Chan) : (s.setChan c f).banks = s.banks := rfl
@[simp] theorem State.setChan_tenants (s : State) (c : Nat) (f : Chan → Chan) : (s.setChan c f).tenants = s.tenants := rfl
@[simp] theorem State.setChan_policies (s : State) (c : Nat) (f : Chan → Chan) : (s.setChan c f).policies = s.policies := rfl
@[simp] theorem State.setChan_cairns (s : State) (c : Nat) (f : Chan → Chan) : (s.setChan c f).cairns = s.cairns := rfl
@[simp] theorem State.setChan_tokCache (s : State) (c : Nat) (f : Chan → Chan) : (s.setChan c f).tokCache = s.tokCache := rfl
@[simp] theorem State.setChan_gov (s : State) (c : Nat) (f : Chan → Chan) : (s.setChan c f).gov = s.gov := rfl
@[simp] theorem State.setChan_integ (s : State) (c : Nat) (f : Chan → Chan) : (s.setChan c f).integ = s.integ := rfl
@[simp] theorem State.setChan_range (s : State) (c : Nat) (f : Chan → Chan) : (s.setChan c f).range = s.range := rfl
@[simp] theorem State.setChan_persist (s : State) (c : Nat) (f : Chan → Chan) : (s.setChan c f).persist = s.persist := rfl
@[simp] theorem State.setChan_mgmt (s : State) (c : Nat) (f : Chan → Chan) : (s.setChan c f).mgmt = s.mgmt := rfl
@[simp] theorem State.setChan_host (s : State) (c : Nat) (f : Chan → Chan) : (s.setChan c f).host = s.host := rfl
@[simp] theorem State.setChan_test (s : State) (c : Nat) (f : Chan → Chan) : (s.setChan c f).test = s.test := rfl
@[simp] theorem State.setChan_plan (s : State) (c : Nat) (f : Chan → Chan) : (s.setChan c f).plan = s.plan := rfl
@[simp] theorem State.setChan_dyn (s : State) (c : Nat) (f : Chan → Chan) : (s.setChan c f).dyn = s.dyn := rfl
@[simp] theorem State.setChan_out (s : State) (c : Nat) (f : Chan → Chan) : (s.setChan c f).out = s.out := rfl
@[simp] theorem State.setChan_free (s : State) (c : Nat) (f : Chan → Chan) : (s.setChan c f).free = s.free := rfl

@[simp] theorem State.setBank_pending (s : State) (k : Nat) (f : Bank → Bank) : (s.setBank k f).pending = s.pending := rfl
@[simp] theorem State.setBank_build (s : State) (k : Nat) (f : Bank → Bank) : (s.setBank k f).build = s.build := rfl
@[simp] theorem State.setBank_fuses (s : State) (k : Nat) (f : Bank → Bank) : (s.setBank k f).fuses = s.fuses := rfl
@[simp] theorem State.setBank_regs (s : State) (k : Nat) (f : Bank → Bank) : (s.setBank k f).regs = s.regs := rfl
@[simp] theorem State.setBank_start (s : State) (k : Nat) (f : Bank → Bank) : (s.setBank k f).start = s.start := rfl
@[simp] theorem State.setBank_clk (s : State) (k : Nat) (f : Bank → Bank) : (s.setBank k f).clk = s.clk := rfl
@[simp] theorem State.setBank_rings (s : State) (k : Nat) (f : Bank → Bank) : (s.setBank k f).rings = s.rings := rfl
@[simp] theorem State.setBank_cmds (s : State) (k : Nat) (f : Bank → Bank) : (s.setBank k f).cmds = s.cmds := rfl
@[simp] theorem State.setBank_nextId (s : State) (k : Nat) (f : Bank → Bank) : (s.setBank k f).nextId = s.nextId := rfl
@[simp] theorem State.setBank_sched (s : State) (k : Nat) (f : Bank → Bank) : (s.setBank k f).sched = s.sched := rfl
@[simp] theorem State.setBank_streams (s : State) (k : Nat) (f : Bank → Bank) : (s.setBank k f).streams = s.streams := rfl
@[simp] theorem State.setBank_opens (s : State) (k : Nat) (f : Bank → Bank) : (s.setBank k f).opens = s.opens := rfl
@[simp] theorem State.setBank_recs (s : State) (k : Nat) (f : Bank → Bank) : (s.setBank k f).recs = s.recs := rfl
@[simp] theorem State.setBank_masks (s : State) (k : Nat) (f : Bank → Bank) : (s.setBank k f).masks = s.masks := rfl
@[simp] theorem State.setBank_port (s : State) (k : Nat) (f : Bank → Bank) : (s.setBank k f).port = s.port := rfl
@[simp] theorem State.setBank_images (s : State) (k : Nat) (f : Bank → Bank) : (s.setBank k f).images = s.images := rfl
@[simp] theorem State.setBank_tenants (s : State) (k : Nat) (f : Bank → Bank) : (s.setBank k f).tenants = s.tenants := rfl
@[simp] theorem State.setBank_policies (s : State) (k : Nat) (f : Bank → Bank) : (s.setBank k f).policies = s.policies := rfl
@[simp] theorem State.setBank_cairns (s : State) (k : Nat) (f : Bank → Bank) : (s.setBank k f).cairns = s.cairns := rfl
@[simp] theorem State.setBank_stack (s : State) (k : Nat) (f : Bank → Bank) : (s.setBank k f).stack = s.stack := rfl
@[simp] theorem State.setBank_tokCache (s : State) (k : Nat) (f : Bank → Bank) : (s.setBank k f).tokCache = s.tokCache := rfl
@[simp] theorem State.setBank_gov (s : State) (k : Nat) (f : Bank → Bank) : (s.setBank k f).gov = s.gov := rfl
@[simp] theorem State.setBank_integ (s : State) (k : Nat) (f : Bank → Bank) : (s.setBank k f).integ = s.integ := rfl
@[simp] theorem State.setBank_range (s : State) (k : Nat) (f : Bank → Bank) : (s.setBank k f).range = s.range := rfl
@[simp] theorem State.setBank_persist (s : State) (k : Nat) (f : Bank → Bank) : (s.setBank k f).persist = s.persist := rfl
@[simp] theorem State.setBank_mgmt (s : State) (k : Nat) (f : Bank → Bank) : (s.setBank k f).mgmt = s.mgmt := rfl
@[simp] theorem State.setBank_host (s : State) (k : Nat) (f : Bank → Bank) : (s.setBank k f).host = s.host := rfl
@[simp] theorem State.setBank_test (s : State) (k : Nat) (f : Bank → Bank) : (s.setBank k f).test = s.test := rfl
@[simp] theorem State.setBank_plan (s : State) (k : Nat) (f : Bank → Bank) : (s.setBank k f).plan = s.plan := rfl
@[simp] theorem State.setBank_dyn (s : State) (k : Nat) (f : Bank → Bank) : (s.setBank k f).dyn = s.dyn := rfl
@[simp] theorem State.setBank_out (s : State) (k : Nat) (f : Bank → Bank) : (s.setBank k f).out = s.out := rfl
@[simp] theorem State.setBank_free (s : State) (k : Nat) (f : Bank → Bank) : (s.setBank k f).free = s.free := rfl

@[simp] theorem State.post_pending (s : State) (k : Nat) (c : Cpl) : (s.post k c).pending = s.pending := rfl
@[simp] theorem State.post_build (s : State) (k : Nat) (c : Cpl) : (s.post k c).build = s.build := rfl
@[simp] theorem State.post_fuses (s : State) (k : Nat) (c : Cpl) : (s.post k c).fuses = s.fuses := rfl
@[simp] theorem State.post_regs (s : State) (k : Nat) (c : Cpl) : (s.post k c).regs = s.regs := rfl
@[simp] theorem State.post_start (s : State) (k : Nat) (c : Cpl) : (s.post k c).start = s.start := rfl
@[simp] theorem State.post_clk (s : State) (k : Nat) (c : Cpl) : (s.post k c).clk = s.clk := rfl
@[simp] theorem State.post_cmds (s : State) (k : Nat) (c : Cpl) : (s.post k c).cmds = s.cmds := rfl
@[simp] theorem State.post_nextId (s : State) (k : Nat) (c : Cpl) : (s.post k c).nextId = s.nextId := rfl
@[simp] theorem State.post_sched (s : State) (k : Nat) (c : Cpl) : (s.post k c).sched = s.sched := rfl
@[simp] theorem State.post_streams (s : State) (k : Nat) (c : Cpl) : (s.post k c).streams = s.streams := rfl
@[simp] theorem State.post_opens (s : State) (k : Nat) (c : Cpl) : (s.post k c).opens = s.opens := rfl
@[simp] theorem State.post_recs (s : State) (k : Nat) (c : Cpl) : (s.post k c).recs = s.recs := rfl
@[simp] theorem State.post_masks (s : State) (k : Nat) (c : Cpl) : (s.post k c).masks = s.masks := rfl
@[simp] theorem State.post_port (s : State) (k : Nat) (c : Cpl) : (s.post k c).port = s.port := rfl
@[simp] theorem State.post_images (s : State) (k : Nat) (c : Cpl) : (s.post k c).images = s.images := rfl
@[simp] theorem State.post_banks (s : State) (k : Nat) (c : Cpl) : (s.post k c).banks = s.banks := rfl
@[simp] theorem State.post_tenants (s : State) (k : Nat) (c : Cpl) : (s.post k c).tenants = s.tenants := rfl
@[simp] theorem State.post_policies (s : State) (k : Nat) (c : Cpl) : (s.post k c).policies = s.policies := rfl
@[simp] theorem State.post_cairns (s : State) (k : Nat) (c : Cpl) : (s.post k c).cairns = s.cairns := rfl
@[simp] theorem State.post_stack (s : State) (k : Nat) (c : Cpl) : (s.post k c).stack = s.stack := rfl
@[simp] theorem State.post_tokCache (s : State) (k : Nat) (c : Cpl) : (s.post k c).tokCache = s.tokCache := rfl
@[simp] theorem State.post_gov (s : State) (k : Nat) (c : Cpl) : (s.post k c).gov = s.gov := rfl
@[simp] theorem State.post_integ (s : State) (k : Nat) (c : Cpl) : (s.post k c).integ = s.integ := rfl
@[simp] theorem State.post_range (s : State) (k : Nat) (c : Cpl) : (s.post k c).range = s.range := rfl
@[simp] theorem State.post_persist (s : State) (k : Nat) (c : Cpl) : (s.post k c).persist = s.persist := rfl
@[simp] theorem State.post_mgmt (s : State) (k : Nat) (c : Cpl) : (s.post k c).mgmt = s.mgmt := rfl
@[simp] theorem State.post_host (s : State) (k : Nat) (c : Cpl) : (s.post k c).host = s.host := rfl
@[simp] theorem State.post_test (s : State) (k : Nat) (c : Cpl) : (s.post k c).test = s.test := rfl
@[simp] theorem State.post_plan (s : State) (k : Nat) (c : Cpl) : (s.post k c).plan = s.plan := rfl
@[simp] theorem State.post_dyn (s : State) (k : Nat) (c : Cpl) : (s.post k c).dyn = s.dyn := rfl
@[simp] theorem State.post_out (s : State) (k : Nat) (c : Cpl) : (s.post k c).out = s.out := rfl
@[simp] theorem State.post_free (s : State) (k : Nat) (c : Cpl) : (s.post k c).free = s.free := rfl

@[simp] theorem State.fault_pending (s : State) (i : Nat) : (s.fault i).pending = s.pending := rfl
@[simp] theorem State.fault_build (s : State) (i : Nat) : (s.fault i).build = s.build := rfl
@[simp] theorem State.fault_fuses (s : State) (i : Nat) : (s.fault i).fuses = s.fuses := rfl
@[simp] theorem State.fault_regs (s : State) (i : Nat) : (s.fault i).regs = s.regs := rfl
@[simp] theorem State.fault_start (s : State) (i : Nat) : (s.fault i).start = s.start := rfl
@[simp] theorem State.fault_clk (s : State) (i : Nat) : (s.fault i).clk = s.clk := rfl
@[simp] theorem State.fault_rings (s : State) (i : Nat) : (s.fault i).rings = s.rings := rfl
@[simp] theorem State.fault_cmds (s : State) (i : Nat) : (s.fault i).cmds = s.cmds := rfl
@[simp] theorem State.fault_nextId (s : State) (i : Nat) : (s.fault i).nextId = s.nextId := rfl
@[simp] theorem State.fault_sched (s : State) (i : Nat) : (s.fault i).sched = s.sched := rfl
@[simp] theorem State.fault_streams (s : State) (i : Nat) : (s.fault i).streams = s.streams := rfl
@[simp] theorem State.fault_opens (s : State) (i : Nat) : (s.fault i).opens = s.opens := rfl
@[simp] theorem State.fault_recs (s : State) (i : Nat) : (s.fault i).recs = s.recs := rfl
@[simp] theorem State.fault_masks (s : State) (i : Nat) : (s.fault i).masks = s.masks := rfl
@[simp] theorem State.fault_port (s : State) (i : Nat) : (s.fault i).port = s.port := rfl
@[simp] theorem State.fault_images (s : State) (i : Nat) : (s.fault i).images = s.images := rfl
@[simp] theorem State.fault_banks (s : State) (i : Nat) : (s.fault i).banks = s.banks := rfl
@[simp] theorem State.fault_tenants (s : State) (i : Nat) : (s.fault i).tenants = s.tenants := rfl
@[simp] theorem State.fault_policies (s : State) (i : Nat) : (s.fault i).policies = s.policies := rfl
@[simp] theorem State.fault_cairns (s : State) (i : Nat) : (s.fault i).cairns = s.cairns := rfl
@[simp] theorem State.fault_stack (s : State) (i : Nat) : (s.fault i).stack = s.stack := rfl
@[simp] theorem State.fault_tokCache (s : State) (i : Nat) : (s.fault i).tokCache = s.tokCache := rfl
@[simp] theorem State.fault_gov (s : State) (i : Nat) : (s.fault i).gov = s.gov := rfl
@[simp] theorem State.fault_range (s : State) (i : Nat) : (s.fault i).range = s.range := rfl
@[simp] theorem State.fault_persist (s : State) (i : Nat) : (s.fault i).persist = s.persist := rfl
@[simp] theorem State.fault_mgmt (s : State) (i : Nat) : (s.fault i).mgmt = s.mgmt := rfl
@[simp] theorem State.fault_host (s : State) (i : Nat) : (s.fault i).host = s.host := rfl
@[simp] theorem State.fault_test (s : State) (i : Nat) : (s.fault i).test = s.test := rfl
@[simp] theorem State.fault_plan (s : State) (i : Nat) : (s.fault i).plan = s.plan := rfl
@[simp] theorem State.fault_dyn (s : State) (i : Nat) : (s.fault i).dyn = s.dyn := rfl
@[simp] theorem State.fault_out (s : State) (i : Nat) : (s.fault i).out = s.out := rfl
@[simp] theorem State.fault_free (s : State) (i : Nat) : (s.fault i).free = s.free := rfl

@[simp] theorem State.setRegs_pending (s : State) (f : RegS → RegS) : (s.setRegs f).pending = s.pending := rfl
@[simp] theorem State.setRegs_build (s : State) (f : RegS → RegS) : (s.setRegs f).build = s.build := rfl
@[simp] theorem State.setRegs_fuses (s : State) (f : RegS → RegS) : (s.setRegs f).fuses = s.fuses := rfl
@[simp] theorem State.setRegs_start (s : State) (f : RegS → RegS) : (s.setRegs f).start = s.start := rfl
@[simp] theorem State.setRegs_clk (s : State) (f : RegS → RegS) : (s.setRegs f).clk = s.clk := rfl
@[simp] theorem State.setRegs_rings (s : State) (f : RegS → RegS) : (s.setRegs f).rings = s.rings := rfl
@[simp] theorem State.setRegs_cmds (s : State) (f : RegS → RegS) : (s.setRegs f).cmds = s.cmds := rfl
@[simp] theorem State.setRegs_nextId (s : State) (f : RegS → RegS) : (s.setRegs f).nextId = s.nextId := rfl
@[simp] theorem State.setRegs_sched (s : State) (f : RegS → RegS) : (s.setRegs f).sched = s.sched := rfl
@[simp] theorem State.setRegs_streams (s : State) (f : RegS → RegS) : (s.setRegs f).streams = s.streams := rfl
@[simp] theorem State.setRegs_opens (s : State) (f : RegS → RegS) : (s.setRegs f).opens = s.opens := rfl
@[simp] theorem State.setRegs_recs (s : State) (f : RegS → RegS) : (s.setRegs f).recs = s.recs := rfl
@[simp] theorem State.setRegs_masks (s : State) (f : RegS → RegS) : (s.setRegs f).masks = s.masks := rfl
@[simp] theorem State.setRegs_port (s : State) (f : RegS → RegS) : (s.setRegs f).port = s.port := rfl
@[simp] theorem State.setRegs_images (s : State) (f : RegS → RegS) : (s.setRegs f).images = s.images := rfl
@[simp] theorem State.setRegs_banks (s : State) (f : RegS → RegS) : (s.setRegs f).banks = s.banks := rfl
@[simp] theorem State.setRegs_tenants (s : State) (f : RegS → RegS) : (s.setRegs f).tenants = s.tenants := rfl
@[simp] theorem State.setRegs_policies (s : State) (f : RegS → RegS) : (s.setRegs f).policies = s.policies := rfl
@[simp] theorem State.setRegs_cairns (s : State) (f : RegS → RegS) : (s.setRegs f).cairns = s.cairns := rfl
@[simp] theorem State.setRegs_stack (s : State) (f : RegS → RegS) : (s.setRegs f).stack = s.stack := rfl
@[simp] theorem State.setRegs_tokCache (s : State) (f : RegS → RegS) : (s.setRegs f).tokCache = s.tokCache := rfl
@[simp] theorem State.setRegs_gov (s : State) (f : RegS → RegS) : (s.setRegs f).gov = s.gov := rfl
@[simp] theorem State.setRegs_integ (s : State) (f : RegS → RegS) : (s.setRegs f).integ = s.integ := rfl
@[simp] theorem State.setRegs_range (s : State) (f : RegS → RegS) : (s.setRegs f).range = s.range := rfl
@[simp] theorem State.setRegs_persist (s : State) (f : RegS → RegS) : (s.setRegs f).persist = s.persist := rfl
@[simp] theorem State.setRegs_mgmt (s : State) (f : RegS → RegS) : (s.setRegs f).mgmt = s.mgmt := rfl
@[simp] theorem State.setRegs_host (s : State) (f : RegS → RegS) : (s.setRegs f).host = s.host := rfl
@[simp] theorem State.setRegs_test (s : State) (f : RegS → RegS) : (s.setRegs f).test = s.test := rfl
@[simp] theorem State.setRegs_plan (s : State) (f : RegS → RegS) : (s.setRegs f).plan = s.plan := rfl
@[simp] theorem State.setRegs_dyn (s : State) (f : RegS → RegS) : (s.setRegs f).dyn = s.dyn := rfl
@[simp] theorem State.setRegs_out (s : State) (f : RegS → RegS) : (s.setRegs f).out = s.out := rfl
@[simp] theorem State.setRegs_free (s : State) (f : RegS → RegS) : (s.setRegs f).free = s.free := rfl

@[simp] theorem State.setTest_pending (s : State) (f : TestS → TestS) : (s.setTest f).pending = s.pending := rfl
@[simp] theorem State.setTest_build (s : State) (f : TestS → TestS) : (s.setTest f).build = s.build := rfl
@[simp] theorem State.setTest_fuses (s : State) (f : TestS → TestS) : (s.setTest f).fuses = s.fuses := rfl
@[simp] theorem State.setTest_regs (s : State) (f : TestS → TestS) : (s.setTest f).regs = s.regs := rfl
@[simp] theorem State.setTest_start (s : State) (f : TestS → TestS) : (s.setTest f).start = s.start := rfl
@[simp] theorem State.setTest_clk (s : State) (f : TestS → TestS) : (s.setTest f).clk = s.clk := rfl
@[simp] theorem State.setTest_rings (s : State) (f : TestS → TestS) : (s.setTest f).rings = s.rings := rfl
@[simp] theorem State.setTest_cmds (s : State) (f : TestS → TestS) : (s.setTest f).cmds = s.cmds := rfl
@[simp] theorem State.setTest_nextId (s : State) (f : TestS → TestS) : (s.setTest f).nextId = s.nextId := rfl
@[simp] theorem State.setTest_sched (s : State) (f : TestS → TestS) : (s.setTest f).sched = s.sched := rfl
@[simp] theorem State.setTest_streams (s : State) (f : TestS → TestS) : (s.setTest f).streams = s.streams := rfl
@[simp] theorem State.setTest_opens (s : State) (f : TestS → TestS) : (s.setTest f).opens = s.opens := rfl
@[simp] theorem State.setTest_recs (s : State) (f : TestS → TestS) : (s.setTest f).recs = s.recs := rfl
@[simp] theorem State.setTest_masks (s : State) (f : TestS → TestS) : (s.setTest f).masks = s.masks := rfl
@[simp] theorem State.setTest_port (s : State) (f : TestS → TestS) : (s.setTest f).port = s.port := rfl
@[simp] theorem State.setTest_images (s : State) (f : TestS → TestS) : (s.setTest f).images = s.images := rfl
@[simp] theorem State.setTest_banks (s : State) (f : TestS → TestS) : (s.setTest f).banks = s.banks := rfl
@[simp] theorem State.setTest_tenants (s : State) (f : TestS → TestS) : (s.setTest f).tenants = s.tenants := rfl
@[simp] theorem State.setTest_policies (s : State) (f : TestS → TestS) : (s.setTest f).policies = s.policies := rfl
@[simp] theorem State.setTest_cairns (s : State) (f : TestS → TestS) : (s.setTest f).cairns = s.cairns := rfl
@[simp] theorem State.setTest_stack (s : State) (f : TestS → TestS) : (s.setTest f).stack = s.stack := rfl
@[simp] theorem State.setTest_tokCache (s : State) (f : TestS → TestS) : (s.setTest f).tokCache = s.tokCache := rfl
@[simp] theorem State.setTest_gov (s : State) (f : TestS → TestS) : (s.setTest f).gov = s.gov := rfl
@[simp] theorem State.setTest_integ (s : State) (f : TestS → TestS) : (s.setTest f).integ = s.integ := rfl
@[simp] theorem State.setTest_range (s : State) (f : TestS → TestS) : (s.setTest f).range = s.range := rfl
@[simp] theorem State.setTest_persist (s : State) (f : TestS → TestS) : (s.setTest f).persist = s.persist := rfl
@[simp] theorem State.setTest_mgmt (s : State) (f : TestS → TestS) : (s.setTest f).mgmt = s.mgmt := rfl
@[simp] theorem State.setTest_host (s : State) (f : TestS → TestS) : (s.setTest f).host = s.host := rfl
@[simp] theorem State.setTest_out (s : State) (f : TestS → TestS) : (s.setTest f).out = s.out := rfl
@[simp] theorem State.setTest_free (s : State) (f : TestS → TestS) : (s.setTest f).free = s.free := rfl

@[simp] theorem State.setStream_front (s : State) (h : Nat) (f : Stream → Stream) : ({ s.setStream h f with streams := s.streams } : State) = s := by
  unfold State.setStream; split <;> rfl
@[simp] theorem State.setStream_pending (s : State) (h : Nat) (f : Stream → Stream) : (s.setStream h f).pending = s.pending := by unfold State.setStream; split <;> rfl
@[simp] theorem State.setStream_build (s : State) (h : Nat) (f : Stream → Stream) : (s.setStream h f).build = s.build := by unfold State.setStream; split <;> rfl
@[simp] theorem State.setStream_fuses (s : State) (h : Nat) (f : Stream → Stream) : (s.setStream h f).fuses = s.fuses := by unfold State.setStream; split <;> rfl
@[simp] theorem State.setStream_regs (s : State) (h : Nat) (f : Stream → Stream) : (s.setStream h f).regs = s.regs := by unfold State.setStream; split <;> rfl
@[simp] theorem State.setStream_start (s : State) (h : Nat) (f : Stream → Stream) : (s.setStream h f).start = s.start := by unfold State.setStream; split <;> rfl
@[simp] theorem State.setStream_clk (s : State) (h : Nat) (f : Stream → Stream) : (s.setStream h f).clk = s.clk := by unfold State.setStream; split <;> rfl
@[simp] theorem State.setStream_rings (s : State) (h : Nat) (f : Stream → Stream) : (s.setStream h f).rings = s.rings := by unfold State.setStream; split <;> rfl
@[simp] theorem State.setStream_cmds (s : State) (h : Nat) (f : Stream → Stream) : (s.setStream h f).cmds = s.cmds := by unfold State.setStream; split <;> rfl
@[simp] theorem State.setStream_nextId (s : State) (h : Nat) (f : Stream → Stream) : (s.setStream h f).nextId = s.nextId := by unfold State.setStream; split <;> rfl
@[simp] theorem State.setStream_sched (s : State) (h : Nat) (f : Stream → Stream) : (s.setStream h f).sched = s.sched := by unfold State.setStream; split <;> rfl
@[simp] theorem State.setStream_opens (s : State) (h : Nat) (f : Stream → Stream) : (s.setStream h f).opens = s.opens := by unfold State.setStream; split <;> rfl
@[simp] theorem State.setStream_recs (s : State) (h : Nat) (f : Stream → Stream) : (s.setStream h f).recs = s.recs := by unfold State.setStream; split <;> rfl
@[simp] theorem State.setStream_masks (s : State) (h : Nat) (f : Stream → Stream) : (s.setStream h f).masks = s.masks := by unfold State.setStream; split <;> rfl
@[simp] theorem State.setStream_port (s : State) (h : Nat) (f : Stream → Stream) : (s.setStream h f).port = s.port := by unfold State.setStream; split <;> rfl
@[simp] theorem State.setStream_images (s : State) (h : Nat) (f : Stream → Stream) : (s.setStream h f).images = s.images := by unfold State.setStream; split <;> rfl
@[simp] theorem State.setStream_banks (s : State) (h : Nat) (f : Stream → Stream) : (s.setStream h f).banks = s.banks := by unfold State.setStream; split <;> rfl
@[simp] theorem State.setStream_tenants (s : State) (h : Nat) (f : Stream → Stream) : (s.setStream h f).tenants = s.tenants := by unfold State.setStream; split <;> rfl
@[simp] theorem State.setStream_policies (s : State) (h : Nat) (f : Stream → Stream) : (s.setStream h f).policies = s.policies := by unfold State.setStream; split <;> rfl
@[simp] theorem State.setStream_cairns (s : State) (h : Nat) (f : Stream → Stream) : (s.setStream h f).cairns = s.cairns := by unfold State.setStream; split <;> rfl
@[simp] theorem State.setStream_stack (s : State) (h : Nat) (f : Stream → Stream) : (s.setStream h f).stack = s.stack := by unfold State.setStream; split <;> rfl
@[simp] theorem State.setStream_tokCache (s : State) (h : Nat) (f : Stream → Stream) : (s.setStream h f).tokCache = s.tokCache := by unfold State.setStream; split <;> rfl
@[simp] theorem State.setStream_gov (s : State) (h : Nat) (f : Stream → Stream) : (s.setStream h f).gov = s.gov := by unfold State.setStream; split <;> rfl
@[simp] theorem State.setStream_integ (s : State) (h : Nat) (f : Stream → Stream) : (s.setStream h f).integ = s.integ := by unfold State.setStream; split <;> rfl
@[simp] theorem State.setStream_range (s : State) (h : Nat) (f : Stream → Stream) : (s.setStream h f).range = s.range := by unfold State.setStream; split <;> rfl
@[simp] theorem State.setStream_persist (s : State) (h : Nat) (f : Stream → Stream) : (s.setStream h f).persist = s.persist := by unfold State.setStream; split <;> rfl
@[simp] theorem State.setStream_mgmt (s : State) (h : Nat) (f : Stream → Stream) : (s.setStream h f).mgmt = s.mgmt := by unfold State.setStream; split <;> rfl
@[simp] theorem State.setStream_host (s : State) (h : Nat) (f : Stream → Stream) : (s.setStream h f).host = s.host := by unfold State.setStream; split <;> rfl
@[simp] theorem State.setStream_test (s : State) (h : Nat) (f : Stream → Stream) : (s.setStream h f).test = s.test := by unfold State.setStream; split <;> rfl
@[simp] theorem State.setStream_plan (s : State) (h : Nat) (f : Stream → Stream) : (s.setStream h f).plan = s.plan := by unfold State.setStream; split <;> rfl
@[simp] theorem State.setStream_dyn (s : State) (h : Nat) (f : Stream → Stream) : (s.setStream h f).dyn = s.dyn := by unfold State.setStream; split <;> rfl
@[simp] theorem State.setStream_out (s : State) (h : Nat) (f : Stream → Stream) : (s.setStream h f).out = s.out := by unfold State.setStream; split <;> rfl
@[simp] theorem State.setStream_free (s : State) (h : Nat) (f : Stream → Stream) : (s.setStream h f).free = s.free := by unfold State.setStream; split <;> rfl

@[simp] theorem State.count_persist (s : State) (i n : Nat) : (s.count i n).persist = s.persist := rfl
@[simp] theorem State.count_out (s : State) (i n : Nat) : (s.count i n).out = s.out := rfl
@[simp] theorem State.count_free (s : State) (i n : Nat) : (s.count i n).free = s.free := rfl
@[simp] theorem State.count_host (s : State) (i n : Nat) : (s.count i n).host = s.host := rfl

@[simp] theorem State.emit_persist (s : State) (o : Out) : (s.emit o).persist = s.persist := rfl
@[simp] theorem State.emit_mgmt (s : State) (o : Out) : (s.emit o).mgmt = s.mgmt := rfl
@[simp] theorem State.emit_free (s : State) (o : Out) : (s.emit o).free = s.free := rfl
@[simp] theorem State.emit_host (s : State) (o : Out) : (s.emit o).host = s.host := rfl

@[simp] theorem State.raise_persist (s : State) (i : Nat) : (s.raise i).persist = s.persist := rfl
@[simp] theorem State.raise_out (s : State) (i : Nat) : (s.raise i).out = s.out := rfl
@[simp] theorem State.raise_mgmt (s : State) (i : Nat) : (s.raise i).mgmt = s.mgmt := rfl
@[simp] theorem State.raise_free (s : State) (i : Nat) : (s.raise i).free = s.free := rfl
@[simp] theorem State.trace_persist (s : State) (e v t l o p st : Nat) (d : W64) : (s.trace e v t l o p st d).persist = s.persist := by
  unfold State.trace; split <;> (try split) <;> rfl
@[simp] theorem State.ev_persist (s : State) (e v st : Nat) (d : List (Nat × Nat)) : (s.ev e v st d).persist = s.persist := by simp [State.ev]
@[simp] theorem State.trace_host (s : State) (e v t l o p st : Nat) (d : W64) : (s.trace e v t l o p st d).host = s.host := by
  unfold State.trace; split <;> (try split) <;> rfl
@[simp] theorem State.ev_host (s : State) (e v st : Nat) (d : List (Nat × Nat)) : (s.ev e v st d).host = s.host := by simp [State.ev]
@[simp] theorem State.trace_out (s : State) (e v t l o p st : Nat) (d : W64) : (s.trace e v t l o p st d).out = s.out := by
  unfold State.trace; split <;> (try split) <;> rfl
@[simp] theorem State.ev_out (s : State) (e v st : Nat) (d : List (Nat × Nat)) : (s.ev e v st d).out = s.out := by simp [State.ev]
@[simp] theorem State.trace_free (s : State) (e v t l o p st : Nat) (d : W64) : (s.trace e v t l o p st d).free = s.free := by
  unfold State.trace; split <;> (try split) <;> rfl
@[simp] theorem State.ev_free (s : State) (e v st : Nat) (d : List (Nat × Nat)) : (s.ev e v st d).free = s.free := by simp [State.ev]

/-! Completion of a command. -/

theorem countRefusal_or (s : State) (st : Nat) : (∃ i, countRefusal s st = s.count i 1) ∨ countRefusal s st = s := by
  unfold countRefusal
  split
  · exact .inl ⟨_, rfl⟩
  · split
    · exact .inl ⟨_, rfl⟩
    · exact .inr rfl
@[simp] theorem countRefusal_pending (s : State) (st : Nat) : (countRefusal s st).pending = s.pending := by
  rcases countRefusal_or s st with ⟨i, h⟩ | h <;> rw [h]
  simp
@[simp] theorem countRefusal_build (s : State) (st : Nat) : (countRefusal s st).build = s.build := by
  rcases countRefusal_or s st with ⟨i, h⟩ | h <;> rw [h]
  simp
@[simp] theorem countRefusal_fuses (s : State) (st : Nat) : (countRefusal s st).fuses = s.fuses := by
  rcases countRefusal_or s st with ⟨i, h⟩ | h <;> rw [h]
  simp
@[simp] theorem countRefusal_regs (s : State) (st : Nat) : (countRefusal s st).regs = s.regs := by
  rcases countRefusal_or s st with ⟨i, h⟩ | h <;> rw [h]
  simp
@[simp] theorem countRefusal_start (s : State) (st : Nat) : (countRefusal s st).start = s.start := by
  rcases countRefusal_or s st with ⟨i, h⟩ | h <;> rw [h]
  simp
@[simp] theorem countRefusal_clk (s : State) (st : Nat) : (countRefusal s st).clk = s.clk := by
  rcases countRefusal_or s st with ⟨i, h⟩ | h <;> rw [h]
  simp
@[simp] theorem countRefusal_rings (s : State) (st : Nat) : (countRefusal s st).rings = s.rings := by
  rcases countRefusal_or s st with ⟨i, h⟩ | h <;> rw [h]
  simp
@[simp] theorem countRefusal_cmds (s : State) (st : Nat) : (countRefusal s st).cmds = s.cmds := by
  rcases countRefusal_or s st with ⟨i, h⟩ | h <;> rw [h]
  simp
@[simp] theorem countRefusal_nextId (s : State) (st : Nat) : (countRefusal s st).nextId = s.nextId := by
  rcases countRefusal_or s st with ⟨i, h⟩ | h <;> rw [h]
  simp
@[simp] theorem countRefusal_sched (s : State) (st : Nat) : (countRefusal s st).sched = s.sched := by
  rcases countRefusal_or s st with ⟨i, h⟩ | h <;> rw [h]
  simp
@[simp] theorem countRefusal_streams (s : State) (st : Nat) : (countRefusal s st).streams = s.streams := by
  rcases countRefusal_or s st with ⟨i, h⟩ | h <;> rw [h]
  simp
@[simp] theorem countRefusal_opens (s : State) (st : Nat) : (countRefusal s st).opens = s.opens := by
  rcases countRefusal_or s st with ⟨i, h⟩ | h <;> rw [h]
  simp
@[simp] theorem countRefusal_recs (s : State) (st : Nat) : (countRefusal s st).recs = s.recs := by
  rcases countRefusal_or s st with ⟨i, h⟩ | h <;> rw [h]
  simp
@[simp] theorem countRefusal_masks (s : State) (st : Nat) : (countRefusal s st).masks = s.masks := by
  rcases countRefusal_or s st with ⟨i, h⟩ | h <;> rw [h]
  simp
@[simp] theorem countRefusal_port (s : State) (st : Nat) : (countRefusal s st).port = s.port := by
  rcases countRefusal_or s st with ⟨i, h⟩ | h <;> rw [h]
  simp
@[simp] theorem countRefusal_images (s : State) (st : Nat) : (countRefusal s st).images = s.images := by
  rcases countRefusal_or s st with ⟨i, h⟩ | h <;> rw [h]
  simp
@[simp] theorem countRefusal_banks (s : State) (st : Nat) : (countRefusal s st).banks = s.banks := by
  rcases countRefusal_or s st with ⟨i, h⟩ | h <;> rw [h]
  simp
@[simp] theorem countRefusal_tenants (s : State) (st : Nat) : (countRefusal s st).tenants = s.tenants := by
  rcases countRefusal_or s st with ⟨i, h⟩ | h <;> rw [h]
  simp
@[simp] theorem countRefusal_policies (s : State) (st : Nat) : (countRefusal s st).policies = s.policies := by
  rcases countRefusal_or s st with ⟨i, h⟩ | h <;> rw [h]
  simp
@[simp] theorem countRefusal_cairns (s : State) (st : Nat) : (countRefusal s st).cairns = s.cairns := by
  rcases countRefusal_or s st with ⟨i, h⟩ | h <;> rw [h]
  simp
@[simp] theorem countRefusal_stack (s : State) (st : Nat) : (countRefusal s st).stack = s.stack := by
  rcases countRefusal_or s st with ⟨i, h⟩ | h <;> rw [h]
  simp
@[simp] theorem countRefusal_tokCache (s : State) (st : Nat) : (countRefusal s st).tokCache = s.tokCache := by
  rcases countRefusal_or s st with ⟨i, h⟩ | h <;> rw [h]
  simp
@[simp] theorem countRefusal_gov (s : State) (st : Nat) : (countRefusal s st).gov = s.gov := by
  rcases countRefusal_or s st with ⟨i, h⟩ | h <;> rw [h]
  simp
@[simp] theorem countRefusal_integ (s : State) (st : Nat) : (countRefusal s st).integ = s.integ := by
  rcases countRefusal_or s st with ⟨i, h⟩ | h <;> rw [h]
  simp
@[simp] theorem countRefusal_range (s : State) (st : Nat) : (countRefusal s st).range = s.range := by
  rcases countRefusal_or s st with ⟨i, h⟩ | h <;> rw [h]
  simp
@[simp] theorem countRefusal_persist (s : State) (st : Nat) : (countRefusal s st).persist = s.persist := by
  rcases countRefusal_or s st with ⟨i, h⟩ | h <;> rw [h]
  simp
@[simp] theorem countRefusal_host (s : State) (st : Nat) : (countRefusal s st).host = s.host := by
  rcases countRefusal_or s st with ⟨i, h⟩ | h <;> rw [h]
  simp
@[simp] theorem countRefusal_test (s : State) (st : Nat) : (countRefusal s st).test = s.test := by
  rcases countRefusal_or s st with ⟨i, h⟩ | h <;> rw [h]
  simp
@[simp] theorem countRefusal_plan (s : State) (st : Nat) : (countRefusal s st).plan = s.plan := by
  rcases countRefusal_or s st with ⟨i, h⟩ | h <;> rw [h]
  simp
@[simp] theorem countRefusal_dyn (s : State) (st : Nat) : (countRefusal s st).dyn = s.dyn := by
  rcases countRefusal_or s st with ⟨i, h⟩ | h <;> rw [h]
  simp
@[simp] theorem countRefusal_out (s : State) (st : Nat) : (countRefusal s st).out = s.out := by
  rcases countRefusal_or s st with ⟨i, h⟩ | h <;> rw [h]
  simp
@[simp] theorem countRefusal_free (s : State) (st : Nat) : (countRefusal s st).free = s.free := by
  rcases countRefusal_or s st with ⟨i, h⟩ | h <;> rw [h]
  simp
@[simp] theorem State.finish_pending (s : State) (c : Cmd) (d : Done) : (s.finish c d).pending = s.pending := by simp [State.finish]
@[simp] theorem State.finish_build (s : State) (c : Cmd) (d : Done) : (s.finish c d).build = s.build := by simp [State.finish]
@[simp] theorem State.finish_fuses (s : State) (c : Cmd) (d : Done) : (s.finish c d).fuses = s.fuses := by simp [State.finish]
@[simp] theorem State.finish_regs (s : State) (c : Cmd) (d : Done) : (s.finish c d).regs = s.regs := by simp [State.finish]
@[simp] theorem State.finish_start (s : State) (c : Cmd) (d : Done) : (s.finish c d).start = s.start := by simp [State.finish]
@[simp] theorem State.finish_clk (s : State) (c : Cmd) (d : Done) : (s.finish c d).clk = s.clk := by simp [State.finish]
@[simp] theorem State.finish_nextId (s : State) (c : Cmd) (d : Done) : (s.finish c d).nextId = s.nextId := by simp [State.finish]
@[simp] theorem State.finish_sched (s : State) (c : Cmd) (d : Done) : (s.finish c d).sched = s.sched := by simp [State.finish]
@[simp] theorem State.finish_streams (s : State) (c : Cmd) (d : Done) : (s.finish c d).streams = s.streams := by simp [State.finish]
@[simp] theorem State.finish_opens (s : State) (c : Cmd) (d : Done) : (s.finish c d).opens = s.opens := by simp [State.finish]
@[simp] theorem State.finish_recs (s : State) (c : Cmd) (d : Done) : (s.finish c d).recs = s.recs := by simp [State.finish]
@[simp] theorem State.finish_masks (s : State) (c : Cmd) (d : Done) : (s.finish c d).masks = s.masks := by simp [State.finish]
@[simp] theorem State.finish_port (s : State) (c : Cmd) (d : Done) : (s.finish c d).port = s.port := by simp [State.finish]
@[simp] theorem State.finish_images (s : State) (c : Cmd) (d : Done) : (s.finish c d).images = s.images := by simp [State.finish]
@[simp] theorem State.finish_banks (s : State) (c : Cmd) (d : Done) : (s.finish c d).banks = s.banks := by simp [State.finish]
@[simp] theorem State.finish_tenants (s : State) (c : Cmd) (d : Done) : (s.finish c d).tenants = s.tenants := by simp [State.finish]
@[simp] theorem State.finish_policies (s : State) (c : Cmd) (d : Done) : (s.finish c d).policies = s.policies := by simp [State.finish]
@[simp] theorem State.finish_cairns (s : State) (c : Cmd) (d : Done) : (s.finish c d).cairns = s.cairns := by simp [State.finish]
@[simp] theorem State.finish_stack (s : State) (c : Cmd) (d : Done) : (s.finish c d).stack = s.stack := by simp [State.finish]
@[simp] theorem State.finish_tokCache (s : State) (c : Cmd) (d : Done) : (s.finish c d).tokCache = s.tokCache := by simp [State.finish]
@[simp] theorem State.finish_gov (s : State) (c : Cmd) (d : Done) : (s.finish c d).gov = s.gov := by simp [State.finish]
@[simp] theorem State.finish_integ (s : State) (c : Cmd) (d : Done) : (s.finish c d).integ = s.integ := by simp [State.finish]
@[simp] theorem State.finish_range (s : State) (c : Cmd) (d : Done) : (s.finish c d).range = s.range := by simp [State.finish]
@[simp] theorem State.finish_persist (s : State) (c : Cmd) (d : Done) : (s.finish c d).persist = s.persist := by simp [State.finish]
@[simp] theorem State.finish_host (s : State) (c : Cmd) (d : Done) : (s.finish c d).host = s.host := by simp [State.finish]
@[simp] theorem State.finish_test (s : State) (c : Cmd) (d : Done) : (s.finish c d).test = s.test := by simp [State.finish]
@[simp] theorem State.finish_plan (s : State) (c : Cmd) (d : Done) : (s.finish c d).plan = s.plan := by simp [State.finish]
@[simp] theorem State.finish_dyn (s : State) (c : Cmd) (d : Done) : (s.finish c d).dyn = s.dyn := by simp [State.finish]
@[simp] theorem State.finish_out (s : State) (c : Cmd) (d : Done) : (s.finish c d).out = s.out := by simp [State.finish]
@[simp] theorem State.finish_free (s : State) (c : Cmd) (d : Done) : (s.finish c d).free = s.free := by simp [State.finish]
@[simp] theorem State.finish_cmds (s : State) (c : Cmd) (d : Done) : (s.finish c d).cmds = s.cmds.filter fun x => x.id != c.id := by
  simp [State.finish]
/-- The entry a completion queues. -/
def Cmd.entry (c : Cmd) (d : Done) : Cpl :=
  { Cpl.blank with
    tag := c.tag, index := c.index, opcode := c.opcode, stream := if d.stream = 0 then c.stream else d.stream, resA := d.resA,
    resB := d.resB, status := d.status, verdict := d.verdict, flags := d.flags, pos := d.pos, irq := c.irq, after := d.after, cmd := c.id }
@[simp] theorem State.setRing_ring (s : State) (k : Nat) (f : Ring → Ring) (j : Nat) :
    (s.setRing k f).ring j = if j = k then f (s.ring k) else s.ring j := by
  simp [State.setRing, State.ring, AMap.getD_set]
theorem State.ring_congr {s t : State} (h : s.rings = t.rings) (k : Nat) : s.ring k = t.ring k := by simp [State.ring, h]
@[simp] theorem State.post_ring (s : State) (k : Nat) (c : Cpl) (j : Nat) :
    (s.post k c).ring j = if j = k then { s.ring k with cqPend := (s.ring k).cqPend ++ [{ c with since := s.beat }] } else s.ring j := by
  simp [State.post]
theorem State.finish_ring (s : State) (c : Cmd) (d : Done) (j : Nat) :
    (s.finish c d).ring j =
      if j = c.ring then { s.ring c.ring with cqPend := (s.ring c.ring).cqPend ++ [{ c.entry d with since := s.beat }] } else s.ring j := by
  have h : ∀ k, (((countRefusal { s with cmds := s.cmds.filter fun x => x.id != c.id } d.status).trace 51 0x02 c.tag c.layerId c.opId 0 c.stream
      (w64 [(c.opcode, 0), (c.index, 8), (c.ring, 24), (d.status, 34)])).ring k) = s.ring k :=
    fun k => State.ring_congr (by simp) k
  simp only [State.finish, State.post_ring, h, State.beat, State.trace_clk, countRefusal_clk, Cmd.entry]
/-- What the start of a command's descriptor leaves as it was. -/
@[simp] theorem State.begin_pending (s : State) (d : Desc) : (s.begin d).2.pending = s.pending := by simp [State.begin]
@[simp] theorem State.begin_build (s : State) (d : Desc) : (s.begin d).2.build = s.build := by simp [State.begin]
@[simp] theorem State.begin_fuses (s : State) (d : Desc) : (s.begin d).2.fuses = s.fuses := by simp [State.begin]
@[simp] theorem State.begin_regs (s : State) (d : Desc) : (s.begin d).2.regs = s.regs := by simp [State.begin]
@[simp] theorem State.begin_start (s : State) (d : Desc) : (s.begin d).2.start = s.start := by simp [State.begin]
@[simp] theorem State.begin_clk (s : State) (d : Desc) : (s.begin d).2.clk = s.clk := by simp [State.begin]
@[simp] theorem State.begin_sched (s : State) (d : Desc) : (s.begin d).2.sched = s.sched := by simp [State.begin]
@[simp] theorem State.begin_streams (s : State) (d : Desc) : (s.begin d).2.streams = s.streams := by simp [State.begin]
@[simp] theorem State.begin_opens (s : State) (d : Desc) : (s.begin d).2.opens = s.opens := by simp [State.begin]
@[simp] theorem State.begin_recs (s : State) (d : Desc) : (s.begin d).2.recs = s.recs := by simp [State.begin]
@[simp] theorem State.begin_masks (s : State) (d : Desc) : (s.begin d).2.masks = s.masks := by simp [State.begin]
@[simp] theorem State.begin_port (s : State) (d : Desc) : (s.begin d).2.port = s.port := by simp [State.begin]
@[simp] theorem State.begin_images (s : State) (d : Desc) : (s.begin d).2.images = s.images := by simp [State.begin]
@[simp] theorem State.begin_banks (s : State) (d : Desc) : (s.begin d).2.banks = s.banks := by simp [State.begin]
@[simp] theorem State.begin_tenants (s : State) (d : Desc) : (s.begin d).2.tenants = s.tenants := by simp [State.begin]
@[simp] theorem State.begin_policies (s : State) (d : Desc) : (s.begin d).2.policies = s.policies := by simp [State.begin]
@[simp] theorem State.begin_cairns (s : State) (d : Desc) : (s.begin d).2.cairns = s.cairns := by simp [State.begin]
@[simp] theorem State.begin_stack (s : State) (d : Desc) : (s.begin d).2.stack = s.stack := by simp [State.begin]
@[simp] theorem State.begin_tokCache (s : State) (d : Desc) : (s.begin d).2.tokCache = s.tokCache := by simp [State.begin]
@[simp] theorem State.begin_gov (s : State) (d : Desc) : (s.begin d).2.gov = s.gov := by simp [State.begin]
@[simp] theorem State.begin_integ (s : State) (d : Desc) : (s.begin d).2.integ = s.integ := by simp [State.begin]
@[simp] theorem State.begin_range (s : State) (d : Desc) : (s.begin d).2.range = s.range := by simp [State.begin]
@[simp] theorem State.begin_persist (s : State) (d : Desc) : (s.begin d).2.persist = s.persist := by simp [State.begin]
@[simp] theorem State.begin_host (s : State) (d : Desc) : (s.begin d).2.host = s.host := by simp [State.begin]
@[simp] theorem State.begin_test (s : State) (d : Desc) : (s.begin d).2.test = s.test := by simp [State.begin]
@[simp] theorem State.begin_plan (s : State) (d : Desc) : (s.begin d).2.plan = s.plan := by simp [State.begin]
@[simp] theorem State.begin_dyn (s : State) (d : Desc) : (s.begin d).2.dyn = s.dyn := by simp [State.begin]
@[simp] theorem State.begin_out (s : State) (d : Desc) : (s.begin d).2.out = s.out := by simp [State.begin]
@[simp] theorem State.begin_free (s : State) (d : Desc) : (s.begin d).2.free = s.free := by simp [State.begin]
theorem State.begin_cmds (s : State) (d : Desc) : (s.begin d).2.cmds = s.cmds ++ [(s.begin d).1] := by simp [State.begin]
theorem State.begin_ring (s : State) (d : Desc) (j : Nat) :
    (s.begin d).2.ring j = if j = d.ring.toNat then { s.ring d.ring.toNat with fetched := (s.ring d.ring.toNat).fetched.erase d } else s.ring j := by
  simp only [State.begin]
  rw [State.ring_congr (t := s.setRing d.ring.toNat fun x => { x with fetched := x.fetched.erase d }) (by simp)]
  simp

end Sys2Proof.Machine
end

