-- ==== Sys2Proof/Laws/Desc.lean ====
section
/-! SUPPORT. What the shared path of a descriptor's command does: it starts, and it completes or runs on (R101 to R106). -/

namespace Sys2Proof.Machine

/-- A descriptor that starts and meets no shared refusal runs its own body. -/
theorem runDesc_accepts {s : State} {d : Desc} {ok : Bool} (h : s.accepts d = true) (hok : ok = true) (body : State → Cmd → State) :
    runDesc s d ok body = body (s.started d) (s.startedCmd d) := by
  subst hok
  simp only [State.accepts, State.started, Bool.and_eq_true] at h
  obtain ⟨h1, h2⟩ := h
  simp only [runDesc, h1, if_true]
  cases hs : descStatus (s.begin d).2 d true with
  | none => rfl
  | some x => simp [hs] at h2
/-- A descriptor that does not start leaves the state. -/
theorem runDesc_waits {s : State} {d : Desc} (h : s.canStart d = false) (ok : Bool) (body : State → Cmd → State) : runDesc s d ok body = s := by
  simp [runDesc, h]
/-- A descriptor that meets a shared refusal completes with its status. -/
theorem runDesc_refused {s : State} {d : Desc} {ok : Bool} {st : Nat} (h : s.canStart d = true) (hs : descStatus (s.started d) d ok = some st)
    (body : State → Cmd → State) : runDesc s d ok body = (s.started d).finish (s.startedCmd d) { status := st } := by
  simp only [State.started] at hs
  simp [runDesc, h, hs, State.started, State.startedCmd]

@[simp] theorem startedCmd_id (s : State) (d : Desc) : (s.startedCmd d).id = s.nextId := rfl
@[simp] theorem startedCmd_ring (s : State) (d : Desc) : (s.startedCmd d).ring = d.ring.toNat := rfl
@[simp] theorem startedCmd_index (s : State) (d : Desc) : (s.startedCmd d).index = d.index.toNat := rfl
@[simp] theorem startedCmd_tag (s : State) (d : Desc) : (s.startedCmd d).tag = dTag d := rfl
@[simp] theorem startedCmd_opcode (s : State) (d : Desc) : (s.startedCmd d).opcode = d.opcode := rfl
@[simp] theorem startedCmd_irq (s : State) (d : Desc) : (s.startedCmd d).irq = dIrq d := rfl
@[simp] theorem startedCmd_stream (s : State) (d : Desc) : (s.startedCmd d).stream = dStream d := rfl
@[simp] theorem startedCmd_since (s : State) (d : Desc) : (s.startedCmd d).since = s.beat := rfl

theorem started_cmds (s : State) (d : Desc) : (s.started d).cmds = s.cmds ++ [s.startedCmd d] := State.begin_cmds s d
theorem started_ring (s : State) (d : Desc) (j : Nat) :
    (s.started d).ring j = if j = d.ring.toNat then { s.ring d.ring.toNat with fetched := (s.ring d.ring.toNat).fetched.erase d } else s.ring j :=
  State.begin_ring s d j

/-- A completion of the descriptor's command. -/
theorem completes_finish {s u : State} {d : Desc} (r : Done) (hr : u.ring d.ring.toNat = (s.started d).ring d.ring.toNat)
    (hc : ∀ c ∈ u.cmds, c ∈ s.cmds ∨ c.id = s.nextId) : Completes s (u.finish (s.startedCmd d) r) d r := by
  refine ⟨⟨{ (s.startedCmd d).entry r with since := u.beat }, ?_, ?_⟩, ?_, ?_⟩
  · simp [State.finish_ring, hr, started_ring]
  · refine ⟨rfl, rfl, rfl, rfl, rfl, ?_, rfl, rfl, rfl, rfl, rfl⟩
    simp [Cmd.entry]
  · simp [State.finish_ring, hr, started_ring]
  · intro c h
    simp only [State.finish_cmds, List.mem_filter, startedCmd_id, bne_iff_ne] at h
    exact (hc c h.1).resolve_right h.2
theorem started_mem {s : State} {d : Desc} {c : Cmd} (h : c ∈ (s.started d).cmds) : c ∈ s.cmds ∨ c.id = s.nextId := by
  rw [started_cmds, List.mem_append, List.mem_singleton] at h
  rcases h with h | h
  · exact .inl h
  · exact .inr (h ▸ startedCmd_id s d)

/-- A command that runs on as k, on a state whose rings and commands are those after its start. -/
theorem runs_keep {s u : State} {d : Desc} (k : CmdK) (hr : u.ring d.ring.toNat = (s.started d).ring d.ring.toNat)
    (hc : s.startedCmd d ∈ u.cmds) : Runs s (u.keep (s.startedCmd d) k) d k := by
  refine ⟨⟨{ s.startedCmd d with k := k }, ?_, by simp⟩, ?_⟩
  · simp only [State.keep, State.setCmd, List.mem_map]
    exact ⟨s.startedCmd d, hc, by simp⟩
  · have : (u.keep (s.startedCmd d) k).ring d.ring.toNat = u.ring d.ring.toNat := State.ring_congr (by simp) _
    rw [this, hr, started_ring]; simp
theorem startedCmd_mem (s : State) (d : Desc) : s.startedCmd d ∈ (s.started d).cmds := by simp [started_cmds]

end Sys2Proof.Machine
end

