-- ==== Sys2Proof/Laws/Fields.lean ====
section
/-! SUPPORT. Bits of fields: what a field reads, what replacing a field leaves, and what a W1C write clears. -/

namespace Sys2Proof.Machine

/-- Bit i of a field is bit lo + i of its word. -/
theorem fld_testBit {n : Nat} (w : BitVec n) (hi lo i : Nat) : (fld w hi lo).testBit i = (decide (i < hi + 1 - lo) && w.getLsbD (lo + i)) := by
  simp [fld, Nat.testBit_mod_two_pow, Nat.testBit_shiftRight, BitVec.getLsbD]
/-- A field is below two to the power of its width. -/
theorem fld_lt {n : Nat} (w : BitVec n) (hi lo : Nat) : fld w hi lo < 2 ^ (hi + 1 - lo) := Nat.mod_lt _ (Nat.two_pow_pos _)
/-- A number below a power of two is the field of a word when their bits agree. -/
theorem fld_eq_of_bits {n : Nat} {w : BitVec n} {hi lo v : Nat} (hv : v < 2 ^ (hi + 1 - lo))
    (h : ∀ i, i < hi + 1 - lo → w.getLsbD (lo + i) = v.testBit i) : fld w hi lo = v := by
  apply Nat.eq_of_testBit_eq
  intro i
  rw [fld_testBit]
  by_cases hi' : i < hi + 1 - lo
  · simp [hi', h i hi']
  · have : v.testBit i = false := Nat.testBit_eq_false_of_lt (Nat.lt_of_lt_of_le hv (Nat.pow_le_pow_right (by decide) (by omega)))
    simp [hi', this]

/-- Bits of a word with a field replaced. -/
theorem setFld_getLsbD {n : Nat} (w : BitVec n) {hi lo v : Nat} (h1 : lo ≤ hi) (h2 : hi < n) (i : Nat) :
    (setFld w hi lo v).getLsbD i = if lo ≤ i ∧ i ≤ hi then v.testBit (i - lo) else w.getLsbD i := by
  have hm : 2 ^ lo * 2 ^ (hi + 1 - lo) = 2 ^ (hi + 1) := by rw [← Nat.pow_add]; congr 1; omega
  have e : w.toNat - ((w.toNat >>> lo) % 2 ^ (hi + 1 - lo)) * 2 ^ lo + (v % 2 ^ (hi + 1 - lo)) * 2 ^ lo
      = 2 ^ (hi + 1) * (w.toNat >>> (hi + 1)) + (2 ^ lo * (v % 2 ^ (hi + 1 - lo)) + w.toNat % 2 ^ lo) := by
    have a1 := Nat.div_add_mod w.toNat (2 ^ lo)
    have a2 := Nat.div_add_mod (w.toNat / 2 ^ lo) (2 ^ (hi + 1 - lo))
    rw [Nat.div_div_eq_div_mul, hm] at a2
    simp only [Nat.shiftRight_eq_div_pow]
    have a3 : 2 ^ lo * (w.toNat / 2 ^ lo) = 2 ^ (hi + 1) * (w.toNat / 2 ^ (hi + 1)) + w.toNat / 2 ^ lo % 2 ^ (hi + 1 - lo) * 2 ^ lo := by
      conv_lhs => rw [← a2]
      rw [Nat.mul_add, ← Nat.mul_assoc, hm, Nat.mul_comm (2 ^ lo) (_ % _)]
    rw [Nat.mul_comm (2 ^ lo) (v % _)]
    omega
  have hb : 2 ^ lo * (v % 2 ^ (hi + 1 - lo)) + w.toNat % 2 ^ lo < 2 ^ (hi + 1) := by
    have b1 : v % 2 ^ (hi + 1 - lo) + 1 ≤ 2 ^ (hi + 1 - lo) := Nat.mod_lt _ (Nat.two_pow_pos _)
    have b2 := Nat.mul_le_mul_left (2 ^ lo) b1
    rw [hm, Nat.mul_add, Nat.mul_one] at b2
    have b3 : w.toNat % 2 ^ lo < 2 ^ lo := Nat.mod_lt _ (Nat.two_pow_pos _)
    omega
  simp only [setFld]
  rw [e, BitVec.getLsbD, BitVec.toNat_ofNat, Nat.testBit_mod_two_pow, Nat.testBit_two_pow_mul_add _ hb,
    Nat.testBit_two_pow_mul_add _ (Nat.mod_lt _ (Nat.two_pow_pos _))]
  by_cases c1 : i < hi + 1
  · by_cases c2 : i < lo
    · have : ¬ (lo ≤ i ∧ i ≤ hi) := by omega
      have h3 : i < n := by omega
      simp [c1, c2, this, h3, Nat.testBit_mod_two_pow, BitVec.getLsbD]
    · have : lo ≤ i ∧ i ≤ hi := by omega
      have h3 : i < n := by omega
      have h4 : i - lo < hi + 1 - lo := by omega
      simp [c1, c2, this, h3, h4, Nat.testBit_mod_two_pow]
  · have : ¬ (lo ≤ i ∧ i ≤ hi) := by omega
    simp only [c1, this, if_false, Nat.testBit_shiftRight]
    have h5 : hi + 1 + (i - (hi + 1)) = i := by omega
    rw [h5]
    by_cases h3 : i < n
    · simp [h3, BitVec.getLsbD]
    · simp [h3, BitVec.getLsbD]
      exact Nat.testBit_eq_false_of_lt (Nat.lt_of_lt_of_le w.isLt (Nat.pow_le_pow_right (by decide) (by omega)))

/-- A field reads what replaced it. -/
theorem fld_setFld_same {n : Nat} (w : BitVec n) {hi lo v : Nat} (h1 : lo ≤ hi) (h2 : hi < n) (hv : v < 2 ^ (hi + 1 - lo)) :
    fld (setFld w hi lo v) hi lo = v := by
  refine fld_eq_of_bits hv fun i hi' => ?_
  rw [setFld_getLsbD w h1 h2, if_pos (by omega)]
  congr 1; omega
/-- A field reads as before when another is replaced. -/
theorem fld_setFld_other {n : Nat} (w : BitVec n) {hi lo v hi' lo' : Nat} (h1 : lo ≤ hi) (h2 : hi < n) (hd : hi' < lo ∨ hi < lo') :
    fld (setFld w hi lo v) hi' lo' = fld w hi' lo' := by
  refine fld_eq_of_bits (fld_lt _ _ _) fun i hi'' => ?_
  rw [setFld_getLsbD w h1 h2, if_neg (by omega), fld_testBit]
  simp [hi'']

/-- A field of a word under a mask whose bits there are all 1. -/
theorem fld_and {n : Nat} (w m : BitVec n) (hi lo : Nat) (h : ∀ i, i < hi + 1 - lo → m.getLsbD (lo + i) = true) :
    fld (w &&& m) hi lo = fld w hi lo := by
  refine fld_eq_of_bits (fld_lt _ _ _) fun i hi' => ?_
  simp [fld_testBit, hi', h i hi']

/-- Bits left by a W1C write. -/
theorem w1c_testBit (m v mask i : Nat) : (w1c m v mask).testBit i = (m.testBit i && !(v.testBit i && mask.testBit i)) := by
  simp only [w1c, Nat.testBit_xor, Nat.testBit_and]
  cases m.testBit i <;> cases v.testBit i <;> cases mask.testBit i <;> rfl

end Sys2Proof.Machine
end

