-- ==== Sys2Proof/Laws/Lines.lean ====
section
/-! SUPPORT. What the operations that write, count, log, trace or pick leave of the host port's flags: the interrupt causes, the doorbell fault
and the messages owed. -/

set_option linter.unusedSimpArgs false
namespace Sys2Proof.Machine

/-- The flags of the host port: interrupt causes, doorbell fault, messages owed. -/
structure Lines where
  irqStatus : Nat
  dbRing : Nat
  dbCause : Nat
  dbFault : Bool
  dbOverrun : Bool
  resetBusy : Bool
  cancelMiss : Nat
  irqPend : List Nat
  irqLast : AMap Nat
  lost : Nat

/-- Those flags. -/
def HostS.lines (h : HostS) : Lines :=
  ⟨h.irqStatus, h.dbRing, h.dbCause, h.dbFault, h.dbOverrun, h.resetBusy, h.cancelMiss, h.irqPend, h.irqLast, h.lost⟩
/-- Those flags of a state. -/
def State.lines (s : State) : Lines := s.host.lines
@[simp] theorem lines_mk (a0 a1 a2 a3 a4 a5 a6 a7 a8 a9 a10 a11 a12 a13 a14 a15 a16 a17 a18 a19 a20 a21 a22 a23 a24 a25 a26 a27 a28 a29 a30 a31 a32) : State.lines (State.mk a0 a1 a2 a3 a4 a5 a6 a7 a8 a9 a10 a11 a12 a13 a14 a15 a16 a17 a18 a19 a20 a21 a22 a23 a24 a25 a26 a27 a28 a29 a30 a31 a32) = a27.lines := Eq.trans rfl rfl
@[simp] theorem lines_fold (s : State) : s.host.lines = s.lines := rfl
@[simp] theorem hostLines_mk (a0 a1 a2 a3 a4 a5 a6 a7 a8 a9 a10 a11 a12 a13 a14 a15 a16) : HostS.lines (HostS.mk a0 a1 a2 a3 a4 a5 a6 a7 a8 a9 a10 a11 a12 a13 a14 a15 a16) = ⟨a5, a6, a7, a8, a9, a10, a11, a12, a13, a14⟩ := rfl
@[simp] theorem hostLines_fold (h : HostS) : Lines.mk h.irqStatus h.dbRing h.dbCause h.dbFault h.dbOverrun h.resetBusy h.cancelMiss h.irqPend h.irqLast h.lost = h.lines := rfl
@[simp] theorem lines_ite (c : Prop) [Decidable c] (a b : State) : (if c then a else b).lines = if c then a.lines else b.lines := by split <;> rfl
@[simp] theorem lines_foldl {α : Type} (f : State → α → State) (h : ∀ s a, (f s a).lines = s.lines) (l : List α) (s : State) : (l.foldl f s).lines = s.lines := by
  induction l generalizing s with
  | nil => rfl
  | cons a l ih => simp [ih, h]
@[simp] theorem State.pick_lines (s : State) (n : ℕ) : (State.pick s n).2.lines = s.lines := by
  unfold State.pick; split <;> simp [lines_ite]
@[simp] theorem State.emit_lines (s : State) (o : Out) : (State.emit s o).lines = s.lines := by
  rfl
@[simp] theorem State.count_lines (s : State) (i : ℕ) (n : ℕ) : (State.count s i n).lines = s.lines := by
  rfl
@[simp] theorem State.trace_lines (s : State) (engine : ℕ) (event : ℕ) (tag : ℕ) (layerId : ℕ) (opId : ℕ) (policy : ℕ) (stream : ℕ) (detail : W64) : (State.trace s engine event tag layerId opId policy stream detail).lines = s.lines := by
  simp [State.trace, lines_ite]
@[simp] theorem State.ev_lines (s : State) (engine : ℕ) (event : ℕ) (stream : ℕ) (detail : List (ℕ × ℕ)) : (State.ev s engine event stream detail).lines = s.lines := by
  simp [State.ev, lines_ite]
@[simp] theorem pumpPackets_lines (n j : Nat) (s : State) : (pumpPackets n j s).lines = s.lines := by
  induction n generalizing s with
  | zero => rfl
  | succ n ih =>
    unfold pumpPackets
    repeat' split
    all_goals simp [ih]
@[simp] theorem pumpAll_lines (s : State) : (pumpAll s).lines = s.lines := by
  simp [pumpAll, lines_ite]
@[simp] theorem State.write_lines (s : State) (owner : WOwner) (attr : ℕ) (data : List (ℕ × List Byte)) (commit : Option (ℕ × List Byte)) (after : List ℕ) : (State.write s owner attr data commit after).2.lines = s.lines := by
  simp [State.write, lines_ite]
@[simp] theorem State.write'_lines (s : State) (owner : WOwner) (attr : ℕ) (data : List (ℕ × List Byte)) (commit : Option (ℕ × List Byte)) : (State.write' s owner attr data commit).lines = s.lines := by
  simp [State.write', lines_ite]
@[simp] theorem State.read_lines (s : State) (o : ROwner) (addr : ℕ) (rows : ℕ) (attr : ℕ) : (State.read s o addr rows attr).lines = s.lines := by
  unfold State.read; split <;> simp [lines_ite]
@[simp] theorem State.setSeg_lines (s : State) (i : ℕ) (f : Seg → Seg) : (State.setSeg s i f).lines = s.lines := by
  rfl
@[simp] theorem State.dropReads_lines (s : State) (p : ROwner → Bool) : (State.dropReads s p).lines = s.lines := by
  rfl
@[simp] theorem freeSeg_lines (s : State) (i : ℕ) : (freeSeg s i).lines = s.lines := by
  simp [freeSeg, lines_ite]
@[simp] theorem State.segFreed_lines (s : State) (i : ℕ) : (State.segFreed s i).lines = s.lines := by
  rfl
@[simp] theorem takeSeg_lines (s : State) (role : ℕ) : (takeSeg s role).lines = s.lines := by
  unfold takeSeg; split <;> simp [lines_ite]
@[simp] theorem State.writeRows_lines (s : State) (what : ℕ) (key : ℕ) (addr : ℕ) (bs : List Byte) : (State.writeRows s what key addr bs).lines = s.lines := by
  simp [State.writeRows, lines_ite]
@[simp] theorem putRows_lines (s : State) (what : ℕ) (key : ℕ) (bs : List Byte) : (putRows s what key bs).lines = s.lines := by
  unfold putRows
  generalize (if hasRoom s (roleOf what) (bs.length / 64) then openOf s (roleOf what) else none) = o
  cases o with
  | none => rfl
  | some i => exact (State.writeRows_lines _ _ _ _ _).trans rfl
@[simp] theorem copyRows_lines (s : State) (what : ℕ) (key : ℕ) (bs : List Byte) : (copyRows s what key bs).lines = s.lines := by
  simp [copyRows, lines_ite]
@[simp] theorem copyOut_lines (s : State) (i : ℕ) : (copyOut s i).lines = s.lines := by
  unfold copyOut
  refine (lines_foldl _ (fun s a => by simp) _ _).trans ((lines_foldl _ (fun s a => by simp) _ _).trans (lines_foldl _ (fun s a => by simp) _ _))
@[simp] theorem compactMore_lines (s : State) (i : ℕ) : (compactMore s i).lines = s.lines := by
  simp [compactMore, lines_ite]
@[simp] theorem compact_lines (s : State) (i : ℕ) : (compact s i).lines = s.lines := by
  simp [compact, lines_ite]
@[simp] theorem State.pumpCompact_lines (s : State) : (State.pumpCompact s).lines = s.lines := by
  simp [State.pumpCompact]
@[simp] theorem openSeg_lines (s : State) (role : ℕ) : (openSeg s role).lines = s.lines := by
  (unfold openSeg; dsimp only; repeat' split) <;> simp [lines_ite]
@[simp] theorem State.placeRows_lines (s : State) (what : ℕ) (key : ℕ) (bs : List Byte) : (State.placeRows s what key bs).lines = s.lines := by
  simp [State.placeRows, lines_ite]
@[simp] theorem State.pumpRows_lines (s : State) : (State.pumpRows s).lines = s.lines := by
  exact (lines_foldl _ (fun s a => by simp) _ _).trans rfl
@[simp] theorem State.log_lines (s : State) (code : ℕ) (severity : ℕ) (engine : ℕ) (d0 : W64) (d1 : W64) (d2 : W64) : (State.log s code severity engine d0 d1 d2).lines = s.lines := by
  simp [State.log, lines_ite]
theorem lines_irqStatus (s : State) : s.lines.irqStatus = s.host.irqStatus := rfl
theorem lines_dbRing (s : State) : s.lines.dbRing = s.host.dbRing := rfl
theorem lines_dbCause (s : State) : s.lines.dbCause = s.host.dbCause := rfl
theorem lines_dbFault (s : State) : s.lines.dbFault = s.host.dbFault := rfl
theorem lines_dbOverrun (s : State) : s.lines.dbOverrun = s.host.dbOverrun := rfl
theorem lines_resetBusy (s : State) : s.lines.resetBusy = s.host.resetBusy := rfl
theorem lines_cancelMiss (s : State) : s.lines.cancelMiss = s.host.cancelMiss := rfl
theorem lines_irqPend (s : State) : s.lines.irqPend = s.host.irqPend := rfl
theorem lines_irqLast (s : State) : s.lines.irqLast = s.host.irqLast := rfl
theorem lines_lost (s : State) : s.lines.lost = s.host.lost := rfl
@[simp] theorem State.pick_irqStatus (s : State) (n : Nat) : ((State.pick s n).2).host.irqStatus = s.host.irqStatus := (lines_irqStatus _).symm.trans ((congrArg Lines.irqStatus (State.pick_lines s n)).trans (lines_irqStatus _))
@[simp] theorem State.pick_dbRing (s : State) (n : Nat) : ((State.pick s n).2).host.dbRing = s.host.dbRing := (lines_dbRing _).symm.trans ((congrArg Lines.dbRing (State.pick_lines s n)).trans (lines_dbRing _))
@[simp] theorem State.pick_dbCause (s : State) (n : Nat) : ((State.pick s n).2).host.dbCause = s.host.dbCause := (lines_dbCause _).symm.trans ((congrArg Lines.dbCause (State.pick_lines s n)).trans (lines_dbCause _))
@[simp] theorem State.pick_dbFault (s : State) (n : Nat) : ((State.pick s n).2).host.dbFault = s.host.dbFault := (lines_dbFault _).symm.trans ((congrArg Lines.dbFault (State.pick_lines s n)).trans (lines_dbFault _))
@[simp] theorem State.pick_dbOverrun (s : State) (n : Nat) : ((State.pick s n).2).host.dbOverrun = s.host.dbOverrun := (lines_dbOverrun _).symm.trans ((congrArg Lines.dbOverrun (State.pick_lines s n)).trans (lines_dbOverrun _))
@[simp] theorem State.pick_resetBusy (s : State) (n : Nat) : ((State.pick s n).2).host.resetBusy = s.host.resetBusy := (lines_resetBusy _).symm.trans ((congrArg Lines.resetBusy (State.pick_lines s n)).trans (lines_resetBusy _))
@[simp] theorem State.pick_cancelMiss (s : State) (n : Nat) : ((State.pick s n).2).host.cancelMiss = s.host.cancelMiss := (lines_cancelMiss _).symm.trans ((congrArg Lines.cancelMiss (State.pick_lines s n)).trans (lines_cancelMiss _))
@[simp] theorem State.pick_irqPend (s : State) (n : Nat) : ((State.pick s n).2).host.irqPend = s.host.irqPend := (lines_irqPend _).symm.trans ((congrArg Lines.irqPend (State.pick_lines s n)).trans (lines_irqPend _))
@[simp] theorem State.pick_irqLast (s : State) (n : Nat) : ((State.pick s n).2).host.irqLast = s.host.irqLast := (lines_irqLast _).symm.trans ((congrArg Lines.irqLast (State.pick_lines s n)).trans (lines_irqLast _))
@[simp] theorem State.pick_lost (s : State) (n : Nat) : ((State.pick s n).2).host.lost = s.host.lost := (lines_lost _).symm.trans ((congrArg Lines.lost (State.pick_lines s n)).trans (lines_lost _))
@[simp] theorem State.emit_irqStatus (s : State) (o : Out) : (State.emit s o).host.irqStatus = s.host.irqStatus := (lines_irqStatus _).symm.trans ((congrArg Lines.irqStatus (State.emit_lines s o)).trans (lines_irqStatus _))
@[simp] theorem State.emit_dbRing (s : State) (o : Out) : (State.emit s o).host.dbRing = s.host.dbRing := (lines_dbRing _).symm.trans ((congrArg Lines.dbRing (State.emit_lines s o)).trans (lines_dbRing _))
@[simp] theorem State.emit_dbCause (s : State) (o : Out) : (State.emit s o).host.dbCause = s.host.dbCause := (lines_dbCause _).symm.trans ((congrArg Lines.dbCause (State.emit_lines s o)).trans (lines_dbCause _))
@[simp] theorem State.emit_dbFault (s : State) (o : Out) : (State.emit s o).host.dbFault = s.host.dbFault := (lines_dbFault _).symm.trans ((congrArg Lines.dbFault (State.emit_lines s o)).trans (lines_dbFault _))
@[simp] theorem State.emit_dbOverrun (s : State) (o : Out) : (State.emit s o).host.dbOverrun = s.host.dbOverrun := (lines_dbOverrun _).symm.trans ((congrArg Lines.dbOverrun (State.emit_lines s o)).trans (lines_dbOverrun _))
@[simp] theorem State.emit_resetBusy (s : State) (o : Out) : (State.emit s o).host.resetBusy = s.host.resetBusy := (lines_resetBusy _).symm.trans ((congrArg Lines.resetBusy (State.emit_lines s o)).trans (lines_resetBusy _))
@[simp] theorem State.emit_cancelMiss (s : State) (o : Out) : (State.emit s o).host.cancelMiss = s.host.cancelMiss := (lines_cancelMiss _).symm.trans ((congrArg Lines.cancelMiss (State.emit_lines s o)).trans (lines_cancelMiss _))
@[simp] theorem State.emit_irqPend (s : State) (o : Out) : (State.emit s o).host.irqPend = s.host.irqPend := (lines_irqPend _).symm.trans ((congrArg Lines.irqPend (State.emit_lines s o)).trans (lines_irqPend _))
@[simp] theorem State.emit_irqLast (s : State) (o : Out) : (State.emit s o).host.irqLast = s.host.irqLast := (lines_irqLast _).symm.trans ((congrArg Lines.irqLast (State.emit_lines s o)).trans (lines_irqLast _))
@[simp] theorem State.emit_lost (s : State) (o : Out) : (State.emit s o).host.lost = s.host.lost := (lines_lost _).symm.trans ((congrArg Lines.lost (State.emit_lines s o)).trans (lines_lost _))
@[simp] theorem State.count_irqStatus (s : State) (i n : Nat) : (State.count s i n).host.irqStatus = s.host.irqStatus := (lines_irqStatus _).symm.trans ((congrArg Lines.irqStatus (State.count_lines s i n)).trans (lines_irqStatus _))
@[simp] theorem State.count_dbRing (s : State) (i n : Nat) : (State.count s i n).host.dbRing = s.host.dbRing := (lines_dbRing _).symm.trans ((congrArg Lines.dbRing (State.count_lines s i n)).trans (lines_dbRing _))
@[simp] theorem State.count_dbCause (s : State) (i n : Nat) : (State.count s i n).host.dbCause = s.host.dbCause := (lines_dbCause _).symm.trans ((congrArg Lines.dbCause (State.count_lines s i n)).trans (lines_dbCause _))
@[simp] theorem State.count_dbFault (s : State) (i n : Nat) : (State.count s i n).host.dbFault = s.host.dbFault := (lines_dbFault _).symm.trans ((congrArg Lines.dbFault (State.count_lines s i n)).trans (lines_dbFault _))
@[simp] theorem State.count_dbOverrun (s : State) (i n : Nat) : (State.count s i n).host.dbOverrun = s.host.dbOverrun := (lines_dbOverrun _).symm.trans ((congrArg Lines.dbOverrun (State.count_lines s i n)).trans (lines_dbOverrun _))
@[simp] theorem State.count_resetBusy (s : State) (i n : Nat) : (State.count s i n).host.resetBusy = s.host.resetBusy := (lines_resetBusy _).symm.trans ((congrArg Lines.resetBusy (State.count_lines s i n)).trans (lines_resetBusy _))
@[simp] theorem State.count_cancelMiss (s : State) (i n : Nat) : (State.count s i n).host.cancelMiss = s.host.cancelMiss := (lines_cancelMiss _).symm.trans ((congrArg Lines.cancelMiss (State.count_lines s i n)).trans (lines_cancelMiss _))
@[simp] theorem State.count_irqPend (s : State) (i n : Nat) : (State.count s i n).host.irqPend = s.host.irqPend := (lines_irqPend _).symm.trans ((congrArg Lines.irqPend (State.count_lines s i n)).trans (lines_irqPend _))
@[simp] theorem State.count_irqLast (s : State) (i n : Nat) : (State.count s i n).host.irqLast = s.host.irqLast := (lines_irqLast _).symm.trans ((congrArg Lines.irqLast (State.count_lines s i n)).trans (lines_irqLast _))
@[simp] theorem State.count_lost (s : State) (i n : Nat) : (State.count s i n).host.lost = s.host.lost := (lines_lost _).symm.trans ((congrArg Lines.lost (State.count_lines s i n)).trans (lines_lost _))
@[simp] theorem State.trace_irqStatus (s : State) (a b c d e f g : Nat) (w : W64) : (State.trace s a b c d e f g w).host.irqStatus = s.host.irqStatus := (lines_irqStatus _).symm.trans ((congrArg Lines.irqStatus (State.trace_lines s a b c d e f g w)).trans (lines_irqStatus _))
@[simp] theorem State.trace_dbRing (s : State) (a b c d e f g : Nat) (w : W64) : (State.trace s a b c d e f g w).host.dbRing = s.host.dbRing := (lines_dbRing _).symm.trans ((congrArg Lines.dbRing (State.trace_lines s a b c d e f g w)).trans (lines_dbRing _))
@[simp] theorem State.trace_dbCause (s : State) (a b c d e f g : Nat) (w : W64) : (State.trace s a b c d e f g w).host.dbCause = s.host.dbCause := (lines_dbCause _).symm.trans ((congrArg Lines.dbCause (State.trace_lines s a b c d e f g w)).trans (lines_dbCause _))
@[simp] theorem State.trace_dbFault (s : State) (a b c d e f g : Nat) (w : W64) : (State.trace s a b c d e f g w).host.dbFault = s.host.dbFault := (lines_dbFault _).symm.trans ((congrArg Lines.dbFault (State.trace_lines s a b c d e f g w)).trans (lines_dbFault _))
@[simp] theorem State.trace_dbOverrun (s : State) (a b c d e f g : Nat) (w : W64) : (State.trace s a b c d e f g w).host.dbOverrun = s.host.dbOverrun := (lines_dbOverrun _).symm.trans ((congrArg Lines.dbOverrun (State.trace_lines s a b c d e f g w)).trans (lines_dbOverrun _))
@[simp] theorem State.trace_resetBusy (s : State) (a b c d e f g : Nat) (w : W64) : (State.trace s a b c d e f g w).host.resetBusy = s.host.resetBusy := (lines_resetBusy _).symm.trans ((congrArg Lines.resetBusy (State.trace_lines s a b c d e f g w)).trans (lines_resetBusy _))
@[simp] theorem State.trace_cancelMiss (s : State) (a b c d e f g : Nat) (w : W64) : (State.trace s a b c d e f g w).host.cancelMiss = s.host.cancelMiss := (lines_cancelMiss _).symm.trans ((congrArg Lines.cancelMiss (State.trace_lines s a b c d e f g w)).trans (lines_cancelMiss _))
@[simp] theorem State.trace_irqPend (s : State) (a b c d e f g : Nat) (w : W64) : (State.trace s a b c d e f g w).host.irqPend = s.host.irqPend := (lines_irqPend _).symm.trans ((congrArg Lines.irqPend (State.trace_lines s a b c d e f g w)).trans (lines_irqPend _))
@[simp] theorem State.trace_irqLast (s : State) (a b c d e f g : Nat) (w : W64) : (State.trace s a b c d e f g w).host.irqLast = s.host.irqLast := (lines_irqLast _).symm.trans ((congrArg Lines.irqLast (State.trace_lines s a b c d e f g w)).trans (lines_irqLast _))
@[simp] theorem State.trace_lost (s : State) (a b c d e f g : Nat) (w : W64) : (State.trace s a b c d e f g w).host.lost = s.host.lost := (lines_lost _).symm.trans ((congrArg Lines.lost (State.trace_lines s a b c d e f g w)).trans (lines_lost _))
@[simp] theorem State.ev_irqStatus (s : State) (a b c : Nat) (w : List (Nat × Nat)) : (State.ev s a b c w).host.irqStatus = s.host.irqStatus := (lines_irqStatus _).symm.trans ((congrArg Lines.irqStatus (State.ev_lines s a b c w)).trans (lines_irqStatus _))
@[simp] theorem State.ev_dbRing (s : State) (a b c : Nat) (w : List (Nat × Nat)) : (State.ev s a b c w).host.dbRing = s.host.dbRing := (lines_dbRing _).symm.trans ((congrArg Lines.dbRing (State.ev_lines s a b c w)).trans (lines_dbRing _))
@[simp] theorem State.ev_dbCause (s : State) (a b c : Nat) (w : List (Nat × Nat)) : (State.ev s a b c w).host.dbCause = s.host.dbCause := (lines_dbCause _).symm.trans ((congrArg Lines.dbCause (State.ev_lines s a b c w)).trans (lines_dbCause _))
@[simp] theorem State.ev_dbFault (s : State) (a b c : Nat) (w : List (Nat × Nat)) : (State.ev s a b c w).host.dbFault = s.host.dbFault := (lines_dbFault _).symm.trans ((congrArg Lines.dbFault (State.ev_lines s a b c w)).trans (lines_dbFault _))
@[simp] theorem State.ev_dbOverrun (s : State) (a b c : Nat) (w : List (Nat × Nat)) : (State.ev s a b c w).host.dbOverrun = s.host.dbOverrun := (lines_dbOverrun _).symm.trans ((congrArg Lines.dbOverrun (State.ev_lines s a b c w)).trans (lines_dbOverrun _))
@[simp] theorem State.ev_resetBusy (s : State) (a b c : Nat) (w : List (Nat × Nat)) : (State.ev s a b c w).host.resetBusy = s.host.resetBusy := (lines_resetBusy _).symm.trans ((congrArg Lines.resetBusy (State.ev_lines s a b c w)).trans (lines_resetBusy _))
@[simp] theorem State.ev_cancelMiss (s : State) (a b c : Nat) (w : List (Nat × Nat)) : (State.ev s a b c w).host.cancelMiss = s.host.cancelMiss := (lines_cancelMiss _).symm.trans ((congrArg Lines.cancelMiss (State.ev_lines s a b c w)).trans (lines_cancelMiss _))
@[simp] theorem State.ev_irqPend (s : State) (a b c : Nat) (w : List (Nat × Nat)) : (State.ev s a b c w).host.irqPend = s.host.irqPend := (lines_irqPend _).symm.trans ((congrArg Lines.irqPend (State.ev_lines s a b c w)).trans (lines_irqPend _))
@[simp] theorem State.ev_irqLast (s : State) (a b c : Nat) (w : List (Nat × Nat)) : (State.ev s a b c w).host.irqLast = s.host.irqLast := (lines_irqLast _).symm.trans ((congrArg Lines.irqLast (State.ev_lines s a b c w)).trans (lines_irqLast _))
@[simp] theorem State.ev_lost (s : State) (a b c : Nat) (w : List (Nat × Nat)) : (State.ev s a b c w).host.lost = s.host.lost := (lines_lost _).symm.trans ((congrArg Lines.lost (State.ev_lines s a b c w)).trans (lines_lost _))
@[simp] theorem State.write'_irqStatus (s : State) (o : WOwner) (a : Nat) (d : List (Nat × List Byte)) (c : Option (Nat × List Byte)) : (State.write' s o a d c).host.irqStatus = s.host.irqStatus := (lines_irqStatus _).symm.trans ((congrArg Lines.irqStatus (State.write'_lines s o a d c)).trans (lines_irqStatus _))
@[simp] theorem State.write'_dbRing (s : State) (o : WOwner) (a : Nat) (d : List (Nat × List Byte)) (c : Option (Nat × List Byte)) : (State.write' s o a d c).host.dbRing = s.host.dbRing := (lines_dbRing _).symm.trans ((congrArg Lines.dbRing (State.write'_lines s o a d c)).trans (lines_dbRing _))
@[simp] theorem State.write'_dbCause (s : State) (o : WOwner) (a : Nat) (d : List (Nat × List Byte)) (c : Option (Nat × List Byte)) : (State.write' s o a d c).host.dbCause = s.host.dbCause := (lines_dbCause _).symm.trans ((congrArg Lines.dbCause (State.write'_lines s o a d c)).trans (lines_dbCause _))
@[simp] theorem State.write'_dbFault (s : State) (o : WOwner) (a : Nat) (d : List (Nat × List Byte)) (c : Option (Nat × List Byte)) : (State.write' s o a d c).host.dbFault = s.host.dbFault := (lines_dbFault _).symm.trans ((congrArg Lines.dbFault (State.write'_lines s o a d c)).trans (lines_dbFault _))
@[simp] theorem State.write'_dbOverrun (s : State) (o : WOwner) (a : Nat) (d : List (Nat × List Byte)) (c : Option (Nat × List Byte)) : (State.write' s o a d c).host.dbOverrun = s.host.dbOverrun := (lines_dbOverrun _).symm.trans ((congrArg Lines.dbOverrun (State.write'_lines s o a d c)).trans (lines_dbOverrun _))
@[simp] theorem State.write'_resetBusy (s : State) (o : WOwner) (a : Nat) (d : List (Nat × List Byte)) (c : Option (Nat × List Byte)) : (State.write' s o a d c).host.resetBusy = s.host.resetBusy := (lines_resetBusy _).symm.trans ((congrArg Lines.resetBusy (State.write'_lines s o a d c)).trans (lines_resetBusy _))
@[simp] theorem State.write'_cancelMiss (s : State) (o : WOwner) (a : Nat) (d : List (Nat × List Byte)) (c : Option (Nat × List Byte)) : (State.write' s o a d c).host.cancelMiss = s.host.cancelMiss := (lines_cancelMiss _).symm.trans ((congrArg Lines.cancelMiss (State.write'_lines s o a d c)).trans (lines_cancelMiss _))
@[simp] theorem State.write'_irqPend (s : State) (o : WOwner) (a : Nat) (d : List (Nat × List Byte)) (c : Option (Nat × List Byte)) : (State.write' s o a d c).host.irqPend = s.host.irqPend := (lines_irqPend _).symm.trans ((congrArg Lines.irqPend (State.write'_lines s o a d c)).trans (lines_irqPend _))
@[simp] theorem State.write'_irqLast (s : State) (o : WOwner) (a : Nat) (d : List (Nat × List Byte)) (c : Option (Nat × List Byte)) : (State.write' s o a d c).host.irqLast = s.host.irqLast := (lines_irqLast _).symm.trans ((congrArg Lines.irqLast (State.write'_lines s o a d c)).trans (lines_irqLast _))
@[simp] theorem State.write'_lost (s : State) (o : WOwner) (a : Nat) (d : List (Nat × List Byte)) (c : Option (Nat × List Byte)) : (State.write' s o a d c).host.lost = s.host.lost := (lines_lost _).symm.trans ((congrArg Lines.lost (State.write'_lines s o a d c)).trans (lines_lost _))
@[simp] theorem State.read_irqStatus (s : State) (o : ROwner) (a r t : Nat) : (State.read s o a r t).host.irqStatus = s.host.irqStatus := (lines_irqStatus _).symm.trans ((congrArg Lines.irqStatus (State.read_lines s o a r t)).trans (lines_irqStatus _))
@[simp] theorem State.read_dbRing (s : State) (o : ROwner) (a r t : Nat) : (State.read s o a r t).host.dbRing = s.host.dbRing := (lines_dbRing _).symm.trans ((congrArg Lines.dbRing (State.read_lines s o a r t)).trans (lines_dbRing _))
@[simp] theorem State.read_dbCause (s : State) (o : ROwner) (a r t : Nat) : (State.read s o a r t).host.dbCause = s.host.dbCause := (lines_dbCause _).symm.trans ((congrArg Lines.dbCause (State.read_lines s o a r t)).trans (lines_dbCause _))
@[simp] theorem State.read_dbFault (s : State) (o : ROwner) (a r t : Nat) : (State.read s o a r t).host.dbFault = s.host.dbFault := (lines_dbFault _).symm.trans ((congrArg Lines.dbFault (State.read_lines s o a r t)).trans (lines_dbFault _))
@[simp] theorem State.read_dbOverrun (s : State) (o : ROwner) (a r t : Nat) : (State.read s o a r t).host.dbOverrun = s.host.dbOverrun := (lines_dbOverrun _).symm.trans ((congrArg Lines.dbOverrun (State.read_lines s o a r t)).trans (lines_dbOverrun _))
@[simp] theorem State.read_resetBusy (s : State) (o : ROwner) (a r t : Nat) : (State.read s o a r t).host.resetBusy = s.host.resetBusy := (lines_resetBusy _).symm.trans ((congrArg Lines.resetBusy (State.read_lines s o a r t)).trans (lines_resetBusy _))
@[simp] theorem State.read_cancelMiss (s : State) (o : ROwner) (a r t : Nat) : (State.read s o a r t).host.cancelMiss = s.host.cancelMiss := (lines_cancelMiss _).symm.trans ((congrArg Lines.cancelMiss (State.read_lines s o a r t)).trans (lines_cancelMiss _))
@[simp] theorem State.read_irqPend (s : State) (o : ROwner) (a r t : Nat) : (State.read s o a r t).host.irqPend = s.host.irqPend := (lines_irqPend _).symm.trans ((congrArg Lines.irqPend (State.read_lines s o a r t)).trans (lines_irqPend _))
@[simp] theorem State.read_irqLast (s : State) (o : ROwner) (a r t : Nat) : (State.read s o a r t).host.irqLast = s.host.irqLast := (lines_irqLast _).symm.trans ((congrArg Lines.irqLast (State.read_lines s o a r t)).trans (lines_irqLast _))
@[simp] theorem State.read_lost (s : State) (o : ROwner) (a r t : Nat) : (State.read s o a r t).host.lost = s.host.lost := (lines_lost _).symm.trans ((congrArg Lines.lost (State.read_lines s o a r t)).trans (lines_lost _))
@[simp] theorem State.log_irqStatus (s : State) (a b c : Nat) (x y z : W64) : (State.log s a b c x y z).host.irqStatus = s.host.irqStatus := (lines_irqStatus _).symm.trans ((congrArg Lines.irqStatus (State.log_lines s a b c x y z)).trans (lines_irqStatus _))
@[simp] theorem State.log_dbRing (s : State) (a b c : Nat) (x y z : W64) : (State.log s a b c x y z).host.dbRing = s.host.dbRing := (lines_dbRing _).symm.trans ((congrArg Lines.dbRing (State.log_lines s a b c x y z)).trans (lines_dbRing _))
@[simp] theorem State.log_dbCause (s : State) (a b c : Nat) (x y z : W64) : (State.log s a b c x y z).host.dbCause = s.host.dbCause := (lines_dbCause _).symm.trans ((congrArg Lines.dbCause (State.log_lines s a b c x y z)).trans (lines_dbCause _))
@[simp] theorem State.log_dbFault (s : State) (a b c : Nat) (x y z : W64) : (State.log s a b c x y z).host.dbFault = s.host.dbFault := (lines_dbFault _).symm.trans ((congrArg Lines.dbFault (State.log_lines s a b c x y z)).trans (lines_dbFault _))
@[simp] theorem State.log_dbOverrun (s : State) (a b c : Nat) (x y z : W64) : (State.log s a b c x y z).host.dbOverrun = s.host.dbOverrun := (lines_dbOverrun _).symm.trans ((congrArg Lines.dbOverrun (State.log_lines s a b c x y z)).trans (lines_dbOverrun _))
@[simp] theorem State.log_resetBusy (s : State) (a b c : Nat) (x y z : W64) : (State.log s a b c x y z).host.resetBusy = s.host.resetBusy := (lines_resetBusy _).symm.trans ((congrArg Lines.resetBusy (State.log_lines s a b c x y z)).trans (lines_resetBusy _))
@[simp] theorem State.log_cancelMiss (s : State) (a b c : Nat) (x y z : W64) : (State.log s a b c x y z).host.cancelMiss = s.host.cancelMiss := (lines_cancelMiss _).symm.trans ((congrArg Lines.cancelMiss (State.log_lines s a b c x y z)).trans (lines_cancelMiss _))
@[simp] theorem State.log_irqPend (s : State) (a b c : Nat) (x y z : W64) : (State.log s a b c x y z).host.irqPend = s.host.irqPend := (lines_irqPend _).symm.trans ((congrArg Lines.irqPend (State.log_lines s a b c x y z)).trans (lines_irqPend _))
@[simp] theorem State.log_irqLast (s : State) (a b c : Nat) (x y z : W64) : (State.log s a b c x y z).host.irqLast = s.host.irqLast := (lines_irqLast _).symm.trans ((congrArg Lines.irqLast (State.log_lines s a b c x y z)).trans (lines_irqLast _))
@[simp] theorem State.log_lost (s : State) (a b c : Nat) (x y z : W64) : (State.log s a b c x y z).host.lost = s.host.lost := (lines_lost _).symm.trans ((congrArg Lines.lost (State.log_lines s a b c x y z)).trans (lines_lost _))

end Sys2Proof.Machine
end

