-- ==== Sys2Proof/Laws/StillStreams.lean ====
section
/-! SUPPORT. What the operations of Streams, Intake, Port, Stamp, Seal, Release leave as it was: the queue, the build, the registers, the fuses and the test port -/

set_option maxRecDepth 8000
set_option linter.unusedSimpArgs false
namespace Sys2Proof.Machine


/-! Streams. -/

@[simp] theorem copyAllow_still (cmd off n : Nat) (bs : List Byte) (s : State) : (copyAllow cmd off n bs s).still = s.still := by
  induction n generalizing s off bs with
  | zero => rfl
  | succ n ih => simp [copyAllow, ih]
@[simp] theorem State.opened_still (s : State) (c : Cmd) (h : ℕ) : (State.opened s c h).still = s.still := by
  simp [State.opened, still_ite]
@[simp] theorem loadCairn_still (s : State) (cmd : ℕ) (k : Cairn) : (loadCairn s cmd k).still = s.still := by
  simp [loadCairn, still_ite]
@[simp] theorem openStart_still (s : State) (c : Cmd) (a : OpenArgs) (o : OpenObj) (rc ridge : Nat) (pinned : Bool) :
    (openStart s c a o rc ridge pinned).still = s.still := by
  have h1 : ∀ (x : Option Nat) (n : Nat) (t : State), (match x with
      | some k => copyAllow c.id (allowOff t k) n a.allow t
      | none => t).still = t.still := by
    intro x n t; cases x <;> simp
  have h2 : ∀ (x : Option Cairn) (t : State), (match x with
      | some k => loadCairn t c.id k
      | none => t).still = t.still := by
    intro x t; cases x <;> simp
  unfold openStart
  dsimp only
  refine still_if (by simp) ?_
  refine (h2 _ _).trans ((h1 _ _ _).trans ?_)
  simp only [State.keep_still, still_ite, State.dynWrite_still, ite_self]
  simp
@[simp] theorem openBody_still (d : Desc) (allow : List Byte) (s : State) (c : Cmd) : (openBody d allow s c).still = s.still := by
  (unfold openBody; dsimp only; repeat' split) <;> simp [still_ite]
@[simp] theorem State.dropMasks_still (s : State) (h : ℕ) (g : List ℕ) : (State.dropMasks s h g).still = s.still := by
  rfl
@[simp] theorem State.switchback_still (s : State) (h : ℕ) (k : Option ℕ) : (State.switchback s h k).still = s.still := by
  simp [State.switchback, still_ite]
@[simp] theorem State.closeAt_still (s : State) (h : ℕ) (cmd : ℕ) : (State.closeAt s h cmd).still = s.still := by
  simp [State.closeAt, still_ite]
@[simp] theorem closeBody_still (x0 : Desc) (s : State) (c : Cmd) : (closeBody x0 s c).still = s.still := by
  rfl
@[simp] theorem bindBody_still (d : Desc) (s : State) (c : Cmd) : (bindBody d s c).still = s.still := by
  unfold bindBody; split <;> simp [still_ite]
@[simp] theorem unbindBody_still (x0 : Desc) (s : State) (c : Cmd) : (unbindBody x0 s c).still = s.still := by
  unfold unbindBody; split <;> simp [still_ite]
@[simp] theorem cancelBody_still (x0 : Desc) (s : State) (c : Cmd) : (cancelBody x0 s c).still = s.still := by
  simp [cancelBody, still_ite]
@[simp] theorem endCmd_still (s : State) (c : Cmd) : (endCmd s c).still = s.still := by
  unfold endCmd; split <;> simp [still_ite]
@[simp] theorem State.cancelAt_still (s : State) (st : Stream) (code : ℕ) (flags : ℕ) (event : Bool) : (State.cancelAt s st code flags event).still = s.still := by
  simp [State.cancelAt, still_ite]
@[simp] theorem State.takeCancel_still (s : State) (h : Nat) : (s.takeCancel h).still = s.still := by
  have e : ∀ (p q : Eff → Bool) x, (s.takeEff p).orElse (fun _ => s.takeEff q) = some x → x.2.still = s.still := by
    intro p q x hx
    cases h1 : s.takeEff p with
    | none => rw [h1] at hx; exact State.takeEff_still _ _ _ hx
    | some y => rw [h1] at hx; cases hx; exact State.takeEff_still _ _ _ h1
  unfold State.takeCancel
  dsimp only
  split
  · rename_i heq
    have := e _ _ _ heq
    refine still_if (by simpa using this) ?_
    split <;> simpa using this
  · rfl

/-! Intake. -/

@[simp] theorem askPart_still (s : State) (ring : ℕ) (h : ℕ) (cmd : ℕ) (addr : ℕ) (len : ℕ) (k : ℕ) : (askPart s ring h cmd addr len k).still = s.still := by
  simp [askPart, still_ite]
@[simp] theorem setJob_still (s : State) (h : ℕ) (cmd : ℕ) (f : Ingest → Ingest) : (setJob s h cmd f).still = s.still := by
  simp [setJob, still_ite]
@[simp] theorem refuseRest_still (s : State) (h : Nat) : (refuseRest s h).still = s.still := by
  unfold refuseRest
  split
  · split
    · exact still_foldl _ (fun s j => by split <;> simp) _ _
    · rfl
  · rfl
@[simp] theorem State.viewGen_still (s : State) (g : List ℕ) : (State.viewGen s g).still = s.still := by
  rfl
@[simp] theorem State.takeTok_still (s : State) (h : ℕ) (t : TokOut) : (State.takeTok s h t).still = s.still := by
  unfold State.takeTok; split <;> simp
@[simp] theorem State.writeToks_still (s : State) (h a b : ℕ) : (State.writeToks s h a b).still = s.still := by
  (unfold State.writeToks; dsimp only; repeat' split) <;> simp [still_ite]
@[simp] theorem State.writeRowsOf_still (s : State) (h a b : ℕ) : (State.writeRowsOf s h a b).still = s.still := by
  simp [State.writeRowsOf, still_ite]
@[simp] theorem segDone_still (s : State) (st : Stream) (j : Ingest) (ps : List PreTok) (l : Bool) (c : List Byte) :
    (segDone s st j ps l c).still = s.still := by
  simp [segDone, still_ite]
@[simp] theorem State.stopJob_still (s : State) (h : ℕ) (j : Ingest) (k : ℕ) : (State.stopJob s h j k).still = s.still := by
  unfold State.stopJob; dsimp only; rw [refuseRest_still]; split <;> simp
@[simp] theorem needTile_still (s : State) (st : Stream) : (needTile s st).2.still = s.still := by
  (unfold needTile; dsimp only; repeat' split) <;> simp [still_ite]
@[simp] theorem State.runJobs_still (n h : Nat) (s : State) : (s.runJobs n h).still = s.still := by
  induction n generalizing s with
  | zero => rfl
  | succ n ih =>
    have tile (c : Prop) [Decidable c] {st : Stream} {t : State} (h : (if c then (none, s) else needTile s st).2 = t) : t.still = s.still := by
      rw [← h]; split <;> simp
    unfold State.runJobs
    split
    · rfl
    · split
      · rfl
      · refine still_if rfl ?_
        split
        · rename_i u k t q
          have e : t.still = s.still := tile _ (congrArg Prod.snd q)
          exact still_if (by simp [e]) (still_if rfl (by simp [e]))
        · rename_i t q
          have e : t.still = s.still := tile _ (congrArg Prod.snd q)
          rw [ih]; simp [e]
@[simp] theorem State.runStream_still (s : State) (h : ℕ) : (State.runStream s h).still = s.still := by
  simp [State.runStream, still_ite]
@[simp] theorem ingestBody_still (d : Desc) (s : State) (c : Cmd) : (ingestBody d s c).still = s.still := by
  unfold ingestBody; split <;> simp [still_ite]
@[simp] theorem State.ingestData_still (s : State) (ring : ℕ) (h : ℕ) (cmd : ℕ) (part : ℕ) (data : List Byte) : (State.ingestData s ring h cmd part data).still = s.still := by
  unfold State.ingestData; split <;> simp [still_ite]
@[simp] theorem State.ingestDone_still (s : State) (h : ℕ) : (State.ingestDone s h).still = s.still := by
  (unfold State.ingestDone; dsimp only; repeat' split) <;> simp [still_ite]
@[simp] theorem State.chunkDone_still (s : State) (h : ℕ) : (State.chunkDone s h).still = s.still := by
  (unfold State.chunkDone; dsimp only; repeat' split) <;> simp [still_ite]

/-! Port. -/

@[simp] theorem State.slotFault_still (s : State) (st : Stream) : (State.slotFault s st).still = s.still := by
  simp [State.slotFault, still_ite]
@[simp] theorem State.closePart_still (s : State) (h : ℕ) (slot : ℕ) (p : StepPart) : (State.closePart s h slot p).still = s.still := by
  simp [State.closePart, still_ite]
@[simp] theorem State.stageFrame_still (s : State) (id : ℕ) (f : Feats) : (State.stageFrame s id f).still = s.still := by
  rfl
@[simp] theorem State.takeRec_still (s : State) (st : Stream) (p : StepPart) (k : ℕ) (w : W64) : (State.takeRec s st p k w).still = s.still := by
  (unfold State.takeRec; dsimp only; repeat' split) <;> simp [still_ite]
@[simp] theorem State.partRecord_still (s : State) (st : Stream) (k : ℕ) (w : W64) : (State.partRecord s st k w).still = s.still := by
  (unfold State.partRecord; repeat' split) <;> simp [still_ite]
@[simp] theorem State.portRecord_still (s : State) (k : ℕ) (w : W64) : (State.portRecord s k w).still = s.still := by
  (unfold State.portRecord; repeat' split) <;> simp [still_ite]
@[simp] theorem State.spanFrame_still (s : State) (st : Stream) (slot : ℕ) (start : ℕ) (f : Feats) : (State.spanFrame s st slot start f).still = s.still := by
  (unfold State.spanFrame; dsimp only; repeat' split) <;> simp [still_ite]
@[simp] theorem State.tokenFrame_still (s : State) (st : Stream) (slot : ℕ) (step : ℕ) (k : ℕ) (node : ℕ) (f : Feats) : (State.tokenFrame s st slot step k node f).still = s.still := by
  (unfold State.tokenFrame; dsimp only; repeat' split) <;> simp [still_ite]
@[simp] theorem State.frame_still (s : State) (x1 : FrameIn) : (State.frame s x1).still = s.still := by
  (unfold State.frame; dsimp only; repeat' split) <;> simp [still_ite]
@[simp] theorem State.stepTimeout_still (s : State) (slot : ℕ) : (State.stepTimeout s slot).still = s.still := by
  (unfold State.stepTimeout; repeat' split) <;> simp [still_ite]

/-! Stamp. -/

@[simp] theorem State.endBut_still (s : State) (h code : ℕ) (keep : Option ℕ) : (State.endBut s h code keep).still = s.still := by
  unfold State.endBut
  split
  · rfl
  · refine still_if rfl ?_
    extract_lets t u
    have hu : u.still = s.still := still_if (State.switchback_still _ _ _) ((still_foldl _ (fun s k => by simp) _ _).trans rfl)
    clear_value u
    exact (State.setStream_still _ _ _).trans hu
@[simp] theorem State.endAt_still (s : State) (h : ℕ) (code : ℕ) : (State.endAt s h code).still = s.still := State.endBut_still _ _ _ _
@[simp] theorem State.stampMask_still (s : State) (st : Stream) (slot : ℕ) (step : ℕ) (node : ℕ) (kind : ℕ) (cause : ℕ) (rid : Option ℕ) (g : Option Gram) : (State.stampMask s st slot step node kind cause rid g).still = s.still := by
  simp [State.stampMask, still_ite]
@[simp] theorem State.bindNow_still (s : State) (h : ℕ) (slot : Option ℕ) (cmd : ℕ) : (State.bindNow s h slot cmd).still = s.still := by
  (unfold State.bindNow; repeat' split) <;> simp [still_ite]
@[simp] theorem State.stampRec_still (s : State) (st : Stream) (r : Rec) (f : Rec → Rec) : (State.stampRec s st r f).still = s.still := by
  simp [State.stampRec, still_ite]
@[simp] theorem State.drawRec_still (s : State) (st : Stream) : (State.drawRec s st).2.still = s.still := by
  unfold State.drawRec; split <;> simp [still_ite]
@[simp] theorem State.stampChunk_still (s : State) (st : Stream) (r : Rec) : (State.stampChunk s st r).still = s.still := by
  simp [State.stampChunk, still_ite]
@[simp] theorem gramFlags_still (s : State) (died : Bool) (escaped : Bool) : (gramFlags s died escaped).still = s.still := by
  rfl
@[simp] theorem State.tokenPart_still (s : State) (st : Stream) (r : Rec) : (State.tokenPart s st r).still = s.still := by
  simp [State.tokenPart, still_ite]
@[simp] theorem State.committedPart_still (s : State) (st : Stream) (r : Rec) : (State.committedPart s st r).still = s.still := by
  (unfold State.committedPart; dsimp only; repeat' split) <;> simp [still_ite]
@[simp] theorem State.draftPart_still (s : State) (st : Stream) (r : Rec) : (State.draftPart s st r).still = s.still := by
  simp [State.draftPart, still_ite]
@[simp] theorem State.draftStamp_still (s : State) (st : Stream) (r : Rec) : (State.draftStamp s st r).still = s.still := by
  simp [State.draftStamp, still_ite]
@[simp] theorem State.uncharge_still (s : State) (r : Rec) : (State.uncharge s r).still = s.still := by
  unfold State.uncharge
  dsimp only
  cases s.streams.find? fun x => x.2.handle == r.h <;> simp [still_ite]
@[simp] theorem State.raiseDelays_still (s : State) : (State.raiseDelays s).still = s.still := by
  simp [State.raiseDelays]
@[simp] theorem State.deadPath_still (s : State) (st : Stream) (ids : List ℕ) : (State.deadPath s st ids).still = s.still := by
  unfold State.deadPath; split <;> simp
@[simp] theorem State.markerAt_still (s : State) (st : Stream) (r : Rec) : (State.markerAt s st r).still = s.still := by
  unfold State.markerAt
  extract_lets drop
  refine still_if (State.switchback_still _ _ _) ?_
  dsimp only
  refine still_if ?_ ?_
  · simp only [State.endBut_still, State.deadPath_still, State.setStream_still]
    refine (still_foldl _ (fun s id => by split <;> simp) _ _).trans ?_
    exact (State.dropMasks_still _ _ _).trans ((State.count_still _ _ _).trans ((State.count_still _ 44 1).trans (State.stampRec_still _ _ _ _)))
  · simp only [State.deadPath_still, State.setStream_still]
    refine (still_foldl _ (fun s id => by split <;> simp) _ _).trans ?_
    exact (State.dropMasks_still _ _ _).trans ((State.count_still _ _ _).trans ((State.count_still _ 44 1).trans (State.stampRec_still _ _ _ _)))
@[simp] theorem State.endedPart_still (s : State) (st : Stream) (r : Rec) : (State.endedPart s st r).still = s.still := by
  (unfold State.endedPart; repeat' split) <;> simp [still_ite]
@[simp] theorem State.stampOne_still (a : State × List Nat) (id : Nat) : (State.stampOne a id).1.still = a.1.still := by
  unfold State.stampOne
  dsimp only
  repeat' split
  all_goals simp_all
@[simp] theorem State.stampAll_still (s : State) : s.stampAll.still = s.still := by
  refine (still_foldlP _ (fun s a => by simp) _ _).trans rfl
@[simp] theorem State.shedRec_still (s : State) (r : Rec) (code : ℕ) : (State.shedRec s r code).still = s.still := by
  simp [State.shedRec, still_ite]
@[simp] theorem State.holdStack_still (s : State) (r : Rec) : (State.holdStack s r).still = s.still := by
  simp [State.holdStack]
theorem planItems_still (l : List Nat) : ∀ (s : State) (used : List Nat) (x : State × List Nat), planItems s used l = some x → x.1.still = s.still := by
  induction l with
  | nil => intro s used x h; cases h; rfl
  | cons a l ih =>
    intro s used x h
    unfold planItems at h
    split at h
    · split at h
      · cases h
      · rw [Option.map_eq_some_iff] at h
        obtain ⟨y, hy, rfl⟩ := h
        exact (ih _ _ _ hy).trans rfl
    · cases h
theorem planSegs_still (l : List (List Nat)) : ∀ (a x : State × List Nat),
    l.foldl (fun (acc : Option (State × List Nat)) w => acc.bind fun a => (planItems a.1 [] w).map fun y => (y.1, a.2 ++ y.2)) (some a) = some x →
    x.1.still = a.1.still := by
  have hn : ∀ l : List (List Nat), l.foldl (fun (acc : Option (State × List Nat)) w =>
      acc.bind fun a => (planItems a.1 [] w).map fun y => (y.1, a.2 ++ y.2)) none = none := by
    intro l; induction l with
    | nil => rfl
    | cons w l ih => exact ih
  induction l with
  | nil => intro a x h; cases h; rfl
  | cons w l ih =>
    intro a x h
    rw [List.foldl_cons, Option.bind_some] at h
    cases hp : planItems a.1 [] w with
    | none => rw [hp, Option.map_none, hn] at h; cases h
    | some y => rw [hp, Option.map_some] at h; exact (ih _ _ h).trans (show y.1.still = a.1.still from planItems_still _ _ _ _ hp)
theorem planStack_still (s : State) (r : Rec) (d : Demand) (x : State × Option Nat × List Nat) (h : planStack s r d = some x) : x.1.still = s.still := by
  unfold planStack at h
  split at h
  · cases h; rfl
  · extract_lets p wide narrow one at h
    have h1 : ∀ y, one = some y → y.1.still = s.still := by
      intro y hy
      simp only [one] at hy
      split at hy
      · cases hy; rfl
      · split at hy
        · split at hy
          · cases hy; rfl
          · cases hy
        · cases hy
    clear_value one
    cases one with
    | none => cases h
    | some y =>
      rw [Option.bind_some, Option.map_eq_some_iff] at h
      obtain ⟨z, hz, rfl⟩ := h
      exact (planSegs_still _ _ _ hz).trans (h1 _ rfl)
@[simp] theorem planOne_still (a : State × AMap (List ℕ)) (id : Nat) : (planOne a id).1.still = a.1.still := by
  unfold planOne
  dsimp only
  split
  · rfl
  · split
    · rfl
    · split
      · rename_i h
        have e := planStack_still _ _ _ _ h
        dsimp only at e ⊢
        split <;> simp [e]
      · simp
@[simp] theorem planMask_still (s : State) (m : MaskJ) : (planMask s m).still = s.still := by
  unfold planMask
  dsimp only
  split
  · split <;> rfl
  · rfl
@[simp] theorem planLate_still (s : State) (r : Rec) (m : ModelR) : (planLate s r m).still = s.still := by
  unfold planLate
  exact still_if (still_if rfl rfl) (still_if (still_if rfl rfl) rfl)
@[simp] theorem State.planBeat_still (s : State) : s.planBeat.still = s.still := by
  unfold State.planBeat
  refine (still_foldlP _ (fun s a => by simp) _ _).trans ((still_foldl _ (fun s m => by simp) _ _).trans ?_)
  exact (still_foldl _ (fun s r => still_foldl _ (fun s m => by simp) _ _) _ _).trans rfl
@[simp] theorem State.maskOut_still (s : State) (m : MaskJ) : (State.maskOut s m).still = s.still := by
  simp [State.maskOut, still_ite]
@[simp] theorem writeMasks_still (n w : Nat) (s : State) : (writeMasks n w s).1.still = s.still := by
  induction n generalizing s w with
  | zero => rfl
  | succ n ih =>
    unfold writeMasks
    split
    · rfl
    · dsimp only
      repeat' split
      all_goals simp [ih]
@[simp] theorem State.maskBeat_still (s : State) : (State.maskBeat s).still = s.still := by
  simp [State.maskBeat, still_ite]

/-! Seal. -/

@[simp] theorem State.adoptPath_still (s : State) (st : Stream) (r : Rec) : (State.adoptPath s st r).still = s.still := by
  simp [State.adoptPath, still_ite]
@[simp] theorem State.putCtx_still (s : State) (r : Rec) (c : Ctx) : (State.putCtx s r c).still = s.still := by
  simp [State.putCtx, still_ite]
@[simp] theorem State.screenTok_still (s : State) (st : Stream) (r : Rec) : (State.screenTok s st r).still = s.still := by
  (unfold State.screenTok; dsimp only; repeat' split) <;> simp [still_ite]
@[simp] theorem State.screenSpan_still (s : State) (r : Rec) : (State.screenSpan s r).still = s.still := by
  (unfold State.screenSpan; dsimp only; repeat' split) <;> simp [still_ite]
@[simp] theorem State.waitRec_still (s : State) (id : ℕ) (ks : List (ℕ × ℕ)) : (State.waitRec s id ks).still = s.still := by
  rfl
@[simp] theorem State.computeRec_still (s : State) (id : ℕ) : (State.computeRec s id).still = s.still := by
  have fit (c : Prop) [Decidable c] {r : Rec} {q : Bool × State} (h : (if c then s.fitRedo r true else (true, s)) = q) : q.2.still = s.still := by
    rw [← h]; split <;> simp
  unfold State.computeRec
  split
  · rfl
  · split
    · rfl
    · split
      rename_i f t q
      have e := fit _ q
      dsimp only at e ⊢
      refine still_if e ?_
      split
      all_goals first | exact still_if (by simpa using e) (by simpa using e) | simpa using e
@[simp] theorem State.computeBeat_still (s : State) : (State.computeBeat s).still = s.still := by
  simp [State.computeBeat, still_ite]
@[simp] theorem State.depRound_still (s : State) (r : Rec) (m : ModelR) : (State.depRound s r m).still = s.still := by
  simp [State.depRound, still_ite]
@[simp] theorem State.depRounds_still (s : State) : (State.depRounds s).still = s.still := by
  simp [State.depRounds, still_ite]
@[simp] theorem State.putAccs_still (s : State) (r : Rec) (c : Ctx) : (State.putAccs s r c).still = s.still := by
  simp [State.putAccs, still_ite]
@[simp] theorem State.foldNew_still (s : State) (r : Rec) : (State.foldNew s r).still = s.still := by
  unfold State.foldNew
  split
  · refine still_if ?_ rfl
    dsimp only
    simp
  · rfl
@[simp] theorem traceScores_still (s : State) (r : Rec) (vs : List (ℕ × List W32)) : (traceScores s r vs).still = s.still := by
  simp [traceScores, still_ite]
@[simp] theorem State.sealRec_still (s : State) (m : List (W32 × Nat)) (id : Nat) : (s.sealRec m id).still = s.still := by
  unfold State.sealRec
  split
  · rfl
  · split
    · rfl
    · simp
@[simp] theorem State.giveUp_still (s : State) (id : ℕ) (v : ℕ) : (State.giveUp s id v).still = s.still := by
  (unfold State.giveUp; repeat' split) <;> simp [still_ite]
@[simp] theorem State.sealMissing_still (s : State) (id : ℕ) : (State.sealMissing s id).still = s.still := by
  simp [State.sealMissing, still_ite]
@[simp] theorem State.expire_still (s : State) (id : ℕ) : (State.expire s id).still = s.still := by
  simp [State.expire, still_ite]
@[simp] theorem State.sealBeat_still (s : State) (m : List (W32 × Nat)) : (s.sealBeat m).still = s.still := by
  unfold State.sealBeat
  dsimp only
  refine (still_foldl _ (fun s a => by simp) _ _).trans ?_
  refine (still_foldl _ (fun s a => by simp) _ _).trans ?_
  refine (still_foldl _ (fun s a => by simp) _ _).trans ?_
  simp

/-! Release. -/

@[simp] theorem State.dropRec_still (s : State) (id : ℕ) : (State.dropRec s id).still = s.still := by
  rfl
@[simp] theorem State.releaseChunk_still (s : State) (st : Stream) (r : Rec) : (State.releaseChunk s st r).still = s.still := by
  simp [State.releaseChunk, still_ite]
@[simp] theorem State.releaseSpan_still (s : State) (st : Stream) (r : Rec) : (State.releaseSpan s st r).still = s.still := by
  simp [State.releaseSpan, still_ite]
@[simp] theorem State.finishInput_still (s : State) (st : Stream) : (State.finishInput s st).still = s.still := by
  simp [State.finishInput, still_ite]
@[simp] theorem State.gatePut_still (s : State) (st : Stream) (step : ℕ) (due : ℕ) (es : List EgEntry) : (State.gatePut s st step due es).still = s.still := by
  simp [State.gatePut, still_ite]
@[simp] theorem State.gateStream_still (s : State) (h : ℕ) : (State.gateStream s h).still = s.still := by
  have put (st : Stream) (due : ℕ → ℕ) (es : ℕ → List EgEntry) (l : List ℕ) (t : State) :
      (l.foldl (fun s k => s.gatePut st k (due k) (es k)) t).still = t.still := still_foldl _ (fun s k => by simp) l t
  unfold State.gateStream
  split
  · rfl
  · rfl
  · refine still_if ?_ ?_
    · exact (still_foldl _ (fun s k => by simp) _ _).trans (still_foldl _ (fun s r => by simp) _ _)
    · refine (put _ _ _ _ _).trans ?_
      simp
@[simp] theorem State.releaseEnds_still (s : State) : s.releaseEnds.still = s.still := by
  unfold State.releaseEnds
  refine still_foldl _ (fun s a => ?_) _ _
  dsimp only
  split <;> simp
@[simp] theorem State.releaseTail_still (s : State) (h : ℕ) : (State.releaseTail s h).still = s.still := by
  unfold State.releaseTail; split <;> simp [still_ite]
@[simp] theorem State.releaseClose_still (s : State) (h : ℕ) : (State.releaseClose s h).still = s.still := by
  unfold State.releaseClose; split <;> simp [still_ite]
@[simp] theorem State.finishClose_still (s : State) (h : ℕ) : (State.finishClose s h).still = s.still := by
  (unfold State.finishClose; repeat' split) <;> simp [still_ite]
@[simp] theorem State.formBatches_still (s : State) (k : ℕ) : (State.formBatches s k).still = s.still := by
  (unfold State.formBatches; dsimp only; repeat' split) <;> simp [still_ite]
theorem State.writeBatch_still (s : State) (k : Nat) (e : RingEntry) (b : Batch) : ∀ x, s.writeBatch k e b = some x → x.still = s.still := by
  intro x h
  unfold State.writeBatch at h
  dsimp only at h
  simp only [Option.ite_none_left_eq_some, Option.some.injEq] at h
  obtain ⟨_, rfl⟩ := h
  refine (still_foldl _ (fun s a => by simp) _ _).trans ?_
  split <;> simp
@[simp] theorem State.writeBatches_still (n k : Nat) (s : State) : (s.writeBatches n k).still = s.still := by
  induction n generalizing s with
  | zero => rfl
  | succ n ih =>
    unfold State.writeBatches
    dsimp only
    split
    · split
      · rename_i h; simp [ih, State.writeBatch_still _ _ _ _ _ h]
      · rfl
    · rfl
@[simp] theorem State.writeCpls_still (n k : Nat) (s : State) : (s.writeCpls n k).still = s.still := by
  induction n generalizing s with
  | zero => rfl
  | succ n ih =>
    unfold State.writeCpls
    dsimp only
    split
    · split
      · rfl
      · simp [ih]
    · rfl
@[simp] theorem State.forwardRec_still (s : State) (r : Rec) : (State.forwardRec s r).still = s.still := by
  simp [State.forwardRec, still_ite]
@[simp] theorem State.forwardAll_still (s : State) : (State.forwardAll s).still = s.still := by
  simp [State.forwardAll, still_ite]
@[simp] theorem State.releaseInputs_still (s : State) : s.releaseInputs.still = s.still := by
  unfold State.releaseInputs
  refine still_foldl _ (fun s a => ?_) _ _
  repeat' split
  all_goals simp
@[simp] theorem State.sendWaiting_still (s : State) (h : ℕ) : (State.sendWaiting s h).still = s.still := by
  unfold State.sendWaiting
  repeat' split
  all_goals simp
@[simp] theorem State.releaseRecs_still (s : State) : s.releaseRecs.still = s.still := by
  have h2 : ∀ (l : List Nat) (t : State), (if t.isTail then l.foldl State.gateStream t else t.forwardAll).still = t.still :=
    fun l t => still_if (still_foldl _ (fun s h => by simp) l t) (by simp)
  have h3 : ∀ t : State, (if t.isTail then t.releaseEnds else t).still = t.still := fun t => still_if (State.releaseEnds_still t) rfl
  have h4 : ∀ (l : List Nat) (t : State), (l.foldl State.releaseClose
      (if (l.foldl State.releaseTail t).isTail then l.foldl State.sendWaiting (l.foldl State.releaseTail t) else l.foldl State.releaseTail t)).still = t.still :=
    fun l t => (still_foldl _ (fun s h => by simp) l _).trans
      ((still_if (still_foldl _ (fun s h => by simp) l _) rfl).trans (still_foldl _ (fun s h => by simp) l t))
  unfold State.releaseRecs
  generalize hq : s.releaseInputs = q
  rw [← State.releaseInputs_still s, hq]
  dsimp only
  rw [h4, h3]
  exact (h2 _ _).trans (still_foldl _ (fun s h => by split <;> simp) _ _)
@[simp] theorem State.releaseRings_still (s : State) : (State.releaseRings s).still = s.still := by
  simp [State.releaseRings, still_ite]
@[simp] theorem State.egressStall_still (s : State) (k : ℕ) : (State.egressStall s k).still = s.still := by
  simp [State.egressStall, still_ite]

end Sys2Proof.Machine
end

