-- ==== Sys2Proof/Laws/StillStores.lean ====
section
/-! SUPPORT. What the operations of Cairns, Placement, Images, Match, Background, Stack leave as it was: the queue, the build, the registers, the fuses and the test port -/

set_option maxRecDepth 8000
set_option linter.unusedSimpArgs false
namespace Sys2Proof.Machine


/-! Cairns. -/

@[simp] theorem State.newCairn_still (s : State) (h t : Nat) (ps : List Nat) : (s.newCairn h t ps).2.still = s.still := by
  unfold State.newCairn
  dsimp only
  split <;> simp
@[simp] theorem saveBody_still (d : Desc) (s : State) (c : Cmd) : (saveBody d s c).still = s.still := by
  unfold saveBody
  generalize dfld d 2 63 0 = h
  generalize dbit d 3 0 = rp
  split
  · exact State.finish_still ..
  · rename_i st _
    generalize saveStatic s st = ok
    cases ok
    · exact State.finish_still ..
    · simp only [Bool.not_true, Bool.false_eq_true, if_false]
      split
      · split
        · exact still_if (State.finish_still ..) (State.keep_still ..)
        · exact State.keep_still ..
      · generalize AMap.get? s.cairns h = o
        cases o
        · dsimp only
          exact still_if ((State.finish_still ..).trans (State.newCairn_still ..)) ((State.keep_still ..).trans (State.newCairn_still ..))
        · rename_i k
          dsimp only
          generalize decide (k.tenant ≠ st.tenant) = q
          cases q <;> cases rp <;> first | exact State.finish_still .. | exact State.keep_still ..
@[simp] theorem State.cairnFor_still (s : State) (handle : ℕ) (tenant : ℕ) : (State.cairnFor s handle tenant).2.still = s.still := by
  (unfold State.cairnFor; repeat' split) <;> simp [still_ite]
@[simp] theorem State.saveAt_still (s : State) (c : Cmd) (st : Stream) (h rp : Nat) : (s.saveAt c st h rp).still = s.still := by
  have e := State.cairnFor_still s h st.tenant
  unfold State.saveAt
  split
  · rename_i q; rw [q] at e; simpa using e
  · rename_i k t q
    rw [q] at e
    rw [← show t.still = s.still from e]
    clear q e
    refine still_if (by simp) ?_
    generalize (match k.current with | some (l, g) => (1 - l, (g + 1) % 2 ^ 32) | none => (0, 1)) = z
    obtain ⟨l, g⟩ := z
    simp
@[simp] theorem State.sendSave_still (s : State) (c : Cmd) : (State.sendSave s c).still = s.still := by
  unfold State.sendSave
  split
  · split
    · exact still_if rfl (still_if (by simp) (by simp))
    · rfl
  · rfl
@[simp] theorem State.pumpSaves_still (s : State) : (State.pumpSaves s).still = s.still := by
  simp [State.pumpSaves]
@[simp] theorem State.saveQuiet_still (s : State) (h : ℕ) : (State.saveQuiet s h).still = s.still := by
  unfold State.saveQuiet
  split
  · exact still_if (by simp) rfl
  · rfl
@[simp] theorem State.saveTimeout_still (s : State) (h : ℕ) : (State.saveTimeout s h).still = s.still := by
  unfold State.saveTimeout; split <;> simp [still_ite]
@[simp] theorem State.cairnWritten_still (s : State) (cmd : ℕ) : (State.cairnWritten s cmd).still = s.still := by
  (unfold State.cairnWritten; repeat' split) <;> simp [still_ite]
@[simp] theorem State.cairnCleared_still (s : State) (cmd : ℕ) : (State.cairnCleared s cmd).still = s.still := by
  (unfold State.cairnCleared; repeat' split) <;> simp [still_ite]
@[simp] theorem resumeBody_still (d : Desc) (s : State) (c : Cmd) : (resumeBody d s c).still = s.still := by
  (unfold resumeBody; dsimp only; repeat' split) <;> simp [still_ite]
@[simp] theorem State.pumpRetires_still (s : State) : s.pumpRetires.still = s.still := by
  unfold State.pumpRetires
  refine still_foldl _ (fun s a => ?_) _ _
  repeat' split
  all_goals simp
@[simp] theorem retireBody_still (d : Desc) (s : State) (c : Cmd) : (retireBody d s c).still = s.still := by
  (unfold retireBody; dsimp only; repeat' split) <;> simp [still_ite]
@[simp] theorem State.dropCairn_still (s : State) (h : ℕ) : (State.dropCairn s h).still = s.still := by
  rfl
theorem newCairn_elim_still (s : State) (h : ℕ) (ps : List ℕ) (o : Option (ℕ × ℕ)) : (o.elim s fun x => (s.newCairn h x.2 ps).2).still = s.still := by
  cases o with
  | none => rfl
  | some x => exact State.newCairn_still s h x.2 ps
@[simp] theorem State.giveHeir_still (s : State) (h : ℕ) : (State.giveHeir s h).still = s.still := newCairn_elim_still s h _ _
@[simp] theorem State.retireCleared_still (s : State) (cmd : ℕ) : (State.retireCleared s cmd).still = s.still := by
  (unfold State.retireCleared; repeat' split) <;> simp [still_ite]
@[simp] theorem cairnFailLog_still (s : State) (handle : ℕ) (e : ℕ × ℕ) : (cairnFailLog s handle e).still = s.still := by
  simp [cairnFailLog, still_ite]
@[simp] theorem State.openStep_still (s : State) (cmd : ℕ) (load : Option (ℕ × List Byte)) : (State.openStep s cmd load).still = s.still := by
  (unfold State.openStep; dsimp only; repeat' split) <;> simp [still_ite]
@[simp] theorem State.cairnLoaded_still (s : State) (cmd : ℕ) (loc : ℕ) (bs : List Byte) : (State.cairnLoaded s cmd loc bs).still = s.still := by
  (unfold State.cairnLoaded; dsimp only; repeat' split) <;> simp [still_ite]

/-! Placement. -/

@[simp] theorem placeOnce_still (s : State) (ridges : List ℕ) (n : ℕ) : (placeOnce s ridges n).2.still = s.still := by
  simp [placeOnce, still_ite]
@[simp] theorem State.putCopy_still (s : State) (w : ℕ) (rs : List EntryRec) (os : List Offer) : (State.putCopy s w rs os).still = s.still := by
  unfold State.putCopy
  exact (still_foldl _ (fun s x => by simp) _ _).trans rfl
theorem placeSet_still (s : State) (p : PatSetImg) (banks : List Nat) : ∀ x, placeSet s p banks = some x → x.2.still = s.still := by
  intro x hx
  unfold placeSet at hx
  rw [← State.pick_still s banks.length]
  generalize s.pick banks.length = q at hx ⊢
  obtain ⟨cs, -, rfl⟩ := Option.map_eq_some_iff.mp hx
  exact still_foldl _ (fun s c => by simp) _ _

/-! Images. -/

theorem placeBody_still (s : State) (b : ImgBody) (r : List Nat) : ∀ x, placeBody s b r = some x → x.2.still = s.still := by
  have e1 : ∀ n tree x, (match placeOnce s r n with
      | (some m, s) => some ((m, if tree = true then r else (m.map fun x => x.2 / 16).eraseDups, ([] : List (Nat × Nat × Nat))), s)
      | _ => none) = some x → x.2.still = s.still := by
    intro n tree x h
    split at h
    · rename_i q; cases h
      have := placeOnce_still s r n
      rw [q] at this; exact this
    · cases h
  have e2 : ∀ {α : Type} (o : Option α) (g : α → AMap Nat) (rs : List Nat) x, o.map (fun m => ((g m, rs, ([] : List (Nat × Nat × Nat))), s)) = some x → x.2.still = s.still := by
    intro α o g rs x h
    cases o with
    | none => cases h
    | some m => cases h; rfl
  intro x h
  cases b with
  | vocabulary v => exact e1 _ _ _ (Option.ite_none_right_eq_some.mp h).2
  | maskDictionary m => cases h; rfl
  | grammar g => exact e2 _ (fun m => m) _ _ (Option.ite_none_right_eq_some.mp h).2
  | patternSet p =>
    obtain ⟨y, hy, rfl⟩ := Option.map_eq_some_iff.mp h
    exact placeSet_still _ _ _ _ hy
  | automaton a => cases (Option.ite_none_right_eq_some.mp h).2; rfl
  | probeHead p => exact e1 _ false _ h
  | treeEnsemble e => cases (Option.ite_none_right_eq_some.mp h).2; rfl
  | probeDelta d => exact e2 _ (fun m => m) _ _ h
  | treeDelta d => cases (Option.ite_none_right_eq_some.mp h).2; rfl
  | policy p => cases h; rfl
@[simp] theorem pumpLoad_still (n cmd : Nat) (s : State) : (pumpLoad n cmd s).still = s.still := by
  induction n generalizing s with
  | zero => rfl
  | succ n ih =>
    unfold pumpLoad
    split
    · rfl
    · split
      · split
        · rfl
        · exact still_if rfl (by simp [ih])
      · rfl
@[simp] theorem State.loadStep_still (s : State) (cmd : ℕ) (tiles : ℕ) (parts : ℕ) : (State.loadStep s cmd tiles parts).still = s.still := by
  (unfold State.loadStep; repeat' split) <;> simp [still_ite]
@[simp] theorem State.pumpLoads_still (s : State) : (State.pumpLoads s).still = s.still := by
  unfold State.pumpLoads
  exact still_if rfl (still_foldl _ (fun s c => by simp) _ _)
@[simp] theorem writeParts_still (s : State) (slot : ℕ) (i : Img) : (writeParts s slot i).still = s.still := by
  simp [writeParts, still_ite]
theorem State.installImage_still (s : State) (slot : Nat) (h : ImgHdr) (b : ImgBody) (img : List Byte) :
    ∀ x, s.installImage slot h b img = some x → x.still = s.still := by
  intro x hx
  unfold State.installImage at hx
  split at hx
  · cases hx
  · rename_i q
    have := placeBody_still _ _ _ _ (Option.ite_none_left_eq_some.mp q).2
    dsimp only at hx
    rw [Option.some.injEq] at hx
    subst hx
    simpa using this
@[simp] theorem loadBody_still (d : Desc) (image : List Byte) (s : State) (c : Cmd) : (loadBody d image s c).still = s.still := by
  unfold loadBody
  dsimp only
  refine still_if (by simp) (still_if (by simp) ?_)
  split
  · simp
  · split
    · simp
    · rename_i q
      have := State.installImage_still _ _ _ _ _ _ q
      refine still_if (by simp) ?_
      simp [this]
@[simp] theorem State.actWrite_still (s : State) (slot : ℕ) (h : ImgHdr) (state : ℕ) (beat : ℕ) : (State.actWrite s slot h state beat).still = s.still := by
  simp [State.actWrite, still_ite]
@[simp] theorem State.settleDeltas_still (s : State) : (State.settleDeltas s).still = s.still := by
  rfl
@[simp] theorem State.yieldMove_still (s : State) (h : ImgHdr) : (State.yieldMove s h).still = s.still := by
  unfold State.yieldMove; split <;> simp [still_ite]
@[simp] theorem State.activateNow_still (s : State) (slot : ℕ) : (State.activateNow s slot).still = s.still := by
  unfold State.activateNow; split <;> simp [still_ite]
@[simp] theorem retireImgBody_still (d : Desc) (s : State) (c : Cmd) : (retireImgBody d s c).still = s.still := by
  (unfold retireImgBody; dsimp only; repeat' split) <;> simp [still_ite]
@[simp] theorem State.pumpRetireImages_still (s : State) : s.pumpRetireImages.still = s.still := by
  unfold State.pumpRetireImages
  refine still_foldl _ (fun s a => ?_) _ _
  repeat' split
  all_goals simp
@[simp] theorem queryBody_still (d : Desc) (s : State) (c : Cmd) : (queryBody d s c).still = s.still := by
  unfold queryBody; split <;> simp [still_ite]

/-! Match. -/

@[simp] theorem invalidateBody_still (d : Desc) (s : State) (c : Cmd) : (invalidateBody d s c).still = s.still := by
  simp [invalidateBody, still_ite]
@[simp] theorem writeBody_still (d : Desc) (recs : List Byte) (s : State) (c : Cmd) : (writeBody d recs s c).still = s.still := by
  simp [writeBody, still_ite]
@[simp] theorem masterWrites_still (s : State) (m : AMap Img) (cmd : Nat) (ts : List (Nat × Nat)) : (masterWrites s m cmd ts).still = s.still := by
  simp [masterWrites]
@[simp] theorem State.validateGo_still (s : State) (c : Cmd) (k : ℕ) (us : List ℕ) : (State.validateGo s c k us).still = s.still := by
  unfold State.validateGo
  extract_lets b es
  refine still_if (by simp) ?_
  extract_lets m
  split
  · simp
  · refine (masterWrites_still _ _ _ _).trans ?_
    rfl
@[simp] theorem validateBody_still (d : Desc) (s : State) (c : Cmd) : (validateBody d s c).still = s.still := by
  unfold validateBody
  extract_lets k b n
  exact still_if (by simp) (by simp)
@[simp] theorem State.masterStep_still (s : State) (cmd : ℕ) : (State.masterStep s cmd).still = s.still := by
  unfold State.masterStep
  split
  · split
    · exact still_if (by simp) (still_if (by simp) (by simp))
    · rfl
  · rfl
@[simp] theorem shiftBody_still (d : Desc) (s : State) (c : Cmd) : (shiftBody d s c).still = s.still := by
  simp [shiftBody, still_ite]
@[simp] theorem State.shiftNow_still (s : State) (k : ℕ) : (State.shiftNow s k).still = s.still := by
  (unfold State.shiftNow; dsimp only; repeat' split) <;> simp [still_ite]
@[simp] theorem searchBody_still (d : Desc) (key : List Byte) (s : State) (c : Cmd) : (searchBody d key s c).still = s.still := by
  (unfold searchBody; dsimp only; repeat' split) <;> simp [still_ite]

/-! Background. -/

@[simp] theorem State.floorDone_still (s : State) (k : ℕ) : (State.floorDone s k).still = s.still := by
  rfl
@[simp] theorem State.floorMiss_still (s : State) (k : ℕ) : (State.floorMiss s k).still = s.still := by
  simp [State.floorMiss, still_ite]
@[simp] theorem State.askRepair_still (s : State) (slot : ℕ) (key : ℕ) : (State.askRepair s slot key).still = s.still := by
  simp [State.askRepair, still_ite]
@[simp] theorem pumpMove_still (n : Nat) (s : State) : (pumpMove n s).still = s.still := by
  induction n generalizing s with
  | zero => rfl
  | succ n ih =>
    unfold pumpMove
    repeat' split
    all_goals simp [ih]
@[simp] theorem State.startMove_still (s : State) (src : ℕ) (dst : ℕ) (cmd : Option ℕ) : (State.startMove s src dst cmd).still = s.still := by
  simp [State.startMove, still_ite]
@[simp] theorem State.dropMove_still (s : State) : (State.dropMove s).still = s.still := by
  rfl
@[simp] theorem State.moveStep_still (s : State) (src : ℕ) (dst : ℕ) (slot : ℕ) (key : ℕ) (payload : List Byte) : (State.moveStep s src dst slot key payload).still = s.still := by
  (unfold State.moveStep; dsimp only; repeat' split) <;> simp [still_ite]
@[simp] theorem State.wearNow_still (s : State) (src : ℕ) (dst : ℕ) : (State.wearNow s src dst).still = s.still := by
  unfold State.wearNow; split <;> simp [still_ite]
@[simp] theorem State.wearRotate_still (s : State) : (State.wearRotate s).still = s.still := by
  (unfold State.wearRotate; dsimp only; repeat' split) <;> simp [still_ite]
@[simp] theorem State.testDone_still (s : State) (c : Cmd) (target : ℕ) (unit : ℕ) (failed : Bool) : (State.testDone s c target unit failed).still = s.still := by
  simp [State.testDone, still_ite]
@[simp] theorem State.pumpTest_still (s : State) (c : Cmd) : (State.pumpTest s c).still = s.still := by
  (unfold State.pumpTest; repeat' split) <;> simp [still_ite]
@[simp] theorem State.pumpTests_still (s : State) : (State.pumpTests s).still = s.still := by
  simp [State.pumpTests, still_ite]
@[simp] theorem State.cellReturns_still (s : State) (cell : Nat) : (s.cellReturns cell).still = s.still := by
  unfold State.cellReturns
  refine (still_foldl _ (fun s a => ?_) _ _).trans (by simp)
  repeat' split
  all_goals simp
@[simp] theorem selfTestBody_still (d : Desc) (failed : Bool) (s : State) (c : Cmd) : (selfTestBody d failed s c).still = s.still := by
  simp [selfTestBody, still_ite]
@[simp] theorem State.keepPower_still (s : State) : (State.keepPower s).still = s.still := by
  rfl
@[simp] theorem State.calibDone_still (s : State) (k : ℕ) : (State.calibDone s k).still = s.still := by
  simp [State.calibDone]
@[simp] theorem State.floorWork_still (s : State) (k : ℕ) : (State.floorWork s k).still = s.still := by
  simp [State.floorWork, still_ite]
@[simp] theorem thermalBody_still (x0 : Desc) (bad : List ℕ) (s : State) (c : Cmd) : (thermalBody x0 bad s c).still = s.still := by
  simp [thermalBody, still_ite]
@[simp] theorem droopBody_still (x0 : Desc) (s : State) (c : Cmd) : (droopBody x0 s c).still = s.still := by
  simp [droopBody, still_ite]
@[simp] theorem State.recheckBounds_still (s : State) : (State.recheckBounds s).still = s.still := by
  simp [State.recheckBounds, still_ite]
@[simp] theorem State.refuseLate_still (s : State) (o b : ℕ) : (State.refuseLate s o b).2.still = s.still := by
  unfold State.refuseLate; dsimp only; split <;> simp
@[simp] theorem State.refuseOpen_still (s : State) (st : Stream) (x : ℕ) : (State.refuseOpen s st x).still = s.still := by
  unfold State.refuseOpen
  exact still_if (by simp) (still_if ((State.unopen_still _ _).trans (State.refuseLate_still _ _ _)) (State.refuseLate_still _ _ _))
@[simp] theorem State.recheckOne_still (a : State × List Sched) (e : Sched) : (State.recheckOne a e).1.still = a.1.still := by
  obtain ⟨s, kept⟩ := a
  unfold State.recheckOne
  dsimp only
  split
  · rfl
  · split <;> simp
  · rw [apply_ite Prod.fst]
    exact still_if (State.refuseLate_still s _ _) (State.refuseLate_still s _ _)
@[simp] theorem State.recheckAll_still (s : State) : (State.recheckAll s).still = s.still := by
  unfold State.recheckAll
  have h := still_foldlP State.recheckOne (fun s e => by simp) s.sched (s, [])
  generalize s.sched.foldl State.recheckOne (s, []) = p at h
  obtain ⟨t, kept⟩ := p
  refine (still_foldl _ (fun s c => still_if rfl (by simp)) _ _).trans ((still_foldl _ (fun s st => ?_) _ _).trans h)
  split <;> simp
@[simp] theorem State.stackSlow_still (s : State) (chan : ℕ) (tag : ℕ) (rt : ℕ) : (State.stackSlow s chan tag rt).still = s.still := by
  simp [State.stackSlow, still_ite]
@[simp] theorem pumpSeries_still (n cmd chan left : Nat) (s : State) : (pumpSeries n cmd chan left s).still = s.still := by
  induction n generalizing s with
  | zero => rfl
  | succ n ih =>
    unfold pumpSeries
    dsimp only
    refine still_if rfl ?_
    simp [ih]
@[simp] theorem State.pumpCalib_still (s : State) (c : Cmd) : (State.pumpCalib s c).still = s.still := by
  (unfold State.pumpCalib; repeat' split) <;> simp [still_ite]
@[simp] theorem State.pumpCalibs_still (s : State) : (State.pumpCalibs s).still = s.still := by
  simp [State.pumpCalibs, still_ite]
@[simp] theorem State.chanLeaves_still (s : State) (chan cmd : ℕ) : (State.chanLeaves s chan cmd).still = s.still := by
  (unfold State.chanLeaves; repeat' split) <;> simp [still_ite]
@[simp] theorem State.chanEnds_still (s : State) (chan : ℕ) : (State.chanEnds s chan).still = s.still := by
  simp [State.chanEnds]
@[simp] theorem State.calibStep_still (s : State) (cmd tag : ℕ) (rt : ℕ) : (State.calibStep s cmd tag rt).still = s.still := by
  (unfold State.calibStep; repeat' split) <;> simp [still_ite]
@[simp] theorem State.calibAbsent_still (s : State) (cmd : ℕ) (status : ℕ) : (State.calibAbsent s cmd status).still = s.still := by
  (unfold State.calibAbsent; repeat' split) <;> simp [still_ite]
@[simp] theorem roundTripBody_still (x0 : Desc) (s : State) (c : Cmd) : (roundTripBody x0 s c).still = s.still := by
  simp [roundTripBody, still_ite]
@[simp] theorem State.pumpSweep_still (s : State) : (State.pumpSweep s).still = s.still := by
  (unfold State.pumpSweep; repeat' split) <;> simp [still_ite]
@[simp] theorem State.sweepStep_still (s : State) : (State.sweepStep s).still = s.still := by
  (unfold State.sweepStep; repeat' split) <;> simp [still_ite]

@[simp] theorem State.pingNow_still (s : State) : (State.pingNow s).still = s.still := by
  simp [State.pingNow]

/-! Stack. -/
@[simp] theorem State.fetchMaster_still (s : State) (slot tile : ℕ) : (State.fetchMaster s slot tile).still = s.still := by
  unfold State.fetchMaster
  split
  · rfl
  · exact (still_foldl _ (fun s x => by simp) _ _).trans rfl
@[simp] theorem State.imageData_still (s : State) (slot tile k : ℕ) (data : List Byte) (poison : Bool) : (State.imageData s slot tile k data poison).still = s.still := by
  unfold State.imageData
  split
  · refine still_if rfl ?_
    exact still_if rfl (still_if rfl ((State.firm_still _ _ _ _ _ _).trans rfl))
  · rfl
@[simp] theorem State.pumpMasters_still (s : State) : (State.pumpMasters s).still = s.still := by
  unfold State.pumpMasters
  refine still_if rfl ?_
  split
  · simp
  · split <;> simp
@[simp] theorem State.rewriteStep_still (s : State) (slot : ℕ) (tile : ℕ) : (State.rewriteStep s slot tile).still = s.still := by
  unfold State.rewriteStep; split <;> simp [still_ite]
@[simp] theorem State.repairRead_still (s : State) (slot : ℕ) (tile : ℕ) : (State.repairRead s slot tile).still = s.still := by
  unfold State.repairRead; split <;> simp [still_ite]
@[simp] theorem State.reloadMaster_still (s : State) (slot : ℕ) : (State.reloadMaster s slot).still = s.still := by
  simp [State.reloadMaster, still_ite]
@[simp] theorem State.streamLost_still (s : State) (h : Nat) : (s.streamLost h).still = s.still := by
  unfold State.streamLost
  split
  · rfl
  · dsimp only
    refine still_if (by simp) (still_if (by simp) (by simp))
@[simp] theorem State.failWaiters_still (s : State) (slot : ℕ) (key : ℕ) : (State.failWaiters s slot key).still = s.still := by
  rfl
@[simp] theorem State.encodeAbsent_still (s : State) (h why : ℕ) : (State.encodeAbsent s h why).still = s.still := by
  (unfold State.encodeAbsent; repeat' split) <;> simp [still_ite]
@[simp] theorem State.absent_still (s : State) (o : SOp) (why : ℕ) : (State.absent s o why).still = s.still := by
  unfold State.absent
  extract_lets t model
  have hm : ∀ a b, (model a b).still = s.still := by
    intro a b
    simp only [model]
    split
    · refine still_if ?_ ?_ <;> (split <;> [split; skip]) <;> simp [t]
    · rfl
  have ht : t.still = s.still := rfl
  clear_value model t
  split
  all_goals try simp [hm, ht, still_ite]
  all_goals repeat' split
  all_goals simp [ht, still_ite]
@[simp] theorem State.absentAll_still (s : State) (os : List SOp) : (State.absentAll s os).still = s.still := by
  simp [State.absentAll, still_ite]
@[simp] theorem pumpFaultPings_still (n c : Nat) (s : State) : (pumpFaultPings n c s).still = s.still := by
  induction n generalizing s with
  | zero => rfl
  | succ n ih =>
    unfold pumpFaultPings
    refine still_if rfl ?_
    simp [ih]
@[simp] theorem State.recFault_still (s : State) (rid : ℕ) : (State.recFault s rid).still = s.still := by
  unfold State.recFault; repeat' split
  all_goals simp
@[simp] theorem State.chanFault_still (s : State) (c : ℕ) : (State.chanFault s c).still = s.still := by
  simp [State.chanFault, still_ite]
@[simp] theorem State.restartSeries_still (s : State) : s.restartSeries.still = s.still := by
  unfold State.restartSeries
  refine still_foldl _ (fun s a => ?_) _ _
  split
  · exact still_if rfl ((State.keep_still _ _ _).trans (still_if rfl rfl))
  · rfl
@[simp] theorem State.newEpoch_still (s : State) (e : ℕ) : (State.newEpoch s e).still = s.still := by
  simp [State.newEpoch, still_ite]
@[simp] theorem State.partIn_still (s : State) (rid : ℕ) (mi : ℕ) (key : ℕ) (xs : List W32) (nan : Bool) : (State.partIn s rid mi key xs nan).still = s.still := by
  rfl
@[simp] theorem State.stageIn_still (s : State) (rid : ℕ) (mi : ℕ) : (State.stageIn s rid mi).still = s.still := by
  rfl
@[simp] theorem State.maskIn_still (s : State) (mid : ℕ) (bs : List Byte) : (State.maskIn s mid bs).still = s.still := by
  (unfold State.maskIn; repeat' split) <;> simp [still_ite]
@[simp] theorem State.encodeIn_still (s : State) (unit : ℕ) (slot : ℕ) (tile : ℕ) (h : ℕ) (bs : List Byte) : (State.encodeIn s unit slot tile h bs).still = s.still := by
  simp [State.encodeIn, still_ite]
@[simp] theorem State.tileIn_still (s : State) (o : SOp) (slot : ℕ) (key : ℕ) (bs : List Byte) : (State.tileIn s o slot key bs).still = s.still := by
  unfold State.tileIn; split <;> simp [still_ite]
@[simp] theorem State.repairIn_still (s : State) (o : SOp) (slot : ℕ) (key : ℕ) (bs : List Byte) : (State.repairIn s o slot key bs).still = s.still := by
  unfold State.repairIn; split <;> simp [still_ite]
@[simp] theorem State.entryIn_still (s : State) (o : SOp) (b u : ℕ) (bs : List Byte) : (State.entryIn s o b u bs).still = s.still := by
  unfold State.entryIn; split <;> simp [still_ite]
@[simp] theorem State.pinIn_still (s : State) (o : SOp) (a b c d : ℕ) (bs : List Byte) : (State.pinIn s o a b c d bs).still = s.still := by
  simp [State.pinIn, still_ite]
@[simp] theorem State.allowIn_still (s : State) (o : SOp) (h : ℕ) (bs : List Byte) : (State.allowIn s o h bs).still = s.still := by
  unfold State.allowIn; split <;> simp [still_ite]
@[simp] theorem State.streamIn_still (s : State) (o : SOp) (tile : ℕ) (bs : List Byte) : (State.streamIn s o tile bs).still = s.still := by
  unfold State.streamIn
  refine still_foldl _ (fun s h => ?_) _ _
  repeat' split
  all_goals simp
@[simp] theorem State.checkCairns_still (s : State) : (State.checkCairns s).still = s.still := by
  unfold State.checkCairns
  refine still_foldl _ (fun s x => ?_) _ _
  split <;> simp [still_ite]
@[simp] theorem State.deliver_still (s : State) (o : SOp) (r : Rsp) (rt : ℕ) : (State.deliver s o r rt).still = s.still := by
  (unfold State.deliver; dsimp only; repeat' split) <;> simp [still_ite]
@[simp] theorem State.measure_still (s : State) (chan : ℕ) (o : SOp) (rt : ℕ) : (State.measure s chan o rt).still = s.still := by
  unfold State.measure; split <;> simp [still_ite]
@[simp] theorem State.faultPing_still (s : State) (c : ℕ) : (State.faultPing s c).still = s.still := by
  simp [State.faultPing, still_ite]
@[simp] theorem State.result_still (s : State) (o : SOp) (why : ℕ) (r : Rsp) (rt : ℕ) : (State.result s o why r rt).still = s.still := by
  simp [State.result, still_ite]
@[simp] theorem State.takeHeld_still (s : State) : (State.takeHeld s).still = s.still := by
  unfold State.takeHeld
  exact (still_foldl _ (fun s x => by simp) _ _).trans rfl
@[simp] theorem State.takeRsp_still (s : State) (r : Rsp) : (State.takeRsp s r).still = s.still := by
  (unfold State.takeRsp; dsimp only; repeat' split) <;> simp [still_ite]
@[simp] theorem State.rspOf_still (s : State) (op : ℕ) (r : Rsp) : (State.rspOf s op r).still = s.still := by
  simp [State.rspOf, still_ite]
@[simp] theorem State.duePoint_still (s : State) (c : ℕ) (tag : ℕ) : (State.duePoint s c tag).still = s.still := by
  unfold State.duePoint; split <;> simp [still_ite]
@[simp] theorem State.duePast_still (s : State) : (State.duePast s).still = s.still := by
  simp [State.duePast, still_ite]
@[simp] theorem State.creditIn_still (s : State) (c : ℕ) (n : ℕ) : (State.creditIn s c n).still = s.still := by
  simp [State.creditIn, still_ite]

end Sys2Proof.Machine
end

