-- ==== Sys2Proof/Laws/StillBeat.lean ====
section
/-! SUPPORT. What the operations of Debug, Range, Stop, HostPort, Expert, Governor, Integrity, StartReset, TestAccess, Tenants, Beat leave as it was: the queue, the build, the registers, the fuses and the test port -/

set_option maxRecDepth 8000
set_option linter.unusedSimpArgs false
namespace Sys2Proof.Machine


/-! Debug. -/

@[simp] theorem traceBody_still (d : Desc) (s : State) (c : Cmd) : (traceBody d s c).still = s.still := by
  simp [traceBody, still_ite]
@[simp] theorem State.traceNow_still (s : State) (on : Bool) (base : ℕ) (size : ℕ) (mask : ℕ) : (State.traceNow s on base size mask).still = s.still := by
  rfl
@[simp] theorem State.writeTrace_still (s : State) : (State.writeTrace s).still = s.still := by
  unfold State.writeTrace; split <;> simp [still_ite]
@[simp] theorem flushTrace_still (n : Nat) (s : State) : (flushTrace n s).still = s.still := by
  induction n generalizing s with
  | zero => rfl
  | succ n ih =>
    unfold flushTrace
    refine still_if rfl ?_
    simp [ih]
@[simp] theorem State.dropTrace_still (s : State) : (State.dropTrace s).still = s.still := by
  unfold State.dropTrace; split <;> simp [still_ite]
@[simp] theorem State.flushTraces_still (s : State) : (State.flushTraces s).still = s.still := by
  simp [State.flushTraces, still_ite]
@[simp] theorem counterBody_still (d : Desc) (s : State) (c : Cmd) : (counterBody d s c).still = s.still := by
  simp [counterBody, still_ite]
@[simp] theorem State.counterNow_still (s : State) (on : Bool) (k : ℕ) (base : ℕ) (size : ℕ) : (State.counterNow s on k base size).still = s.still := by
  rfl
@[simp] theorem State.sample_still (s : State) : (State.sample s).still = s.still := by
  simp [State.sample, still_ite]
@[simp] theorem flushBody_still (x0 : Desc) (s : State) (c : Cmd) : (flushBody x0 s c).still = s.still := by
  simp [flushBody, still_ite]
@[simp] theorem State.pumpFlushes_still (s : State) : s.pumpFlushes.still = s.still := by
  unfold State.pumpFlushes
  refine still_if rfl (still_foldl _ (fun s a => ?_) _ _)
  repeat' split
  all_goals simp
@[simp] theorem State.timeSync_still (s : State) : (State.timeSync s).still = s.still := by
  simp [State.timeSync, still_ite]
@[simp] theorem edgeLogs_still (s : State) (n : Nat) (ws : List W64) : (edgeLogs s n ws).still = s.still := by
  induction n generalizing s ws with
  | zero => rfl
  | succ n ih =>
    unfold edgeLogs
    refine still_if rfl ?_
    simp [ih]
@[simp] theorem State.writeGraph_still (s : State) (hung : ℕ) (roots : List ℕ) : (State.writeGraph s hung roots).2.still = s.still := by
  simp [State.writeGraph, still_ite]
@[simp] theorem hangBody_still (x0 : Desc) (s : State) (c : Cmd) : (hangBody x0 s c).still = s.still := by
  simp [hangBody, still_ite]
@[simp] theorem State.examineQueues_still (s : State) : (State.examineQueues s).still = s.still := by
  simp [State.examineQueues, still_ite]

/-! Range. -/

@[simp] theorem State.formFailed_still (s : State) (status : ℕ) : (State.formFailed s status).still = s.still := by
  (unfold State.formFailed; dsimp only; repeat' split) <;> simp [still_ite]
@[simp] theorem State.joinRange_still (s : State) (formation : ℕ) (dRange : ℕ) : (State.joinRange s formation dRange).still = s.still := by
  (unfold State.joinRange; dsimp only; repeat' split) <;> simp [still_ite]
@[simp] theorem State.formAll_still (s : State) : (State.formAll s).still = s.still := by
  simp [State.formAll, still_ite]
@[simp] theorem State.tailCheck_still (s : State) : (State.tailCheck s).still = s.still := by
  simp [State.tailCheck, still_ite]
@[simp] theorem State.passJoin_still (s : State) (id : ℕ) (m : Member) (timeout : ℕ) : (State.passJoin s id m timeout).still = s.still := by
  simp [State.passJoin, still_ite]
@[simp] theorem rangeJoinBody_still (d : Desc) (s : State) (c : Cmd) : (rangeJoinBody d s c).still = s.still := by
  simp [rangeJoinBody, still_ite]
@[simp] theorem State.pumpProbes_still (s : State) : (State.pumpProbes s).still = s.still := by
  simp [State.pumpProbes, still_ite]
@[simp] theorem State.setAnchor_still (s : State) (t : ℕ) (x2 : ℤ × ℕ × ℕ) : (State.setAnchor s t x2).still = s.still := by
  rfl
@[simp] theorem State.grantTo_still (s : State) (m : ℕ) (t : ℕ) (g : Grant) : (State.grantTo s m t g).still = s.still := by
  simp [State.grantTo, still_ite]
@[simp] theorem State.grantTenant_still (s : State) (t : ℕ) : (State.grantTenant s t).still = s.still := by
  unfold State.grantTenant; dsimp only; split
  · rfl
  · split <;> simp [still_ite]
@[simp] theorem State.leaseGrant_still (s : State) : (State.leaseGrant s).still = s.still := by
  simp [State.leaseGrant, still_ite]
@[simp] theorem State.takeReport_still (s : State) (m : ℕ) (t : ℕ) (period : ℕ) (charged : ℕ) (rem : ℤ) (count : ℕ) : (State.takeReport s m t period charged rem count).still = s.still := by
  simp [State.takeReport, still_ite]
@[simp] theorem State.report_still (s : State) (t : ℕ) : (State.report s t).still = s.still := by
  simp [State.report, still_ite]
@[simp] theorem State.adoptLease_still (s : State) (g : Grant) : (State.adoptLease s g).still = s.still := by
  simp [State.adoptLease, still_ite]
@[simp] theorem State.adoptDue_still (s : State) (now : ℕ) : (State.adoptDue s now).still = s.still := by
  simp [State.adoptDue, still_ite]
@[simp] theorem State.splitEnds_still (s : State) : (State.splitEnds s).still = s.still := by
  simp [State.splitEnds, still_ite]
@[simp] theorem State.reportSoFar_still (s : State) (t : ℕ) : (State.reportSoFar s t).still = s.still := by
  simp [State.reportSoFar]
@[simp] theorem State.hear_still (s : State) (peer kind : ℕ) : (State.hear s peer kind).still = s.still := by
  unfold State.hear
  extract_lets was r t lacks r2 t2
  have ht : t.still = s.still := rfl
  have ht2 : t2.still = s.still := rfl
  clear_value t2
  refine still_if (still_if ?_ ht) (still_if ht2 (still_if ht2 ?_))
  · exact (still_foldl _ (fun s a => by simp) _ _).trans ht
  · simp [ht2]
@[simp] theorem State.splitFrom_still (s : State) (peer : ℕ) (kind : ℕ) : (State.splitFrom s peer kind).still = s.still := by
  simp [State.splitFrom, still_ite]
@[simp] theorem State.askLeave_still (s : State) (at_ : ℕ) : (State.askLeave s at_).still = s.still := by
  unfold State.askLeave; dsimp only; split <;> split <;> (try split) <;> simp [still_ite]
@[simp] theorem State.leaveNow_still (s : State) : (State.leaveNow s).still = s.still := by
  simp [State.leaveNow, still_ite]
@[simp] theorem rangeLeaveBody_still (x0 : Desc) (s : State) (c : Cmd) : (rangeLeaveBody x0 s c).still = s.still := by
  simp [rangeLeaveBody, still_ite]
@[simp] theorem rangeStatusBody_still (d : Desc) (s : State) (c : Cmd) : (rangeStatusBody d s c).still = s.still := by
  simp [rangeStatusBody, still_ite]
@[simp] theorem State.statusDone_still (s : State) (cmd : ℕ) (ok : Bool) : (State.statusDone s cmd ok).still = s.still := by
  (unfold State.statusDone; repeat' split) <;> simp [still_ite]
theorem State.relayTake_still (s : State) (r : RelayIn) (k : Nat) : ∀ x, s.relayTake r k = some x → x.still = s.still := by
  unfold State.relayTake
  dsimp only
  refine still_ifO still_none ?_
  refine still_ifO (still_some (by simp)) ?_
  split
  · exact still_ifO (still_some (by simp)) (still_some (by simp))
  · exact still_some (by simp)
@[simp] theorem State.relayDo_still (s : State) (r : RelayIn) (k : Nat) (f : State → State) (hf : ∀ s, (f s).still = s.still) : (s.relayDo r k f).still = s.still := by
  unfold State.relayDo
  split
  · rename_i q
    have := State.relayTake_still _ _ _ _ q
    refine still_if ?_ this
    simp [hf, this]
  · rfl
@[simp] theorem State.recIn_still (s : State) (r : RelayIn) : (State.recIn s r).still = s.still := by
  simp [State.recIn, still_ite]
@[simp] theorem State.chunkRead_still (s : State) (h : ℕ) (no : ℕ) (n : ℕ) (verdict : ℕ) (flags : ℕ) (addr : ℕ) (data : List Byte) : (State.chunkRead s h no n verdict flags addr data).still = s.still := by
  (unfold State.chunkRead; dsimp only; repeat' split) <;> simp [still_ite]
@[simp] theorem State.readChunk_still (s : State) (o : ROwner) : (State.readChunk s o).still = s.still := by
  unfold State.readChunk; split <;> simp [still_ite]
@[simp] theorem State.pumpChunks_still (s : State) : (State.pumpChunks s).still = s.still := by
  unfold State.pumpChunks
  exact (still_foldl _ (fun s o => by split <;> simp [still_ite]) _ _).trans rfl
@[simp] theorem State.chunkIn_still (s : State) (r : RelayIn) : (State.chunkIn s r).still = s.still := by
  unfold State.chunkIn
  split
  · rfl
  · split
    · rfl
    · simp
@[simp] theorem State.joinIn_still (s : State) (r : RelayIn) : (State.joinIn s r).still = s.still := by
  simp [State.joinIn, still_ite]
@[simp] theorem State.membersIn_still (s : State) (r : RelayIn) : (State.membersIn s r).still = s.still := by
  simp [State.membersIn, still_ite]
@[simp] theorem State.probeIn_still (s : State) (r : RelayIn) : (State.probeIn s r).still = s.still := by
  rfl
@[simp] theorem State.grantIn_still (s : State) (r : RelayIn) : (State.grantIn s r).still = s.still := by
  simp [State.grantIn, still_ite]
@[simp] theorem State.reportIn_still (s : State) (r : RelayIn) : (State.reportIn s r).still = s.still := by
  simp [State.reportIn, still_ite]
@[simp] theorem State.ackIn_still (s : State) (r : RelayIn) : (State.ackIn s r).still = s.still := by
  (unfold State.ackIn; dsimp only; repeat' split) <;> simp [still_ite]
@[simp] theorem State.stopHeard_still (s : State) : (State.stopHeard s).still = s.still := by
  simp [State.stopHeard, still_ite]
@[simp] theorem State.ackSend_still (s : State) (lane : ℕ) : (State.ackSend s lane).still = s.still := by
  simp [State.ackSend, still_ite]
@[simp] theorem State.prunePreds_still (s : State) : (State.prunePreds s).still = s.still := by
  simp [State.prunePreds, still_ite]

/-! Stop. -/

@[simp] theorem stopBody_still (x0 : Desc) (s : State) (c : Cmd) : (stopBody x0 s c).still = s.still := by
  simp [stopBody, still_ite]
@[simp] theorem resumeStopBody_still (x0 : Desc) (s : State) (c : Cmd) : (resumeStopBody x0 s c).still = s.still := by
  simp [resumeStopBody, still_ite]
@[simp] theorem State.pauseAll_still (s : State) (p : Bool) : (State.pauseAll s p).still = s.still := by
  rfl
@[simp] theorem State.stopRecord_still (s : State) (resume : ℕ) (beat : ℕ) : (State.stopRecord s resume beat).still = s.still := by
  simp [State.stopRecord, still_ite]
@[simp] theorem State.stopNow_still (s : State) : (State.stopNow s).still = s.still := by
  simp [State.stopNow, still_ite]
@[simp] theorem State.resumeNow_still (s : State) : (State.resumeNow s).still = s.still := by
  simp [State.resumeNow, still_ite]

/-! HostPort. -/

@[simp] theorem State.nextRead_still (s : State) : (State.nextRead s).still = s.still := by
  simp [State.nextRead]
@[simp] theorem State.readFor_still (s : State) (o : ROwner) (data : List Byte) (poison : Bool) : (State.readFor s o data poison).still = s.still := by
  (unfold State.readFor; repeat' split) <;> simp [still_ite]
@[simp] theorem State.readData_still (s : State) (tag : ℕ) (data : List Byte) (poison : Bool) : (State.readData s tag data poison).still = s.still := by
  unfold State.readData; split <;> simp [still_ite]
@[simp] theorem State.persistDone_still (s : State) (what : ℕ) (key : ℕ) : (State.persistDone s what key).still = s.still := by
  (unfold State.persistDone; dsimp only; repeat' split) <;> simp [still_ite]
@[simp] theorem State.jobDone_still (s : State) (w : WJob) : (State.jobDone s w).still = s.still := by
  (unfold State.jobDone; dsimp only; repeat' split) <;> simp [still_ite]
@[simp] theorem State.jobStep_still (s : State) (j : ℕ) : (State.jobStep s j).still = s.still := by
  (unfold State.jobStep; repeat' split) <;> simp [still_ite]
@[simp] theorem State.jobsGo_still (s : State) : (State.jobsGo s).still = s.still := by
  simp [State.jobsGo, still_ite]
@[simp] theorem State.persistAgain_still (s : State) (what : ℕ) (key : ℕ) (bs : List Byte) : (State.persistAgain s what key bs).still = s.still := by
  unfold State.persistAgain
  extract_lets copy s1 role t t1 t2
  have e1 : s1.still = s.still := rfl
  clear_value s1
  have et : t.still = s.still := still_if (by simp [e1]) e1
  have e2 : t1.still = s.still := by simp [t1, e1]
  clear_value t t1
  have e3 : t2.still = s.still := by
    refine still_if (by simp [e1]) (still_if (still_if (by simp [et]) et) (still_if (still_if (by simp [e2]) e2) (by simp [e2])))
  simp [e3]
@[simp] theorem State.jobFailed_still (s : State) (w : WJob) (addr : ℕ) : (State.jobFailed s w addr).still = s.still := by
  unfold State.jobFailed; split <;> simp [still_ite]
@[simp] theorem State.cutJobs_still (s : State) (j : ℕ) : (State.cutJobs s j).still = s.still := by
  rfl
@[simp] theorem State.writeAck_still (s : State) (tag : ℕ) (bad : Bool) : (State.writeAck s tag bad).still = s.still := by
  (unfold State.writeAck; dsimp only; repeat' split) <;> simp [still_ite]
@[simp] theorem State.irqSend_still (s : State) (v : ℕ) : (State.irqSend s v).still = s.still := by
  simp [State.irqSend, still_ite]

/-! Expert. -/

@[simp] theorem expertQueryBody_still (d : Desc) (s : State) (c : Cmd) : (expertQueryBody d s c).still = s.still := by
  simp [expertQueryBody, still_ite]
@[simp] theorem State.unplace_still (s : State) (slot : ℕ) (i : Img) : (State.unplace s slot i).still = s.still := by
  simp [State.unplace]
@[simp] theorem pinBody_still (d : Desc) (s : State) (c : Cmd) : (pinBody d s c).still = s.still := by
  unfold pinBody
  dsimp only
  split
  · simp
  · refine still_if (by simp) (still_if (by simp) (still_if (by simp) ?_))
    split
    · simp
    · rename_i q
      have := placeBody_still _ _ _ _ q
      simpa using this
@[simp] theorem reserveBody_still (d : Desc) (s : State) (c : Cmd) : (reserveBody d s c).still = s.still := by
  simp [reserveBody, still_ite]
@[simp] theorem releaseSlotsBody_still (d : Desc) (s : State) (c : Cmd) : (releaseSlotsBody d s c).still = s.still := by
  simp [releaseSlotsBody, still_ite]
@[simp] theorem bankWidthBody_still (d : Desc) (s : State) (c : Cmd) : (bankWidthBody d s c).still = s.still := by
  simp [bankWidthBody, still_ite]
@[simp] theorem govBoundBody_still (d : Desc) (s : State) (c : Cmd) : (govBoundBody d s c).still = s.still := by
  simp [govBoundBody, still_ite]

/-! Governor. -/

@[simp] theorem State.overTemp_still (s : State) (n : ℕ) (v : ℤ) : (State.overTemp s n v).still = s.still := by
  simp [State.overTemp, still_ite]
@[simp] theorem State.overTemps_still (s : State) (x : BeatIn) : (State.overTemps s x).still = s.still :=
  still_foldl _ (fun s a => by simp) _ _
@[simp] theorem State.sampleInputs_still (s : State) (x1 : BeatIn) : (State.sampleInputs s x1).still = s.still :=
  Eq.trans rfl (State.overTemps_still s x1)
@[simp] theorem State.boundItem_still (s : State) (f : ℕ) (level : ℕ) (i : ℕ) : (State.boundItem s f level i).2.still = s.still := by
  unfold State.boundItem; split <;> simp [still_ite]
@[simp] theorem State.setAllowance_still (s : State) (f : ℕ) (level : ℕ) : (State.setAllowance s f level).still = s.still := by
  simp [State.setAllowance, still_ite]
@[simp] theorem State.govStep_still (s : State) : (State.govStep s).still = s.still := by
  simp [State.govStep, still_ite]
@[simp] theorem State.presentTemps_still (s : State) (ts : List (ℤ × Bool)) : (State.presentTemps s ts).still = s.still := by
  simp [State.presentTemps, still_ite]
@[simp] theorem State.railLog_still (s : State) : (State.railLog s).still = s.still := by
  simp [State.railLog, still_ite]
@[simp] theorem State.periodNow_still (s : State) (x1 : GovIn) : (State.periodNow s x1).still = s.still := by
  simp [State.periodNow, still_ite]
@[simp] theorem State.refillNow_still (s : State) : (State.refillNow s).still = s.still := by
  simp [State.refillNow, still_ite]
@[simp] theorem State.snapWrite_still (s : State) : (State.snapWrite s).still = s.still := by
  simp [State.snapWrite]
@[simp] theorem State.snapNow_still (s : State) : (State.snapNow s).still = s.still := by
  simp [State.snapNow, still_ite]

/-! Integrity. -/

@[simp] theorem State.sweepWords_still (s : State) : (State.sweepWords s).still = s.still := by
  unfold State.sweepWords
  exact still_if rfl (by dsimp only; exact Eq.trans rfl (State.pick_still ..))
@[simp] theorem State.corrected_still (s : State) (n : List ℕ) : (State.corrected s n).still = s.still := by
  rfl
@[simp] theorem State.tornCount_still (s : State) : (State.tornCount s).still = s.still := by
  rfl
@[simp] theorem State.reloadLog_still (s : State) (key : ℕ) (imageId : ℕ) (cls : ℕ) : (State.reloadLog s key imageId cls).still = s.still := by
  simp [State.reloadLog, still_ite]
@[simp] theorem State.tileBad_still (s : State) (slot : ℕ) (key : ℕ) (cls : ℕ) : (State.tileBad s slot key cls).still = s.still := by
  unfold State.tileBad; split <;> simp [still_ite]
@[simp] theorem State.tileStale_still (s : State) (slot key : ℕ) : (State.tileStale s slot key).still = s.still := by
  unfold State.tileStale; dsimp only; split <;> simp [still_ite]
@[simp] theorem State.tileUse_still (s : State) (slot key : ℕ) (u : UseRead) : (State.tileUse s slot key u).still = s.still := by
  unfold State.tileUse; split
  · rfl
  · split <;> simp
@[simp] theorem State.askTile_still (s : State) (slot : ℕ) (key : ℕ) : (State.askTile s slot key).still = s.still := by
  unfold State.askTile; split <;> simp [still_ite]
@[simp] theorem State.askPin_still (s : State) (slot : ℕ) (mask : ℕ) : (State.askPin s slot mask).still = s.still := by
  unfold State.askPin
  split
  · refine still_foldl _ (fun s t => ?_) _ _
    exact still_if rfl (still_if (by simp) (by simp))
  · rfl
@[simp] theorem State.askAllow_still (s : State) (st : Stream) : (State.askAllow s st).still = s.still := by
  unfold State.askAllow; split <;> simp [still_ite]
@[simp] theorem State.askEntry_still (s : State) (bank : ℕ) (e : BEntry) : (State.askEntry s bank e).still = s.still := by
  (unfold State.askEntry; repeat' split) <;> simp [still_ite]
@[simp] theorem State.askStream_still (s : State) (h : ℕ) : (State.askStream s h).still = s.still := by
  simp [State.askStream, still_ite]
@[simp] theorem State.pumpReloads_still (s : State) : (State.pumpReloads s).still = s.still := by
  simp [State.pumpReloads, still_ite]
theorem State.rehome_still (s : State) (slot key : Nat) : ∀ x, s.rehome slot key = some x → x.still = s.still := by
  intro x h
  unfold State.rehome at h
  split at h
  · cases h
  · split at h
    · cases h; rfl
    · dsimp only at h
      rw [Option.ite_none_left_eq_some] at h
      obtain ⟨_, h⟩ := h
      rw [Option.some.injEq] at h
      subst h
      simp
@[simp] theorem State.tileNow_still (s : State) (slot key : Nat) : (s.tileNow slot key).still = s.still := by
  unfold State.tileNow
  split
  · rfl
  · rename_i q
    have := State.rehome_still _ _ _ _ q
    simpa using this
@[simp] theorem State.streamNow_still (s : State) (h : ℕ) : (State.streamNow s h).still = s.still :=
  (State.setStream_still ..).trans rfl
@[simp] theorem State.pinNow_still (s : State) (slot : ℕ) (mask : ℕ) : (State.pinNow s slot mask).still = s.still := by
  rfl
@[simp] theorem State.allowNow_still (s : State) (h : ℕ) : (State.allowNow s h).still = s.still := by
  unfold State.allowNow; dsimp only; split <;> simp
@[simp] theorem State.entryNow_still (s : State) (bank : ℕ) (unit : ℕ) : (State.entryNow s bank unit).still = s.still := by
  rfl
@[simp] theorem State.streamBad_still (s : State) (h : Nat) : (s.streamBad h).still = s.still := by
  unfold State.streamBad
  split
  · rfl
  · dsimp only
    refine still_if (by simp) (by simp)
@[simp] theorem State.tornRead_still (s : State) (h : ℕ) : (State.tornRead s h).still = s.still := by
  unfold State.tornRead; split <;> simp [still_ite]
@[simp] theorem State.stagingTorn_still (s : State) (h : ℕ) (p : Rec → Bool) : (State.stagingTorn s h p).still = s.still := by
  simp [State.stagingTorn, still_ite]
@[simp] theorem State.nodeBad_still (s : State) (h : ℕ) (node : ℕ) : (State.nodeBad s h node).still = s.still := by
  unfold State.nodeBad; split <;> simp [still_ite]
@[simp] theorem State.nodeTorn_still (s : State) (h node : ℕ) (p : Rec → Bool) : (State.nodeTorn s h node p).still = s.still := by
  unfold State.nodeTorn
  split
  · rfl
  · split
    · rfl
    · simp [still_ite]
@[simp] theorem State.nodeUse_still (s : State) (h node : ℕ) (u : UseRead) (now : Rec → Bool) : (State.nodeUse s h node u now).still = s.still := by
  unfold State.nodeUse; split
  · rfl
  · split <;> simp
@[simp] theorem State.streamUse_still (s : State) (h : ℕ) (u : UseRead) : (State.streamUse s h u).still = s.still := by
  unfold State.streamUse; split
  · rfl
  · refine still_if rfl ?_
    split <;> simp
@[simp] theorem State.stagingBad_still (s : State) (h : ℕ) : (State.stagingBad s h).still = s.still := by
  (unfold State.stagingBad; repeat' split) <;> simp [still_ite]
@[simp] theorem State.saveTorn_still (s : State) (c : Cmd) : (State.saveTorn s c).still = s.still := by
  simp [State.saveTorn, still_ite]
@[simp] theorem State.stagingUse_still (s : State) (h : ℕ) (u : UseRead) (now : Rec → Bool) : (State.stagingUse s h u now).still = s.still := by
  unfold State.stagingUse; repeat' split
  all_goals simp
@[simp] theorem State.checkStaging_still (s : State) : (State.checkStaging s).still = s.still := by
  unfold State.checkStaging
  refine still_foldl _ (fun s r => ?_) _ _
  split <;> simp
@[simp] theorem State.allowRead_still (s : State) (h : ℕ) (u : UseRead) : (State.allowRead s h u).still = s.still := by
  unfold State.allowRead; split
  · rfl
  · dsimp only
    refine still_if rfl ?_
    split
    · rfl
    · refine still_if (by simp) (by simp)
    · simp
@[simp] theorem State.reread_still (s : State) (h : ℕ) (u : UseRead) : (State.reread s h u).still = s.still := by
  unfold State.reread; split
  · rfl
  · extract_lets again nodes staging c part clear t
    have hc : ∀ x : State, (clear x).still = x.still := fun x => (State.setStream_still ..).trans rfl
    have ht : t.still = s.still := still_if (by simp) rfl
    clear_value t clear
    refine still_if rfl (still_if (by simp [hc, ht]) (still_if (still_if ?_ ?_) (still_if (still_if ?_ ?_) (still_if ?_ ?_))))
    · exact (still_foldl _ (fun s a => by simp) _ _).trans (by simp [hc, ht])
    · exact (still_foldl _ (fun s a => by simp) _ _).trans ht
    · exact Eq.trans rfl ht
    all_goals simp [ht]
@[simp] theorem State.lateCheck_still (s : State) (id : ℕ) : (State.lateCheck s id).still = s.still := by
  unfold State.lateCheck; split <;> simp [still_ite]
@[simp] theorem State.chunkUncorr_still (s : State) (slot : ℕ) : (State.chunkUncorr s slot).still = s.still := by
  unfold State.chunkUncorr
  exact (still_foldl _ (fun s a => by simp) _ _).trans rfl
@[simp] theorem State.evBefore_still (s : State) (e : IntegEvt) : (State.evBefore s e).still = s.still := by
  unfold State.evBefore
  cases e with
  | pinnedBad slot mask => dsimp only; split <;> simp [still_ite]
  | tileUncorr slot tile => exact Eq.trans rfl (by simp)
  | genStore hs => exact (still_foldl _ (fun s a => by simp) _ _).trans (by simp)
  | _ => simp [still_ite]
@[simp] theorem State.sweepEntry_still (bank : ℕ) (s : State) (u : ℕ) : (State.sweepEntry bank s u).still = s.still := by
  (unfold State.sweepEntry; dsimp only; repeat' split) <;> simp [still_ite]
@[simp] theorem State.sweepBank_still (s : State) (bank : ℕ) : (State.sweepBank s bank).still = s.still := by
  unfold State.sweepBank
  dsimp only
  refine (State.setBank_still ..).trans ((still_foldl _ (fun s u => by simp) _ _).trans rfl)
@[simp] theorem State.sweepStore_still (s : State) : (State.sweepStore s).still = s.still := by
  unfold State.sweepStore
  have h (ks : List ℕ) (t : State) : (ks.foldl State.sweepBank t).still = t.still := still_foldl _ (fun s u => by simp) _ _
  dsimp only
  exact still_if (by simp [h]) (by simp [h])
@[simp] theorem State.evAfter_still (a : State) (s : State) (e : IntegEvt) : (State.evAfter a s e).still = s.still := by
  unfold State.evAfter; split <;> simp [still_ite]
@[simp] theorem State.useCells_still (a : State) (s : State) : (State.useCells a s).still = s.still := by
  rfl
@[simp] theorem State.countWork_still (s : State) : (State.countWork s).still = s.still := by
  simp [State.countWork, still_ite]
@[simp] theorem State.writeBacks_still (a s : State) : (State.writeBacks a s).still = s.still := by
  unfold State.writeBacks
  exact (still_foldl _ (fun s r => by simp) _ _).trans (still_foldl _ (fun s r => by simp) _ _)
@[simp] theorem State.computeNow_still (s : State) (evts : List IntegEvt) : (s.computeNow evts).still = s.still := by
  unfold State.computeNow
  extract_lets a ms b b1 b2 b3
  have ha : a.still = s.still := by simp [a]
  have h0 : b.still = s.still := (still_foldl _ (fun s r => by simp) _ _).trans (by simp [ha])
  have h1 : b1.still = s.still := (still_foldl _ (fun s r => by simp) _ _).trans h0
  have h2 : b2.still = s.still := (State.writeBacks_still ..).trans h1
  have h3 : b3.still = s.still := (still_foldl _ (fun s r => by simp) _ _).trans h2
  simp [h3]
@[simp] theorem State.pumpMirror_still (s : State) : (State.pumpMirror s).still = s.still := by
  unfold State.pumpMirror; split <;> simp [still_ite]
@[simp] theorem State.trap_still (s : State) (kind : TrapKind) (addr : W32) (ecc : Bool) : (s.trap kind addr ecc).still = s.still := by
  unfold State.trap
  dsimp only
  refine still_if ?_ ?_
  · cases ecc <;> simp
  · cases ecc <;> simp

@[simp] theorem State.windowRow_still (s : State) (tile row : ℕ) (bs : List Byte) : (s.windowRow tile row bs).still = s.still := by
  unfold State.windowRow
  repeat' split
  all_goals rfl
theorem State.coreOp_still (s : State) (o : CoreOp) : (State.coreOp s o).still = s.still := by
  unfold State.coreOp
  extract_lets g put drained m
  have hd : ∀ x, (drained x).still = s.still := by
    intro x; cases x <;> simp [drained, put]
  clear_value drained
  refine still_if rfl ?_
  cases o with
  | fetch addr rom => simp
  | load addr n bad => exact still_if (by simp) rfl
  | store addr bs bad => exact hd _
  | barrier bad => exact hd _
  | window addr tile row bs => exact still_if (State.windowRow_still ..) (State.trap_still ..)

/-! StartReset. -/

@[simp] theorem State.failStart_still (s : State) (step : ℕ) : (State.failStart s step).still = s.still := by
  simp [State.failStart, still_ite]
@[simp] theorem State.steps13_still (s : State) (b : BootIn) (cold : Bool) : (State.steps13 s b cold).still = s.still := by
  simp [State.steps13, still_ite]
@[simp] theorem State.step4_still (s : State) (x1 : StartIn) : (State.step4 s x1).still = s.still := by
  simp [State.step4, still_ite]
@[simp] theorem State.askIdentity_still (s : State) : (State.askIdentity s).still = s.still := by
  unfold State.askIdentity
  exact still_foldl _ (fun s c => by simp) _ _
@[simp] theorem State.startSeries_still (s : State) (c : ℕ) : (State.startSeries s c).still = s.still := by
  simp [State.startSeries]
@[simp] theorem State.identify_still (s : State) (x1 : StartIn) : (State.identify s x1).still = s.still := 
  Eq.trans rfl (State.askIdentity_still s)
@[simp] theorem State.measureBrt_still (s : State) (x1 : StartIn) : (State.measureBrt s x1).still = s.still := by
  unfold State.measureBrt
  extract_lets keep base r k t t1
  have ht : t.still = s.still := rfl
  have h1 : t1.still = s.still := (still_foldl _ (fun s r => by simp) _ _).trans ht
  exact still_if ht (still_if h1 (by simp [h1]))
@[simp] theorem State.windowCheck_still (s : State) (x1 : StartIn) : (State.windowCheck s x1).still = s.still := by
  simp [State.windowCheck, still_ite]
@[simp] theorem State.step6_still (s : State) (x1 : StartIn) : (State.step6 s x1).still = s.still := by
  rfl
@[simp] theorem State.restoreLedger_still (s : State) : (State.restoreLedger s).still = s.still := by
  unfold State.restoreLedger; split <;> simp [still_ite]
@[simp] theorem State.ghostStreams_still (s : State) (x1 : StartIn) : (State.ghostStreams s x1).still = s.still := by
  simp [State.ghostStreams, still_ite]
@[simp] theorem State.rejectAtStart_still (s : State) (a : ActRec) (status : ℕ) : (State.rejectAtStart s a status).still = s.still := by
  simp [State.rejectAtStart, still_ite]
@[simp] theorem State.reloadOne_still (same : Bool) (s : State) (a : ActRec) : (s.reloadOne same a).still = s.still := by
  unfold State.reloadOne
  split
  · simp
  · split
    · simp
    · dsimp only
      split
      · simp
      · rename_i q
        have := State.installImage_still _ _ _ _ _ _ q
        simpa using this
@[simp] theorem State.replaceSet_still (same : Bool) (s : State) (slot : Nat) : (s.replaceSet same slot).still = s.still := by
  unfold State.replaceSet
  split
  · split
    · dsimp only
      split
      · rename_i q
        have := placeSet_still _ _ _ _ q
        simpa using this
      · simp
    · rfl
  · rfl
@[simp] theorem State.step8_still (s : State) (x1 : StartIn) : (State.step8 s x1).still = s.still := by
  simp [State.step8, still_ite]
@[simp] theorem State.steps48_still (s : State) (x1 : StartIn) : (State.steps48 s x1).still = s.still := by
  simp [State.steps48, still_ite]
@[simp] theorem State.activateAtStart_still (s : State) (slot : ℕ) : (State.activateAtStart s slot).still = s.still := by
  unfold State.activateAtStart; split
  · rfl
  · dsimp only; rw [still_ite]; split <;> simp
@[simp] theorem State.completeStart_still (s : State) (time : W64) : (State.completeStart s time).still = s.still := by
  simp [State.completeStart, still_ite]

/-! TestAccess. -/

@[simp] theorem State.forceCold_still (s : State) : (State.forceCold s).still = s.still := by
  rfl

/-! Tenants. -/

@[simp] theorem setTenantBody_still (d : Desc) (s : State) (c : Cmd) : (setTenantBody d s c).still = s.still := by
  (unfold setTenantBody; dsimp only; repeat' split) <;> simp [still_ite]
@[simp] theorem State.tenantNow_still (s : State) (t : ℕ) (on : Bool) (ban : Option ℕ) (pd : Option ℕ) (td : Option ℕ) (cmd : ℕ) : (State.tenantNow s t on ban pd td cmd).still = s.still := by
  simp [State.tenantNow, still_ite]
@[simp] theorem setBudgetBody_still (d : Desc) (s : State) (c : Cmd) : (setBudgetBody d s c).still = s.still := by
  simp [setBudgetBody, still_ite]
@[simp] theorem setPolicyBody_still (d : Desc) (s : State) (c : Cmd) : (setPolicyBody d s c).still = s.still := by
  (unfold setPolicyBody; repeat' split) <;> simp [still_ite]
@[simp] theorem State.policyNow_still (s : State) (pid : ℕ) (imageId : ℕ) (on : Bool) : (State.policyNow s pid imageId on).still = s.still := by
  have e : (match (if on then s.activeOf 10 imageId else none) with
    | some (_, i) => (streamsOnPolicy s pid).foldl (fun (s : State) (st : Stream) => s.setStream st.handle fun x =>
        { x with dMin := max x.dMin (liveD s i), brt := max x.brt s.stack.brt }) s
    | none => s).still = s.still := by
    split
    · exact still_foldl _ (fun s st => by simp) _ _
    · rfl
  exact Eq.trans rfl e

/-! Beat. -/

@[simp] theorem State.openNow_still (s : State) (h : ℕ) : (State.openNow s h).still = s.still := by
  unfold State.openNow; split <;> simp [still_ite]
@[simp] theorem endInput_still (n h : Nat) (s : State) : (endInput n h s).still = s.still := by
  induction n generalizing s with
  | zero => rfl
  | succ n ih =>
    unfold endInput
    split
    · exact still_if (by simp [ih]) (still_if (by simp [ih]) rfl)
    · rfl
@[simp] theorem State.closeNow_still (s : State) (h : ℕ) : (State.closeNow s h).still = s.still := by
  simp [State.closeNow, still_ite]
@[simp] theorem State.chanNow_still (s : State) (c : ℕ) : (State.chanNow s c).still = s.still := by
  rfl
/-- What only a few commands write, the fuses apart: a boundary may program a rollback count (R70, R451). -/
def State.unfused (s : State) : List Instr × ElabS × RegS × TestS := (s.pending, s.build, s.regs, s.test)
theorem unfused_of_still {t s : State} (h : t.still = s.still) : t.unfused = s.unfused := by
  simp only [State.still, Still.mk.injEq] at h
  obtain ⟨a, b, c, _, e⟩ := h
  simp [State.unfused, a, b, c, e]
theorem unfused_foldl {α : Type} (f : State → α → State) (h : ∀ s a, (f s a).unfused = s.unfused) (l : List α) (s : State) :
    (l.foldl f s).unfused = s.unfused := by
  induction l generalizing s with
  | nil => rfl
  | cons a l ih => exact (ih _).trans (h _ _)
theorem unfused_if {c : Prop} [Decidable c] {a b t : State} (h1 : a.unfused = t.unfused) (h2 : b.unfused = t.unfused) :
    (if c then a else b).unfused = t.unfused := by
  split <;> assumption
theorem State.raiseRollback_unfused (s : State) (h : ImgHdr) : (s.raiseRollback h).unfused = s.unfused := by
  unfold State.raiseRollback
  refine unfused_if ((unfused_of_still (State.log_still ..)).trans rfl) rfl
theorem State.programNow_unfused (s : State) (slot : ℕ) : (s.programNow slot).unfused = s.unfused := by
  unfold State.programNow
  split
  · refine unfused_if (unfused_of_still ?_) (State.raiseRollback_unfused ..)
    exact Eq.trans rfl (State.refuseLate_still ..)
  · rfl
theorem State.settle_unfused (s : State) : s.settle.unfused = s.unfused := by
  unfold State.settle
  refine unfused_foldl _ (fun s e => ?_) _ _
  split
  · exact (State.programNow_unfused ..).trans rfl
  · rfl
theorem State.applyEff_still (s : State) (e : Eff) (h : ∀ k, e ≠ .program k) : (State.applyEff s e).still = s.still := by
  unfold State.applyEff
  cases e with
  | program k => exact absurd rfl (h k)
  | _ => simp
theorem State.applyEff_unfused (s : State) (e : Eff) : (State.applyEff s e).unfused = s.unfused := by
  by_cases h : ∃ k, e = .program k
  · obtain ⟨k, rfl⟩ := h
    exact State.programNow_unfused ..
  · exact unfused_of_still (State.applyEff_still s e fun k q => h ⟨k, q⟩)
theorem State.oneDue_unfused (s : State) (e : Eff) : (s.oneDue e).unfused = s.unfused := by
  unfold State.oneDue
  split
  · exact unfused_of_still (by simp)
  · split
    · rename_i q
      exact (State.applyEff_unfused ..).trans (unfused_of_still (State.takeEff_still _ _ _ q))
    · rfl
theorem applyDue_unfused (n : Nat) (s : State) : (applyDue n s).unfused = s.unfused := by
  induction n generalizing s with
  | zero => rfl
  | succ n ih =>
    unfold applyDue
    split
    · exact (ih _).trans (State.oneDue_unfused ..)
    · rfl
@[simp] theorem State.endTimers_still (s : State) : s.endTimers.still = s.still := by
  unfold State.endTimers
  dsimp only
  refine (still_foldl _ (fun s a => still_if (by simp) rfl) _ _).trans ?_
  have h1 : ∀ t : State, (if sampleDue t then t.sample else t).still = t.still := fun t => still_if (by simp) rfl
  have h2 : ∀ t : State, (if syncDue t then t.timeSync else t).still = t.still := fun t => still_if (by simp) rfl
  rw [h1, h2]
@[simp] theorem State.endWaits_still (s : State) : (State.endWaits s).still = s.still := by
  (unfold State.endWaits; dsimp only; repeat' split) <;> simp [still_ite]
@[simp] theorem State.endRange_still (s : State) : s.endRange.still = s.still := by
  unfold State.endRange
  refine still_if rfl ?_
  dsimp only
  refine (still_foldl _ (fun s a => still_if rfl (by split <;> simp)) _ _).trans ?_
  refine (still_foldl _ (fun s a => by simp) _ _).trans ?_
  refine (still_foldl _ (fun s a => by simp) _ _).trans ?_
  exact still_if (by simp) rfl
@[simp] theorem State.pumpWork_still (s : State) : s.pumpWork.still = s.still := by
  unfold State.pumpWork
  simp
@[simp] theorem State.turn_still (s : State) (st : Stream) : (State.turn s st).still = s.still := by
  (unfold State.turn; repeat' split) <;> simp [still_ite]
@[simp] theorem State.freeClosed_still (s : State) : (State.freeClosed s).still = s.still := by
  rfl
theorem State.endBeat_unfused (s : State) : s.endBeat.unfused = s.unfused := by
  unfold State.endBeat
  dsimp only
  have h4 : ∀ t : State, (if pingDue t then t.pingNow else t).still = t.still := fun t => still_if (by simp) rfl
  have h5 : ∀ t : State, (if wearDue t then t.wearRotate else t).still = t.still := fun t => still_if (by simp) rfl
  have h1 : ∀ t : State, (if snapDue t then t.snapNow else t).still = t.still := fun t => still_if (by simp) rfl
  have h2 : ∀ t : State, (if refillDue t then t.refillNow else t).still = t.still := fun t => still_if (by simp) rfl
  have h3 : ∀ (l : List Stream) (t : State), (l.foldl (fun s st => endInput 2048 st.handle s) t).still = t.still :=
    fun l t => still_foldl _ (fun s a => by simp) l t
  refine (unfused_of_still ((State.dynFree_still _).trans ((State.dynClose_still _).trans ((still_foldl _ (fun s a => by simp) _ _).trans
    ((State.pumpWork_still _).trans ((h4 _).trans ((h5 _).trans ((h1 _).trans (h2 _))))))))).trans ((applyDue_unfused ..).trans (unfused_of_still ?_))
  simp [h3]
@[simp] theorem State.nextBeat_still (s : State) (time : W64) : (State.nextBeat s time).still = s.still := by
  simp [State.nextBeat, still_ite]
/-- A fold over entries of one rank keeps what each of them keeps. -/
theorem still_foldl_mem {α : Type} (f : State → α → State) (l : List α) (h : ∀ a ∈ l, ∀ s, (f s a).still = s.still) (s : State) :
    (l.foldl f s).still = s.still := by
  induction l generalizing s with
  | nil => rfl
  | cons a l ih => exact (ih (fun b hb => h b (List.mem_cons_of_mem _ hb)) _).trans (h a List.mem_cons_self s)
@[simp] theorem State.bindDue_still (s : State) : (State.bindDue s).still = s.still := by
  unfold State.bindDue
  refine still_foldl_mem _ _ (fun e he t => ?_) _
  refine (State.applyEff_still _ _ fun k q => ?_).trans rfl
  simp [q, Eff.rank] at he
@[simp] theorem State.openBeat_still (s : State) (x1 : BeatIn) : (State.openBeat s x1).still = s.still := by
  simp [State.openBeat, still_ite]
@[simp] theorem State.releaseBeat_still (s : State) : (State.releaseBeat s).still = s.still := by
  simp [State.releaseBeat, still_ite]
@[simp] theorem State.runTo_still (s : State) (k : ℕ) : (State.runTo s k).still = s.still := by
  unfold State.runTo
  dsimp only
  have h1 : ∀ t : State, (if t.clk.phase = 0 && 2 ≤ k then t.computeNow [] else t).still = t.still := fun t => still_if (by simp) rfl
  have h2 : ∀ t : State, (if t.clk.phase = 1 && 3 ≤ k then t.sealBeat [] else t).still = t.still := fun t => still_if (by simp) rfl
  have h3 : ∀ t : State, (if t.clk.phase = 2 && 4 ≤ k then t.releaseBeat else t).still = t.still := fun t => still_if (by simp) rfl
  rw [h3, h2, h1]
theorem State.boundary_unfused (s : State) (x1 : BeatIn) : (State.boundary s x1).unfused = s.unfused := by
  unfold State.boundary
  refine unfused_if rfl ?_
  have h : (s.runTo 4).unfused = s.unfused := unfused_of_still (State.runTo_still ..)
  refine unfused_if ?_ ?_
  · exact (unfused_of_still (State.stopNow_still ..)).trans ((State.settle_unfused ..).trans h)
  · exact (unfused_of_still ((State.openBeat_still ..).trans (State.nextBeat_still ..))).trans ((State.endBeat_unfused ..).trans h)
@[simp] theorem State.releaseIdle_still (s : State) : (State.releaseIdle s).still = s.still := by
  simp [State.releaseIdle, still_ite]

end Sys2Proof.Machine
end

