-- ==== Sys2Proof/Laws/Seat.lean ====
section
/-! SUPPORT. What putting an image into tile memory and the associative store leaves as it was: everything but images, banks, the schedule, the stack's runs, the tag
counter, the logs, the outputs and the free-choice counter (R245, R287, R310, R418). -/

set_option maxRecDepth 8000
set_option linter.unusedSimpArgs false
namespace Sys2Proof.Machine

/-- The parts of a state that these operations leave. -/
structure Seat where
  pending : List Instr
  build : ElabS
  fuses : FuseS
  regs : RegS
  start : StartS
  clk : ClockS
  rings : AMap Ring
  cmds : List Cmd
  streams : AMap Stream
  opens : AMap Nat
  recs : List Rec
  masks : List MaskJ
  port : PortS
  tenants : AMap Tenant
  policies : AMap PolBind
  cairns : AMap Cairn
  gov : GovS
  integ : IntegS
  range : RangeS
  test : TestS
  brt : Nat
  epoch : Nat
  plan : Plan
  dyn : AMap DynTile
/-- Those parts of a state. -/
def State.seat (s : State) : Seat := ⟨s.pending, s.build, s.fuses, s.regs, s.start, s.clk, s.rings, s.cmds, s.streams, s.opens, s.recs, s.masks, s.port, s.tenants, s.policies, s.cairns, s.gov, s.integ, s.range, s.test, s.stack.brt, s.stack.epoch, s.plan, s.dyn⟩
@[simp] theorem seat_mk (a0 a1 a2 a3 a4 a5 a6 a7 a8 a9 a10 a11 a12 a13 a14 a15 a16 a17 a18 a19 a20 a21 a22 a23 a24 a25 a26 a27 a28 a29 a30 a31 a32) :
  State.seat (State.mk a0 a1 a2 a3 a4 a5 a6 a7 a8 a9 a10 a11 a12 a13 a14 a15 a16 a17 a18 a19 a20 a21 a22 a23 a24 a25 a26 a27 a28 a29 a30 a31 a32) = ⟨a0, a1, a2, a3, a4, a5, a6, a7, a10, a11, a12, a13, a14, a17, a18, a19, a22, a23, a24, a28, a20.brt, a20.epoch, a30, a31⟩ := Eq.trans rfl rfl
@[simp] theorem seat_fold (s : State) : Seat.mk s.pending s.build s.fuses s.regs s.start s.clk s.rings s.cmds s.streams s.opens s.recs s.masks s.port s.tenants s.policies s.cairns s.gov s.integ s.range s.test s.stack.brt s.stack.epoch s.plan s.dyn = s.seat := Eq.trans rfl rfl
@[simp] theorem seat_ite (c : Prop) [Decidable c] (a b : State) : (if c then a else b).seat = if c then a.seat else b.seat := by split <;> rfl
@[simp] theorem seat_foldl {α : Type} (f : State → α → State) (h : ∀ s a, (f s a).seat = s.seat) (l : List α) (s : State) : (l.foldl f s).seat = s.seat := by
  induction l generalizing s with
  | nil => rfl
  | cons a l ih => simp [ih, h]
theorem seat_foldlP {α β : Type} (f : State × β → α → State × β) (h : ∀ s a, (f s a).1.seat = s.1.seat) (l : List α) (s : State × β) :
    (l.foldl f s).1.seat = s.1.seat := by
  induction l generalizing s with
  | nil => rfl
  | cons a l ih => simp [ih, h]
theorem seat_foldlQ {α β : Type} (f : β × State → α → β × State) (h : ∀ s a, (f s a).2.seat = s.2.seat) (l : List α) (s : β × State) :
    (l.foldl f s).2.seat = s.2.seat := by
  induction l generalizing s with
  | nil => rfl
  | cons a l ih => simp [ih, h]
theorem seat_if {c : Prop} [Decidable c] {a b t : State} (h1 : a.seat = t.seat) (h2 : b.seat = t.seat) : (if c then a else b).seat = t.seat := by
  split <;> assumption
theorem seat_foldlO {α β : Type} (f : Option (β × State) → α → Option (β × State)) (t : Seat)
    (h0 : ∀ a, f none a = none) (h : ∀ x a y, x.2.seat = t → f (some x) a = some y → y.2.seat = t)
    (l : List α) (x : β × State) (hx : x.2.seat = t) : ∀ y, l.foldl f (some x) = some y → y.2.seat = t := by
  have hn : ∀ l : List α, l.foldl f none = none := by
    intro l; induction l with
    | nil => rfl
    | cons a l ih => simp [h0, ih]
  induction l generalizing x with
  | nil => intro y e; cases e; exact hx
  | cons a l ih =>
    intro y e
    rw [List.foldl_cons] at e
    cases hfa : f (some x) a with
    | none => rw [hfa, hn] at e; cases e
    | some z => rw [hfa] at e; exact ih z (h x a z hx hfa) y e
theorem seat_ifO {c : Prop} [Decidable c] {a b : Option State} {u : Seat} (h1 : ∀ x, a = some x → x.seat = u) (h2 : ∀ x, b = some x → x.seat = u) :
    ∀ x, (if c then a else b) = some x → x.seat = u := by
  split <;> assumption
theorem seat_some {a : State} {u : Seat} (h : a.seat = u) : ∀ x, some a = some x → x.seat = u := by
  intro x e; cases e; exact h
theorem seat_none {u : Seat} : ∀ x : State, none = some x → x.seat = u := by
  intro x e; cases e
theorem seat_pending (s : State) : s.seat.pending = s.pending := rfl
theorem seat_build (s : State) : s.seat.build = s.build := rfl
theorem seat_fuses (s : State) : s.seat.fuses = s.fuses := rfl
theorem seat_regs (s : State) : s.seat.regs = s.regs := rfl
theorem seat_start (s : State) : s.seat.start = s.start := rfl
theorem seat_clk (s : State) : s.seat.clk = s.clk := rfl
theorem seat_rings (s : State) : s.seat.rings = s.rings := rfl
theorem seat_cmds (s : State) : s.seat.cmds = s.cmds := rfl
theorem seat_streams (s : State) : s.seat.streams = s.streams := rfl
theorem seat_opens (s : State) : s.seat.opens = s.opens := rfl
theorem seat_recs (s : State) : s.seat.recs = s.recs := rfl
theorem seat_masks (s : State) : s.seat.masks = s.masks := rfl
theorem seat_port (s : State) : s.seat.port = s.port := rfl
theorem seat_tenants (s : State) : s.seat.tenants = s.tenants := rfl
theorem seat_policies (s : State) : s.seat.policies = s.policies := rfl
theorem seat_cairns (s : State) : s.seat.cairns = s.cairns := rfl
theorem seat_gov (s : State) : s.seat.gov = s.gov := rfl
theorem seat_integ (s : State) : s.seat.integ = s.integ := rfl
theorem seat_range (s : State) : s.seat.range = s.range := rfl
theorem seat_plan (s : State) : s.seat.plan = s.plan := rfl
theorem seat_dyn (s : State) : s.seat.dyn = s.dyn := rfl
theorem seat_test (s : State) : s.seat.test = s.test := rfl
theorem seat_brt (s : State) : s.seat.brt = s.stack.brt := rfl
theorem seat_epoch (s : State) : s.seat.epoch = s.stack.epoch := rfl
/-- Those parts are of the front. -/
def Front.seat (s : Front) : Seat := ⟨s.pending, s.build, s.fuses, s.regs, s.start, s.clk, s.rings, s.cmds, s.streams, s.opens, s.recs, s.masks, s.port, s.tenants, s.policies, s.cairns, s.gov, s.integ, s.range, s.test, s.stack.brt, s.stack.epoch, s.plan, s.dyn⟩
theorem front_seat (s : State) : s.front.seat = s.seat := rfl
@[simp] theorem State.pick_seat (s : State) (n : ℕ) : (State.pick s n).2.seat = s.seat :=
  (front_seat _).symm.trans ((congrArg Front.seat (State.pick_front ..)).trans (front_seat _))
@[simp] theorem State.emit_seat (s : State) (o : Out) : (State.emit s o).seat = s.seat :=
  (front_seat _).symm.trans ((congrArg Front.seat (State.emit_front ..)).trans (front_seat _))
@[simp] theorem State.count_seat (s : State) (i : ℕ) (n : ℕ) : (State.count s i n).seat = s.seat :=
  (front_seat _).symm.trans ((congrArg Front.seat (State.count_front ..)).trans (front_seat _))
@[simp] theorem State.raise_seat (s : State) (i : ℕ) : (State.raise s i).seat = s.seat :=
  (front_seat _).symm.trans ((congrArg Front.seat (State.raise_front ..)).trans (front_seat _))
@[simp] theorem State.trace_seat (s : State) (engine : ℕ) (event : ℕ) (tag : ℕ) (layerId : ℕ) (opId : ℕ) (policy : ℕ) (stream : ℕ) (detail : W64) : (State.trace s engine event tag layerId opId policy stream detail).seat = s.seat :=
  (front_seat _).symm.trans ((congrArg Front.seat (State.trace_front ..)).trans (front_seat _))
@[simp] theorem State.ev_seat (s : State) (engine : ℕ) (event : ℕ) (stream : ℕ) (detail : List (ℕ × ℕ)) : (State.ev s engine event stream detail).seat = s.seat :=
  (front_seat _).symm.trans ((congrArg Front.seat (State.ev_front ..)).trans (front_seat _))
@[simp] theorem State.log_seat (s : State) (code : ℕ) (severity : ℕ) (engine : ℕ) (d0 : W64) (d1 : W64) (d2 : W64) : (State.log s code severity engine d0 d1 d2).seat = s.seat :=
  (front_seat _).symm.trans ((congrArg Front.seat (State.log_front ..)).trans (front_seat _))
@[simp] theorem State.write'_seat (s : State) (owner : WOwner) (attr : ℕ) (data : List (ℕ × List Byte)) (commit : Option (ℕ × List Byte)) : (State.write' s owner attr data commit).seat = s.seat :=
  (front_seat _).symm.trans ((congrArg Front.seat (State.write'_front ..)).trans (front_seat _))
@[simp] theorem State.write_seat (s : State) (owner : WOwner) (attr : ℕ) (data : List (ℕ × List Byte)) (commit : Option (ℕ × List Byte)) (after : List ℕ) : (State.write s owner attr data commit after).2.seat = s.seat :=
  (front_seat _).symm.trans ((congrArg Front.seat (State.write_front ..)).trans (front_seat _))
@[simp] theorem State.read_seat (s : State) (o : ROwner) (addr : ℕ) (rows : ℕ) (attr : ℕ) : (State.read s o addr rows attr).seat = s.seat :=
  (front_seat _).symm.trans ((congrArg Front.seat (State.read_front ..)).trans (front_seat _))
@[simp] theorem State.writeRows_seat (s : State) (what : ℕ) (key : ℕ) (addr : ℕ) (bs : List Byte) : (State.writeRows s what key addr bs).seat = s.seat :=
  (front_seat _).symm.trans ((congrArg Front.seat (State.writeRows_front ..)).trans (front_seat _))
@[simp] theorem State.placeRows_seat (s : State) (what key : ℕ) (bs : List Byte) : (State.placeRows s what key bs).seat = s.seat :=
  (front_seat _).symm.trans ((congrArg Front.seat (State.placeRows_front ..)).trans (front_seat _))
@[simp] theorem State.fresh_seat (s : State) : (State.fresh s).2.seat = s.seat := by
  rfl
@[simp] theorem State.setBank_seat (s : State) (b : ℕ) (f : Bank → Bank) : (State.setBank s b f).seat = s.seat := by
  rfl
@[simp] theorem State.setImg_seat (s : State) (slot : ℕ) (f : Img → Img) : (State.setImg s slot f).seat = s.seat := by
  rfl
@[simp] theorem placeOnce_seat (s : State) (ridges : List ℕ) (n : ℕ) : (placeOnce s ridges n).2.seat = s.seat := by
  simp [placeOnce, seat_ite]
@[simp] theorem State.at_seat (s : State) (b : ℕ) (e : Eff) : (State.at s b e).seat = s.seat := by
  rfl
@[simp] theorem State.bankAt_seat (s : State) (k : ℕ) (e : Eff) : (State.bankAt s k e).seat = s.seat := by
  simp [State.bankAt, seat_ite]
@[simp] theorem State.dropPlaced_seat (s : State) (i : Img) : (State.dropPlaced s i).seat = s.seat := by
  simp [State.dropPlaced]
@[simp] theorem State.putCopy_seat (s : State) (w : ℕ) (rs : List EntryRec) (os : List Offer) : (State.putCopy s w rs os).seat = s.seat := by
  unfold State.putCopy
  exact (seat_foldl _ (fun s x => by simp) _ _).trans rfl
theorem placeSet_seat (s : State) (p : PatSetImg) (banks : List Nat) : ∀ x, placeSet s p banks = some x → x.2.seat = s.seat := by
  intro x hx
  unfold placeSet at hx
  rw [← State.pick_seat s banks.length]
  generalize s.pick banks.length = q at hx ⊢
  obtain ⟨cs, -, rfl⟩ := Option.map_eq_some_iff.mp hx
  exact seat_foldl _ (fun s c => by simp) _ _
theorem placeBody_seat (s : State) (b : ImgBody) (r : List Nat) : ∀ x, placeBody s b r = some x → x.2.seat = s.seat := by
  have e1 : ∀ n tree x, (match placeOnce s r n with
      | (some m, s) => some ((m, if tree = true then r else (m.map fun x => x.2 / 16).eraseDups, ([] : List (Nat × Nat × Nat))), s)
      | _ => none) = some x → x.2.seat = s.seat := by
    intro n tree x h
    split at h
    · rename_i q; cases h
      have := placeOnce_seat s r n
      rw [q] at this; exact this
    · cases h
  have e2 : ∀ {α : Type} (o : Option α) (g : α → AMap Nat) (rs : List Nat) x, o.map (fun m => ((g m, rs, ([] : List (Nat × Nat × Nat))), s)) = some x → x.2.seat = s.seat := by
    intro α o g rs x h
    cases o with
    | none => cases h
    | some m => cases h; rfl
  intro x h
  cases b with
  | vocabulary v => exact e1 _ _ _ (Option.ite_none_right_eq_some.mp h).2
  | maskDictionary m => cases h; rfl
  | grammar g => exact e2 _ (fun m => m) _ _ (Option.ite_none_right_eq_some.mp h).2
  | patternSet p =>
    obtain ⟨y, hy, rfl⟩ := Option.map_eq_some_iff.mp h
    exact placeSet_seat _ _ _ _ hy
  | automaton a => cases (Option.ite_none_right_eq_some.mp h).2; rfl
  | probeHead p => exact e1 _ false _ h
  | treeEnsemble e => cases (Option.ite_none_right_eq_some.mp h).2; rfl
  | probeDelta d => exact e2 _ (fun m => m) _ _ h
  | treeDelta d => cases (Option.ite_none_right_eq_some.mp h).2; rfl
  | policy p => cases h; rfl
theorem State.installImage_seat (s : State) (slot : Nat) (h : ImgHdr) (b : ImgBody) (img : List Byte) :
    ∀ x, s.installImage slot h b img = some x → x.seat = s.seat := by
  intro x hx
  unfold State.installImage at hx
  split at hx
  · cases hx
  · rename_i q
    have := placeBody_seat _ _ _ _ (Option.ite_none_left_eq_some.mp q).2
    dsimp only at hx
    rw [Option.some.injEq] at hx
    subst hx
    simpa using this
@[simp] theorem State.dropReads_seat (s : State) (p : ROwner → Bool) : (State.dropReads s p).seat = s.seat := by
  rfl
@[simp] theorem State.dropImage_seat (s : State) (slot : ℕ) : (State.dropImage s slot).seat = s.seat := by
  unfold State.dropImage; split <;> simp [seat_ite]
@[simp] theorem State.rejectAtStart_seat (s : State) (a : ActRec) (status : ℕ) : (State.rejectAtStart s a status).seat = s.seat := by
  simp [State.rejectAtStart, seat_ite]
@[simp] theorem State.reloadOne_seat (same : Bool) (s : State) (a : ActRec) : (s.reloadOne same a).seat = s.seat := by
  unfold State.reloadOne
  split
  · simp
  · split
    · simp
    · dsimp only
      split
      · simp
      · rename_i q
        have := State.installImage_seat _ _ _ _ _ _ q
        simpa using this
@[simp] theorem State.replaceSet_seat (same : Bool) (s : State) (slot : Nat) : (s.replaceSet same slot).seat = s.seat := by
  unfold State.replaceSet
  split
  · split
    · dsimp only
      split
      · rename_i q
        have := placeSet_seat _ _ _ _ q
        simpa using this
      · simp
    · rfl
  · rfl

end Sys2Proof.Machine
end

