-- ==== Sys2Proof/Tests/Slice0.lean ====
section
/-! SUPPORT. Small tests: commands that are not well formed, witnesses that the statements' premises are met, and single steps against the
manual's own tables and examples. -/

namespace Sys2Proof.Tests

set_option Elab.async false

open Sys2Proof Sys2Proof.Machine

/-! Helpers. -/

/-- A descriptor of ring 0 at index 0 with phase 1 and nothing but its opcode. -/
def tD (op : Nat) : Desc := ⟨0, 0, BitVec.ofNat 64 (op + 2 ^ 63), 0, 0, 0, 0, 0, 0, 0⟩

/-- An administration ring's entry: 64 descriptors, 64 completion entries, 1,024 egress slots, any tenant. -/
def tEntry : RingEntry :=
  { enable := true, admin := true, sqBase := 0x10000, sqSize := 0, cqBase := 0x20000, cqSize := 0, egBase := 0x30000, egSize := 4, tenant := 0,
    anyTenant := true, rclass := 0, vector := 0, irqEn := false, verdictIrq := false, attr := 0, holdoff := 0, reservedOk := true }
/-- A started block in beat 5,000 with an administration ring. -/
def tRun : State :=
  { State.reset with
    start := { StartS.reset 0 0 false false with phase := .complete }
    clk := { ClockS.reset with beat := 5000 }
    rings := [(0, { Ring.blank with entry := some tEntry })] }
/-- The block in a phase of its beat. -/
def tPhase (p : Nat) (s : State) : State := { s with clk := { s.clk with phase := p } }
/-- A descriptor fetched on ring 0. -/
def tGet (s : State) (d : Desc) : State := s.setRing 0 fun r => { r with fetched := [d] }
/-- The started block with ring 0 as given. -/
def tRing (f : Ring → Ring) : State := tRun.setRing 0 f
/-- A record of the sampler's port: kind, slot, step, node, parent and token as Table 4-2 places them. -/
def tRecord (kind slot step node parent token : Nat) : W64 :=
  BitVec.ofNat 64 (token + slot * 2 ^ 19 + kind * 2 ^ 33 + node * 2 ^ 36 + parent * 2 ^ 42 + step * 2 ^ 48)
/-- An open stream of ring 0: index 0, first open, taking input. -/
def tSt : Stream := { (default : Stream) with handle := 16384, phase := .inputOpen }
/-- The started block with one stream. -/
def tOpen (st : Stream) : State := { tRun with streams := [(0, st)] }

/-- A policy of delay 1 with no models, a vocabulary of eight one-byte tokens, and their images, active in slots 0 and 1. -/
def tPol : PolicyImg := { (default : PolicyImg) with mapIndet := vBlock, mapIncomplete := vHold }
def tVoc : VocabImg := { (default : VocabImg) with nTokens := 8, decode := (List.range 8).map fun k => [BitVec.ofNat 8 (0x41 + k)] }
def tImg (kind id : Nat) (b : ImgBody) : Img :=
  { (default : Img) with hdr := { (default : ImgHdr) with kind := kind, imageId := id, gen := 1 }, body := b, status := 1, fixedD := 1, committed := true }
/-- The started block with policy id 0, vocabulary 0 and an enabled tenant 0 with tokens, ring class 0 bounded to 20 beats. -/
def tServe : State :=
  { tRun with
    images := [(0, tImg 10 100 (.policy tPol)), (1, tImg 1 200 (.vocabulary tVoc))]
    policies := [(0, ⟨100, true⟩)]
    tenants := [(0, { Tenant.dflt with enabled := true, c := 10, k := 10 })]
    regs := { RegS.reset .c16 with rclass := [(0, 0x00100014#32)] } }
/-- The same with stream 16384 open on ring 0 and bound to slot 3. -/
def tStream (f : Stream → Stream) : State :=
  { tServe with streams := [(0, f { tSt with vocab := 1, slot := some 3, dMin := 1 })] }

/-- A channel in service with credit. -/
def tChan (f : Chan → Chan) : State :=
  { tServe with stack := { StackS.reset with chans := [(0, f { Chan.blank with inService := true, credit := 100 })], brt := 2 } }
/-! Ill-formed commands: one for each check of Instr.wellFormed. -/

theorem test_wf_accepts : ([.cancelDoorbell 1024#11 0#64, .submissionTailDoorbell 0#11 0#64, .openStream (tD 0x01) [], .unbindSlot { tD 0x04 with w2 := 0x10000#64 },
    .expertGovBound { tD 0x48 with w2 := 0x13#64 }, .stepEnd (BitVec.ofNat 64 (3 * 2 ^ 33)), .mbist ⟨true, true⟩ 0#16 0#16, .idcode] : List Instr).all
    Instr.wellFormed = true := by decide
theorem test_wf_doorbells : ([.submissionTailDoorbell 1024#11 0#64, .completionHeadDoorbell 1024#11 0#64, .egressHeadDoorbell 1024#11 0#64,
    .cancelDoorbell 1023#11 0#64] : List Instr).any Instr.wellFormed = false := by decide
theorem test_wf_stream_opcodes : (let d := tD 0x42
    [.openStream d [], .closeStream d, .ingest d, .bindSlot d, .unbindSlot { d with w2 := 0x10000#64 }, .cancel d, .saveCairn d, .resumeCairn d,
      .retireCairn d] : List Instr).any Instr.wellFormed = false := by decide
theorem test_wf_admin_opcodes : (let d := tD 0x01
    [.loadImage d [], .activateImage d, .retireImage d, .queryImage d, .setTenant d, .setBudget d, .setPolicy d, .matchUpdateInvalidate d,
      .matchUpdateWrite { d with w2 := 1#64 } [], .matchUpdateValidate { d with w2 := 2#64 }, .matchShift d, .matchSearch d [], .selfTest d false,
      .calibrateThermalTrims d [], .calibrateDroopDetectors { d with w2 := 1#64 }, .calibrateStackRoundTrip { d with w2 := 2#64 }] : List Instr).any
    Instr.wellFormed = false := by decide
theorem test_wf_debug_opcodes : (let d := tD 0x02
    [.traceCtl d, .counterCtl d, .logFlush d, .stop d, .resume d, .hangReport d, .rangeJoin d, .rangeLeave d, .rangeStatus d, .expertQuery d,
      .expertPinImage { d with w2 := 0x10#64 }, .expertReserveSlots { d with w2 := 0x11#64 }, .expertReleaseSlots { d with w2 := 0x21#64 },
      .expertSetBankWidth { d with w2 := 0x12#64 }, .expertGovBound { d with w2 := 0x13#64 }] : List Instr).any Instr.wellFormed = false := by
  decide
theorem test_wf_sub_operations : ([.bindSlot { tD 0x04 with w2 := 0x10000#64 }, .unbindSlot (tD 0x04), .matchUpdateInvalidate { tD 0x20 with w2 := 3#64 },
    .matchUpdateWrite (tD 0x20) [], .matchUpdateValidate (tD 0x20), .calibrateThermalTrims { tD 0x29 with w2 := 3#64 } [],
    .calibrateDroopDetectors (tD 0x29), .calibrateStackRoundTrip (tD 0x29), .expertQuery { tD 0x48 with w2 := 0x10#64 }, .expertPinImage (tD 0x48),
    .expertReserveSlots (tD 0x48), .expertReleaseSlots (tD 0x48), .expertSetBankWidth (tD 0x48), .expertGovBound (tD 0x48)] : List Instr).any
    Instr.wellFormed = false := by decide
theorem test_wf_port_records : (let w := BitVec.ofNat 64 (5 * 2 ^ 33)
    [.committedToken w, .draftToken w, .acceptMarker w, .stepEnd w, .featureFrame ⟨w, [], [], true⟩] : List Instr).any Instr.wellFormed = false := by
  decide
theorem test_wf_responses : (let r : Rsp := ⟨0, 235, 1, 0, 0, 0, 0, 0, 0, 0, []⟩
    let q : Rsp := ⟨0, 0, 1, 0, 0, 0, 1, 0, 0, 0, []⟩
    [.tileReadResponse r, .tileWriteResponse r, .featureStageResponse r, .treeWalkResponse r, .maskCombineResponse r, .gatherSumResponse r,
      .cairnSaveResponse q, .cairnLoadResponse q, .scrubRangeResponse q, .pingResponse q] : List Instr).any Instr.wellFormed = false := by decide
theorem test_wf_relays : (let r : RelayIn := ⟨0, 0, 0, 0, 0, 0, 0, 0, 0, 0⟩
    [.relayRec r, .relayChunk r, .relayJoin r, .relayMembers r, .relayProbe r, .relayGrant r, .relayReport r, .relayAck r, .relayHeartbeat r,
      .relayStop r, .relayResume r, .relayLeave r] : List Instr).any Instr.wellFormed = false := by decide
theorem test_wf_test_port : (let p : TestPins := ⟨false, true⟩
    [.mbist p 0 0, .mbistResult p, .scan p, .fuseProg p 0 0, .fuseRead p 0] : List Instr).any Instr.wellFormed = false := by decide

/-! Witnesses: states and operands that meet the premises of the statements, clause by clause. -/

theorem witness_QueueFirstInFirstOut : step { State.reset with pending := [.stopIHigh, .idcode] }
    = .next { State.reset with pending := [.idcode], clk := { ClockS.reset with stopPin := true } } := rfl

theorem witness_PowerOnResetRunsSteps1To3 :
    (let f := fun b : BootIn => (b.badCells.filter fun c => decide (c < State.reset.cells)).eraseDups.length
     f ⟨true, true, List.range 17, false⟩ = 17 ∧ f ⟨true, true, List.range 16, false⟩ = 16 ∧ f ⟨true, true, [255, 256], false⟩ = 1) := by
  decide +kernel

theorem witness_WarmResetKeepsFailCount :
    (let s : State := { State.reset with start := { State.reset.start with phase := .safeMode, failCount := 3 } }
     s.start.phase = .safeMode ∧ s.start.coldNext = false)
    ∧ (let s : State := { State.reset with start := { State.reset.start with failCount := 2, coldNext := true } }
       (s.start.phase ≠ .safeMode ∨ s.start.coldNext = true) ∧ s.start.coldNext = true) := by decide +kernel

/-- Agents that answer identify as the registers ask, a start state whose regions are set, and what steps 4 to 8 find. -/
def tAwait : State :=
  { State.reset with
    start := { State.reset.start with phase := .awaiting, failCount := 2 }
    regs := { RegS.reset .c16 with region := [(0, 0x01000000#32), (2, 0x00010100#32)] } }
def tStart : StartIn :=
  { badSensors := [], moved := false, idleMw := 0, dynMw := 0
    agents := (List.range 8).map fun k => ⟨BitVec.ofNat 3 k, 0x0402040000000064#64, 0x03FF0800#64, 8#64⟩
    epoch := 0#8, rtMax := 200, times := (List.range 64).map fun i => BitVec.ofNat 64 i, persistOk := true, scanOk := true, mirror := [] }

theorem witness_GoRunsSteps4To8 :
    bit 0#32 0 = false ∧ State.reset.start.phase ≠ .awaiting
    ∧ bit 1#32 0 = true ∧ tAwait.start.phase = .awaiting
    ∧ stackBad (tAwait.identify { tStart with agents := [] }) { tStart with agents := [] } = true
    ∧ stackBad (tAwait.identify tStart) tStart = false ∧ timeAdvances tStart = true ∧ (!tStart.persistOk || decide (4 < tAwait.persistAttr)) = false
    ∧ timeAdvances { tStart with times := List.replicate 64 7#64 } = false ∧ (!{ tStart with persistOk := false }.persistOk) = true := by
  decide +kernel

theorem witness_StartCompletesAtBoundaryZero :
    State.reset.start.phase ≠ .steps48 ∧ { State.reset.start with phase := StartPhase.steps48 }.phase = .steps48 := by decide +kernel

theorem witness_PlainRegistersReadBack :
    State.reset.rwl = true ∧ tRun.rwl = false ∧ (0x2008#16, 0xFFFFF000#32) ∈ [(0x2008#16, 0xFFFFF000#32), (0x200C, 0x01FFFFFF)]
      ∧ (0x1008 : Nat) % 4 = 0 ∧ 0x1008 ≠ (0x2008#16).toNat := by decide +kernel

theorem witness_OutOfRangeFieldsKeepTheirValue :
    State.reset.rwl = true ∧ (15 : Nat) < 16
      ∧ fld 1#32 15 0 = 1 ∧ fld 0x00070000#32 24 16 = 7 ∧ fld 0x01000000#32 24 16 = 256 ∧ fld 0x82000000#32 31 25 = 65
      ∧ fld 0x00000080#32 7 0 = 128 ∧ fld 500000#32 19 0 = 500000 ∧ fld 499999#32 19 0 < 500000 := by decide +kernel

theorem witness_StepKeepsRegistersLegal :
    State.reset.regsLegal = true ∧ step { State.reset with pending := [.idcode] } = exec .idcode State.reset := by
  exact ⟨by decide +kernel, rfl⟩

theorem witness_OnlyWritesAndResetsChangeRegisters :
    ∃ t, exec (.registerWrite 0x2008#16 0x1000#32) State.reset = .next t ∧ t.regs ≠ State.reset.regs :=
  ⟨_, rfl, by decide +kernel⟩

/-! Rings. -/

theorem witness_DiscardedDoorbellsAreRecorded :
    State.reset.serving = false ∧ tRun.serving = true
    ∧ fld 1#64 9 0 ≠ (0#11).toNat % 1024
    ∧ ((tRun.ring 0).resetAsked = false ∧ (tRun.ring 0).faulted = false ∧ (tRun.ring 0).entry = some tEntry
      ∧ fld 0#64 9 0 = (0#11).toNat % 1024 ∧ fld 0x0C000000#64 27 26 = 3
      ∧ ringSize tEntry.sqSize ≤ fld (BitVec.ofNat 64 (64 * 2 ^ 10)) 25 10
      ∧ (let w := BitVec.ofNat 64 (2 ^ 26 + 63 * 2 ^ 10)
         fld w 27 26 = 1 ∧ fld w 25 10 < ringSize tEntry.cqSize
          ∧ (tRun.ring 0).cqDone < (fld w 25 10 + ringSize tEntry.cqSize - (tRun.ring 0).cqHead) % ringSize tEntry.cqSize)
      ∧ (let w := BitVec.ofNat 64 (2 ^ 27 + 1 * 2 ^ 10)
         fld w 27 26 = 2 ∧ fld w 25 10 < ringSize tEntry.egSize
          ∧ (tRun.ring 0).egDone < (fld w 25 10 + ringSize tEntry.egSize - (tRun.ring 0).egHead) % ringSize tEntry.egSize))
    ∧ (let s := tRing fun r => { r with faulted := true, cause := 4 }
       s.serving = true ∧ (s.ring 0).resetAsked = false ∧ (s.ring 0).faulted = true) := by decide +kernel

theorem witness_DoorbellsMoveTailAndHeads :
    (let s := tRing fun r => { r with cqUsed := 63, cqDone := 63, egUsed := 1023, egDone := 1023 }
     let c := BitVec.ofNat 64 (2 ^ 26 + 63 * 2 ^ 10)
     let e := BitVec.ofNat 64 (2 ^ 27 + 1023 * 2 ^ 10)
     s.serving = true ∧ fld c 9 0 = 0 ∧ (s.ring 0).resetAsked = false ∧ (s.ring 0).faulted = false ∧ (s.ring 0).entry = some tEntry
      ∧ fld (BitVec.ofNat 64 (63 * 2 ^ 10)) 27 26 = 0 ∧ fld (BitVec.ofNat 64 (63 * 2 ^ 10)) 25 10 < ringSize tEntry.sqSize
      ∧ (s.ring 0).halted = false
      ∧ fld c 27 26 = 1 ∧ fld c 25 10 < ringSize tEntry.cqSize ∧ (fld c 25 10 + ringSize tEntry.cqSize - 0) % ringSize tEntry.cqSize ≤ (s.ring 0).cqDone
      ∧ fld e 27 26 = 2 ∧ fld e 25 10 < ringSize tEntry.egSize ∧ (fld e 25 10 + ringSize tEntry.egSize - 0) % ringSize tEntry.egSize ≤ (s.ring 0).egDone)
    ∧ ((tRing fun r => { r with halted := true }).ring 0).halted = true := by decide +kernel

theorem witness_RingEntryIsReadAndChecked :
    (let s := tRing fun _ => Ring.blank
     s.serving = true ∧ (s.ring 0).entry = none ∧ (s.ring 0).early = [] ∧ freeTag s.host.reads = some 0
      ∧ AMap.get? s.host.reads 0 = none ∧ unacked s (ringTableBase s + 64 * 0) 64 = false
      ∧ unacked { s with host := { s.host with packets := [(0, (63, 1))] } } (ringTableBase s + 64 * 0) 64 = true)
    ∧ (let s := { (tRing fun _ => { Ring.blank with early := [(0, 1)] }) with host := { HostS.reset with reads := [(0, .table 0)] } }
       AMap.get? s.host.reads 0 = some (.table 0) ∧ (s.ring 0).entry = none ∧ (s.ring 0).early ≠ []
        ∧ entryCause (parseRing (List.replicate 64 0#8)) = some 1
        ∧ entryCause (parseRing ((List.replicate 64 0#8).mapIdx fun i b => if i = 7 then 0x20#8 else if i = 23 then 0x08#8 else b)) = none) := by decide +kernel

theorem witness_CancelsAreAskedOnce :
    State.reset.serving = false
    ∧ (let s := tOpen tSt
       let w := BitVec.ofNat 64 (16384 * 2 ^ 10)
       s.serving = true ∧ fld w 9 0 = 1024 % 1024 ∧ s.stream? (fld w 41 10) = some tSt ∧ tSt.ring = 0 ∧ tSt.phase ≠ .opening
        ∧ s.stream? (fld 0#64 41 10) = none ∧ cancelDue s (fld w 41 10) = false)
    ∧ (let d := { tD 0x05 with w1 := 16384#64 }
       (tGet (tOpen tSt) d).accepts d = true ∧ d.opcode = 0x05) := by decide +kernel

theorem witness_CancelEndsTheStream :
    (let s := { tOpen tSt with sched := [⟨5001, .cancel 16384 vCancelled 0 true, 0⟩] }
     s.clk.stopped = false ∧ s.atEnd = true ∧ beatLe 5001 s.nextB = true ∧ (∀ x ∈ s.sched, x = ⟨5001, .cancel (16384#32).toNat vCancelled 0 true, 0⟩) ∧ s.sched ≠ []
      ∧ s.stream? (16384#32).toNat = some tSt ∧ ∀ c ∈ s.cmds, c.stream ≠ 16384) := by decide +kernel

theorem witness_RingResetAtTheBoundary :
    (tRun.ring (fld 0#32 9 0)).resetAsked = false
    ∧ (let s := { (tRing fun r => { r with resetAsked := true }) with sched := [⟨5001, .ringReset 0, 0⟩] }
       (s.ring (fld 0#32 9 0)).resetAsked = true ∧ s.dueNow (.ringReset 0) = true ∧ s.dueNow (.ringReset 1023) = false
        ∧ (streamsOf s 0).isEmpty = true ∧ (s.ring 0).fetched.isEmpty = true)
    ∧ (streamsOf (tOpen tSt) 0).isEmpty = false := by decide +kernel

theorem witness_DescriptorsAreTakenByTheirPhase :
    (let s (n : Nat) := tRing fun r => { r with reread := some n, fetching := [0] }
     (s 3).ring 0 = { Ring.blank with entry := some tEntry, reread := some 3, fetching := [0] } ∧ ((s 2).ring 0).served = true
      ∧ ((s 2).ring 0).fetching = [(tD 5).index.toNat] ∧ (tRun.ring 0).reread = none ∧ ((s 2).ring 0).fetching ≠ [({ tD 5 with index := 1 } : Desc).index.toNat]
      ∧ (∀ x ∈ tD 5 :: ((s 2).ring 0).fetched, descListed x = true) ∧ dPhase (tD 5) = ((s 2).ring 0).sqPhase
      ∧ dPhase { tD 5 with w0 := 5#64 } ≠ ((s 3).ring 0).sqPhase)
    ∧ (let s := { (tRing fun r => { r with fetching := [0] }) with host := { HostS.reset with reads := [(0, .desc 0 0)] } }
       AMap.get? s.host.reads 0 = some (.desc 0 (s.ring 0).sqHead) ∧ (s.ring 0).fetching = [(s.ring 0).sqHead]
        ∧ (s.ring 0).reread = none ∧ (s.ring 0).entry = some tEntry ∧ (s.ring 0).fetched = [] ∧ s.cmds = [] ∧ s.serving = true ∧ s.start.halted = false
        ∧ (s.ring 0).served = true
        ∧ (∀ b ∈ [0#8, 0x80#8], let data := 5#8 :: (List.replicate 6 0#8 ++ (b :: List.replicate 56 0#8))
            data.length = 64 ∧ descListed (mkDesc 0 0 data) = true ∧ (dPhase (mkDesc 0 0 data) = (s.ring 0).sqPhase ↔ b = 0x80#8))
        ∧ (List.replicate 64 0x80#8).length = 64 ∧ descListed (mkDesc 0 0 (List.replicate 64 0x80#8)) = false
        ∧ dPhase (mkDesc 0 0 (List.replicate 64 0x80#8)) = (s.ring 0).sqPhase) := by decide +kernel

/-- OPEN_STREAM of tenant 0, policy 0, vocabulary 0 with a token buffer of 4,096 tokens. -/
def tOpenD : Desc := { tD 0x01 with w7 := 4096#64 }

theorem witness_OpenStreamMakesAStream :
    (let s := tGet tServe tOpenD
     let u := s.started tOpenD
     let a := openArgs tOpenD []
     s.accepts tOpenD = true ∧ tOpenD.opcode = 0x01 ∧ a.allowAddr = 0 ∧ a.resume = false ∧ tenantOk u 0 a.tenant = true
      ∧ (match openObjects u a with
          | .ok o => o.allow == none && openAdmit u 0 a o (some 0) false == none && openAdmit u 0 a o none false == some stCapacity
              && ridgeCand u (u.maxDraft 0) (some 3) (pinnedRidges u a o) == [3]
          | .error _ => false) = true)
    ∧ (let d := { tOpenD with w2 := 1#64 }
       (tGet tServe d).accepts d = true ∧ tenantOk ((tGet tServe d).started d) 0 1 = false)
    ∧ (let d := { tOpenD with w2 := BitVec.ofNat 64 (2 ^ 12) }
       (tGet tServe d).accepts d = true ∧ (match openObjects ((tGet tServe d).started d) (openArgs d []) with | .error e => e == stNotFound | .ok _ => false) = true) := by decide +kernel

theorem witness_CloseDrainsTheStream :
    (let d := { tD 0x02 with w1 := 16384#64 }
     (tGet (tOpen tSt) d).accepts d = true ∧ d.opcode = 0x02)
    ∧ (let s := { tOpen tSt with sched := [⟨5001, .closeS 16384, 0⟩] }
       s.dueNow (.closeS (16384#32).toNat) = true ∧ s.stream? (16384#32).toNat = some tSt ∧ chunkReady tSt = none ∧ tSt.jobs = [] ∧ s.dueNow (.closeS 5) = false) := by
  decide +kernel

theorem witness_BindSlotAtTheBoundary :
    (let d := { tD 0x04 with w1 := 16384#64, w2 := 16383#64 }
     let s := tGet (tOpen tSt) d
     s.accepts d = true ∧ d.opcode = 0x04 ∧ s.stream? (dStream d) = some tSt ∧ dbit d 2 16 = false ∧ bindOk tSt = true
      ∧ slotTaken (s.started d) (dfld d 2 13 0) tSt.handle = false ∧ tSt.slot = none)
    ∧ (let d := { tD 0x04 with w1 := 16384#64, w2 := 0x10000#64 }
       let s := tGet (tStream id) d
       s.accepts d = true ∧ dbit d 2 16 = true ∧ slotBusy (s.started d) { tSt with vocab := 1, slot := some 3 } = false
        ∧ slotBusy { s with masks := [{ (default : MaskJ) with h := 16384 }] } tSt = true) := by decide +kernel

theorem witness_IngestReadsItsBuffer :
    (let d := { tD 0x03 with w1 := 16384#64, w2 := 4095#64, w3 := 1#64 }
     let s := tGet (tOpen tSt) d
     s.accepts d = true ∧ d.opcode = 0x03 ∧ s.stream? (dStream d) = some tSt ∧ tSt.eoi = false ∧ tSt.stoppedTok = false ∧ inputTaken tSt = true
      ∧ s.isFirst = true ∧ (∀ j ∈ tSt.jobs, j.ready = true) ∧ 0 < dfld d 3 25 0
      ∧ segPre 0 (preToks (s.vocabOf tSt) tSt.carry [] false (dbit d 3 32)).1 = none ∧ ingestParts 4095 1 = 1 ∧ ingestParts 4095 2 = 2
      ∧ freeTag s.host.reads = some 0 ∧ unacked s (4095 / 64 * 64) (64 * cdiv (4095 % 64 + 1) 64) = false)
    ∧ (let st := { tSt with eoi := true }
       let d := { tD 0x03 with w1 := 16384#64, w3 := 1#64 }
       (tGet (tOpen st) d).accepts d = true ∧ st.eoi = true) := by decide +kernel

theorem witness_IngestAndChunkComplete :
    (let j : Ingest := { (default : Ingest) with cmd := 7, ready := true, full := true, consumed := 3 }
     let st := { tSt with jobs := [j] }
     let s := { tOpen st with cmds := [{ (default : Cmd) with id := 7, opcode := 3, stream := 16384, k := .ingest 16384 }] }
     s.complete = true ∧ s.stream? (16384#32).toNat = some st ∧ st.jobs = [j] ∧ j.ready = true ∧ (s.cmd? j.cmd).isSome = true
      ∧ cancelDue s (16384#32).toNat = false ∧ cancelDue { s with sched := [⟨5001, .cancel 16384 vCancelled 0 true, 0⟩] } (16384#32).toNat = true)
    ∧ chunkReady tSt = none ∧ chunkReady { tSt with eoi := true } = some (0, true)
    ∧ chunkReady { tSt with toks := List.replicate 4096 default } = some (4096, false)
    ∧ chunkReady { tSt with toks := List.replicate 4096 default, eoi := true } = some (4096, true)
    ∧ chunkReady { tSt with toks := List.replicate 4095 default } = none
    ∧ 4194304 < ({ tSt with pos := 4190209 } : Stream).pos + 4096 ∧ ({ tSt with pos := 4190208 } : Stream).pos + 4096 ≤ 4194304 := by decide +kernel

theorem witness_BeatBoundaryCountsOneBeat :
    State.reset.complete = false ∧ tRun.live = true ∧ tRun.stopAsked = false
    ∧ (let s := { tRun with clk := { tRun.clk with stopPin := true } }
       s.live = true ∧ s.stopAsked = true ∧ s.clk.phase = 3 ∧ { s.clk with phase := 2 }.phase < 3 ∧ s.sched = [])
    ∧ { tRun with clk := { tRun.clk with stopped := true } }.live = false := by decide +kernel

theorem witness_PhasesKeepTheBeat :
    State.reset.live = false ∧ tRun.live = true ∧ State.reset.serving = false ∧ tRun.clk.phase = 3 ∧ (tPhase 0 tRun).live = true ∧ (tPhase 0 tRun).clk.phase = 0
    ∧ (tPhase 1 tRun).clk.phase = 1 ∧ (tPhase 2 tRun).clk.phase = 2
    ∧ (let s := { tRun with clk := { tRun.clk with stopped := true } }
       s.serving = true ∧ s.live = false) := by decide +kernel

/-! Records, beats and release. -/

/-- A committed record of stream 16384 that has arrived and waits for its stamp. -/
def tRec (f : Rec → Rec) : Rec := f { (default : Rec) with id := 9, h := 16384, kind := .committed, slot := 3, step := 1, arrived := true, maskDone := true }

theorem witness_PortRecordsJoinTheirStep :
    (let s := tStream id
     let st := { tSt with vocab := 1, slot := some 3, dMin := 1 }
     let q := { st with step := some ⟨1, 5000, [(0, 0)], none, false⟩, lastClosed := some 65535 }
     s.portOpen = true ∧ s.bound? 3 = some st ∧ s.stream? st.handle = some st ∧ st.phase ≠ .closing ∧ st.lastClosed = none
      ∧ (∀ c ∈ [(0, tRecord 0 3 1 0 0 7), (1, tRecord 1 3 1 1 0 7), (2, tRecord 2 3 1 0 0 1), (3, tRecord 3 3 1 0 0 0)],
          tkKind c.2 = c.1 ∧ tkSlot c.2 = 3 ∧ tkStep c.2 = 1 ∧ badFields (s.vocabOf st) c.1 c.2 = false)
      ∧ stepAfter 1 65535 = true ∧ stepAfter 32767 65535 = false
      ∧ partFault ⟨1, 5000, [], none, false⟩ 0 0 (tRecord 0 3 1 0 0 7) = false
      ∧ partFault ⟨1, 5000, [(0, 0)], none, false⟩ 2 1 (tRecord 1 3 1 1 0 7) = false
      ∧ partFault ⟨1, 5000, [(0, 0)], none, false⟩ 0 2 (tRecord 2 3 1 0 0 1) = false
      ∧ partFault ⟨1, 5000, [(0, 0)], none, false⟩ 0 3 (tRecord 3 3 1 0 0 0) = false
      ∧ (tStream fun _ => q).bound? 3 = some q) := by decide +kernel

theorem witness_SlotFaultsEndTheOutput :
    (let s := tStream id
     State.reset.portOpen = false ∧ s.portOpen = true ∧ s.bound? 16383 = none ∧ (s.bound? 3).isSome = true
      ∧ badFields (s.vocabOf { tSt with vocab := 1 }) 0 (tRecord 0 3 1 0 0 8) = true
      ∧ badFields (s.vocabOf { tSt with vocab := 1 }) 2 (tRecord 2 3 1 0 0 65) = true
      ∧ partFault ⟨1, 5000, [], none, true⟩ 0 0 (tRecord 0 3 1 0 0 7) = true)
    ∧ (let c := fun st : Stream => { st with phase := .closing }
       ((tStream c).bound? 3).map (·.phase) = some .closing)
    ∧ (let f := fun n => fun st : Stream => { st with step := some ⟨1, n, [], none, false⟩ }
       (∀ n ∈ [904, 905], ((tStream (f n)).bound? 3).map (·.step) = some (some ⟨1, n, [], none, false⟩)
          ∧ (tStream (f n)).bound? 3 = (tStream (f n)).stream? 16384 ∧ (tStream (f n)).recs = [])
        ∧ beatLe (beatAdd 904 4096) (tStream (f 904)).beat = true ∧ beatLe (beatAdd 905 4096) (tStream (f 905)).beat = false)
    ∧ (let r := fun n : Nat => { (default : Rec) with id := 9, h := 16384, needFrame := true, arriveBeat := n }
       let late := fun (s : State) (r : Rec) => r.h == 16384 && r.needFrame && !r.arrived && beatLe (beatAdd r.arriveBeat 4096) s.beat
       let s := fun n : Nat => { tStream id with recs := [r n] }
       (s 904).recs.any (late (s 904)) = true ∧ (s 905).recs.any (late (s 905)) = false) := by decide +kernel

theorem witness_FeatureFrameMeetsItsToken :
    (let w := tRecord 4 3 1 0 0 0
     let s := { tStream id with recs := [tRec fun r => { r with needFrame := true, arrived := false }] }
     let st := { tSt with vocab := 1, slot := some 3, dMin := 1 }
     s.portOpen = true ∧ tkKind w = 4 ∧ s.bound? (tkSlot w) = some st ∧ s.bound? 4 = none ∧ fld w 18 17 = 0
      ∧ (fld w 14 0, fld w 16 15) = ((s.streamPol st).tokCount, (s.streamPol st).tokType) ∧ tkParent w = 0 ∧ tkNode w = 0
      ∧ st.ended = none ∧ st.phase = .inputOpen ∧ frameWhole ⟨w, [], [], true⟩ = true ∧ frameWhole ⟨w, [], [], false⟩ = false
      ∧ (s.recs.find? fun r => r.h == st.handle && r.slot == tkSlot w && r.step == tkStep w && r.needFrame && !r.arrived && r.kind == .committed)
          = some (tRec fun r => { r with needFrame := true, arrived := false })
      ∧ ((tStream id).recs.find? fun r => r.h == st.handle) = none ∧ st.lastClosed = none ∧ st.step = none ∧ earlyFrame s 3 1 0 = none
      ∧ stepAfter (tkStep w) 1 = false ∧ ({ st with lastClosed := some 1 } : Stream).lastClosed = some (tkStep w))
    ∧ (let w := tRecord 4 3 1 5 0 (2 * 2 ^ 17)
       let rc : W32 := 0x10100014#32
       let r := tRec fun r => { r with kind := .draft, node := 5, needFrame := true, arrived := false }
       let s := { tStream id with recs := [r], regs := { tServe.regs with rclass := [(0, rc)] } }
       let st := { tSt with vocab := 1, slot := some 3, dMin := 1 }
       s.portOpen = true ∧ tkKind w = 4 ∧ s.bound? (tkSlot w) = some st ∧ fld w 18 17 = 2 ∧ tkNode w < s.maxDraft st.rc
        ∧ (s.recs.find? fun r => r.h == st.handle && r.slot == tkSlot w && r.step == tkStep w && r.needFrame && !r.arrived && r.kind == .draft && r.node == tkNode w)
            = some r ∧ tkParent w = 0)
    ∧ (let w := tRecord 4 3 0 0 0 (2 ^ 17)
       let f := fun st : Stream => { st with tokIdx := 64, passed := [0] }
       let st := f { tSt with vocab := 1, slot := some 3, dMin := 1 }
       let s := tStream f
       s.portOpen = true ∧ tkKind w = 4 ∧ s.bound? (tkSlot w) = some st ∧ s.stream? st.handle = some st ∧ fld w 18 17 = 1 ∧ tkStep w = 0
        ∧ (fld w 14 0, fld w 16 15) = ((s.streamPol st).spanCount, (s.streamPol st).spanType) ∧ frameWhole ⟨w, [0#64], [], true⟩ = true
        ∧ (0 : Nat) % 64 = 0 ∧ spanPassed st 0 = true ∧ 0 ∉ st.spans ∧ st.inVerdict = none
        ∧ spanRead s (s.streamPol st).inDir ((0 - st.spanBase) / 64) = false
        ∧ spanRead { s with images := s.images ++ [(7, tImg 6 300 (.probeHead { (default : HeadImg) with source := 1 }))] }
            { (s.streamPol st).inDir with heads := [300] } ((0 - st.spanBase) / 64) = true) := by
  decide +kernel

theorem witness_StampFixesReleaseBeat :
    (let r := tRec id
     let s := { tStream id with recs := [r] }
     let st := { tSt with vocab := 1, slot := some 3, dMin := 1 }
     s.rec? r.id = some r ∧ (∀ x ∈ s.recs, x.id = r.id → x = r) ∧ s.stream? r.h = some st ∧ r.kind = .committed ∧ r.stamp = none ∧ r.arrived = true
      ∧ stageReady s r = true ∧ r.maskDone = true ∧ (st.phase = .inputOpen ∨ st.phase = .answering) ∧ st.ended = none ∧ st.base = none ∧ st.pos < 4194304
      ∧ s.isFirst = true ∧ (s.grammarOf st).isNone = true) := by decide +kernel

theorem witness_SealedVerdictHasTheLowestRank :
    (let r := tRec fun r => { r with stamp := some 5000, sealBy := 5000, rel := 5000, screened := true, results := [6, 1] }
     let s := tPhase 1 { tStream id with recs := [r] }
     s.live = true ∧ s.clk.phase = 1 ∧ s.isFirst = true ∧ r ∈ s.recs ∧ (∀ x ∈ s.recs, x.id = r.id → x = r) ∧ (∀ x ∈ s.recs, x.models = []) ∧ (s.stream? r.h).isSome = true
      ∧ r.kind = .committed ∧ sealDue s r = true ∧ sealDue s { r with sealBy := 5001 } = false ∧ hasFlag r.flags fNanSeen = false)
    ∧ (6 : Nat) ∈ [6, 1] := by decide +kernel

theorem witness_WithheldBytesStayInTheGate :
    (vHold ≠ vPass ∧ vHold ≠ vRedact)
    ∧ (let p := tPol
       let g := Gate.ofHeld { tSt with held := [⟨0, 0, 0, 0, 0, [(0, 65#8, true)]⟩] }
       let r := tRec fun r => { r with off := 1, bytes := [66#8] }
       (p.mapIndet = vHold ∨ p.mapIndet = vBlock) ∧ (p.mapIncomplete = vHold ∨ p.mapIncomplete = vBlock) ∧ (∀ x ∈ g.bytes, x.item < g.items.length)
        ∧ (∃ x ∈ (g.take p r vPass).bytes, x.fate = 1) ∧ (∃ e ∈ ((g.take p r vPass).close 16384 [] []).1, 66#8 ∈ e.2.bytes)) := by decide +kernel

theorem witness_CompletionEntriesGoOutInOrder :
    (let s := { (tRing fun r => { r with cqPend := [default, default], cqUsed := 63, cqTail := 63 }) with clk := { tRun.clk with stopped := true } }
     s.serving = true ∧ s.live = false ∧ (s.ring 0).entry = some tEntry ∧ (s.ring 0).resetAsked = false ∧ s.cmds = [] ∧ AMap.keys s.rings = [0]
      ∧ (∀ c ∈ (s.ring 0).cqPend, c.unsettled s = false) ∧ (s.ring 0).fetched = [] ∧ (s.ring 0).cqTail < ringSize tEntry.cqSize ∧ min (s.ring 0).cqPend.length (ringSize tEntry.cqSize - (s.ring 0).cqUsed) = 1)
    ∧ (let at_ := fun n => ({ (tOpen tSt) with rings := [(0, { Ring.blank with cqPend := [{ (default : Cpl) with since := n }] })] } : State)
       let late := fun s : State => (s.ring 0).cqPend.any fun c => beatLe (beatAdd c.since 4000) s.beat
       (at_ 1000).live = true ∧ late (at_ 1000) = true ∧ late (at_ 1001) = false ∧ (∃ st ∈ streamsOf (at_ 1000) 0, (at_ 1000).stream? st.handle = some st)) := by
  decide +kernel

theorem witness_HostWritesCreditAndInterrupts :
    (let w : WJob := ⟨0, .cpl 0 false 0, 0, [], 1, some (0x20000, []), false, [], []⟩
     let s := { tRun with host := { HostS.reset with writes := [(5, 0)], jobs := [(0, w)], nextJob := 1 } }
     AMap.get? s.host.writes 6 = none ∧ s.host.writes = [((5#8).toNat, 0)] ∧ s.host.jobs = [(0, w)] ∧ 0 < s.host.nextJob ∧ w.todo = [] ∧ w.unacked = 1
      ∧ w.after = [] ∧ w.committing = false ∧ s.host.readQ = [])
    ∧ (let w : WJob := ⟨0, .trace, 0, [], 1, none, true, [], []⟩
       let s := { tRun with host := { HostS.reset with
         writes := [(5, 0)], packets := [(5, (64, 64))], jobs := [(0, w)], readQ := [(.table 0, 0, 1, 0)] } }
       s.host.writes = [((5#8).toNat, 0)] ∧ s.host.packets = [((5#8).toNat, (64, 64))] ∧ s.host.jobs = [(0, w)] ∧ w.owner = .trace ∧ w.unacked = 1
        ∧ w.commit = none ∧ freeTag s.host.reads = some 0)
    ∧ (let s := { tRun with
          host := { HostS.reset with irqPend := [63], irqLast := [(63, 5000)] }
          regs := { RegS.reset .c16 with vecHi := [(63, 0x80000000#32)] } }
       63 ∈ s.host.irqPend ∧ 62 ∉ s.host.irqPend ∧ bit (AMap.getD s.regs.vecHi 63 0#32) 31 = true ∧ AMap.get? s.host.irqLast 63 = some 5000
        ∧ beatLe (beatAdd 5000 (holdoffOf s 63)) s.beat = true ∧ (AMap.getD s.regs.vecLo 63 0#32).toNat % 4 = 0 ∧ freeTag s.host.writes = some 0) := by decide +kernel

/-! Cairns, images, tenants. -/

theorem witness_SaveCairnWaitsForAQuietBoundary :
    (let d := { tD 0x06 with w1 := 16384#64, w2 := 9#64 }
     let s := tGet { tStream id with regs := { tServe.regs with region := [(1, 0x00010000#32)] } } d
     let st := { tSt with vocab := 1, slot := some 3, dMin := 1 }
     s.accepts d = true ∧ d.opcode = 0x06 ∧ s.stream? (dStream d) = some st ∧ saveStatic (s.started d) st = true ∧ AMap.get? s.cairns 9 = none
      ∧ retiring s 9 = false ∧ retiring { s with cmds := [{ (default : Cmd) with k := .retireC 9 0 }] } 9 = true ∧ (freePairs s).isEmpty = false ∧ (freePairs (tStream id)).isEmpty = true ∧ saveStatic s { st with tokIdx := 1 } = false
      ∧ dbit { d with w3 := 1#64 } 3 0 = true)
    ∧ (let c : Cmd := { (default : Cmd) with id := 7, stream := 16384, opcode := 6, k := .saveC 16384 9 1000 0 0 1 }
       let s := { tChan id with streams := (tStream id).streams, cmds := [c], cairns := [(9, ⟨0, 0, some 1, none⟩)] }
       let st := { tSt with vocab := 1, slot := some 3, dMin := 1 }
       heirOf s 9 = some (7, 0) ∧ retiring { s with cmds := [{ (default : Cmd) with k := .retireC 9 0 }, c] } 9 = true
        ∧ heirOf { s with cmds := [{ (default : Cmd) with k := .retireC 9 0 }] } 9 = none
        ∧ waitingSave tRun 16384 = none ∧ waitingSave s (16384#32).toNat = some (c, 9, 1000, 1) ∧ s.atEnd = true ∧ handleBusy s 7 9 = false ∧ handleBusy s 8 9 = true ∧ (∀ y ∈ s.cmds, y.id = c.id → y = c) ∧ c ∈ s.cmds
        ∧ s.clk.stopped = false ∧ s.stream? (16384#32).toNat = some st ∧ quiet s st = true ∧ quiet s { st with pends := [default] } = false
        ∧ AMap.get? s.cairns 9 = some ⟨0, 0, some 1, none⟩ 
        ∧ beatLe (beatAdd 1000 4000) s.beat = true ∧ beatLe (beatAdd 1001 4000) s.beat = false) := by
  decide +kernel

/-- A save whose record is staged in a work tile that reads good, corrupt or torn. -/
def tStaged (open_ : Bool) (bad : W32) : DynTile :=
  let z : DynTile := ⟨some (.cairn 7), 2, 1, open_, List.replicate 512 0#8, 0#32, [], none, 0⟩
  { z with crc := (z.read 0 0).sum + bad }
def tSaving (open_ : Bool) (bad : W32) : State :=
  { tChan id with
    streams := (tStream id).streams, cairns := [(9, ⟨0, 0, some 1, none⟩)], dyn := [(0, tStaged open_ bad)]
    cmds := [{ (default : Cmd) with id := 7, stream := 16384, opcode := 6, k := .saveC 16384 9 4 3 1 2 }] }
theorem crc_class (z : DynTile) (i n : Nat) (bad : W32) (hz : z.writeOpen = false) :
    tileClass (({ z with crc := (z.read i n).sum + bad } : DynTile).read i n) = if bad = 0#32 then .good else .corrupt := by
  have e : ∀ c, ({ z with crc := c } : DynTile).row n = z.row n := fun _ => rfl
  simp only [DynTile.read, e]
  simp [tileClass, useWhole, hz]
theorem tStaged_class (bad : W32) : tileClass ((tStaged false bad).read 0 0) = if bad = 0#32 then .good else .corrupt :=
  crc_class ⟨some (.cairn 7), 2, 1, false, List.replicate 512 0#8, 0#32, [], none, 0⟩ 0 0 bad (by decide)
theorem witness_SaveCairn_sends :
    (tileClass ((tStaged false 0#32).read 0 0) = .good ∧ tileClass ((tStaged false 1#32).read 0 0) = .corrupt)
    ∧ tileClass ((tStaged true 0#32).read 0 0) = .torn
    ∧ (let s := tSaving false 0#32
       s.free = 0 ∧ (s.tileOf (.cairn 7)).map (·.1) = some 0 ∧ AMap.get? s.cairns 9 = some ⟨0, 0, some 1, none⟩ ∧ (tStaged false 0#32).tornAt = none
        ∧ (tStaged false 0#32).payload.length = 512 ∧ s.stack.firm = [] ∧ s.clk.stopped = false ∧ s.start.halted = false ∧ s.liveChans ≠ []
        ∧ (∀ n ∈ s.liveChans, 9 + s.creditKeep ≤ (s.chan n).credit ∧ 9 ≤ winRoom s n .back ∧ 1 ≤ respRoom s n .back false)
        ∧ (∀ n ∈ s.stack.chans, ∀ o ∈ n.2.outs, o.op ≠ 7) ∧ s.cmds.length = 1 ∧ ∀ c ∈ s.cmds, c.id = 7 ∧ c.paused = false) :=
  ⟨⟨tStaged_class _, tStaged_class _⟩, by decide +kernel, by decide +kernel⟩
/-- Every channel takes two operations of a cairn at once. -/
abbrev tRoom (s u : State) : Prop :=
  u.stack.firm = [] ∧ s.clk.stopped = false ∧ s.start.halted = false ∧ u.liveChans ≠ []
    ∧ (∀ c ∈ u.liveChans, 2 + u.creditKeep ≤ (u.chan c).credit ∧ 2 ≤ winRoom u c .back ∧ 18 ≤ respRoom u c .back false)
    ∧ ∀ c ∈ u.stack.chans, ∀ o ∈ c.2.outs, o.op ≠ 7
theorem witness_ResumeAndRetireCairn :
    (let d := { tD 0x07 with w1 := 16384#64, w2 := 9#64 }
     let s := tGet { tChan id with streams := [(0, tSt)], cairns := [(9, ⟨0, 0, some 1, none⟩)] } d
     let u := s.started d
     s.accepts d = true ∧ d.opcode = 0x07 ∧ s.stream? (dStream d) = some tSt ∧ tSt.pos = 0 ∧ tSt.ingested = false ∧ tSt.phase = .inputOpen ∧ tSt.p0 = 0
      ∧ AMap.get? s.cairns 9 = some ⟨0, 0, some 1, none⟩ ∧ AMap.get? s.cairns 8 = none ∧ tRoom s u ∧ ∀ c ∈ s.cmds, c.id ≠ s.nextId)
    ∧ (let d := { tD 0x08 with w2 := 9#64 }
       let s := tGet { tChan id with cairns := [(9, ⟨0, 0, some 1, none⟩)] } d
       let x : Stream := { tSt with phase := .inputOpen }
       s.accepts d = true ∧ d.opcode = 0x08 ∧ ((s.started d).ring d.ring.toNat).entry = some tEntry ∧ tEntry.admin = true ∧ s.cmds = []
        ∧ resuming s 9 = false ∧ handleBusy s s.nextId 9 = false
        ∧ handleBusy { s with cmds := [{ (default : Cmd) with k := .saveC x.handle 9 0 0 0 1 }] } (s.nextId + 1) 9 = true
        ∧ resuming { s with cmds := [{ (default : Cmd) with k := .resumeC x.handle 9 [] }] } 9 = true
        ∧ tRoom s (s.started d) ∧ dfld { d with w3 := 1#64 } 3 11 0 = 1) := by
  decide +kernel

/-- An image's 256 header bytes; key and signature are those of the neutral point. -/
def tHead (kind len crc : Nat) : List Byte :=
  wordsBytes [BitVec.ofNat 64 (0x325A5349 + kind * 2 ^ 32 + 2 ^ 40), BitVec.ofNat 64 (300 + 2 ^ 32), 4096#64, BitVec.ofNat 64 (0x0203 + len * 2 ^ 32),
    BitVec.ofNat 64 crc] ++ List.replicate 24 0#8 ++ (1#8 :: List.replicate 31 0#8) ++ (1#8 :: List.replicate 31 0#8) ++ List.replicate 128 0#8
/-- An automaton of one state that accepts nothing: its header words; zero bytes follow. -/
def tAuto : List Byte :=
  wordsBytes [BitVec.ofNat 64 (1 + 2 ^ 17 + 2 ^ 26), 1#64, BitVec.ofNat 64 (64 + 320 * 2 ^ 32), BitVec.ofNat 64 (328 + 332 * 2 ^ 32)]

/-- A point that stands for the neutral one in extended coordinates. -/
def tNeutral (p : EdPt) : Prop := p.x = 0 ∧ p.t = 0 ∧ p.y = p.z
theorem fpSub_zero (a : Nat) : fpSub a 0 = a % edP := by unfold fpSub; simp
theorem fpSub_self (a : Nat) (h : a < edP) : fpSub a a = 0 := by
  unfold fpSub; rw [Nat.mod_eq_of_lt h, Nat.add_sub_cancel_left, Nat.mod_self]
theorem edP_pos : 0 < edP := by decide
theorem edAdd_neutral (d : Nat) (p q : EdPt) (hp : tNeutral p) (hq : tNeutral q) : tNeutral (edAdd d p q) := by
  obtain ⟨px, pt, py⟩ := hp
  obtain ⟨qx, qt, qy⟩ := hq
  have h1 : fpSub (p.z * q.z % edP) (p.z * q.z % edP) = 0 := fpSub_self _ (Nat.mod_lt _ edP_pos)
  have h2 : (p.z * q.z % edP + p.z * q.z % edP) % edP = 2 * p.z * q.z % edP := by
    rw [← Nat.add_mod, ← Nat.two_mul, Nat.mul_assoc]
  simp [tNeutral, edAdd, px, pt, qx, qt, py, qy, fpSub_zero, h1, h2]
theorem edMul_neutral (d : Nat) : ∀ (f k : Nat) (p a : EdPt), tNeutral p → tNeutral a → tNeutral (edMul d f k p a)
  | 0, _, _, _, _, ha => ha
  | f + 1, k, p, a, hp, ha => by
    unfold edMul
    refine edMul_neutral d f _ _ _ (edAdd_neutral d p p hp hp) ?_
    split
    · exact edAdd_neutral d a p ha hp
    · exact ha
theorem edMul_zero (d : Nat) : ∀ (f : Nat) (p a : EdPt), edMul d f 0 p a = a
  | 0, _, _ => rfl
  | f + 1, p, a => by unfold edMul; simpa using edMul_zero d f _ a
theorem edZero_neutral : tNeutral edZero := ⟨rfl, rfl, rfl⟩
theorem edEq_neutral (p : EdPt) (hp : tNeutral p) : edEq edZero p = true := by
  obtain ⟨px, -, py⟩ := hp
  simp [edEq, edZero, px, py]
theorem edDecode_neutral (bs : List Byte) (h : (edDecode bs).map (fun p => (p.x, p.y, p.z, p.t)) = some (0, 1, 1, 0)) :
    ∃ p, edDecode bs = some p ∧ tNeutral p := by
  cases hb : edDecode bs with
  | none => rw [hb] at h; simp at h
  | some p =>
    rw [hb] at h; simp at h
    exact ⟨p, rfl, h.1, h.2.2.2, by rw [h.2.1, h.2.2.1]⟩
/-- Every prehash verifies under the neutral key and the neutral signature. -/
theorem neutral_verifies (pre : List Byte) : ed25519phVerify (1#8 :: List.replicate 31 0#8) (1#8 :: List.replicate 63 0#8) pre = true := by
  obtain ⟨a, ha, na⟩ := edDecode_neutral (1#8 :: List.replicate 31 0#8) (by decide +kernel)
  obtain ⟨r, hr, nr⟩ := edDecode_neutral (1#8 :: List.replicate 63 0#8) (by decide +kernel)
  obtain ⟨b, hb⟩ : ∃ b, edBase = some b := Option.isSome_iff_exists.mp (by decide +kernel)
  have hs : bytesToNat ((1#8 :: List.replicate 63 0#8 : List Byte).drop 32) = 0 := by decide +kernel
  unfold ed25519phVerify
  simp only [ha, hr, hb, hs, edScalar, Nat.mul_zero, edMul_zero]
  rw [edEq_neutral _ (edAdd_neutral _ _ _ (edMul_neutral _ _ _ _ _ nr edZero_neutral)
    (edMul_neutral _ _ _ _ _ (edMul_neutral _ _ _ _ _ na edZero_neutral) edZero_neutral))]
  decide +kernel

/-- The loaded image, its descriptor, and a state whose fuse slot 0 holds the hash of its key. -/
def tImg5 : List Byte := tHead 5 340 2950227467 ++ (tAuto ++ List.replicate (68 * 56) 0#8)
def tLoad : Desc := { tD 0x10 with w3 := 4096#64, w4 := 5#64 }
def tKeyed (rb : Nat) (dup : List (Nat × Img)) : State :=
  tGet { tServe with
    images := tServe.images ++ dup
    regs := { tServe.regs with region := [(0, 0x01000000#32)] }
    fuses := { FuseS.blank with rollback := List.replicate 10 rb }
    start := { tServe.start with
      fuseCopy := { FuseS.blank with keyState := [1, 0, 0, 0], keyHash := [bytesToNat ((sha512 (sliceB tImg5 64 32)).take 32), 0, 0, 0] } } } tLoad
theorem tImg5_signed : signatureOk tImg5 = true := by
  have hp : sliceB tImg5 64 32 = 1#8 :: List.replicate 31 0#8 := by decide +kernel
  have hs : sliceB tImg5 96 64 = 1#8 :: List.replicate 63 0#8 := by decide +kernel
  unfold signatureOk
  rw [hp, hs]
  exact neutral_verifies _
theorem tImg5_key (rb : Nat) (dup : List (Nat × Img)) : keyUsable (tKeyed rb dup) (parseHdr tImg5) tImg5 = true := by
  have hk : (parseHdr tImg5).keySlot = 0 := by decide +kernel
  unfold keyUsable
  rw [hk]
  simp [tKeyed, tGet, State.setRing]
/-- The check of the image's bytes in steps of 68 zero bytes, from one intermediate value to the next. -/
def tCrcs : List Nat :=
  [274573144, 1897677082, 4215310873, 3156721029, 1258278189, 127505905, 1527755840, 298375252, 358659062, 3197794258, 1044230486, 5911498,
   45896669, 653170162, 2953655196, 3203243508, 2862944990, 1838876693, 1703681231, 486216968, 2226381103, 2233429406, 2270398429, 3574804954,
   3059469876, 3853227981, 4030600525, 892133664, 1930469028, 3365084041, 3191766757, 2774399807, 3483738477, 1933088136, 2070811950, 950992729,
   4215095938, 167262208, 602124496, 85133952, 2074370820, 1231368649, 687462136, 1470734764, 3887413148, 1980939307, 910761119, 3920454879,
   2512344261, 1638652312, 2724724667, 2972189863, 1947136097, 3067138029, 2634524833, 1771600639, 1344739828]
theorem tCrcs_step : ∀ i < 56, (List.replicate 68 0#8).foldl crcStep (tCrcs.getD i 0) = tCrcs.getD (i + 1) 0 := by decide +kernel
theorem tCrcs_start : tAuto.foldl crcStep 0xFFFFFFFF = tCrcs.getD 0 0 := by decide +kernel
theorem tCrcs_zeros : ∀ n ≤ 56, (List.replicate (68 * n) 0#8).foldl crcStep (tCrcs.getD 0 0) = tCrcs.getD n 0
  | 0, _ => rfl
  | n + 1, h => by
    rw [Nat.mul_succ, List.replicate_add, List.foldl_append, tCrcs_zeros n (by omega)]
    exact tCrcs_step n (by omega)
theorem tImg5_crc : crc32c (tImg5.drop 256) = 2950227467#32 := by
  have h : tImg5.drop 256 = tAuto ++ List.replicate (68 * 56) 0#8 := List.drop_left' (by decide +kernel)
  unfold crc32c
  rw [h, List.foldl_append, tCrcs_start, tCrcs_zeros 56 (by omega)]
  decide
theorem tImg5_key2 : keyUsable ((tKeyed 0 []).started tLoad) (parseHdr tImg5) tImg5 = true := by
  have hk : (parseHdr tImg5).keySlot = 0 := by decide +kernel
  unfold keyUsable
  rw [hk]
  simp [tKeyed, tGet, State.setRing, State.started]
theorem tImg5_kind : kindOf (parseHdr tImg5).kind = some .automaton := by decide +kernel
theorem tImg5_body : (kindCheck ((tKeyed 0 []).started tLoad) (parseHdr tImg5) .automaton (sliceB tImg5 256 (parseHdr tImg5).sectionLength)).toOption.isSome = true := by
  decide +kernel
theorem tImg5_free : ((tKeyed 0 []).started tLoad).images.any (fun x => x.2.hdr.imageId == (parseHdr tImg5).imageId && x.2.hdr.gen == (parseHdr tImg5).gen) = false := by
  decide +kernel
theorem tImg5_head : hdrOk (parseHdr tImg5) 4096 tImg5.length = true := by decide +kernel
theorem tImg5_check : (2950227467#32 == (parseHdr tImg5).crc) = true := by decide +kernel
theorem tImg5_roll : decide (((tKeyed 0 []).started tLoad).fuses.rollback.getD ((parseHdr tImg5).kind - 1) 0 ≤ (parseHdr tImg5).rbVersion) = true := by decide +kernel
theorem loads_of (s : State) (n : Nat) (img : List Byte) (k : ImgKind) (c : Nat) (h1 : kindOf (parseHdr img).kind = some k)
    (h2 : hdrOk (parseHdr img) n img.length = true) (h3 : keyUsable s (parseHdr img) img = true) (h4 : signatureOk img = true)
    (h5 : decide (s.fuses.rollback.getD ((parseHdr img).kind - 1) 0 ≤ (parseHdr img).rbVersion) = true)
    (h6 : s.images.any (fun x => x.2.hdr.imageId == (parseHdr img).imageId && x.2.hdr.gen == (parseHdr img).gen) = false)
    (h8 : crc32c (img.drop 256) = BitVec.ofNat 32 c)
    (h9 : (BitVec.ofNat 32 c == (parseHdr img).crc) = true)
    (hb : (kindCheck s (parseHdr img) k (sliceB img 256 (parseHdr img).sectionLength)).toOption.isSome = true) :
    (loadCheck s n img).toOption.isSome = true := by
  unfold loadCheck
  simp only [h1, h2, h3, h4, h5, h6, h8, h9, firstFail]
  revert hb
  cases kindCheck s (parseHdr img) k (sliceB img 256 (parseHdr img).sectionLength) <;> intro hb
  · simp [Except.toOption] at hb
  · rfl
theorem tImg5_loads : (loadCheck ((tKeyed 0 []).started tLoad) 4096 tImg5).toOption.isSome = true :=
  loads_of _ _ _ _ _ tImg5_kind tImg5_head tImg5_key2 tImg5_signed tImg5_roll tImg5_free tImg5_crc tImg5_check tImg5_body

theorem witness_LoadImageChecksThenInstalls :
    ((tKeyed 0 []).accepts tLoad = true ∧ tLoad.opcode = 0x10 ∧ dfld tLoad 4 7 0 = 5 ∧ AMap.has (tKeyed 0 []).images 5 = false
      ∧ AMap.has (tKeyed 0 []).images 1 = true ∧ dfld tLoad 3 31 0 ≤ tImg5.length ∧ (kindOf (parseHdr tImg5).kind).isSome = true
      ∧ hdrOk (parseHdr tImg5) 4096 tImg5.length = true ∧ (parseHdr tImg5).rbVersion = 0
      ∧ (tKeyed 1 []).fuses.rollback.getD 4 0 = 1 ∧ (tKeyed 0 []).fuses.rollback.getD 4 0 = 0
      ∧ (tKeyed 0 [(9, tImg 5 300 default)]).images.any (fun x => x.2.hdr.imageId == (parseHdr tImg5).imageId && x.2.hdr.gen == (parseHdr tImg5).gen) = true
      ∧ (((tKeyed 0 []).started tLoad).installImage 5 (parseHdr tImg5) (.automaton (parseAuto tAuto)) tImg5).isSome = true
      ∧ ({ (tKeyed 0 []).started tLoad with regs := tServe.regs }.installImage 5 (parseHdr tImg5) (.automaton (parseAuto tAuto)) tImg5).isNone = true
      ∧ (tKeyed 0 []).cmds = [] ∧ liveRows ((tKeyed 0 []).started tLoad) + 4096 / 64 ≤ storeRows ((tKeyed 0 []).started tLoad))
    ∧ signatureOk tImg5 = true ∧ keyUsable (tKeyed 0 []) (parseHdr tImg5) tImg5 = true
    ∧ (loadCheck ((tKeyed 0 []).started tLoad) (dfld tLoad 3 31 0) tImg5).toOption.isSome = true :=
  ⟨by decide +kernel, tImg5_signed, tImg5_key 0 [], tImg5_loads⟩

/-- The served block with an administration descriptor of opcode op and words 2 to 4 on its ring. -/
def tCmd (op : Nat) (w2 w3 w4 : W64) : Desc := { tD op with w2 := w2, w3 := w3, w4 := w4 }
/-- An image of kind automaton in slot k with the given state. -/
def tLoaded (st : Nat) : Img := { tImg 5 300 (.automaton default) with status := st }
/-- The served block with one more image in slot 5. -/
def tHas (st : Nat) : State := { tServe with images := tServe.images ++ [(5, tLoaded st)] }

theorem witness_ActivationRetirementAndQuery :
    (let d := tCmd 0x11 5 0 0
     let s := tGet (tHas 0) d
     s.accepts d = true ∧ d.opcode = 0x11 ∧ s.img? (dfld d 2 7 0) = some (tLoaded 0) ∧ s.img? 6 = none ∧ (tHas 3).img? 5 = some (tLoaded 3)
      ∧ (tHas 2).img? 5 = some (tLoaded 2) ∧ (tLoaded 0).status = 0 ∧ dfld d 3 47 0 = 0 ∧ beatLt (dfld { d with w3 := 5001#64 } 3 47 0) (beatAdd s.beat 2) = true
      ∧ beatLt (dfld { d with w3 := 5002#64 } 3 47 0) (beatAdd s.beat 2) = false ∧ deltaBlocks (s.started d) (tLoaded 0).hdr = false ∧ (tLoaded 0).policy?.isSome = false)
    ∧ (let s := { tServe with images := tServe.images ++ [(7, { tImg 10 100 (.policy tPol) with status := 0, hdr := { (tImg 10 100 (.policy tPol)).hdr with gen := 2, raise := true, rbVersion := 1 } })] }
       let t := { s with sched := [⟨5001, .activate 7, 0⟩] }
       let d := tCmd 0x11 7 0 0
       let u := tGet s d
       s.dueNow (.activate 7) = false ∧ t.dueNow (.activate (7#8).toNat) = true ∧ (t.img? 7).map (·.status) = some 0
        ∧ u.accepts d = true ∧ namesActive (imagesAt (u.started d) 5001 7) tPol = true
        ∧ (u.img? 7).map (fun i => (activateFails (u.started d) 7 5001 i tPol).isNone) = some true
        ∧ (let v := { u with regs := { u.regs with rclass := [(0, 0x00100001#32)] }, streams := (tStream id).streams }
           (v.img? 7).map (fun i => (activateFails (v.started d) 7 5001 i tPol).isNone) = some false)
        ∧ (t.sched.find? fun e => e.eff == .activate 7).isSome = true ∧ (t.img? 7).map (fun i => raises t i.hdr) = some true
        ∧ (t.img? 7).map (fun i => raises { t with fuses := { t.fuses with rollback := List.replicate 10 1 } } i.hdr) = some false
        ∧ u.fuses.rollback.getD 9 0 < 1)
    ∧ (let q := tCmd 0x13 5 0 0
       let r := tCmd 0x12 5 0 0
       let s := tGet (tHas 0) q
       let v := tGet (tHas 0) r
       s.accepts q = true ∧ q.opcode = 0x13 ∧ v.accepts r = true ∧ r.opcode = 0x12 ∧ tenantHolds (v.started r) 5 (tLoaded 0) = false
        ∧ lifeHolds (v.started r) 5 (tLoaded 0) = false ∧ lifeHolds (tStream id) 1 (tImg 1 200 (.vocabulary tVoc)) = true) := by decide +kernel

theorem witness_TenantsBudgetsAndPolicies :
    (let d := tCmd 0x19 0 5 0
     let s := tGet { tServe with regs := { tServe.regs with commitCap := 5#32 } } d
     s.accepts d = true ∧ d.opcode = 0x19 ∧ (s.tenant 0).enabled = true ∧ (s.tenant 1).enabled = false ∧ committedSum s 0 5 ≤ s.regs.commitCap.toNat
      ∧ s.regs.commitCap.toNat < committedSum s 0 6)
    ∧ (let d := tCmd 0x18 0x1001 0 0
       let s := tGet tServe d
       let u := s.started d
       s.accepts d = true ∧ d.opcode = 0x18 ∧ dbit d 2 12 = true ∧ deltaExists s none 8 = true ∧ deltaExists s (some 6) 8 = false
        ∧ banRefusal u 1 none = none ∧ banRefusal u 1 (some 3) = some stNotFound ∧ tenantStreams s 0 = [] ∧ tenantStreams (tStream id) 0 ≠ [])
    ∧ (let d := tCmd 0x1A (BitVec.ofNat 64 (1 + 2 ^ 18)) 0 0
       let s := tGet tServe d
       s.accepts d = true ∧ d.opcode = 0x1A ∧ dbit d 2 18 = true ∧ s.img? (dfld d 2 17 10) = some (tImg 10 100 (.policy tPol))
        ∧ bindingFails (s.started d) 1 (tImg 10 100 (.policy tPol)) = false ∧ (tImg 10 100 (.policy tPol)).status = 1 ∧ (tImg 10 100 (.policy tPol)).policy?.isSome = true ∧ liveD s (tImg 10 100 (.policy tPol)) = 1 ∧ rangeDOk s 1 = true ∧ streamsOnPolicy s 1 = []
        ∧ streamsOnPolicy (tStream id) 0 ≠ [] ∧ (tStream id).latBound 0 = 20 ∧ (tStream id).dRangeOf 20 + 1 = 21 ∧ (tStream id).dRangeOf 19 + 1 = 20
        ∧ dbit (tCmd 0x1A 1 0 0) 2 18 = false)
    ∧ (let c : Cmd := { (default : Cmd) with id := 7, opcode := 0x18, k := .boundary }
       let s := { tServe with cmds := [c] }
       s.cmd? c.id = some c ∧ bindingActive s 0 = true ∧ bindingActive s 9 = false) := by decide +kernel

/-- Bank 0 of width 1 with one entry of set 0, placed there by the pattern set of image slot 6. -/
def tEnt (valid : Bool) : BEntry :=
  { (default : BEntry) with unit := 3, rec_ := { (default : EntryRec) with length := 1, reservedOk := true }, valid := valid, written := true, tag := 9 }
def tSets (live : Bool) : Img :=
  { tImg 4 400 (.patternSet ⟨⟨1, false, 1, 1, 64⟩, []⟩) with
    hdr := { (tImg 4 400 (.policy tPol)).hdr with kind := 4, liveUpdate := live }, placed := [(0, 0, 0)], bytes := List.replicate 512 0#8 }
def tBank (live : Bool) (es : List BEntry) : State :=
  { tChan id with images := tServe.images ++ [(6, tSets live)], banks := [(0, { Bank.blank with entries := es })] }
/-- The record of token 7 as an update writes it: no rule but rule 0, no prefix, length 1. -/
def tTok7 : List Byte :=
  wordsBytes [BitVec.ofNat 64 (2 ^ 25), 0#64] ++ natToBytes 16 (2 ^ 71 + 7) ++ natToBytes 16 (2 ^ 72 - 1)

theorem witness_MatchUpdateWaitsForItsBoundary :
    (let op := fun k : Nat => tCmd 0x20 (BitVec.ofNat 64 (k + 3 * 2 ^ 8)) 0x4000 0
     let s := fun (k : Nat) (live v : Bool) => tGet (tBank live [tEnt v]) (op k)
     (s 0 true true).accepts (op 0) = true ∧ (op 0).opcode = 0x20 ∧ dfld (op 0) 2 1 0 = 0 ∧ (bankSoon (s 0 true true) 0).width = 1
      ∧ rangeOk 1 2047 1 = true ∧ rangeOk 1 2047 2 = false ∧ updateOk ((s 0 true true).started (op 0)) 0 (bankSoon (s 0 true true) 0) [3] = true
      ∧ updateOk ((s 0 false true).started (op 0)) 0 (bankSoon (s 0 false true) 0) [3] = false
      ∧ (s 1 true false).accepts (op 1) = true ∧ dfld (op 1) 2 1 0 = 1 ∧ 1 * (16 + 32 * 1) ≤ tTok7.length
      ∧ (parseEntries 1 1 tTok7).all (fun r => entryOk 1 r && !fillClash ((s 1 true false).started (op 1)) 0 1 r) = true
      ∧ (parseEntries 1 1 (1#8 :: List.replicate 47 255#8)).all (fun r => entryOk 1 r) = false
      ∧ inShift (bankSoon (s 1 true false) 0) [3] = false ∧ (∀ e ∈ entriesAt (bankSoon (s 1 true false) 0) [3], e.valid = false)
      ∧ (∃ e ∈ entriesAt (bankSoon (s 1 true true) 0) [3], e.valid = true)
      ∧ (∀ r ∈ parseEntries 1 1 tTok7, setLive ((s 1 true false).started (op 1)) 0 r.set = true)
      ∧ (s 2 true false).accepts (op 2) = true ∧ dfld (op 2) 2 1 0 = 2 ∧ (entriesAt (bankSoon (s 2 true false) 0) [3]).length = 1
      ∧ (∀ e ∈ entriesAt (bankSoon (s 2 true false) 0) [3], e.written = true) ∧ (∀ c ∈ (s 2 true false).cmds, c.id ≠ (s 2 true false).nextId))
    ∧ (let d := tCmd 0x20 (BitVec.ofNat 64 (2 + 3 * 2 ^ 8)) 0 0
       let s := tGet (tBank true [tEnt false]) d
       let u := s.started d
       let m := withEntries u 0 (placedEntries u 0 [tEnt false])
       growRuns u m = some (u.stack.imgRuns, []))
    ∧ (let c : Cmd := { (default : Cmd) with id := 7, k := .validate 0 [3] 1 [tEnt false] }
       let s := { tBank true [tEnt false] with cmds := [c] }
       s.cmd? c.id = some c ∧ sameEntries (entriesAt (bankSoon s 0) [3]) [tEnt false] = true)
    ∧ (let i := { tSets true with bytes := List.replicate 8192 0#8 }
       growRuns { tChan id with images := [(6, tSets true)], stack := { (tChan id).stack with imgRuns := [(6, (0, 1))] } } [(6, i)] = none) := by decide +kernel

theorem witness_ShiftsAndSearchesOfTheStore :
    (let d := tCmd 0x21 (BitVec.ofNat 64 (3 * 2 ^ 8)) 0 0
     let s := tGet (tBank true [tEnt true]) d
     let b := bankSoon s 0
     s.accepts d = true ∧ d.opcode = 0x21 ∧ rangeOk b.width 3 2 = true ∧ b.shift = none ∧ (∀ e ∈ entriesAt b [4], e.valid = false)
      ∧ (∃ e ∈ entriesAt b [3], e.valid = true) ∧ rangeOk 1 2047 2 = false ∧ dbit { d with w2 := BitVec.ofNat 64 (2 ^ 32) } 2 32 = true)
    ∧ (let h : Shift := ⟨3, 1, true, 0, false, 7⟩
       let s := fun c : Bool => { tBank true [tEnt true] with
         banks := [(0, { Bank.blank with entries := [tEnt true], shift := some { h with copied := c } })]
         sched := [⟨5001, .shiftMove 0, 0⟩]
         cmds := [{ (default : Cmd) with id := 7, k := .shift 0 }] }
       tRun.dueNow (.shiftMove 0) = false ∧ (s false).dueNow (.shiftMove (0#5).toNat) = true ∧ ((s true).bank 0).shift = some { h with copied := true }
        ∧ h.move 1 = (3, 4) ∧ h.done + 1 = h.count ∧ ((s true).cmd? 7).isSome = true)
    ∧ (let key : List Byte := wordsBytes [4#64, 0#64] ++ List.replicate 16 0#8
       let d := tCmd 0x22 1 0 0
       let s := tGet (tBank true [tEnt true]) d
       let hits := sortAsc hitKey (bankHits 0 (searchKey key).2.1 (searchKey key).2.2.1 (s.bank 0).entries)
       s.accepts d = true ∧ d.opcode = 0x22 ∧ keyBytes key ≤ key.length ∧ searchKey key = (1, 1, 0, true) ∧ (searchKey (wordsBytes [64#64, 0#64])).2.2.2 = false
        ∧ (distinctHits s 4 hits []).length = 1 ∧ (∀ h ∈ hits, falseMatch (searchKey key).2.2.1 h.2 = false) ∧ (∀ h ∈ hits, h.2.shadowBad = false) ∧ dfld d 4 15 0 = 0 ∧ dfld { d with w4 := 1#64 } 4 15 0 = 1) := by
  decide +kernel

/-! Tests, logs, stops and expert actions. -/

/-- An administration block whose allowance is the whole of the ceilings. -/
def tFull : State :=
  { tChan id with gov := { GovS.reset with lane := 3014656, walk := 47104, assoc := 235, stFirst := 184, stDep := 35, host := 30080 } }
theorem witness_SelfTestsAndCalibrations :
    (let d := tCmd 0x28 (BitVec.ofNat 64 (255 * 2 ^ 8)) 0 0
     let e := tCmd 0x28 (BitVec.ofNat 64 (1 + 15 * 2 ^ 8)) 0 0
     let s := tGet tFull d
     s.accepts d = true ∧ d.opcode = 0x28 ∧ dfld d 2 3 0 = 0 ∧ dfld d 2 15 8 = 255 ∧ testUnits s 0 = 256 ∧ testUnits s 1 = 16 ∧ s.complete = true
      ∧ testMargin (s.started d) = true ∧ 255 ∉ s.integ.cellsOut ∧ s.integ.moving = none ∧ cellTiles s 255 = [] ∧ s.cmds = []
      ∧ (tGet tFull e).accepts e = true ∧ dfld e 2 3 0 = 1 ∧ testMargin tServe = false)
    ∧ (let d := fun k : Nat => tCmd 0x29 (BitVec.ofNat 64 k) 0 0
       let s := fun k : Nat => tGet tFull (d k)
       (∀ k < 3, (s k).accepts (d k) = true ∧ (d k).opcode = 0x29 ∧ dfld (d k) 2 1 0 = k) ∧ (s 2).cmds = [] ∧ (s 2).stack.rewriteLeft = []
        ∧ (s 2).liveChans = [0] ∧ chanSpare ((s 2).started (d 2)) 0 = true ∧ tServe.liveChans = [])
    ∧ (let c : Cmd := { (default : Cmd) with id := 7, index := 3, opcode := 0x29, since := 1000000, k := .calib 2 0 0 0 false }
       let late := fun (s : State) (c : Cmd) => c.ring == (0#10).toNat && c.index == (3#16).toNat && notStarted s c && beatLe (beatAdd c.since 4000000) s.beat
       let at_ := fun n : Nat => { tFull with cmds := [c], clk := { tRun.clk with beat := n } }
       (at_ 5000000).cmds.find? (late (at_ 5000000)) = some c ∧ (at_ 4999999).cmds.find? (late (at_ 4999999)) = none) := by decide +kernel

theorem witness_TraceCountersLogAndHangReport :
    (∀ op ∈ [0x30, 0x31, 0x32, 0x3A], let d := tCmd op (if op = 0x31 then 0x400 else 0) 0 0
      (tGet tServe d).accepts d = true ∧ d.opcode = op)
    ∧ unflushed (tGet tServe (tCmd 0x32 0 0 0)) 0 = false
    ∧ unflushed { tServe with persist := { PersistS.reset with logs := [{ (default : LogRec) with seq := 4 }] } } 5 = true := by decide +kernel

theorem witness_TimedRecordsFloorsAndBackground :
    (let s := { tRun with
       clk := { tRun.clk with beat := 2 ^ 24 }
       mgmt := { MgmtS.reset with traceBuf := [{ (default : TraceRec) with beat := 2 ^ 24 - 4 }, { (default : TraceRec) with beat := 2 ^ 24 - 3 }], cntOn := true, cntK := 12 } }
     s.live = true ∧ s.mgmt.traceBuf ≠ [] ∧ (∀ r ∈ s.mgmt.traceBuf.take 1, beatLe (beatAdd r.beat 4) s.beat = true)
      ∧ (∀ r ∈ s.mgmt.traceBuf.drop 1, beatLe (beatAdd r.beat 4) s.beat = false)
      ∧ sampleDue s = true ∧ sampleDue tRun = false ∧ s.mgmt.cntPend = none ∧ syncDue s = true ∧ syncDue tRun = false
      ∧ floorLate s (0#3).toNat = true ∧ floorLate tRun (0#3).toNat = false ∧ floorLate s (2#3).toNat = false)
    ∧ (let s := { tFull with
         clk := { tRun.clk with beat := 2 ^ 20 - 1 }
         images := tServe.images ++ [(5, { tLoaded 1 with cells := [(0, 0)], ridges := [0] })]
         integ := { IntegS.reset with activity := [(0, 9), (1, 8)] } }
       s.live = true ∧ s.atEnd = true ∧ s.start.halted = false ∧ s.nextB % 2 ^ 20 = 0 ∧ s.integ.pingDone ≠ s.nextB ∧ s.integ.wearDone ≠ s.nextB ∧ s.integ.moving = none ∧ bgRoom s 1 10 = true
        ∧ bgRoom tServe 1 10 = false ∧ { s.integ with pingOwed := true }.pingOwed = true ∧ (s.img? 5).map (·.masterLost) = some false ∧ cellTiles s 0 = [(5, 0)] ∧ 1 ∈ moveDests s 0 ∧ activityOf s 1 < activityOf s 0 ∧ activityOf s 0 < 2 ^ 64
        ∧ (∀ c ∈ (List.range s.cells).filter (fun c => !s.integ.cellsOut.contains c && !(cellTiles s c).isEmpty), c = 0)
        ∧ tRun.nextB % 2 ^ 20 ≠ 0) := by decide +kernel

theorem witness_StopAndResume :
    (∀ op ∈ [0x38, 0x39], (tGet tServe (tCmd op 0 0 0)).accepts (tCmd op 0 0 0) = true ∧ (tCmd op 0 0 0).opcode = op)
    ∧ (let s := tGet { tServe with clk := { tServe.clk with stopped := true, stopCmd := true } } (tCmd 0x39 0 0 0)
       s.accepts (tCmd 0x39 0 0 0) = true ∧ s.clk.stopped = true ∧ s.stopAsked = true)
    ∧ (tServe.live = true ∧ tServe.stopAsked = false ∧ { tServe with clk := { tServe.clk with stopPin := true } }.stopAsked = true
      ∧ { tServe with clk := { tServe.clk with stopped := true } }.stopAsked = false ∧ tServe.stack.held = [] ∧ tServe.clk.phase = 3
      ∧ (tPhase 2 tServe).clk.phase < 3) := by decide +kernel

/-- An EXPERT descriptor of a function and action with word 3. -/
def tExp (fn act : Nat) (w3 : W64) : Desc := tCmd 0x48 (BitVec.ofNat 64 (fn + 16 * act)) w3 0
/-- The served block with EXPERT unlocked. -/
def tOpenX (s : State) (d : Desc) : State := tGet { s with regs := { s.regs with unlock := 15#32 } } d
theorem witness_ExpertActions :
    (∀ x ∈ [(0, 0), (4, 0), (2, 1), (1, 1), (1, 2), (3, 1), (0, 1)],
      let d := tExp x.1 x.2 0
      (tOpenX tServe d).accepts d = true ∧ d.opcode = 0x48 ∧ d.fnAct = x)
    ∧ (bankAllInvalid (bankSoon (tBank true [tEnt true]) 0) = false ∧ bankAllInvalid (bankSoon (tBank true [tEnt false]) 0) = true
        ∧ (bankSoon (tBank true [tEnt false]) 0).shift = none)
    ∧ (let d := tExp 0 1 (BitVec.ofNat 64 (5 + 2 ^ 31))
       let s := tOpenX (tHas 0) d
       let u := s.started d
       let rs := (List.range 16).filter fun r => dbit d 3 (16 + r)
       s.accepts d = true ∧ s.img? (dfld d 3 7 0) = some (tLoaded 0) ∧ (tHas 1).img? 5 = some (tLoaded 1) ∧ s.img? 6 = none ∧ rs = [15]
        ∧ (∀ r ∈ rs, r < s.ridges) ∧ (baseRidges u (tLoaded 0).body).all rs.contains = true
        ∧ (placeBody { u.unplace 5 (tLoaded 0) with images := AMap.erase u.images 5 } (tLoaded 0).body rs).isSome = true
        ∧ { tHas 0 with build := { ElabS.dflt with cfg := .c4 } }.ridges = 4) := by decide +kernel

/-! The governor and the ledger. -/

theorem witness_GovernorSetsThePeriod :
    (let at_ := fun n : Nat => { tServe with clk := { tRun.clk with beat := n }, gov := { GovS.reset with periodSeen := true, donePeriod := 1024 } }
     (at_ 2047).live = true ∧ periodDue (at_ 2047) = true ∧ periodDue (at_ 2046) = false ∧ (at_ 2047).atEnd = true ∧ (tPhase 0 (at_ 2047)).atEnd = false ∧ (at_ 2047).beat ≠ 0 ∧ periodDue (at_ 1023) = false ∧ (at_ 2047).gov.bounds = []
      ∧ (at_ 2047).gov.steps ≤ 4) := by decide +kernel

/-- A store whose one live image part has the given bytes. -/
def tStore (bs : List Byte) : State := { tServe with persist := { PersistS.reset with parts := [⟨0, 100, 1, 0, 1, bs, 0, 0, 0, false⟩] } }
theorem tStore_rows (bs : List Byte) : storeRows (tStore bs) = storeRows (tStore []) := rfl
theorem tStore_live (bs : List Byte) : liveRows (tStore bs) = 0 + (cdiv bs.length 64 + 2) + 0 + 0 := rfl
theorem witness_RefillsDrawsAndSnapshots_full : snapRoom (tStore (List.replicate (2 ^ 40) 0#8)) = false := by
  have h : storeRows (tStore []) < 2 ^ 26 := by decide +kernel
  unfold snapRoom
  rw [tStore_rows, tStore_live, List.length_replicate]
  refine decide_eq_false ?_
  have : (2 ^ 40 : Nat) + 64 - 1 = 1099511627839 := by decide
  simp only [cdiv]
  omega
theorem witness_RefillsDrawsAndSnapshots :
    (let at_ := fun n : Nat => { tServe with
       clk := { tRun.clk with beat := n }, gov := { GovS.reset with refillDone := 4000000 }
       tenants := [(0, { Tenant.dflt with enabled := true, c := 10, k := -3, e := 2 }), (1, { Tenant.dflt with pend := some (5, 6, 7) })] }
     (at_ 3999).live = true ∧ refillDue (at_ 3999) = true ∧ refillDue (at_ 3998) = false ∧ (at_ 3999).atEnd = true ∧ (tPhase 0 (at_ 3999)).atEnd = false ∧ snapRoom (at_ 3999999) = true ∧ (at_ 3999).range.joined = false
      ∧ AMap.get? (at_ 3999).tenants 1 = some { Tenant.dflt with pend := some (5, 6, 7) }
      ∧ snapDue (at_ 3999999) = true ∧ refillDue (at_ 3999999) = false ∧ snapDue (at_ 3999) = false)
    ∧ (let x := fun (k : Int) (u e : Nat) => { tServe with tenants := [(0, { Tenant.dflt with enabled := true, c := 10, k := k, u := u, x := e })] }
       (0 < ((x 1 9 0).tenant 0).k ∧ ((x 1 9 0).tenant 0).u < ((x 1 9 0).tenant 0).c) ∧ (0 < ((x 1 10 0).tenant 0).k ∧ ((x 1 10 0).tenant 0).c ≤ ((x 1 10 0).tenant 0).u)
        ∧ (((x 0 0 1).tenant 0).k ≤ 0 ∧ 0 < ((x 0 0 1).tenant 0).x) ∧ (((x (-1) 0 0).tenant 0).k ≤ 0 ∧ ((x (-1) 0 0).tenant 0).x = 0)) := by decide +kernel

/-! Responses of the stack. -/

/-- Channel 0 with one operation outstanding, and the response that fits it. -/
def tOp (op : Nat) (purp : Purp) : SOp := ⟨5, op, 0, purp, 1, 5002, 5000, 20, false⟩
def tAsked (s : State) (o : SOp) : State := s.setChan 0 fun c => { c with outs := [o] }
def tRsp (op : Nat) : Rsp :=
  { (default : Rsp) with op := BitVec.ofNat 4 op, tag := 5#16, respLen := 1#11, cycle := 199#8, w1 := if op = 5 then 8#64 else 0#64 }

theorem witness_ResponsesDuePointsAndCredit :
    (let s := tAsked (tChan id) (tOp 3 (.stage 9 0 0))
     let r := tRsp 3
     let fits := fun o : SOp => o.tag = r.tag.toNat ∧ o.op = r.op.toNat ∧ r.status.toNat ≤ 5 ∧ respTransfers o r = r.respLen.toNat
     s.complete = true ∧ r.op.toNat = 3 ∧ (s.chan r.chan.toNat).outs = [tOp 3 (.stage 9 0 0)] ∧ fits (tOp 3 (.stage 9 0 0))
      ∧ ¬ fits { tOp 3 (.stage 9 0 0) with tag := 6 } ∧ ((tChan id).chan 0).outs = [] ∧ r.epoch.toNat = s.stack.epoch ∧ r.op.toNat ≠ 4
      ∧ (tOp 3 (.stage 9 0 0)).dead = false ∧ beatLt 5002 5003 = true ∧ beatLt (tOp 3 (.stage 9 0 0)).due s.beat = false
      ∧ opReserved r.op.toNat = false ∧ opReserved 0 = true ∧ opReserved 11 = true ∧ ¬ fits { tOp 3 (.stage 9 0 0) with op := 4 }
      ∧ overBrt s (roundTrip s (tOp 3 (.stage 9 0 0)) r) = false ∧ overBrt s (roundTrip s { tOp 3 (.stage 9 0 0) with iBeat := 4998 } r) = true
      ∧ 199 < ({ r with cycle := 200#8 } : Rsp).cycle.toNat ∧ (tOp 3 (.stage 9 0 0)).purp ≠ .pingFault)
    ∧ (let c : Cmd := { (default : Cmd) with id := 7, paused := true }
       let o := tOp 2 (.imgWrite 7)
       let s := tAsked { tChan id with cmds := [c] } o
       o.purp.cmd? = some 7 ∧ s.cmd? 7 = some c ∧ c.paused = true ∧ (tRsp 2).op.toNat = 2 ∧ (tRsp 2).status = 0#4 ∧ o.tag = (tRsp 2).tag.toNat)
    ∧ (let s := { tAsked (tChan id) { tOp 3 (.stage 9 0 0) with due := 5000 } with recs := [tRec id] }
       let late := fun o : SOp => o.tag == (5#16).toNat && duePassed s o
       s.complete = true ∧ (s.chan (0#3).toNat).outs.find? late = some { tOp 3 (.stage 9 0 0) with due := 5000 } ∧ (s.rec? 9).map (·.sealed) = some false
        ∧ duePassed s { tOp 3 (.stage 9 0 0) with due := 5001 } = false ∧ duePassed s { tOp 10 .pingBg with due := 5000 } = true)
    ∧ ((tChan id).complete = true ∧ (tChan id).chanEn (0#3).toNat = true ∧ ((tChan id).chan 0).faulted = false ∧ (tChan id).cmds = [] ∧ (tChan id).stack.firm = [] ∧ ((tChan id).chan 0).credit + (65435#16).toNat ≤ 65535
      ∧ 65535 < ((tChan id).chan 0).credit + (65436#16).toNat
      ∧ (let s := tChan fun c => { c with faulted := true, inService := false, pingsLeft := 64 }
         (s.chan 0).faulted = true ∧ (s.chan 0).outs.length ≤ (s.chan 0).pingsLeft ∧ (s.chan 0).pingsLeft ≤ 64 ∧ s.chanEn 0 = true)
      ∧ (let s := { tChan id with regs := { tServe.regs with stackCfg := 0x00012008#32 } }
         s.complete = true ∧ s.chanEn 1 = false ∧ 1 < s.channels ∧ { s with build := { s.build with cfg := .c8 } }.channels ≤ 7 ∧ (s.chan 1).outs = [] ∧ 2#16 ≠ 0#16)) := by decide +kernel

/-- A model waiting for a stage, or for its reading operation. -/
def tMod (st : Nat) : ModelR := { (default : ModelR) with mi := 0, st := st, stagesLeft := 1 }
/-- A tile of the image in slot 5 as its master holds it. -/
def tTile : List Byte := tileRecord { tLoaded 1 with bytes := [] } 0
theorem bytesToNat_natToBytes4 (n : Nat) : bytesToNat (natToBytes 4 n) = n % 2 ^ 32 := by
  simp [natToBytes, bytesToNat]
  omega
theorem tile_checks (i : Img) (h b : List Byte) (h1 : h.length = 24) (h2 : b.length = 4096) (h3 : fld (rd64 h 0) 31 0 = i.hdr.imageId)
    (h4 : fld (rd64 h 0) 63 32 = i.hdr.gen) (h5 : fld (rd64 h 8) 23 0 = 0) (h6 : fld (rd64 h 8) 28 24 = 0) :
    tileCheck i 0 (h ++ (natToBytes 4 (crc32c (b ++ h)).toNat ++ (List.replicate 36 0#8 ++ b))) = true := by
  have s0 : ∀ x, sliceB (h ++ x) 0 24 = h := fun x => by simp [sliceB, ← h1]
  have s1 : ∀ x : List Byte, x.length = 40 → sliceB (h ++ (x ++ b)) 64 4096 = b := fun x hx => by
    unfold sliceB
    rw [← List.append_assoc, List.drop_left' (by simp [h1, hx]), ← h2, List.take_length]
  have s2 : ∀ n x, sliceB (h ++ (natToBytes 4 n ++ x)) 24 4 = natToBytes 4 n := fun n x => by
    unfold sliceB
    rw [List.drop_left' h1]
    simp [natToBytes]
  have s3 : ∀ k, k + 8 ≤ 24 → ∀ x, rd64 (h ++ x) k = rd64 h k := fun k hk x => by
    unfold rd64 sliceB
    rw [List.drop_append_of_le_length (by omega), List.take_append_of_le_length (by simp; omega)]
  have hl : (h ++ (natToBytes 4 (crc32c (b ++ h)).toNat ++ (List.replicate 36 0#8 ++ b))).length = 4160 := by simp [h1, h2, natToBytes]
  have sb := s1 (natToBytes 4 (crc32c (b ++ h)).toNat ++ List.replicate 36 0#8) (by simp [natToBytes])
  rw [List.append_assoc] at sb
  unfold tileCheck tileCrcOk
  simp only [s0, sb, rdN, s2, bytesToNat_natToBytes4, hl, s3 0 (by omega), s3 8 (by omega), h3, h4, h5, h6]
  have := (crc32c (b ++ h)).isLt
  simp [Nat.mod_eq_of_lt this]
theorem tTile_checks : tileCheck (tLoaded 1) (keyTile 0) tTile = true := by
  have hs : sliceB ([] : List Byte) (4096 * 0) 4096 = [] := rfl
  have e : tTile = wordsBytes [w64 [((tLoaded 1).hdr.imageId, 0), ((tLoaded 1).hdr.gen, 32)], w64 [(0, 0)], 0#64] ++ (natToBytes 4 (crc32c (List.replicate 4096 0#8
      ++ wordsBytes [w64 [((tLoaded 1).hdr.imageId, 0), ((tLoaded 1).hdr.gen, 32)], w64 [(0, 0)], 0#64])).toNat
      ++ (List.replicate 36 0#8 ++ List.replicate 4096 0#8)) := by
    unfold tTile tileRecord tileRec
    simp only [hs, List.nil_append, List.length_nil, Nat.sub_zero, List.append_assoc]
  rw [e]
  exact tile_checks _ _ _ (by decide) List.length_replicate (by decide +kernel) (by decide +kernel) (by decide +kernel) (by decide +kernel)

theorem witness_ResponsesReachWhatAskedForThem :
    tileCheck (tLoaded 1) (keyTile 0) tTile = true ∧
    (let s := tChan id
     let at_ := fun (op : Nat) (p : Purp) (s : State) => tAsked s (tOp op p)
     (∀ x ∈ [((1 : Nat), Purp.reload 5 0), (2, .mirror 0 [(16384, 1)]), (3, .stage 9 0 0), (4, .walk 9 0), (5, .mask 4), (6, .gather 9 0 0), (7, .cairnClear 7),
          (8, .cairnLoad 7 0), (9, .scrub 2), (10, .pingBg)],
        (at_ x.1 x.2 s).complete = true ∧ ((at_ x.1 x.2 s).chan (tRsp x.1).chan.toNat).outs = [tOp x.1 x.2] ∧ (tOp x.1 x.2).tag = (tRsp x.1).tag.toNat
          ∧ (tOp x.1 x.2).op = (tRsp x.1).op.toNat ∧ (tRsp x.1).status = 0#4 ∧ respTransfers (tOp x.1 x.2) (tRsp x.1) = (tRsp x.1).respLen.toNat
          ∧ (tRsp x.1).epoch.toNat = (at_ x.1 x.2 s).stack.epoch ∧ (tOp x.1 x.2).dead = false ∧ beatLt (tOp x.1 x.2).due (at_ x.1 x.2 s).beat = false
          ∧ (tOp x.1 x.2).due ≠ (at_ x.1 x.2 s).beat ∧ overBrt (at_ x.1 x.2 s) (roundTrip (at_ x.1 x.2 s) (tOp x.1 x.2) (tRsp x.1)) = false ∧ (at_ x.1 x.2 s).cmds = [])
      ∧ ({ s with recs := [tRec fun r => { r with models := [tMod 1] }] }.rec? 9).isSome = true
      ∧ (tMod 2).st = 2 ∧ (tMod 2).mi = 0)
    ∧ (let m : MaskJ := { (default : MaskJ) with id := 4, h := 16384, waiting := true }
       let s := { tChan id with streams := (tStream id).streams, masks := [m] }
       (s.masks.find? fun m => m.id == 4 && m.waiting) = some m ∧ s.stream? m.h = some { tSt with vocab := 1, slot := some 3, dMin := 1 }
        ∧ (canonicalMask 8 (Mask.all 8).encode = some (Mask.all 8) ∧ (Mask.all 8).empty = false) ∧ canonicalMask 8 (List.replicate 64 255#8) = none)
    ∧ (let s := { tChan id with images := tServe.images ++ [(5, tLoaded 1)] }
       s.img? 5 = some (tLoaded 1) ∧ tileCheck (tLoaded 1) (keyTile 0) [] = false)
    ∧ (let c : Cmd := { (default : Cmd) with id := 7, k := .loadI 5 1 0 0 }
       let s := { tChan id with cmds := [c], images := tServe.images ++ [(5, { tLoaded 3 with bytes := List.replicate 64 0#8 })] }
       s.cmd? 7 = some c ∧ c.k = .loadI 5 1 0 0 ∧ (s.img? 5).map (·.bytes.length / 4096) = some 0)
    ∧ (let c : Cmd := { (default : Cmd) with id := 7, k := .saveC 16384 9 100 1 0 2 }
       let s := { tChan id with cmds := [c], cairns := [(9, ⟨0, 0, some 1, some 2⟩)] }
       s.cmd? 7 = some c ∧ c.k = .saveC 16384 9 100 1 0 2 ∧ c.paused = false ∧ AMap.get? s.cairns 9 = some ⟨0, 0, some 1, some 2⟩)
    ∧ (let c : Cmd := { (default : Cmd) with id := 7, k := .resumeC 16384 9 [] }
       ({ tChan id with cmds := [c] }.cmd? 7 = some c ∧ c.k = .resumeC 16384 9 [])) :=
  ⟨tTile_checks, by decide +kernel⟩

/-! Recovery. -/

theorem witness_ComputePhaseScreensTheToken :
    (let s := tPhase 0 { tServe with recs := [], masks := [] }
     s.live = true ∧ s.clk.phase = 0 ∧ s.recs = [] ∧ s.masks = [] ∧ tServe.clk.phase ≠ 0)
    ∧ (let r := fun shed : Nat => tRec fun r => { r with stamp := some 5000, rel := 5001, token := 7, shed := shed }
       let s := fun n : Nat => tPhase 0 { tStream id with recs := [r n] }
       let st := { tSt with vocab := 1, slot := some 3, dMin := 1 }
       ∀ n ∈ [0, 1], (s n).live = true ∧ (s n).clk.phase = 0 ∧ (r n).ext = false ∧ (s n).stream? (r n).h = some st ∧ (r n).kind = .committed ∧ (r n).spec = false ∧ runsNow (s n) (r n) = true
        ∧ (r n).models = [] ∧ (r n).feats = none ∧ (s n).masks = [] ∧ (r n).shed = n
        ∧ tileWaits (tokImgs (s n) st (((s n).polOf (r n).polSlot).getD default)) = []) := by decide +kernel

/-- A child draft whose parent's state reads torn tries again, and in the fourth beat the parent is taken as corrupt (R396, R401). -/
theorem test_node_torn :
    let nd := fun run : Nat => fun p : Option Nat => (⟨1, if p.isSome then 1 else 0, p, default, false, run, 4999, 0, false⟩ : Node)
    let s := fun run : Nat => { (tStream fun x => { x with nodes := [(7, nd run none), (9, nd 0 (some 7))] }) with recs := [tRec fun r => { r with spec := true }] }
    let t := fun run : Nat => (s run).nodeTorn 16384 0 fun _ => true
    (t 2).recs.map (·.torn) = [true] ∧ (t 3).recs.map (·.torn) = [false]
      ∧ ((t 2).stream? 16384).map (fun x => x.nodes.map (·.2.corrupt)) = some [false, false]
      ∧ ((t 3).stream? 16384).map (fun x => x.nodes.map (·.2.corrupt)) = some [true, false] := by decide +kernel

theorem witness_RecoveryRereadsReloadsAndTraps :
    (let st := fun n run : Nat => { tSt with vocab := 1, slot := some 3, dMin := 1, tornAt := n, tornRun := run }
     let s := fun n run : Nat => { tStream (fun _ => st n run) with recs := [tRec fun r => { r with torn := true }] }
     (s 4999 2).live = true ∧ (s 4999 2).stream? (16384#32).toNat = some (st 4999 2) ∧ (s 4999 2).recs.any (fun r => r.h == (16384#32).toNat && (r.torn && r.tornAt != (s 4999 2).beat)) = true
      ∧ (∀ x ∈ (st 4999 2).nodes, x.2.tornRun = 0)
      ∧ (st 4999 2).tornAt ≠ (s 4999 2).beat ∧ ¬ (beatAdd (st 4999 2).tornAt 1 = (s 4999 2).beat ∧ 3 ≤ (st 4999 2).tornRun)
      ∧ (beatAdd (st 4999 3).tornAt 1 = (s 4999 3).beat ∧ 3 ≤ (st 4999 3).tornRun) ∧ (∀ r ∈ (s 4999 2).recs, r.tornN = 0)
      ∧ (let x := fun n => tRec fun r => { r with torn := true, tornN := n, feats := some default }
         let z := fun n : Nat => fun o : Bool => ({ DynTile.blank with use := some (.staging 9), tornAt := some 4999, tornRun := n, writeOpen := o } : DynTile)
         (∀ n ∈ [1, 3], (x n).torn = true ∧ (x n).tornAt ≠ 5000 ∧ 0 < (x n).tornN ∧ (x n).feats.isSome = true ∧ (x n).h = (16384#32).toNat
          ∧ { s 4999 2 with dyn := [(0, z n false)] }.tileOf (.staging (x n).id) = some (0, z n false))
          ∧ ((z 3 false).tornMore 5000).tornRun = 4 ∧ ((z 2 false).tornMore 5000).tornRun = 3 ∧ (z 3 true).writeOpen = true)
 ∧ (st 4999 2).mirrorGen = (st 4999 2).gen ∧ (st 5000 1).tornAt = (s 5000 1).beat ∧ tRun.stream? 16384 = none)
    ∧ (let i := { tLoaded 1 with cells := [(0, 2)], badTiles := [0] }
       let s := { tServe with sched := [⟨5001, .tileGood 5 0, 0⟩], images := tServe.images ++ [(5, i)] }
       s.dueNow (.tileGood (5#8).toNat 0) = true ∧ tRun.dueNow (.tileGood 5 0) = false ∧ s.img? 5 = some i ∧ AMap.get? i.cells 0 = some 2
        ∧ 2 ∉ s.integ.cellsOut)
    ∧ (tServe.start.halted = false ∧ { tServe.start with halted := true }.halted = true ∧ 4#32 ∉ tServe.start.trapAddrs
      ∧ 4#32 ∈ ({ tServe.start with trapAddrs := [4#32] } : StartS).trapAddrs)
    ∧ (let r := fun n : Nat => tRec fun r => { r with stamp := some 4990, sealBy := n, waitTile := [(5, 0)] }
       let s := fun n : Nat => { tStream id with recs := [r n] }
       (s 4998).rec? 9 = some (r 4998) ∧ (s 4998).live = true ∧ expired (s 4998) (r 4998) = true ∧ expired (s 4999) (r 4999) = false ∧ (r 4998).kind ≠ .marker) := by
  decide +kernel

theorem witness_RecoveryRereadsReloadsAndTraps_classes :
    (let q : OpenChunk := { (default : OpenChunk) with torn := true }
     let u := tStream fun x => { x with parts := [(0, q)], tornAt := 4999 }
     u.recs = [] ∧ (u.stream? 16384).map (fun x => x.parts.any fun q => q.2.torn) = some true)
    ∧ (let hdr : HdrRead := ⟨0#32, 0#32, 0#24, 0#4, false, 5#32⟩
       recClass 0 ⟨hdr, hdr, 5#32⟩ = .good ∧ recClass 1 ⟨hdr, hdr, 5#32⟩ = .stale ∧ recClass 0 ⟨hdr, hdr, 6#32⟩ = .corrupt
        ∧ recClass 0 ⟨hdr, { hdr with generation := 1#32 }, 5#32⟩ = .torn ∧ tileClass ⟨hdr, { hdr with writeOpen := true }, 5#32⟩ = .torn) := by
  decide +kernel
theorem witness_RecoveryRereadsReloadsAndTraps_core :
    (let e : MergeEntry := ⟨1, [some 7#8, none, none, none, none, none, none, none]⟩
     let s := { tServe with mgmt := { MgmtS.reset with core := ⟨[(1, List.replicate 8 1#8)], [e]⟩ } }
     s.start.halted = false ∧ s.mgmt.core.buf = [e] ∧ e.full = false ∧ s.mgmt.core.reads (9#32).toNat 1 = true ∧ s.mgmt.core.reads (8#32).toNat 1 = false
      ∧ (15#32).toNat % 8 + [3#8].length ≤ 8 ∧ (∀ e ∈ s.mgmt.core.buf, e.bytes.length = 8) ∧ (∀ x ∈ s.mgmt.core.ram, x.2.length = 8)
      ∧ (List.replicate 64 0#8).length = 64 ∧ (AMap.get? { s with dyn := [(2, DynTile.blank)] }.dyn 2).map (·.payload.length) = some 0) := by
  decide +kernel
/-- A narrow store is read back from the merge buffer, the other bytes of its word from the RAM; the ninth word drains the oldest (R406). -/
theorem test_core_ram :
    (let s := { tServe with mgmt := { MgmtS.reset with core := ⟨[(1, List.replicate 8 1#8)], []⟩ } }
     let t := s.coreOp (.store 9#32 [7#8, 8#8] false)
     let u := (List.range 8).foldl (fun s k => s.coreOp (.store (BitVec.ofNat 32 (16 + 8 * k)) [BitVec.ofNat 8 k] false)) t
     t.mgmt.core.load 8 8 = [1#8, 7#8, 8#8, 1#8, 1#8, 1#8, 1#8, 1#8] ∧ t.mgmt.core.ram = s.mgmt.core.ram
      ∧ u.mgmt.core.buf.length = 8 ∧ u.mgmt.core.ram = [(1, [1#8, 7#8, 8#8, 1#8, 1#8, 1#8, 1#8, 1#8])]) := by decide +kernel

/-! Ranges. -/

/-- A member of a range of two: this one is the head with id 0, member 1 its successor and tail. -/
def tRange (role : Nat) : State :=
  { tServe with
    regs := { tServe.regs with rangeMember := 0x200#32 }
    range := { RangeS.reset with
      joined := true, role := role, formation := 1, timeout := 64, formedBeat := 4744
      members := [(0, ⟨0, 1, 1, 0, 0x100000, 5000⟩), (1, ⟨2, 1, 1, 0, 0x200000, 4936⟩)] } }
/-- A block that has sent its RANGE_JOIN. -/
def tForming (role since : Nat) : State :=
  { tServe with
    regs := { tServe.regs with rangeMember := 0x200#32 }
    cmds := [{ (default : Cmd) with id := 7, since := since, k := .join since }]
    range := { RangeS.reset with forming := some 7, role := role, timeout := 64 } }
theorem witness_RangeCommandsAndTimers :
    (let d := tCmd 0x40 0 0x100000 64
     let s := tGet { tServe with regs := { tServe.regs with rangeMember := 0x200#32 } } d
     let u := s.started d
     s.accepts d = true ∧ d.opcode = 0x40 ∧ (s.range.joined = false ∧ u.forming? = none ∧ s.range.leaving = false ∧ 64 ≤ dfld d 4 31 0
        ∧ fld s.regs.rangeMember 14 8 ≠ 0) ∧ dfld d 2 1 0 ≠ 2 ∧ s.range.members = [] ∧ ¬ 64 ≤ dfld { d with w4 := 63#64 } 4 31 0)
    ∧ (let d := tCmd 0x41 0 0 0
       let s := tGet (tRange 0) d
       s.accepts d = true ∧ d.opcode = 0x41 ∧ s.range.joined = true ∧ s.openStreams = [] ∧ (s.started d).forming? = none ∧ s.range.leaving = false
        ∧ (tGet tServe d).accepts d = true ∧ (tGet tServe d).range.joined = false ∧ (tStream id).openStreams ≠ [])
    ∧ (let d := tCmd 0x42 0x1000 0 0
       (tGet (tRange 0) d).accepts d = true ∧ d.opcode = 0x42)
    ∧ (tServe.forming? = none ∧ (tForming 2 4936).forming?.map (·.since) = some 4936 ∧ (tForming 2 4936).range.role = 2 ∧ (tForming 2 4936).clk.stopped = false ∧ joining (tForming 2 4936) = false
∧ beatLe (beatAdd 4936 64) (tForming 2 4936).beat = true ∧ beatLe (beatAdd 4937 64) (tForming 2 4937).beat = false)
    ∧ (let at_ := fun n old : Nat => { tRange 0 with range := { (tRange 0).range with lanes := [(1, (9, n, old))] } }
       let due := fun s : State => (AMap.getD s.range.lanes 1 (0, 0, 0)).2.1 ≠ 0 ∧ peerInbox s 1 ≠ 0
         ∧ (32 ≤ (AMap.getD s.range.lanes 1 (0, 0, 0)).2.1 ∨ beatLt s.beat (beatAdd (AMap.getD s.range.lanes 1 (0, 0, 0)).2.2 64) = false)
       (at_ 32 5000).live = true ∧ due (at_ 32 5000) ∧ due (at_ 1 4936) ∧ ¬ due (at_ 31 4937) ∧ ¬ due (at_ 0 0) ∧ laneRoom (at_ 32 5000) 1 = true)
    ∧ ((tRange 0).heartPeers = [1] ∧ heartDue (tRange 0) 1 = true ∧ tServe.range.joined = false
        ∧ splitShows { tRange 0 with clk := { tRun.clk with beat := 4999 } } 1 = none ∧ (splitShows (tRange 0) (1#6).toNat).isSome = true
        ∧ (1#6).toNat ∉ (tRange 0).range.splitFrom) := by decide +kernel

theorem witness_RangeCommandsAndTimers_lanes :
    (let x : RelayOut := { (default : RelayOut) with peer := 1, kind := 8 }
     let f := fun n : Nat => { tRange 0 with range := { (tRange 0).range with backlog := [x], send := [(1, (n, 0))] } }
     (f 255).range.backlog = [x] ∧ laneRoom (f 255) x.peer = true ∧ laneRoom (f 256) x.peer = false ∧ 1 ∉ (f 255).range.splitFrom)
    ∧ joining { tForming 2 4936 with sched := [⟨5001, .joinRange 1 2, 0⟩] } = true := by decide +kernel
/-- A relay record of kind k in lane 1 with the phase of an unused lane. -/
def tRelay (k : Nat) (f : Nat) (w1 : W64) : RelayIn :=
  { (default : RelayIn) with lane := 1#6, w0 := BitVec.ofNat 64 (k + 16 + f * 2 ^ 16), w1 := w1, w7 := BitVec.ofNat 64 (2 ^ 63) }
theorem witness_RelayRecordsTakeEffect :
    (∀ k ∈ [1, 2, 6, 7, 8, 9, 10, 11, 12],
      let s := tRange 0
      let r := tRelay k 1 0
      s.complete = true ∧ fld s.regs.rangeMember 14 8 ≠ 0 ∧ bit r.w7 63 = decide ((AMap.getD s.range.lanes 1 (0, 0, 0)).1 / laneSlots s % 2 = 0)
        ∧ relayGood s r k = true ∧ relayGood s (tRelay k 2 0) k = false ∧ s.range.splitFrom = [] ∧ s.range.starved = 0 ∧ s.range.joined = true
        ∧ relayGood s (tRelay 1 1 (BitVec.ofNat 64 (9 * 2 ^ 38))) 1 = false ∧ relayGood s (tRelay 1 1 (BitVec.ofNat 64 (8 * 2 ^ 38))) 1 = true)
    ∧ (let s := { tRange 2 with
         streams := (tStream id).streams
         regs := { tServe.regs with rangeMember := 0x201#32 }
         range := { (tRange 2).range with send := [(1, (300, 44))] } }
       s.isFirst = false ∧ (s.bound? (fld (tRelay 2 1 (BitVec.ofNat 64 (3 + 2 ^ 24))).w1 13 0)).isSome = true ∧ fld (tRelay 2 1 (BitVec.ofNat 64 (3 + 2 ^ 24))).w1 36 24 = 1
        ∧ freeTag s.host.reads = some 0 ∧ unacked s 0 64 = false ∧ s.range.chunkQ = [] ∧ readingChunk s 16384 = false
        ∧ s.bound? (fld (tRelay 2 1 (BitVec.ofNat 64 (3 + 2 ^ 24))).w1 13 0) = s.stream? 16384
        ∧ chunkPart 1 0 [] = (0, 4) ∧ chunkPart 4096 4092 [] = (4092, 4) ∧ chunkPart 4096 4092 (List.replicate 4 0#8) = (4096, 4096) ∧ AMap.get? s.range.send 1 = some (300, 44))
    ∧ (let s := { tServe with regs := { tServe.regs with rangeMember := 0x200#32 } }
       relayGood s (tRelay 3 0 0) 3 = true ∧ s.range.joined = false ∧ s.forming? = none ∧ s.range.leaving = false)
    ∧ (let s := tForming 0 4990
       relayGood s (tRelay 4 0 0) 4 = true ∧ s.forming?.isSome = true ∧ s.range.role ≠ 2 ∧ joining s = false ∧ AMap.has s.range.members (fld (tRelay 4 0 0).w0 9 4) = false
        ∧ s.range.members.length + 1 < fld s.regs.rangeMember 14 8
        ∧ fld s.regs.rangeMember 14 8 ≤ { s.range with members := [(3, ⟨2, 3, 1, 0, 0, 0⟩)] }.members.length + 1 ∧ relayGood s (tRelay 5 0 0) 5 = true)
    ∧ ((tRange 0).range.role = 0 ∧ (tRange 0).range.split = false ∧ (AMap.get? (tRange 0).range.members (1#6).toNat).isSome = true
      ∧ (tRange 0).clk.stopped = false ∧ (tRange 0).clk.stopPin = false ∧ (tRange 0).clk.stopCmd = false ∧ (tRange 0).forming? = none
      ∧ (tRange 0).range.leaving = false) := by decide +kernel

theorem witness_LeasesLeaveTheAnchor :
    (let at_ := fun n : Nat => { tRange 0 with clk := { tRun.clk with beat := n } }
     (at_ 6000).live = true ∧ grantDue (at_ 6000) = true ∧ grantDue (at_ 6001) = false ∧ (AMap.keys (at_ 6000).tenants).Nodup
      ∧ AMap.get? (at_ 6000).tenants 0 = some { Tenant.dflt with enabled := true, c := 10, k := 10 } ∧ (at_ 6000).range.split = false
      ∧ ({ (at_ 6000).range with split := true }).split = true)
    ∧ (let g : Grant := ⟨0, 1, 5, 5, 0, 0#64⟩
       let s := { tRange 0 with range := { (tRange 0).range with grants := [g] } }
       s.live = true ∧ s.range.joined = true
        ∧ s.atEnd = true ∧ (tPhase 0 s).atEnd = false ∧ (s.range.grants.filter fun g => decide (g.time.toNat ≤ s.nextTime.toNat)) = [g] ∧ (tRange 0).range.grants = []) := by decide +kernel

/-! Test access. -/

theorem witness_TestPortInstructions :
    (let acts := fun p : TestPins => p.testMode = true ∧ p.resetAsserted = true
     let f := State.reset.fuses
     acts ⟨true, true⟩ ∧ ¬ acts ⟨true, false⟩ ∧ ¬ acts ⟨false, true⟩
      ∧ ((3#8).toNat < 4 ∧ f.keyState.getD 3 0 = 0 ∧ 3 < f.keyHash.length) ∧ ({ f with keyState := [1, 0, 0, 0] } : FuseS).keyState.getD 0 0 ≠ 0
      ∧ (4 ≤ (7#8).toNat ∧ (7#8).toNat < 8 ∧ 7 - 4 < f.keyState.length)
      ∧ (0x11 ≤ (0x1A#8).toNat ∧ (0x1A#8).toNat ≤ 0x1A ∧ 0x1A - 0x11 < f.rollback.length)) := by decide +kernel

theorem witness_FusesOnlyAdvance :
    (let s := { State.reset with pending := [.fuseProg ⟨true, true⟩ 5#256 0x11#8] }
     s.fuses.statesLegal = true ∧ (match step s with | .next t => decide (t.fuses.rollback.getD 0 0 = 5) | _ => false) = true) := by decide +kernel
end Sys2Proof.Tests
end

section
/-! The plain registers of Chapter 17: a read looks at one part of the register file, and a write to one of them changes that part alone. -/

namespace Sys2Proof.Machine

/-- The registers that read one field of `RegS` as it stands, with that field. -/
def plainRegs : List (Nat × (RegS → W32)) :=
  [(0x2008, (·.ringLo)), (0x200C, (·.ringHi)), (0x2020, (·.persistLo)), (0x2024, (·.persistHi)), (0x2028, (·.persistCfg)),
   (0x2030, (·.logLo)), (0x2034, (·.logHi)), (0x2040, (·.relayLo)), (0x2044, (·.relayHi)), (0x2048, (·.rangeMember)),
   (0x4040, (·.tokMode)), (0x4048, (·.commitCap)), (0x5000, (·.govCtl)), (0x6004, (·.irqEnable)), (0x7008, (·.hangCtl)),
   (0x8000, (·.unlock))]
/-- The registers that read an entry of an indexed field, by base, stride and count, with that field. -/
def indexedRegs : List (Nat × Nat × Nat × (RegS → AMap W32)) :=
  [(0x3010, 4, 4, (·.region)), (0x6400, 16, 64, (·.vecLo)), (0x6404, 16, 64, (·.vecHi)), (0x6408, 16, 64, (·.vecData))]
/-- The fields that the remaining registers read, alone or with the rest of the state. -/
def RegS.otherFields (r : RegS) : W32 × W32 × W32 × Byte × AMap W32 × W32 :=
  (r.coreClock, r.hostport, r.stackCfg, r.rtFloor, r.rclass, r.govTherm)

/-- Two register files hold the same in everything that a read at an offset looks at. -/
structure RegS.AgreeAt (r r' : RegS) (o : Nat) : Prop where
  plain : ∀ p ∈ plainRegs, p.1 = o → p.2 r = p.2 r'
  indexed : ∀ p ∈ indexedRegs, ∀ i, idx? o p.1 p.2.1 p.2.2.1 = some i → AMap.getD (p.2.2.2 r) i 0#32 = AMap.getD (p.2.2.2 r') i 0#32
  others : r.otherFields = r'.otherFields

section
variable {s : State} {r : RegS} {o : Nat} (h : r.AgreeAt s.regs o)
include h

theorem reg01_congr : ({ s with regs := r } : State).reg01 o = s.reg01 o := by
  have coreClock : r.coreClock = s.regs.coreClock := congrArg (·.1) h.others
  unfold State.reg01
  split
  case h_12 => exact coreClock
  all_goals rfl

theorem reg23_congr : ({ s with regs := r } : State).reg23 o = s.reg23 o := by
  have ho := h.others
  simp only [RegS.otherFields, Prod.mk.injEq] at ho
  obtain ⟨-, hostport, stackCfg, rtFloor, -, -⟩ := ho
  unfold State.reg23
  split
  case h_1 => exact hostport
  case h_13 => exact stackCfg
  case h_14 => simp only [rtFloor]
  case h_2 => exact h.plain (0x2008, (·.ringLo)) (by simp [plainRegs]) rfl
  case h_3 => exact h.plain (0x200C, (·.ringHi)) (by simp [plainRegs]) rfl
  case h_5 => exact h.plain (0x2020, (·.persistLo)) (by simp [plainRegs]) rfl
  case h_6 => exact h.plain (0x2024, (·.persistHi)) (by simp [plainRegs]) rfl
  case h_7 => exact h.plain (0x2028, (·.persistCfg)) (by simp [plainRegs]) rfl
  case h_8 => exact h.plain (0x2030, (·.logLo)) (by simp [plainRegs]) rfl
  case h_9 => exact h.plain (0x2034, (·.logHi)) (by simp [plainRegs]) rfl
  case h_10 => exact h.plain (0x2040, (·.relayLo)) (by simp [plainRegs]) rfl
  case h_11 => exact h.plain (0x2044, (·.relayHi)) (by simp [plainRegs]) rfl
  case h_12 => exact h.plain (0x2048, (·.rangeMember)) (by simp [plainRegs]) rfl
  case h_20 =>
    split
    · rfl
    · rfl
    · exact h.indexed (0x3010, 4, 4, (·.region)) (by simp [indexedRegs]) _ (by assumption)
    · rfl
  all_goals rfl

theorem reg456_congr : ({ s with regs := r } : State).reg456 o = s.reg456 o := by
  have ho := h.others
  simp only [RegS.otherFields, Prod.mk.injEq] at ho
  obtain ⟨-, -, stackCfg, -, rclass, govTherm⟩ := ho
  have chanEn : ({ s with regs := r } : State).chanEn = s.chanEn := by
    funext n
    simp only [State.chanEn, stackCfg]
    rfl
  unfold State.reg456
  split
  case h_1 => exact h.plain (0x4040, (·.tokMode)) (by simp [plainRegs]) rfl
  case h_2 => exact h.plain (0x4048, (·.commitCap)) (by simp [plainRegs]) rfl
  case h_4 => exact h.plain (0x5000, (·.govCtl)) (by simp [plainRegs]) rfl
  case h_15 => exact h.plain (0x6004, (·.irqEnable)) (by simp [plainRegs]) rfl
  case h_5 => exact govTherm
  case h_12 => simp only [chanEn]; rfl
  case h_16 =>
    simp only [State.sensors, State.ridges, State.rclassReg, rclass]
    split
    · rfl
    · rfl
    · split
      · exact h.indexed (0x6400, 16, 64, (·.vecLo)) (by simp [indexedRegs]) _ (by assumption)
      · exact h.indexed (0x6404, 16, 64, (·.vecHi)) (by simp [indexedRegs]) _ (by assumption)
      · exact h.indexed (0x6408, 16, 64, (·.vecData)) (by simp [indexedRegs]) _ (by assumption)
      · rfl
  all_goals rfl

theorem reg78_congr : ({ s with regs := r } : State).reg78 o = s.reg78 o := by
  unfold State.reg78
  split
  case h_3 => exact h.plain (0x7008, (·.hangCtl)) (by simp [plainRegs]) rfl
  case h_11 => exact h.plain (0x8000, (·.unlock)) (by simp [plainRegs]) rfl
  all_goals rfl

/-- A read looks at the register file through what `AgreeAt` names. -/
theorem regRead_congr : ({ s with regs := r } : State).regRead o = s.regRead o := by
  unfold State.regRead
  rw [reg01_congr h, reg23_congr h, reg456_congr h, reg78_congr h]

end

/-- A register file that differs from the state's in one register of the map alone, which reads x. -/
structure RegS.SetsOne (s : State) (r : RegS) (off : Nat) (x : W32) : Prop where
  reads : ({ s with regs := r } : State).regRead off = x
  frame : ∀ o, o ≠ off → r.AgreeAt s.regs o

/-- One plain field set. -/
theorem setsOne_of_plain {s : State} {r : RegS} {off : Nat} {x : W32} (hx : ({ s with regs := r } : State).regRead off = x)
    (hp : ∀ p ∈ plainRegs, p.1 ≠ off → p.2 r = p.2 s.regs) (hi : ∀ p ∈ indexedRegs, p.2.2.2 r = p.2.2.2 s.regs)
    (ho : r.otherFields = s.regs.otherFields) : RegS.SetsOne s r off x :=
  ⟨hx, fun o hne => ⟨fun p hm e => hp p hm (e ▸ hne), fun p hm i _ => by rw [hi p hm], ho⟩⟩

/-- One entry of an indexed field set: no other register of the map has its index. -/
theorem setsOne_of_indexed {s : State} {r : RegS} {off : Nat} {x : W32} (f : AMap W32) (k : Nat)
    (hx : ({ s with regs := r } : State).regRead off = AMap.getD (AMap.set f k x) k 0#32) (hp : ∀ p ∈ plainRegs, p.2 r = p.2 s.regs)
    (hi : ∀ p ∈ indexedRegs, p.2.2.2 r = p.2.2.2 s.regs ∨ p.1 + p.2.1 * k = off ∧ p.2.2.2 r = AMap.set (p.2.2.2 s.regs) k x)
    (ho : r.otherFields = s.regs.otherFields) : RegS.SetsOne s r off x := by
  refine ⟨hx.trans (by simp), fun o hne => ⟨fun p hm _ => hp p hm, fun p hm i e => ?_, ho⟩⟩
  obtain same | ⟨hoff, hset⟩ := hi p hm
  · rw [same]
  · have hik : i ≠ k := by
      rintro rfl
      unfold idx? at e
      split at e
      · rename_i c
        obtain ⟨c1, c2, -⟩ := c
        cases e
        have := Nat.mul_div_cancel' (Nat.dvd_of_mod_eq_zero c2)
        omega
      · cases e
    rw [hset, AMap.getD_set, if_neg hik]

/-- The registers of one plain field that are locked at start completion, with the masks of their fields (R21, R495). -/
def lockedRegs : List (BitVec 16 × W32) :=
  [(0x4048, 0xFFFFFFFF), (0x5000, 0xFFFFFFFF), (0x2008, 0xFFFFF000), (0x200C, 0x01FFFFFF), (0x2020, 0xFFF00000), (0x2024, 0x01FFFFFF),
   (0x2028, 0x77), (0x2030, 0xFFFFF7FF), (0x2034, 0x01FFFFFF), (0x2040, 0xFFFF000F), (0x2044, 0x01FFFFFF), (0x2048, 0x7F3F), (0x4040, 1),
   (0x8000, 0xF)]
/-- The stack regions, locked too. -/
def regionRegs : List (BitVec 16 × W32) :=
  [(0x3010, 0xFFFFFFFF), (0x3014, 0xFFFFFFFF), (0x3018, 0xFFFFFFFF), (0x301C, 0xFFFFFFFF)]
/-- Registers that a write sets at any time, of the interrupt vectors one of each kind. -/
def openRegs : List (BitVec 16 × W32) :=
  [(0x6004, 0xF), (0x7008, 0x00FFFFFF), (0x6400, 0xFFFFFFFC), (0x67F4, 0x81FFFFFF), (0x6418, 0xFFFFFFFF)]

theorem and_mask32 (v : W32) : v &&& 0xFFFFFFFF = v := BitVec.and_allOnes

section
variable (s : State) (v : W32) {off : BitVec 16} {m : W32}

theorem writeLocked_setsOne (h : (off, m) ∈ lockedRegs) :
    RegS.SetsOne s (s.regs.writeLocked s.channels off.toNat v) off.toNat (v &&& m) := by
  simp only [lockedRegs, List.mem_cons, Prod.mk.injEq, List.not_mem_nil, or_false] at h
  rcases h with ⟨rfl, rfl⟩ | ⟨rfl, rfl⟩ | ⟨rfl, rfl⟩ | ⟨rfl, rfl⟩ | ⟨rfl, rfl⟩ | ⟨rfl, rfl⟩ | ⟨rfl, rfl⟩ | ⟨rfl, rfl⟩ | ⟨rfl, rfl⟩ | ⟨rfl, rfl⟩ |
    ⟨rfl, rfl⟩ | ⟨rfl, rfl⟩ | ⟨rfl, rfl⟩ | ⟨rfl, rfl⟩
  case inl | inr.inl =>
    rw [and_mask32]
    exact setsOne_of_plain rfl (by simp [plainRegs, RegS.writeLocked]) (by simp [indexedRegs, RegS.writeLocked]) rfl
  all_goals exact setsOne_of_plain rfl (by simp [plainRegs, RegS.writeLocked]) (by simp [indexedRegs, RegS.writeLocked]) rfl

theorem writeRegion_setsOne (h : (off, m) ∈ regionRegs) :
    RegS.SetsOne s (s.regs.writeLocked s.channels off.toNat v) off.toNat (v &&& m) := by
  simp only [regionRegs, List.mem_cons, Prod.mk.injEq, List.not_mem_nil, or_false] at h
  obtain ⟨k, hm, hw, hr⟩ : ∃ k, m = 0xFFFFFFFF ∧ (0x3010 + 4 * k = off.toNat
      ∧ s.regs.writeLocked s.channels off.toNat v = { s.regs with region := AMap.set s.regs.region k v })
      ∧ ∀ r, ({ s with regs := r } : State).regRead off.toNat = AMap.getD r.region k 0#32 := by
    rcases h with ⟨rfl, rfl⟩ | ⟨rfl, rfl⟩ | ⟨rfl, rfl⟩ | ⟨rfl, rfl⟩
    · exact ⟨0, rfl, ⟨rfl, rfl⟩, fun _ => rfl⟩
    · exact ⟨1, rfl, ⟨rfl, rfl⟩, fun _ => rfl⟩
    · exact ⟨2, rfl, ⟨rfl, rfl⟩, fun _ => rfl⟩
    · exact ⟨3, rfl, ⟨rfl, rfl⟩, fun _ => rfl⟩
  rw [hm, and_mask32, hw.2]
  exact setsOne_of_indexed s.regs.region k (hr _) (by simp [plainRegs]) (by simp [indexedRegs, hw.1]) rfl

/-- The temperature sensors' registers end below the interrupt vectors. -/
theorem idx?_sensors_of_vector {o : Nat} (h : 0x6400 ≤ o) : idx? o 0x5080 4 s.sensors = none := by
  have : s.sensors ≤ 24 := by
    unfold State.sensors State.ridges
    cases s.build.cfg <;> decide
  exact if_neg fun c => by omega

theorem regRead_vectors (t : State) : t.regRead 0x6400 = AMap.getD t.regs.vecLo 0 0#32
    ∧ t.regRead 0x67F4 = AMap.getD t.regs.vecHi 63 0#32 ∧ t.regRead 0x6418 = AMap.getD t.regs.vecData 1 0#32 := by
  simp only [State.regRead, State.reg456, idx?_sensors_of_vector t (by decide : 0x6400 ≤ 0x6400),
    idx?_sensors_of_vector t (by decide : 0x6400 ≤ 0x67F4), idx?_sensors_of_vector t (by decide : 0x6400 ≤ 0x6418)]
  exact ⟨rfl, rfl, rfl⟩

theorem writeOpen_setsOne (h : (off, m) ∈ openRegs) : RegS.SetsOne s (s.regs.writeOpen off.toNat v) off.toNat (v &&& m) := by
  simp only [openRegs, List.mem_cons, Prod.mk.injEq, List.not_mem_nil, or_false] at h
  have vecLo t := (regRead_vectors t).1
  have vecHi t := (regRead_vectors t).2.1
  have vecData t := (regRead_vectors t).2.2
  rcases h with ⟨rfl, rfl⟩ | ⟨rfl, rfl⟩ | ⟨rfl, rfl⟩ | ⟨rfl, rfl⟩ | ⟨rfl, rfl⟩
  · exact setsOne_of_plain rfl (by simp [plainRegs, RegS.writeOpen]) (by simp [indexedRegs, RegS.writeOpen]) rfl
  · exact setsOne_of_plain rfl (by simp [plainRegs, RegS.writeOpen]) (by simp [indexedRegs, RegS.writeOpen]) rfl
  · exact setsOne_of_indexed s.regs.vecLo 0 (vecLo _) (by simp [plainRegs, RegS.writeOpen, idx?]) (by simp [indexedRegs, RegS.writeOpen, idx?]) rfl
  · exact setsOne_of_indexed s.regs.vecHi 63 (vecHi _) (by simp [plainRegs, RegS.writeOpen, idx?]) (by simp [indexedRegs, RegS.writeOpen, idx?]) rfl
  · rw [and_mask32]
    exact setsOne_of_indexed s.regs.vecData 1 (vecData _) (by simp [plainRegs, RegS.writeOpen, idx?]) (by simp [indexedRegs, RegS.writeOpen, idx?]) rfl
/-- A locked register takes the write until the start completes; afterwards no register does (R495). -/
theorem regWrite_of_locked (h : (off, m) ∈ lockedRegs ++ regionRegs) : s.regWrite (off.toNat / 4 * 4) v =
    if s.rwl then { s with regs := s.regs.writeLocked s.channels off.toNat v } else s := by
  simp only [lockedRegs, regionRegs, List.cons_append, List.nil_append, List.mem_cons, Prod.mk.injEq, List.not_mem_nil, or_false] at h
  rcases h with ⟨rfl, rfl⟩ | ⟨rfl, rfl⟩ | ⟨rfl, rfl⟩ | ⟨rfl, rfl⟩ | ⟨rfl, rfl⟩ | ⟨rfl, rfl⟩ | ⟨rfl, rfl⟩ | ⟨rfl, rfl⟩ | ⟨rfl, rfl⟩ | ⟨rfl, rfl⟩ |
    ⟨rfl, rfl⟩ | ⟨rfl, rfl⟩ | ⟨rfl, rfl⟩ | ⟨rfl, rfl⟩ | ⟨rfl, rfl⟩ | ⟨rfl, rfl⟩ | ⟨rfl, rfl⟩ | ⟨rfl, rfl⟩
  all_goals cases hr : s.rwl <;> exact (congrArg (fun b : Bool => s.setRegs fun _ => if b then _ else _) hr).trans rfl

theorem regWrite_of_open (h : (off, m) ∈ openRegs) : s.regWrite (off.toNat / 4 * 4) v = { s with regs := s.regs.writeOpen off.toNat v } := by
  simp only [openRegs, List.mem_cons, Prod.mk.injEq, List.not_mem_nil, or_false] at h
  rcases h with ⟨rfl, rfl⟩ | ⟨rfl, rfl⟩ | ⟨rfl, rfl⟩ | ⟨rfl, rfl⟩ | ⟨rfl, rfl⟩
  all_goals cases hr : s.rwl <;> exact (congrArg (fun b : Bool => s.setRegs fun _ => if b then _ else _) hr).trans rfl
end

/-- Settles O10: each write sets one part of the register file, and a read of another register does not look at it. -/
theorem plainRegistersReadBack : Obligations.PlainRegistersReadBack := by
  intro off m v s locked free
  refine ⟨s.regWrite (off.toNat / 4 * 4) v, rfl, ?_⟩
  have hl : (off, m) ∈ locked → (off, m) ∈ lockedRegs ++ regionRegs := by
    simp only [locked, lockedRegs, regionRegs, List.cons_append, List.nil_append, List.mem_cons, List.not_mem_nil, or_false]
    tauto
  have hs : (off, m) ∈ locked → RegS.SetsOne s (s.regs.writeLocked s.channels off.toNat v) off.toNat (v &&& m) := fun h =>
    (List.mem_append.mp (hl h)).elim (writeLocked_setsOne s v) (writeRegion_setsOne s v)
  refine ⟨fun h c => ?_, fun h c => ?_, fun h => ?_, fun h o _ hne => ?_⟩
  · rw [regWrite_of_locked s v (hl h), if_pos c]
    exact (hs h).reads
  · rw [regWrite_of_locked s v (hl h), c]
    rfl
  · rw [regWrite_of_open s v h]
    exact (writeOpen_setsOne s v h).reads
  · obtain h | h := List.mem_append.mp h
    · rw [regWrite_of_locked s v (hl h)]
      split
      · exact regRead_congr ((hs h).frame o hne)
      · rfl
    · rw [regWrite_of_open s v h]
      exact regRead_congr ((writeOpen_setsOne s v h).frame o hne)

end Sys2Proof.Machine
end

section
namespace Sys2Proof.Machine

theorem w32_toNat (a : Nat) (h : a < 2 ^ 32) : (w32 [(a, 0)]).toNat = a := by
  simpa [w32, pack] using h

/-- The mask of all W1C bits of the interrupt status register has its low four bits. -/
theorem testBit_irqMask (i : Nat) : Nat.testBit 0xF i = decide (i < 4) := Nat.testBit_two_pow_sub_one 4 i
theorem testBit_floorMask (i : Nat) : Nat.testBit 0xFF i = decide (i < 8) := Nat.testBit_two_pow_sub_one 8 i
/-- Of the low eight bits of FAULT_STATUS only MGMT_HALT, bit 4, is no W1C bit (R21). -/
theorem testBit_faultMask (i : Nat) : Nat.testBit 0xEF i = (i != 4 && decide (i < 8)) := by
  have e : (0xEF : Nat) = 0xFF ^^^ 2 ^ 4 := rfl
  rw [e, Nat.testBit_xor, testBit_floorMask, Nat.testBit_two_pow]
  by_cases h : i = 4
  · subst h; rfl
  · simp [h, Ne.symm h]

/-- The beat counter's halves as they read after its low half was read: one value (R60). -/
theorem beatCount_halves (b : Nat) (h : b < 2 ^ 48) :
    (w32 [(b / 2 ^ 32, 0)]).toNat * 2 ^ 32 + (w32 [(b % 2 ^ 32, 0)]).toNat = b := by
  rw [w32_toNat _ (by omega), w32_toNat _ (by omega)]
  omega

/-- The time offset's halves make the offset (Table 14-4). -/
theorem timeOffset_halves (x : W64) :
    (w32 [(fld x 63 32, 0)]).toNat * 2 ^ 32 + (w32 [(fld x 31 0, 0)]).toNat = x.toNat := by
  rw [w32_toNat _ (fld_lt x 63 32), w32_toNat _ (fld_lt x 31 0)]
  have := x.isLt
  simp only [fld, Nat.shiftRight_eq_div_pow]
  omega

theorem w32_single (a : Nat) : w32 [(a, 0)] = BitVec.ofNat 32 a := by simp [w32, pack]

theorem regRead_beatHi (s : State) : s.regRead 0x1014 = w32 [(s.clk.hiLatch, 0)] := rfl
theorem regRead_beatLo (s : State) : s.regRead 0x1010 = w32 [(s.beat % 2 ^ 32, 0)] := rfl
theorem regRead_offsetHi (s : State) : s.regRead 0x1024 = w32 [(s.clk.offHiLatch, 0)] := rfl
theorem regRead_offsetLo (s : State) : s.regRead 0x1020 = w32 [(fld s.start.offset 31 0, 0)] := rfl
theorem beat_lt (s : State) : s.beat < 2 ^ 48 := s.clk.beat.isLt

/-- Settles O12: the W1C masks bit by bit, and the two halves of each latched pair as one value. -/
theorem statusBitsAndPairedReads : Obligations.StatusBitsAndPairedReads := by
  refine ⟨fun v s => ⟨?_, ?_, ?_, ?_, ?_⟩, fun s => ⟨?_, ?_⟩⟩
  · refine ⟨_, rfl, rfl, rfl, fun i => ?_⟩
    exact (w1c_testBit _ _ _ i).trans (by rw [testBit_faultMask, Bool.and_assoc]; rfl)
  · refine ⟨_, rfl, rfl, rfl, fun i => ?_⟩
    exact (w1c_testBit _ _ _ i).trans (by rw [testBit_floorMask]; rfl)
  · refine ⟨_, rfl, rfl, rfl, fun i => ?_⟩
    exact (w1c_testBit _ _ _ i).trans (by rw [testBit_irqMask]; rfl)
  · exact ⟨_, rfl, rfl, rfl, rfl, rfl, rfl, rfl⟩
  · exact ⟨_, rfl, rfl, rfl, rfl, rfl, rfl, rfl, rfl, rfl, rfl⟩
  · refine ⟨_, rfl, ?_, ?_, beatCount_halves s.beat (beat_lt s), rfl, rfl, rfl, rfl⟩
    · exact congrArg (fun w => s.out ++ [.regData 0x1010 w]) (w32_single _)
    · exact w32_single _
  · refine ⟨_, rfl, ?_, timeOffset_halves s.start.offset, rfl, rfl, rfl, rfl⟩
    refine congrArg (fun w => s.out ++ [.regData 0x1020 w]) ((w32_single _).trans (congrArg _ ?_))
    simp [fld]
end Sys2Proof.Machine
end

section
namespace Sys2Proof.Machine

theorem regs_of_still {t s : State} (h : t.still = s.still) : t.regs = s.regs := congrArg Still.regs h
theorem regs_of_unfused {t s : State} (h : t.unfused = s.unfused) : t.regs = s.regs := congrArg (fun x => x.2.2.1) h

@[simp] theorem activateBody_still (d : Desc) (s : State) (c : Cmd) : (activateBody d s c).still = s.still := by
  unfold activateBody
  dsimp only
  repeat' split
  all_goals simp

/-- An effect taken from the schedule and brought about leaves what the effect itself leaves. -/
theorem takeEff_match_regs (s : State) (p : Eff → Bool) (f : State → State) (hf : ∀ x, (f x).still = x.still) :
    (match s.takeEff p with | some (_, x) => f x | none => s).regs = s.regs := by
  cases h : s.takeEff p with
  | none => rfl
  | some x => exact regs_of_still ((hf x.2).trans (State.takeEff_still s p x h))

theorem asBypass_regs (s : State) (k : Nat) : (s.asBypass k).regs = s.regs := rfl

theorem blockStop_unfused (s : State) : (if s.stopDue then (s.runTo 4).settle.stopNow else s).unfused = s.unfused :=
  unfused_if ((unfused_of_still (State.stopNow_still _)).trans
    ((State.settle_unfused _).trans (unfused_of_still (State.runTo_still s 4)))) rfl

/-- What every command but a register write and the two resets leaves: the registers of `RegS` (R19, R496). A descriptor's command, a
response, a port record and a relay record go through the operations whose `still` lemmas say so; the boundaries may program a fuse besides, and the
test port's instructions write the test port and fuses alone. -/
theorem exec_regs (c : Instr) (s t : State) (h : exec c s = .next t) (hw : ∀ off v, c ≠ .registerWrite off v)
    (hp : ∀ b, c ≠ .powerOnReset b) (hr : ∀ b, c ≠ .warmReset b) : t.regs = s.regs := by
  cases c with
  | registerWrite off v => exact absurd rfl (hw off v)
  | powerOnReset b => exact absurd rfl (hp b)
  | warmReset b => exact absurd rfl (hr b)
  | beatBoundary x => cases h; exact regs_of_unfused (State.boundary_unfused s x)
  | blockStop => cases h; exact regs_of_unfused (blockStop_unfused s)
  | ringResetEffect ring => cases h; exact takeEff_match_regs s _ (·.resetRingNow ring.toNat) (fun x => by simp)
  | streamCloseBoundary n => cases h; exact takeEff_match_regs s _ (·.closeNow n.toNat) (fun x => by simp)
  | imageActivationBoundary slot => cases h; exact takeEff_match_regs s _ (·.activateNow slot.toNat) (fun x => by simp)
  | matchShiftMove bank => cases h; exact takeEff_match_regs s _ (·.shiftNow bank.toNat) (fun x => by simp)
  | tileReloadInstall slot tile => cases h; exact takeEff_match_regs s _ (·.tileNow slot.toNat tile) (fun x => by simp)
  | mgmtTrap before o after => cases h; exact regs_of_still (still_foldl _ State.coreOp_still _ s)
  | rangeJoinTimeout =>
    cases h
    refine regs_of_still ?_
    cases s.forming? with
    | none => rfl
    | some c => exact still_if (by simp) rfl
  | relayTimeout peer =>
    cases h
    refine regs_of_still (still_if ?_ rfl)
    cases splitShows s peer.toNat with
    | none => rfl
    | some k => exact State.splitFrom_still s peer.toNat k
  | commandDeferred ring index =>
    cases h
    refine regs_of_still ?_
    split
    · simp
    · rfl
  | bypass bits => cases h; rfl
  | idcode => cases h; rfl
  | testReset => cases h; rfl
  | mbist pins groups failed => cases h; split <;> rfl
  | mbistResult pins => cases h; split <;> rfl
  | scan pins => cases h; split <;> rfl
  | fuseProg pins value target => cases h; split <;> rfl
  | fuseRead pins target => cases h; split <;> rfl
  | _ =>
    cases h
    exact regs_of_still (by simp)

/-- Settles O15: each command's effect is traced to operations that leave the registers. -/
theorem onlyWritesAndResetsChangeRegisters : Obligations.OnlyWritesAndResetsChangeRegisters := by
  intro c s t h changed
  by_contra! none
  obtain ⟨hw, hp, hr⟩ := none
  exact changed (exec_regs c s t h hw hp hr)
end Sys2Proof.Machine
end

/-! SUPPORT for O31. What the operations that a beat boundary runs leave as it was: the clock, the start state, and another member's stop; operation by operation, in the order of the model. -/
section
set_option maxRecDepth 8000
namespace Sys2Proof.Machine
/-- The clock, the start state, and whether another member's stop is in force. -/
structure Hold where
  clk : ClockS
  start : StartS
  stopIn : Bool
/-- Those parts of a state. -/
def State.hold (s : State) : Hold := ⟨s.clk, s.start, s.range.stopIn⟩
@[simp] theorem hold_mk (a0 a1 a2 a3 a4 a5 a6 a7 a8 a9 a10 a11 a12 a13 a14 a15 a16 a17 a18 a19 a20 a21 a22 a23 a24 a25 a26 a27 a28 a29 a30 a31 a32) :
  State.hold (State.mk a0 a1 a2 a3 a4 a5 a6 a7 a8 a9 a10 a11 a12 a13 a14 a15 a16 a17 a18 a19 a20 a21 a22 a23 a24 a25 a26 a27 a28 a29 a30 a31 a32) = ⟨a5, a4, a24.stopIn⟩ := Eq.trans rfl rfl
@[simp] theorem hold_fold (s : State) : Hold.mk s.clk s.start s.range.stopIn = s.hold := Eq.trans rfl rfl

@[simp] theorem hold_ite (c : Prop) [Decidable c] (a b : State) : (if c then a else b).hold = if c then a.hold else b.hold := by split <;> rfl
@[simp] theorem hold_foldl {α : Type} (f : State → α → State) (h : ∀ s a, (f s a).hold = s.hold) (l : List α) (s : State) : (l.foldl f s).hold = s.hold := by
  induction l generalizing s with
  | nil => rfl
  | cons a l ih => simp [ih, h]
theorem hold_foldlP {α β : Type} (f : State × β → α → State × β) (h : ∀ s a, (f s a).1.hold = s.1.hold) (l : List α) (s : State × β) :
    (l.foldl f s).1.hold = s.1.hold := by
  induction l generalizing s with
  | nil => rfl
  | cons a l ih => simp [ih, h]
theorem hold_if {c : Prop} [Decidable c] {a b t : State} (h1 : a.hold = t.hold) (h2 : b.hold = t.hold) : (if c then a else b).hold = t.hold := by
  split <;> assumption

/-! The operations of Ops. -/

@[simp] theorem State.pick_hold (s : State) (n : ℕ) : (State.pick s n).2.hold = s.hold := by
  unfold State.pick; split <;> simp
@[simp] theorem State.emit_hold (s : State) (o : Out) : (State.emit s o).hold = s.hold := by
  rfl
@[simp] theorem State.count_hold (s : State) (i : ℕ) (n : ℕ) : (State.count s i n).hold = s.hold := by
  rfl
@[simp] theorem State.raise_hold (s : State) (i : ℕ) : (State.raise s i).hold = s.hold := by
  rfl
@[simp] theorem State.fault_hold (s : State) (i : ℕ) : (State.fault s i).hold = s.hold := by
  rfl
@[simp] theorem State.at_hold (s : State) (b : ℕ) (e : Eff) : (State.at s b e).hold = s.hold := by
  rfl
@[simp] theorem State.fresh_hold (s : State) : (State.fresh s).2.hold = s.hold := by
  rfl
@[simp] theorem State.trace_hold (s : State) (engine : ℕ) (event : ℕ) (tag : ℕ) (layerId : ℕ) (opId : ℕ) (policy : ℕ) (stream : ℕ) (detail : W64) : (State.trace s engine event tag layerId opId policy stream detail).hold = s.hold := by
  simp [State.trace]
@[simp] theorem State.ev_hold (s : State) (engine : ℕ) (event : ℕ) (stream : ℕ) (detail : List (ℕ × ℕ)) : (State.ev s engine event stream detail).hold = s.hold := by
  simp [State.ev]
@[simp] theorem pumpPackets_hold (n j : Nat) (s : State) : (pumpPackets n j s).hold = s.hold := by
  induction n generalizing s with
  | zero => rfl
  | succ n ih =>
    unfold pumpPackets
    repeat' split
    all_goals simp [ih]
@[simp] theorem State.write_hold (s : State) (owner : WOwner) (attr : ℕ) (data : List (ℕ × List Byte)) (commit : Option (ℕ × List Byte)) (after : List ℕ) : (State.write s owner attr data commit after).2.hold = s.hold := by
  simp [State.write]
@[simp] theorem State.write'_hold (s : State) (owner : WOwner) (attr : ℕ) (data : List (ℕ × List Byte)) (commit : Option (ℕ × List Byte)) : (State.write' s owner attr data commit).hold = s.hold := by
  simp [State.write']
@[simp] theorem State.read_hold (s : State) (o : ROwner) (addr : ℕ) (rows : ℕ) (attr : ℕ) : (State.read s o addr rows attr).hold = s.hold := by
  unfold State.read; split <;> simp
@[simp] theorem State.setSeg_hold (s : State) (i : ℕ) (f : Seg → Seg) : (State.setSeg s i f).hold = s.hold := by
  rfl
@[simp] theorem State.dropReads_hold (s : State) (p : ROwner → Bool) : (State.dropReads s p).hold = s.hold := by
  rfl
@[simp] theorem freeSeg_hold (s : State) (i : ℕ) : (freeSeg s i).hold = s.hold := by
  simp [freeSeg]
@[simp] theorem takeSeg_hold (s : State) (role : ℕ) : (takeSeg s role).hold = s.hold := by
  unfold takeSeg; split <;> simp
@[simp] theorem State.writeRows_hold (s : State) (what : ℕ) (key : ℕ) (addr : ℕ) (bs : List Byte) : (State.writeRows s what key addr bs).hold = s.hold := by
  simp [State.writeRows]
@[simp] theorem putRows_hold (s : State) (what : ℕ) (key : ℕ) (bs : List Byte) : (putRows s what key bs).hold = s.hold := by
  unfold putRows
  generalize (if hasRoom s (roleOf what) (bs.length / 64) then openOf s (roleOf what) else none) = o
  cases o with
  | none => rfl
  | some i => exact (State.writeRows_hold _ _ _ _ _).trans rfl
@[simp] theorem copyRows_hold (s : State) (what : ℕ) (key : ℕ) (bs : List Byte) : (copyRows s what key bs).hold = s.hold := by
  simp [copyRows]
@[simp] theorem copyOut_hold (s : State) (i : ℕ) : (copyOut s i).hold = s.hold := by
  unfold copyOut
  refine (hold_foldl _ (fun s a => by simp) _ _).trans ((hold_foldl _ (fun s a => by simp) _ _).trans (hold_foldl _ (fun s a => by simp) _ _))
@[simp] theorem compactMore_hold (s : State) (i : ℕ) : (compactMore s i).hold = s.hold := by
  simp [compactMore]
@[simp] theorem compact_hold (s : State) (i : ℕ) : (compact s i).hold = s.hold := by
  simp [compact]
@[simp] theorem openSeg_hold (s : State) (role : ℕ) : (openSeg s role).hold = s.hold := by
  (unfold openSeg; dsimp only; repeat' split) <;> simp
@[simp] theorem State.placeRows_hold (s : State) (what : ℕ) (key : ℕ) (bs : List Byte) : (State.placeRows s what key bs).hold = s.hold := by
  simp [State.placeRows]
@[simp] theorem State.log_hold (s : State) (code : ℕ) (severity : ℕ) (engine : ℕ) (d0 : W64) (d1 : W64) (d2 : W64) : (State.log s code severity engine d0 d1 d2).hold = s.hold := by
  simp [State.log]
@[simp] theorem State.setTenant_hold (s : State) (t : ℕ) (f : Tenant → Tenant) : (State.setTenant s t f).hold = s.hold := by
  rfl
@[simp] theorem State.setRing_hold (s : State) (r : ℕ) (f : Ring → Ring) : (State.setRing s r f).hold = s.hold := by
  rfl
@[simp] theorem State.setStream_hold (s : State) (h : ℕ) (f : Stream → Stream) : (State.setStream s h f).hold = s.hold := by
  unfold State.setStream; split <;> simp
@[simp] theorem State.setRec_hold (s : State) (id : ℕ) (f : Rec → Rec) : (State.setRec s id f).hold = s.hold := by
  rfl
@[simp] theorem State.setCmd_hold (s : State) (id : ℕ) (f : Cmd → Cmd) : (State.setCmd s id f).hold = s.hold := by
  rfl
@[simp] theorem State.setMask_hold (s : State) (id : ℕ) (f : MaskJ → MaskJ) : (State.setMask s id f).hold = s.hold := by
  rfl
@[simp] theorem State.setImg_hold (s : State) (slot : ℕ) (f : Img → Img) : (State.setImg s slot f).hold = s.hold := by
  rfl
@[simp] theorem State.post_hold (s : State) (ring : ℕ) (c : Cpl) : (State.post s ring c).hold = s.hold := by
  rfl
@[simp] theorem State.postVerdict_hold (s : State) (st : Stream) (kind : ℕ) (verdict : ℕ) (flags : ℕ) (relBeat : ℕ) (chunk : ℕ) (pos : ℕ) (after : List ℕ) : (State.postVerdict s st kind verdict flags relBeat chunk pos after).hold = s.hold := by
  rfl
@[simp] theorem countRefusal_hold (s : State) (st : ℕ) : (countRefusal s st).hold = s.hold := by
  simp [countRefusal]
@[simp] theorem State.finish_hold (s : State) (c : Cmd) (d : Done) : (State.finish s c d).hold = s.hold := by
  simp [State.finish]
@[simp] theorem State.finishId_hold (s : State) (id : ℕ) (d : Done) : (State.finishId s id d).hold = s.hold := by
  unfold State.finishId; split <;> simp
@[simp] theorem State.cellLeaves_hold (s : State) (cell : ℕ) (cause : ℕ) : (State.cellLeaves s cell cause).hold = s.hold := by
  simp [State.cellLeaves]
theorem State.toPhase_hold_congr {t s : State} (k : Nat) (h : t.hold = s.hold) : (t.toPhase k).hold = (s.toPhase k).hold := by
  simp only [State.hold, Hold.mk.injEq] at h
  obtain ⟨clk, start, stopIn⟩ := h
  simp only [State.toPhase, State.hold, clk, start, stopIn]

/-! The operations of Tiles. -/

@[simp] theorem State.dynWrite_hold (s : State) (u : TileUse) (p : List Byte) : (State.dynWrite s u p).hold = s.hold := by
  rfl
@[simp] theorem State.dynClose_hold (s : State) : (State.dynClose s).hold = s.hold := by
  rfl
@[simp] theorem State.dynFree_hold (s : State) : (State.dynFree s).hold = s.hold := by
  rfl
@[simp] theorem State.tileTorn_hold (s : State) (u : TileUse) : (State.tileTorn s u).hold = s.hold := by
  rfl
@[simp] theorem State.writeBack_hold (s : State) (h : ℕ) : (State.writeBack s h).hold = s.hold := by
  simp [State.writeBack]
@[simp] theorem State.writeNode_hold (s : State) (h id : ℕ) : (State.writeNode s h id).hold = s.hold := by
  unfold State.writeNode
  extract_lets t
  have ht : t.hold = s.hold := State.setStream_hold _ _ _
  clear_value t
  split
  · split
    · exact (State.dynWrite_hold _ _ _).trans ht
    · exact ht
  · exact ht
@[simp] theorem State.recClose_hold (s : State) : (State.recClose s).hold = s.hold := by
  rfl
@[simp] theorem State.heldBack_hold (a s : State) : (State.heldBack a s).hold = s.hold := by
  simp [State.heldBack]

/-! The operations of Issue. -/

@[simp] theorem State.setChan_hold (s : State) (c : ℕ) (f : Chan → Chan) : (State.setChan s c f).hold = s.hold := by
  rfl
@[simp] theorem State.sendOn_hold (s : State) (c : ℕ) (w : Win) (op : ℕ) (purp : Purp) (words : List W64) (payload : List Byte) (respLen : ℕ) : (State.sendOn s c w op purp words payload respLen).hold = s.hold := by
  (unfold State.sendOn; dsimp only; repeat' split) <;> simp
@[simp] theorem State.noIssue_hold (s : State) (e c op : ℕ) : (State.noIssue s e c op).hold = s.hold := by
  simp [State.noIssue]
@[simp] theorem pumpFirm_hold (n : ℕ) (s : State) : (pumpFirm n s).hold = s.hold := by
  induction n generalizing s with
  | zero => rfl
  | succ n ih =>
    unfold pumpFirm
    split
    · rfl
    · dsimp only
      split
      · exact (ih _).trans rfl
      · split
        · split
          · exact (ih _).trans ((State.sendOn_hold _ _ _ _ _ _ _ _).trans rfl)
          · rfl
        · rfl
@[simp] theorem State.pumpFirms_hold (s : State) : (State.pumpFirms s).hold = s.hold := by
  simp [State.pumpFirms]
@[simp] theorem State.firm_hold (s : State) (op : ℕ) (purp : Purp) (words : List W64) (payload : List Byte) (respLen : ℕ) : (State.firm s op purp words payload respLen).hold = s.hold := by
  exact (State.pumpFirms_hold _).trans rfl
@[simp] theorem State.issueOn_hold (s : State) (c : ℕ) (w : Win) (op : ℕ) (purp : Purp) (words : List W64) (payload : List Byte) (respLen : ℕ) : (State.issueOn s c w op purp words payload respLen).2.hold = s.hold := by
  unfold State.issueOn; split <;> simp
@[simp] theorem State.issue_hold (s : State) (w : Win) (op : ℕ) (purp : Purp) (words : List W64) (payload : List Byte) (respLen : ℕ) : (State.issue s w op purp words payload respLen).2.hold = s.hold := by
  unfold State.issue; split <;> simp
@[simp] theorem State.maskFlag_hold (s : State) (m : MaskJ) (f : ℕ) : (State.maskFlag s m f).hold = s.hold := by
  unfold State.maskFlag; split <;> simp
@[simp] theorem State.maskReplaced_hold (s : State) (id : ℕ) (f : ℕ) : (State.maskReplaced s id f).hold = s.hold := by
  unfold State.maskReplaced; split <;> simp
@[simp] theorem State.modelAbsent_hold (s : State) (rid : ℕ) (mi : ℕ) : (State.modelAbsent s rid mi).hold = s.hold := by
  rfl
@[simp] theorem State.setBank_hold (s : State) (b : ℕ) (f : Bank → Bank) : (State.setBank s b f).hold = s.hold := by
  rfl
@[simp] theorem State.bankAt_hold (s : State) (k : ℕ) (e : Eff) : (State.bankAt s k e).hold = s.hold := by
  simp [State.bankAt]
@[simp] theorem State.dropPlaced_hold (s : State) (i : Img) : (State.dropPlaced s i).hold = s.hold := by
  simp [State.dropPlaced]
@[simp] theorem State.dropImage_hold (s : State) (slot : ℕ) : (State.dropImage s slot).hold = s.hold := by
  unfold State.dropImage; split <;> simp
@[simp] theorem State.dropNewCairn_hold (s : State) (id handle : ℕ) : (State.dropNewCairn s id handle).hold = s.hold := by
  unfold State.dropNewCairn
  extract_lets other
  generalize other = o
  split
  · rename_i k _
    generalize k.current.isNone = b
    cases b <;> cases o <;> rfl
  · rfl
@[simp] theorem State.dropSave_hold (s : State) (c : Cmd) : (State.dropSave s c).hold = s.hold := by
  unfold State.dropSave; repeat' split
  all_goals simp
@[simp] theorem State.unopen_hold (s : State) (h : ℕ) : (State.unopen s h).hold = s.hold := by
  unfold State.unopen
  generalize (h / 2 ^ 14 + 2 ^ 18 - 1) % 2 ^ 18 = q
  repeat' split
  all_goals rfl
@[simp] theorem State.cmdAbsent_hold (s : State) (id : ℕ) (status : ℕ) : (State.cmdAbsent s id status).hold = s.hold := by
  (unfold State.cmdAbsent; repeat' split) <;> simp

/-! The operations of Relay. -/

@[simp] theorem State.relayWrite_hold (s : State) (r : RelayOut) : (State.relayWrite s r).hold = s.hold := by
  simp [State.relayWrite]
@[simp] theorem State.pumpRelay_hold (s : State) : (State.pumpRelay s).hold = s.hold := by
  simp [State.pumpRelay]
@[simp] theorem State.relayAs_hold (s : State) (sender : ℕ) (peer : ℕ) (kind : ℕ) (ws : List W64) : (State.relayAs s sender peer kind ws).hold = s.hold := by
  simp [State.relayAs]
@[simp] theorem State.relay_hold (s : State) (peer : ℕ) (kind : ℕ) (ws : List W64) : (State.relay s peer kind ws).hold = s.hold := by
  simp [State.relay]
@[simp] theorem State.relayAll_hold (s : State) (kind : ℕ) (ws : List W64) : (State.relayAll s kind ws).hold = s.hold := by
  simp [State.relayAll]
@[simp] theorem State.dropPred_hold (s : State) (r : Rec) : (State.dropPred s r).hold = s.hold := by
  unfold State.dropPred; split <;> simp
@[simp] theorem State.relayRec_hold (s : State) (r : Rec) : (State.relayRec s r).hold = s.hold := by
  simp [State.relayRec]
@[simp] theorem State.relayChunk_hold (s : State) (st : Stream) (r : Rec) : (State.relayChunk s st r).hold = s.hold := by
  simp [State.relayChunk]

/-! The operations of Screen. -/

@[simp] theorem State.failStream_hold (s : State) (st : Stream) (gi : GrammarImg) (rel : ℕ) : (State.failStream s st gi rel).hold = s.hold := by
  simp [State.failStream]
@[simp] theorem State.putDeadEnd_hold (s : State) (m : MaskJ) (st : Stream) (gimg dimg : Img) (gi : GrammarImg) (di : DictImg) : (State.putDeadEnd s m st gimg dimg gi di).hold = s.hold := by
  unfold State.putDeadEnd; repeat' split
  all_goals simp
@[simp] theorem State.maskDead_hold (s : State) (m : MaskJ) (st : Stream) (gimg dimg : Img) (gi : GrammarImg) (di : DictImg) : (State.maskDead s m st gimg dimg gi di).hold = s.hold := by
  unfold State.maskDead; dsimp only; split <;> simp
@[simp] theorem State.askCombine_hold (s : State) (m : MaskJ) (st : Stream) (gid dslot : ℕ) (dimg : Img) : (State.askCombine s m st gid dslot dimg).hold = s.hold := by
  unfold State.askCombine
  extract_lets n ops words payload t
  have ht : t.hold = s.hold := rfl
  clear_value n words payload t
  have h : ∀ p : Bool × State, p.2.hold = s.hold → (if p.1 then p.2 else p.2.maskReplaced m.id fTimeout).hold = s.hold :=
    fun p hp => hold_if hp (by simp [hp])
  refine h (match (if dimg.masterLost then none else some m.chan) with
    | some (some c) => t.issueOn c (.first st.brt) 5 (.mask m.id) words payload (maskResp n)
    | some none => (false, t.noIssue 51 0 5)
    | none => (false, t)) ?_
  generalize (if dimg.masterLost = true then none else some m.chan) = o
  match o with
  | some (some c) => simp [ht]
  | some none => simp [ht]
  | none => simp [ht]
@[simp] theorem State.composeMask_hold (s : State) (m : MaskJ) (st : Stream) (gimg : Img) (gi : GrammarImg) (gid dslot : ℕ) (dimg : Img) (di : DictImg) : (State.composeMask s m st gimg gi gid dslot dimg di).hold = s.hold := by
  unfold State.composeMask
  refine hold_if (by simp) (hold_if (by simp) (hold_if (by simp) (hold_if (by simp) ?_)))
  extract_lets x
  exact hold_if (by simp) (by simp)
@[simp] theorem composeOne_hold (s : State) (m : MaskJ) : (composeOne s m).hold = s.hold := by
  unfold composeOne
  split
  · rfl
  · extract_lets v
    refine hold_if rfl ?_
    split
    · split
      · rfl
      · rename_i t _ _ _ _ _ _ _ _ _ _ _ _ _
        have ht : t.hold = s.hold := hold_if rfl rfl
        clear_value t
        exact hold_if (by simp [ht]) (hold_if (by simp [ht]) (hold_if (by simp [ht]) (by simp [ht])))
    · rfl
@[simp] theorem State.uncorrectable_hold (s : State) (n : ℕ) : (State.uncorrectable s n).hold = s.hold := by
  rfl
@[simp] theorem State.searchFinds_hold (s : State) (bad lost : List ℕ) : (State.searchFinds s bad lost).hold = s.hold := by
  simp [State.searchFinds]
@[simp] theorem State.fitRedo_hold (s : State) (r : Rec) (w : Bool) : (State.fitRedo s r w).2.hold = s.hold := by
  unfold State.fitRedo
  dsimp only
  rw [apply_ite Prod.snd]
  exact hold_if rfl rfl
@[simp] theorem State.waitFor_hold (s : State) (rid : ℕ) (ks : List (ℕ × ℕ)) : (State.waitFor s rid ks).hold = s.hold := by
  rfl
@[simp] theorem State.stageOn_hold (s : State) (c : ℕ) (w : Win) (rid mi seg : ℕ) (int : Bool) (xs : List W32) : (State.stageOn s c w rid mi seg int xs).2.hold = s.hold := by
  unfold State.stageOn; split <;> simp
@[simp] theorem stageSegs_hold (s : State) (r : Rec) (mi : Nat) (int : Bool) (k : Nat) (l : List (List W32)) (p u : List Nat) :
    (stageSegs s r mi int k l p u).1.hold = s.hold := by
  induction l generalizing s k p u with
  | nil => rfl
  | cons x l ih =>
    unfold stageSegs
    dsimp only
    split
    · simp
    · simp [ih]
@[simp] theorem issueAll_hold (s : State) (c : Nat) (w : Win) (l : List (Purp × Nat × List W64 × Nat)) : (issueAll s c w l).1.hold = s.hold := by
  induction l generalizing s with
  | nil => rfl
  | cons x l ih => simp [issueAll, ih]
@[simp] theorem startRound_hold (s : State) (r : Rec) (mi : ℕ) (k : ℕ) (int : Bool) (lost : Bool) (xs : List W32) : (startRound s r mi k int lost xs).1.hold = s.hold := by
  unfold startRound
  dsimp only
  split
  · rfl
  split
  · split
    · simp
    · rename_i c _
      have h := State.stageOn_hold s c (s.roundWin r) r.id mi 0 int xs
      revert h
      generalize s.stageOn c (s.roundWin r) r.id mi 0 int xs = p
      obtain ⟨o, t⟩ := p
      intro h
      cases o <;> simp_all
  · split <;> simp
@[simp] theorem headOn_hold (s : State) (r : Rec) (f : Feats) (mi k : Nat) (i : Img) (h : HeadImg) : (headOn s r f mi k i h).1.hold = s.hold := by
  unfold headOn
  dsimp only
  repeat' split
  all_goals simp
@[simp] theorem ensOn_hold (s : State) (r : Rec) (f : Feats) (mi k : Nat) (i : Img) (e : EnsImg) : (ensOn s r f mi k i e).1.hold = s.hold := by
  unfold ensOn
  dsimp only
  repeat' split
  all_goals simp
@[simp] theorem runHead_hold (s : State) (r : Rec) (f : Feats) (mi id : Nat) : (runHead s r f mi id).1.hold = s.hold := by
  unfold runHead
  repeat' split
  all_goals simp
@[simp] theorem runEns_hold (s : State) (r : Rec) (f : Feats) (mi id : Nat) : (runEns s r f mi id).1.hold = s.hold := by
  unfold runEns
  repeat' split
  all_goals simp
@[simp] theorem rerun_hold (s : State) (r : Rec) (m : ModelR) : (rerun s r m).1.hold = s.hold := by
  unfold rerun
  repeat' split
  all_goals simp
@[simp] theorem State.rerunRec_hold (s : State) (id : Nat) : (s.rerunRec id).hold = s.hold := by
  unfold State.rerunRec
  dsimp only
  repeat' split
  · rfl
  · rfl
  · simp
  · exact (hold_foldl _ (fun s m => by simp) _ _).trans (by simp)
@[simp] theorem runModels_hold (s : State) (r : Rec) (d : PolDir) (f : Feats) : (runModels s r d f).1.hold = s.hold := by
  unfold runModels
  refine (hold_foldlP _ (fun s a => by simp) _ _).trans ((hold_foldlP _ (fun s a => by simp) _ _).trans rfl)

/-! The operations of Operands. -/

@[simp] theorem State.begin_hold (s : State) (d : Desc) : (State.begin s d).2.hold = s.hold := by
  simp [State.begin]
@[simp] theorem State.keep_hold (s : State) (c : Cmd) (k : CmdK) : (State.keep s c k).hold = s.hold := by
  rfl

/-! The operations of Rings. -/

@[simp] theorem pumpUnlisted_hold (n k : ℕ) (s : State) : (Sys2Proof.Machine.pumpUnlisted n k s).hold = s.hold := by
  induction n generalizing s with
  | zero => rfl
  | succ n ih =>
    unfold Sys2Proof.Machine.pumpUnlisted
    split
    · simp [ih]
    · rfl
@[simp] theorem State.pumpUnlisted_hold (s : State) (k : ℕ) : (State.pumpUnlisted s k).hold = s.hold := by
  simp [State.pumpUnlisted]
@[simp] theorem State.fetchRing_hold (s : State) (k : ℕ) : (State.fetchRing s k).hold = s.hold := by
  (unfold State.fetchRing; dsimp only; repeat' split) <;> simp
@[simp] theorem State.askReread_hold (s : State) (k : ℕ) : (State.askReread s k).hold = s.hold := by
  (unfold State.askReread; dsimp only; repeat' split) <;> simp
@[simp] theorem State.askCancel_hold (s : State) (h : ℕ) (code : ℕ) (flags : ℕ) (event : Bool) : (State.askCancel s h code flags event).hold = s.hold := by
  simp [State.askCancel]
@[simp] theorem State.dropEffs_hold (s : State) (cmd : ℕ) : (State.dropEffs s cmd).hold = s.hold := by
  rfl
@[simp] theorem State.abort_hold (s : State) (c : Cmd) (status : ℕ) : (State.abort s c status).hold = s.hold := by
  unfold State.abort; split <;> simp
@[simp] theorem State.resetRingNow_hold (s : State) (k : ℕ) : (State.resetRingNow s k).hold = s.hold := by
  simp [State.resetRingNow]
theorem State.takeEff_hold (s : State) (p : Eff → Bool) : ∀ x, (State.takeEff s p) = some x → x.2.hold = s.hold := by
  intro x h
  unfold State.takeEff at h
  split at h
  · cases h
    rfl
  · cases h

/-! The operations of Admission. -/

@[simp] theorem State.draw_hold (s : State) (t : ℕ) : (State.draw s t).2.hold = s.hold := by
  rfl

/-! The operations of Streams. -/

@[simp] theorem State.opened_hold (s : State) (c : Cmd) (h : ℕ) : (State.opened s c h).hold = s.hold := by
  simp [State.opened]
@[simp] theorem State.dropMasks_hold (s : State) (h : ℕ) (g : List ℕ) : (State.dropMasks s h g).hold = s.hold := by
  rfl
@[simp] theorem State.switchback_hold (s : State) (h : ℕ) (k : Option ℕ) : (State.switchback s h k).hold = s.hold := by
  simp [State.switchback]
@[simp] theorem State.closeAt_hold (s : State) (h : ℕ) (cmd : ℕ) : (State.closeAt s h cmd).hold = s.hold := by
  simp [State.closeAt]
@[simp] theorem endCmd_hold (s : State) (c : Cmd) : (endCmd s c).hold = s.hold := by
  unfold endCmd; split <;> simp
@[simp] theorem State.cancelAt_hold (s : State) (st : Stream) (code : ℕ) (flags : ℕ) (event : Bool) : (State.cancelAt s st code flags event).hold = s.hold := by
  simp [State.cancelAt]
@[simp] theorem State.takeCancel_hold (s : State) (h : Nat) : (s.takeCancel h).hold = s.hold := by
  have e : ∀ (p q : Eff → Bool) x, (s.takeEff p).orElse (fun _ => s.takeEff q) = some x → x.2.hold = s.hold := by
    intro p q x hx
    cases h1 : s.takeEff p with
    | none => rw [h1] at hx; exact State.takeEff_hold _ _ _ hx
    | some y => rw [h1] at hx; cases hx; exact State.takeEff_hold _ _ _ h1
  unfold State.takeCancel
  dsimp only
  split
  · rename_i heq
    have := e _ _ _ heq
    refine hold_if (by simpa using this) ?_
    split <;> simpa using this
  · rfl

/-! The operations of Intake. -/

@[simp] theorem setJob_hold (s : State) (h : ℕ) (cmd : ℕ) (f : Ingest → Ingest) : (setJob s h cmd f).hold = s.hold := by
  simp [setJob]
@[simp] theorem refuseRest_hold (s : State) (h : Nat) : (refuseRest s h).hold = s.hold := by
  unfold refuseRest
  split
  · split
    · exact hold_foldl _ (fun s j => by split <;> simp) _ _
    · rfl
  · rfl
@[simp] theorem State.takeTok_hold (s : State) (h : ℕ) (t : TokOut) : (State.takeTok s h t).hold = s.hold := by
  unfold State.takeTok; split <;> simp
@[simp] theorem State.writeToks_hold (s : State) (h a b : ℕ) : (State.writeToks s h a b).hold = s.hold := by
  (unfold State.writeToks; dsimp only; repeat' split) <;> simp
@[simp] theorem State.writeRowsOf_hold (s : State) (h a b : ℕ) : (State.writeRowsOf s h a b).hold = s.hold := by
  simp [State.writeRowsOf]
@[simp] theorem segDone_hold (s : State) (st : Stream) (j : Ingest) (ps : List PreTok) (l : Bool) (c : List Byte) :
    (segDone s st j ps l c).hold = s.hold := by
  simp [segDone]
@[simp] theorem State.stopJob_hold (s : State) (h : ℕ) (j : Ingest) (k : ℕ) : (State.stopJob s h j k).hold = s.hold := by
  unfold State.stopJob; dsimp only; rw [refuseRest_hold]; split <;> simp
@[simp] theorem needTile_hold (s : State) (st : Stream) : (needTile s st).2.hold = s.hold := by
  (unfold needTile; dsimp only; repeat' split) <;> simp
@[simp] theorem State.runJobs_hold (n h : Nat) (s : State) : (s.runJobs n h).hold = s.hold := by
  induction n generalizing s with
  | zero => rfl
  | succ n ih =>
    have tile (c : Prop) [Decidable c] {st : Stream} {t : State} (h : (if c then (none, s) else needTile s st).2 = t) : t.hold = s.hold := by
      rw [← h]; split <;> simp
    unfold State.runJobs
    split
    · rfl
    · split
      · rfl
      · refine hold_if rfl ?_
        split
        · rename_i u k t q
          have e : t.hold = s.hold := tile _ (congrArg Prod.snd q)
          exact hold_if (by simp [e]) (hold_if rfl (by simp [e]))
        · rename_i t q
          have e : t.hold = s.hold := tile _ (congrArg Prod.snd q)
          rw [ih]; simp [e]
@[simp] theorem State.runStream_hold (s : State) (h : ℕ) : (State.runStream s h).hold = s.hold := by
  simp [State.runStream]
@[simp] theorem State.ingestDone_hold (s : State) (h : ℕ) : (State.ingestDone s h).hold = s.hold := by
  (unfold State.ingestDone; dsimp only; repeat' split) <;> simp
@[simp] theorem State.chunkDone_hold (s : State) (h : ℕ) : (State.chunkDone s h).hold = s.hold := by
  (unfold State.chunkDone; dsimp only; repeat' split) <;> simp

/-! The operations of Port. -/

@[simp] theorem State.slotFault_hold (s : State) (st : Stream) : (State.slotFault s st).hold = s.hold := by
  simp [State.slotFault]
@[simp] theorem State.closePart_hold (s : State) (h : ℕ) (slot : ℕ) (p : StepPart) : (State.closePart s h slot p).hold = s.hold := by
  simp [State.closePart]
@[simp] theorem State.stepTimeout_hold (s : State) (slot : ℕ) : (State.stepTimeout s slot).hold = s.hold := by
  (unfold State.stepTimeout; repeat' split) <;> simp

/-! The operations of Stamp. -/

@[simp] theorem State.endBut_hold (s : State) (h code : ℕ) (keep : Option ℕ) : (State.endBut s h code keep).hold = s.hold := by
  unfold State.endBut
  split
  · rfl
  · refine hold_if rfl ?_
    extract_lets t u
    have hu : u.hold = s.hold := hold_if (State.switchback_hold _ _ _) ((hold_foldl _ (fun s k => by simp) _ _).trans rfl)
    clear_value u
    exact (State.setStream_hold _ _ _).trans hu
@[simp] theorem State.endAt_hold (s : State) (h : ℕ) (code : ℕ) : (State.endAt s h code).hold = s.hold := State.endBut_hold _ _ _ _
@[simp] theorem State.stampMask_hold (s : State) (st : Stream) (slot : ℕ) (step : ℕ) (node : ℕ) (kind : ℕ) (cause : ℕ) (rid : Option ℕ) (g : Option Gram) : (State.stampMask s st slot step node kind cause rid g).hold = s.hold := by
  simp [State.stampMask]
@[simp] theorem State.bindNow_hold (s : State) (h : ℕ) (slot : Option ℕ) (cmd : ℕ) : (State.bindNow s h slot cmd).hold = s.hold := by
  (unfold State.bindNow; repeat' split) <;> simp
@[simp] theorem State.stampRec_hold (s : State) (st : Stream) (r : Rec) (f : Rec → Rec) : (State.stampRec s st r f).hold = s.hold := by
  simp [State.stampRec]
@[simp] theorem State.drawRec_hold (s : State) (st : Stream) : (State.drawRec s st).2.hold = s.hold := by
  unfold State.drawRec; split <;> simp
@[simp] theorem State.stampChunk_hold (s : State) (st : Stream) (r : Rec) : (State.stampChunk s st r).hold = s.hold := by
  simp [State.stampChunk]
@[simp] theorem gramFlags_hold (s : State) (died : Bool) (escaped : Bool) : (gramFlags s died escaped).hold = s.hold := by
  rfl
@[simp] theorem State.tokenPart_hold (s : State) (st : Stream) (r : Rec) : (State.tokenPart s st r).hold = s.hold := by
  simp [State.tokenPart]
@[simp] theorem State.committedPart_hold (s : State) (st : Stream) (r : Rec) : (State.committedPart s st r).hold = s.hold := by
  (unfold State.committedPart; dsimp only; repeat' split) <;> simp
@[simp] theorem State.draftPart_hold (s : State) (st : Stream) (r : Rec) : (State.draftPart s st r).hold = s.hold := by
  simp [State.draftPart]
@[simp] theorem State.draftStamp_hold (s : State) (st : Stream) (r : Rec) : (State.draftStamp s st r).hold = s.hold := by
  simp [State.draftStamp]
@[simp] theorem State.uncharge_hold (s : State) (r : Rec) : (State.uncharge s r).hold = s.hold := by
  unfold State.uncharge
  dsimp only
  cases s.streams.find? fun x => x.2.handle == r.h <;> simp
@[simp] theorem State.raiseDelays_hold (s : State) : (State.raiseDelays s).hold = s.hold := by
  simp [State.raiseDelays]
@[simp] theorem State.deadPath_hold (s : State) (st : Stream) (ids : List ℕ) : (State.deadPath s st ids).hold = s.hold := by
  unfold State.deadPath; split <;> simp
@[simp] theorem State.markerAt_hold (s : State) (st : Stream) (r : Rec) : (State.markerAt s st r).hold = s.hold := by
  unfold State.markerAt
  extract_lets drop
  refine hold_if (State.switchback_hold _ _ _) ?_
  dsimp only
  refine hold_if ?_ ?_
  · simp only [State.endBut_hold, State.deadPath_hold, State.setStream_hold]
    refine (hold_foldl _ (fun s id => by split <;> simp) _ _).trans ?_
    exact (State.dropMasks_hold _ _ _).trans ((State.count_hold _ _ _).trans ((State.count_hold _ 44 1).trans (State.stampRec_hold _ _ _ _)))
  · simp only [State.deadPath_hold, State.setStream_hold]
    refine (hold_foldl _ (fun s id => by split <;> simp) _ _).trans ?_
    exact (State.dropMasks_hold _ _ _).trans ((State.count_hold _ _ _).trans ((State.count_hold _ 44 1).trans (State.stampRec_hold _ _ _ _)))
@[simp] theorem State.endedPart_hold (s : State) (st : Stream) (r : Rec) : (State.endedPart s st r).hold = s.hold := by
  (unfold State.endedPart; repeat' split) <;> simp
@[simp] theorem State.stampOne_hold (a : State × List Nat) (id : Nat) : (State.stampOne a id).1.hold = a.1.hold := by
  unfold State.stampOne
  dsimp only
  repeat' split
  all_goals simp_all
@[simp] theorem State.stampAll_hold (s : State) : s.stampAll.hold = s.hold := by
  refine (hold_foldlP _ (fun s a => by simp) _ _).trans rfl
@[simp] theorem State.shedRec_hold (s : State) (r : Rec) (code : ℕ) : (State.shedRec s r code).hold = s.hold := by
  simp [State.shedRec]
@[simp] theorem State.holdStack_hold (s : State) (r : Rec) : (State.holdStack s r).hold = s.hold := by
  simp [State.holdStack]
theorem planItems_hold (l : List Nat) : ∀ (s : State) (used : List Nat) (x : State × List Nat), planItems s used l = some x → x.1.hold = s.hold := by
  induction l with
  | nil => intro s used x h; cases h; rfl
  | cons a l ih =>
    intro s used x h
    unfold planItems at h
    split at h
    · split at h
      · cases h
      · rw [Option.map_eq_some_iff] at h
        obtain ⟨y, hy, rfl⟩ := h
        exact (ih _ _ _ hy).trans rfl
    · cases h
theorem planSegs_hold (l : List (List Nat)) : ∀ (a x : State × List Nat),
    l.foldl (fun (acc : Option (State × List Nat)) w => acc.bind fun a => (planItems a.1 [] w).map fun y => (y.1, a.2 ++ y.2)) (some a) = some x →
    x.1.hold = a.1.hold := by
  have hn : ∀ l : List (List Nat), l.foldl (fun (acc : Option (State × List Nat)) w =>
      acc.bind fun a => (planItems a.1 [] w).map fun y => (y.1, a.2 ++ y.2)) none = none := by
    intro l; induction l with
    | nil => rfl
    | cons w l ih => exact ih
  induction l with
  | nil => intro a x h; cases h; rfl
  | cons w l ih =>
    intro a x h
    rw [List.foldl_cons, Option.bind_some] at h
    cases hp : planItems a.1 [] w with
    | none => rw [hp, Option.map_none, hn] at h; cases h
    | some y => rw [hp, Option.map_some] at h; exact (ih _ _ h).trans (show y.1.hold = a.1.hold from planItems_hold _ _ _ _ hp)
theorem planStack_hold (s : State) (r : Rec) (d : Demand) (x : State × Option Nat × List Nat) (h : planStack s r d = some x) : x.1.hold = s.hold := by
  unfold planStack at h
  split at h
  · cases h; rfl
  · extract_lets p wide narrow one at h
    have h1 : ∀ y, one = some y → y.1.hold = s.hold := by
      intro y hy
      simp only [one] at hy
      split at hy
      · cases hy; rfl
      · split at hy
        · split at hy
          · cases hy; rfl
          · cases hy
        · cases hy
    clear_value one
    cases one with
    | none => cases h
    | some y =>
      rw [Option.bind_some, Option.map_eq_some_iff] at h
      obtain ⟨z, hz, rfl⟩ := h
      exact (planSegs_hold _ _ _ hz).trans (h1 _ rfl)
@[simp] theorem planOne_hold (a : State × AMap (List ℕ)) (id : Nat) : (planOne a id).1.hold = a.1.hold := by
  unfold planOne
  dsimp only
  split
  · rfl
  · split
    · rfl
    · split
      · rename_i h
        have e := planStack_hold _ _ _ _ h
        dsimp only at e ⊢
        split <;> simp [e]
      · simp
@[simp] theorem planMask_hold (s : State) (m : MaskJ) : (planMask s m).hold = s.hold := by
  unfold planMask
  dsimp only
  split
  · split <;> rfl
  · rfl
@[simp] theorem planLate_hold (s : State) (r : Rec) (m : ModelR) : (planLate s r m).hold = s.hold := by
  unfold planLate
  exact hold_if (hold_if rfl rfl) (hold_if (hold_if rfl rfl) rfl)
@[simp] theorem State.planBeat_hold (s : State) : s.planBeat.hold = s.hold := by
  unfold State.planBeat
  refine (hold_foldlP _ (fun s a => by simp) _ _).trans ((hold_foldl _ (fun s m => by simp) _ _).trans ?_)
  exact (hold_foldl _ (fun s r => hold_foldl _ (fun s m => by simp) _ _) _ _).trans rfl
@[simp] theorem State.maskOut_hold (s : State) (m : MaskJ) : (State.maskOut s m).hold = s.hold := by
  simp [State.maskOut]
@[simp] theorem writeMasks_hold (n w : Nat) (s : State) : (writeMasks n w s).1.hold = s.hold := by
  induction n generalizing s w with
  | zero => rfl
  | succ n ih =>
    unfold writeMasks
    split
    · rfl
    · dsimp only
      repeat' split
      all_goals simp [ih]
@[simp] theorem State.maskBeat_hold (s : State) : (State.maskBeat s).hold = s.hold := by
  simp [State.maskBeat]

/-! The operations of Seal. -/

@[simp] theorem State.adoptPath_hold (s : State) (st : Stream) (r : Rec) : (State.adoptPath s st r).hold = s.hold := by
  simp [State.adoptPath]
@[simp] theorem State.putCtx_hold (s : State) (r : Rec) (c : Ctx) : (State.putCtx s r c).hold = s.hold := by
  simp [State.putCtx]
@[simp] theorem State.screenTok_hold (s : State) (st : Stream) (r : Rec) : (State.screenTok s st r).hold = s.hold := by
  (unfold State.screenTok; dsimp only; repeat' split) <;> simp
@[simp] theorem State.screenSpan_hold (s : State) (r : Rec) : (State.screenSpan s r).hold = s.hold := by
  (unfold State.screenSpan; dsimp only; repeat' split) <;> simp
@[simp] theorem State.waitRec_hold (s : State) (id : ℕ) (ks : List (ℕ × ℕ)) : (State.waitRec s id ks).hold = s.hold := by
  rfl
@[simp] theorem State.computeRec_hold (s : State) (id : ℕ) : (State.computeRec s id).hold = s.hold := by
  have fit (c : Prop) [Decidable c] {r : Rec} {q : Bool × State} (h : (if c then s.fitRedo r true else (true, s)) = q) : q.2.hold = s.hold := by
    rw [← h]; split <;> simp
  unfold State.computeRec
  split
  · rfl
  · split
    · rfl
    · split
      rename_i f t q
      have e := fit _ q
      dsimp only at e ⊢
      refine hold_if e ?_
      split
      all_goals first | exact hold_if (by simpa using e) (by simpa using e) | simpa using e
theorem State.computeBeat_hold (s : State) : s.computeBeat.hold = (s.toPhase 1).hold := by
  unfold State.computeBeat
  extract_lets a b c d
  have ha : a.hold = s.hold := hold_foldl _ (fun s m => by simp) _ _
  have hc : c.hold = b.hold := hold_foldl _ (fun s m => by simp) _ _
  have hd : d.hold = c.hold := hold_foldl _ (fun s m => by simp) _ _
  exact (Eq.trans rfl (hd.trans hc)).trans (State.toPhase_hold_congr 1 ha)
@[simp] theorem State.depRound_hold (s : State) (r : Rec) (m : ModelR) : (State.depRound s r m).hold = s.hold := by
  simp [State.depRound]
@[simp] theorem State.depRounds_hold (s : State) : (State.depRounds s).hold = s.hold := by
  simp [State.depRounds]
@[simp] theorem State.putAccs_hold (s : State) (r : Rec) (c : Ctx) : (State.putAccs s r c).hold = s.hold := by
  simp [State.putAccs]
@[simp] theorem State.foldNew_hold (s : State) (r : Rec) : (State.foldNew s r).hold = s.hold := by
  unfold State.foldNew
  split
  · refine hold_if ?_ rfl
    dsimp only
    simp
  · rfl
@[simp] theorem traceScores_hold (s : State) (r : Rec) (vs : List (ℕ × List W32)) : (traceScores s r vs).hold = s.hold := by
  simp [traceScores]
@[simp] theorem State.sealRec_hold (s : State) (m : List (W32 × Nat)) (id : Nat) : (s.sealRec m id).hold = s.hold := by
  unfold State.sealRec
  split
  · rfl
  · split
    · rfl
    · simp
@[simp] theorem State.giveUp_hold (s : State) (id : ℕ) (v : ℕ) : (State.giveUp s id v).hold = s.hold := by
  (unfold State.giveUp; repeat' split) <;> simp
@[simp] theorem State.sealMissing_hold (s : State) (id : ℕ) : (State.sealMissing s id).hold = s.hold := by
  simp [State.sealMissing]
@[simp] theorem State.expire_hold (s : State) (id : ℕ) : (State.expire s id).hold = s.hold := by
  simp [State.expire]
theorem State.sealBeat_hold (s : State) (m : List (W32 × Nat)) : (s.sealBeat m).hold = (s.toPhase 2).hold := by
  unfold State.sealBeat
  dsimp only
  refine (hold_foldl _ (fun s a => by simp) _ _).trans ?_
  refine (hold_foldl _ (fun s a => by simp) _ _).trans ?_
  refine (hold_foldl _ (fun s a => by simp) _ _).trans ?_
  exact (State.depRounds_hold _).trans rfl

/-! The operations of Release. -/

@[simp] theorem State.dropRec_hold (s : State) (id : ℕ) : (State.dropRec s id).hold = s.hold := by
  rfl
@[simp] theorem State.releaseChunk_hold (s : State) (st : Stream) (r : Rec) : (State.releaseChunk s st r).hold = s.hold := by
  simp [State.releaseChunk]
@[simp] theorem State.releaseSpan_hold (s : State) (st : Stream) (r : Rec) : (State.releaseSpan s st r).hold = s.hold := by
  simp [State.releaseSpan]
@[simp] theorem State.finishInput_hold (s : State) (st : Stream) : (State.finishInput s st).hold = s.hold := by
  simp [State.finishInput]
@[simp] theorem State.gatePut_hold (s : State) (st : Stream) (step : ℕ) (due : ℕ) (es : List EgEntry) : (State.gatePut s st step due es).hold = s.hold := by
  simp [State.gatePut]
@[simp] theorem State.gateStream_hold (s : State) (h : ℕ) : (State.gateStream s h).hold = s.hold := by
  have put (st : Stream) (due : ℕ → ℕ) (es : ℕ → List EgEntry) (l : List ℕ) (t : State) :
      (l.foldl (fun s k => s.gatePut st k (due k) (es k)) t).hold = t.hold := hold_foldl _ (fun s k => by simp) l t
  unfold State.gateStream
  split
  · rfl
  · rfl
  · refine hold_if ?_ ?_
    · exact (hold_foldl _ (fun s k => by simp) _ _).trans (hold_foldl _ (fun s r => by simp) _ _)
    · refine (put _ _ _ _ _).trans ?_
      simp
@[simp] theorem State.releaseEnds_hold (s : State) : s.releaseEnds.hold = s.hold := by
  unfold State.releaseEnds
  refine hold_foldl _ (fun s a => ?_) _ _
  dsimp only
  split <;> simp
@[simp] theorem State.releaseTail_hold (s : State) (h : ℕ) : (State.releaseTail s h).hold = s.hold := by
  unfold State.releaseTail; split <;> simp
@[simp] theorem State.releaseClose_hold (s : State) (h : ℕ) : (State.releaseClose s h).hold = s.hold := by
  unfold State.releaseClose; split <;> simp
@[simp] theorem State.finishClose_hold (s : State) (h : ℕ) : (State.finishClose s h).hold = s.hold := by
  (unfold State.finishClose; repeat' split) <;> simp
@[simp] theorem State.formBatches_hold (s : State) (k : ℕ) : (State.formBatches s k).hold = s.hold := by
  (unfold State.formBatches; dsimp only; repeat' split) <;> simp
theorem State.writeBatch_hold (s : State) (k : Nat) (e : RingEntry) (b : Batch) : ∀ x, s.writeBatch k e b = some x → x.hold = s.hold := by
  intro x h
  unfold State.writeBatch at h
  dsimp only at h
  simp only [Option.ite_none_left_eq_some, Option.some.injEq] at h
  obtain ⟨_, rfl⟩ := h
  refine (hold_foldl _ (fun s a => by simp) _ _).trans ?_
  split <;> simp
@[simp] theorem State.writeBatches_hold (n k : Nat) (s : State) : (s.writeBatches n k).hold = s.hold := by
  induction n generalizing s with
  | zero => rfl
  | succ n ih =>
    unfold State.writeBatches
    dsimp only
    split
    · split
      · rename_i h; simp [ih, State.writeBatch_hold _ _ _ _ _ h]
      · rfl
    · rfl
@[simp] theorem State.writeCpls_hold (n k : Nat) (s : State) : (s.writeCpls n k).hold = s.hold := by
  induction n generalizing s with
  | zero => rfl
  | succ n ih =>
    unfold State.writeCpls
    dsimp only
    split
    · split
      · rfl
      · simp [ih]
    · rfl
@[simp] theorem State.forwardRec_hold (s : State) (r : Rec) : (State.forwardRec s r).hold = s.hold := by
  simp [State.forwardRec]
@[simp] theorem State.forwardAll_hold (s : State) : (State.forwardAll s).hold = s.hold := by
  simp [State.forwardAll]
@[simp] theorem State.releaseInputs_hold (s : State) : s.releaseInputs.hold = s.hold := by
  unfold State.releaseInputs
  refine hold_foldl _ (fun s a => ?_) _ _
  repeat' split
  all_goals simp
@[simp] theorem State.sendWaiting_hold (s : State) (h : ℕ) : (State.sendWaiting s h).hold = s.hold := by
  unfold State.sendWaiting
  repeat' split
  all_goals simp
@[simp] theorem State.releaseRecs_hold (s : State) : s.releaseRecs.hold = s.hold := by
  have h2 : ∀ (l : List Nat) (t : State), (if t.isTail then l.foldl State.gateStream t else t.forwardAll).hold = t.hold :=
    fun l t => hold_if (hold_foldl _ (fun s h => by simp) l t) (by simp)
  have h3 : ∀ t : State, (if t.isTail then t.releaseEnds else t).hold = t.hold := fun t => hold_if (State.releaseEnds_hold t) rfl
  have h4 : ∀ (l : List Nat) (t : State), (l.foldl State.releaseClose
      (if (l.foldl State.releaseTail t).isTail then l.foldl State.sendWaiting (l.foldl State.releaseTail t) else l.foldl State.releaseTail t)).hold = t.hold :=
    fun l t => (hold_foldl _ (fun s h => by simp) l _).trans
      ((hold_if (hold_foldl _ (fun s h => by simp) l _) rfl).trans (hold_foldl _ (fun s h => by simp) l t))
  unfold State.releaseRecs
  generalize hq : s.releaseInputs = q
  rw [← State.releaseInputs_hold s, hq]
  dsimp only
  rw [h4, h3]
  exact (h2 _ _).trans (hold_foldl _ (fun s h => by split <;> simp) _ _)
@[simp] theorem State.releaseRings_hold (s : State) : (State.releaseRings s).hold = s.hold := by
  simp [State.releaseRings]
@[simp] theorem State.egressStall_hold (s : State) (k : ℕ) : (State.egressStall s k).hold = s.hold := by
  simp [State.egressStall]

/-! The operations of Cairns. -/

@[simp] theorem State.newCairn_hold (s : State) (h t : Nat) (ps : List Nat) : (s.newCairn h t ps).2.hold = s.hold := by
  unfold State.newCairn
  dsimp only
  split <;> simp
@[simp] theorem State.cairnFor_hold (s : State) (handle : ℕ) (tenant : ℕ) : (State.cairnFor s handle tenant).2.hold = s.hold := by
  (unfold State.cairnFor; repeat' split) <;> simp
@[simp] theorem State.saveAt_hold (s : State) (c : Cmd) (st : Stream) (h rp : Nat) : (s.saveAt c st h rp).hold = s.hold := by
  have e := State.cairnFor_hold s h st.tenant
  unfold State.saveAt
  split
  · rename_i q; rw [q] at e; simpa using e
  · rename_i k t q
    rw [q] at e
    rw [← show t.hold = s.hold from e]
    clear q e
    refine hold_if (by simp) ?_
    generalize (match k.current with | some (l, g) => (1 - l, (g + 1) % 2 ^ 32) | none => (0, 1)) = z
    obtain ⟨l, g⟩ := z
    simp
@[simp] theorem State.sendSave_hold (s : State) (c : Cmd) : (State.sendSave s c).hold = s.hold := by
  unfold State.sendSave
  split
  · split
    · exact hold_if rfl (hold_if (by simp) (by simp))
    · rfl
  · rfl
@[simp] theorem State.pumpSaves_hold (s : State) : (State.pumpSaves s).hold = s.hold := by
  simp [State.pumpSaves]
@[simp] theorem State.saveQuiet_hold (s : State) (h : ℕ) : (State.saveQuiet s h).hold = s.hold := by
  unfold State.saveQuiet
  split
  · exact hold_if (by simp) rfl
  · rfl
@[simp] theorem State.saveTimeout_hold (s : State) (h : ℕ) : (State.saveTimeout s h).hold = s.hold := by
  unfold State.saveTimeout; split <;> simp
@[simp] theorem State.cairnWritten_hold (s : State) (cmd : ℕ) : (State.cairnWritten s cmd).hold = s.hold := by
  (unfold State.cairnWritten; repeat' split) <;> simp
@[simp] theorem State.cairnCleared_hold (s : State) (cmd : ℕ) : (State.cairnCleared s cmd).hold = s.hold := by
  (unfold State.cairnCleared; repeat' split) <;> simp
@[simp] theorem State.pumpRetires_hold (s : State) : s.pumpRetires.hold = s.hold := by
  unfold State.pumpRetires
  refine hold_foldl _ (fun s a => ?_) _ _
  repeat' split
  all_goals simp
@[simp] theorem State.dropCairn_hold (s : State) (h : ℕ) : (State.dropCairn s h).hold = s.hold := by
  rfl
theorem newCairn_elim_hold (s : State) (h : ℕ) (ps : List ℕ) (o : Option (ℕ × ℕ)) : (o.elim s fun x => (s.newCairn h x.2 ps).2).hold = s.hold := by
  cases o with
  | none => rfl
  | some x => exact State.newCairn_hold s h x.2 ps
@[simp] theorem State.giveHeir_hold (s : State) (h : ℕ) : (State.giveHeir s h).hold = s.hold := newCairn_elim_hold s h _ _
@[simp] theorem State.retireCleared_hold (s : State) (cmd : ℕ) : (State.retireCleared s cmd).hold = s.hold := by
  (unfold State.retireCleared; repeat' split) <;> simp
@[simp] theorem cairnFailLog_hold (s : State) (handle : ℕ) (e : ℕ × ℕ) : (cairnFailLog s handle e).hold = s.hold := by
  simp [cairnFailLog]
@[simp] theorem State.openStep_hold (s : State) (cmd : ℕ) (load : Option (ℕ × List Byte)) : (State.openStep s cmd load).hold = s.hold := by
  (unfold State.openStep; dsimp only; repeat' split) <;> simp
@[simp] theorem State.cairnLoaded_hold (s : State) (cmd : ℕ) (loc : ℕ) (bs : List Byte) : (State.cairnLoaded s cmd loc bs).hold = s.hold := by
  (unfold State.cairnLoaded; dsimp only; repeat' split) <;> simp

/-! The operations of Images. -/

@[simp] theorem pumpLoad_hold (n cmd : Nat) (s : State) : (pumpLoad n cmd s).hold = s.hold := by
  induction n generalizing s with
  | zero => rfl
  | succ n ih =>
    unfold pumpLoad
    split
    · rfl
    · split
      · split
        · rfl
        · exact hold_if rfl (by simp [ih])
      · rfl
@[simp] theorem State.loadStep_hold (s : State) (cmd : ℕ) (tiles : ℕ) (parts : ℕ) : (State.loadStep s cmd tiles parts).hold = s.hold := by
  (unfold State.loadStep; repeat' split) <;> simp
@[simp] theorem State.pumpLoads_hold (s : State) : (State.pumpLoads s).hold = s.hold := by
  unfold State.pumpLoads
  exact hold_if rfl (hold_foldl _ (fun s c => by simp) _ _)
@[simp] theorem State.actWrite_hold (s : State) (slot : ℕ) (h : ImgHdr) (state : ℕ) (beat : ℕ) : (State.actWrite s slot h state beat).hold = s.hold := by
  simp [State.actWrite]
@[simp] theorem State.settleDeltas_hold (s : State) : (State.settleDeltas s).hold = s.hold := by
  rfl
@[simp] theorem State.yieldMove_hold (s : State) (h : ImgHdr) : (State.yieldMove s h).hold = s.hold := by
  unfold State.yieldMove; split <;> simp
@[simp] theorem State.activateNow_hold (s : State) (slot : ℕ) : (State.activateNow s slot).hold = s.hold := by
  unfold State.activateNow; split <;> simp
@[simp] theorem State.pumpRetireImages_hold (s : State) : s.pumpRetireImages.hold = s.hold := by
  unfold State.pumpRetireImages
  refine hold_foldl _ (fun s a => ?_) _ _
  repeat' split
  all_goals simp

/-! The operations of Match. -/

@[simp] theorem masterWrites_hold (s : State) (m : AMap Img) (cmd : Nat) (ts : List (Nat × Nat)) : (masterWrites s m cmd ts).hold = s.hold := by
  simp [masterWrites]
@[simp] theorem State.validateGo_hold (s : State) (c : Cmd) (k : ℕ) (us : List ℕ) : (State.validateGo s c k us).hold = s.hold := by
  unfold State.validateGo
  extract_lets _ _
  refine hold_if (by simp) ?_
  extract_lets _
  split
  · simp
  · refine (masterWrites_hold _ _ _ _).trans ?_
    rfl
@[simp] theorem State.masterStep_hold (s : State) (cmd : ℕ) : (State.masterStep s cmd).hold = s.hold := by
  unfold State.masterStep
  split
  · split
    · exact hold_if (by simp) (hold_if (by simp) (by simp))
    · rfl
  · rfl
@[simp] theorem State.shiftNow_hold (s : State) (k : ℕ) : (State.shiftNow s k).hold = s.hold := by
  (unfold State.shiftNow; dsimp only; repeat' split) <;> simp

/-! The operations of Background. -/

@[simp] theorem State.floorDone_hold (s : State) (k : ℕ) : (State.floorDone s k).hold = s.hold := by
  rfl
@[simp] theorem State.floorMiss_hold (s : State) (k : ℕ) : (State.floorMiss s k).hold = s.hold := by
  simp [State.floorMiss]
@[simp] theorem State.askRepair_hold (s : State) (slot : ℕ) (key : ℕ) : (State.askRepair s slot key).hold = s.hold := by
  simp [State.askRepair]
@[simp] theorem pumpMove_hold (n : Nat) (s : State) : (pumpMove n s).hold = s.hold := by
  induction n generalizing s with
  | zero => rfl
  | succ n ih =>
    unfold pumpMove
    repeat' split
    all_goals simp [ih]
@[simp] theorem State.startMove_hold (s : State) (src : ℕ) (dst : ℕ) (cmd : Option ℕ) : (State.startMove s src dst cmd).hold = s.hold := by
  simp [State.startMove]
@[simp] theorem State.dropMove_hold (s : State) : (State.dropMove s).hold = s.hold := by
  rfl
@[simp] theorem State.moveStep_hold (s : State) (src : ℕ) (dst : ℕ) (slot : ℕ) (key : ℕ) (payload : List Byte) : (State.moveStep s src dst slot key payload).hold = s.hold := by
  (unfold State.moveStep; dsimp only; repeat' split) <;> simp
@[simp] theorem State.wearNow_hold (s : State) (src : ℕ) (dst : ℕ) : (State.wearNow s src dst).hold = s.hold := by
  unfold State.wearNow; split <;> simp
@[simp] theorem State.wearRotate_hold (s : State) : (State.wearRotate s).hold = s.hold := by
  (unfold State.wearRotate; dsimp only; repeat' split) <;> simp
@[simp] theorem State.testDone_hold (s : State) (c : Cmd) (target : ℕ) (unit : ℕ) (failed : Bool) : (State.testDone s c target unit failed).hold = s.hold := by
  simp [State.testDone]
@[simp] theorem State.pumpTest_hold (s : State) (c : Cmd) : (State.pumpTest s c).hold = s.hold := by
  (unfold State.pumpTest; repeat' split) <;> simp
@[simp] theorem State.pumpTests_hold (s : State) : (State.pumpTests s).hold = s.hold := by
  simp [State.pumpTests]
@[simp] theorem State.cellReturns_hold (s : State) (cell : Nat) : (s.cellReturns cell).hold = s.hold := by
  unfold State.cellReturns
  refine (hold_foldl _ (fun s a => ?_) _ _).trans (by simp)
  repeat' split
  all_goals simp
@[simp] theorem State.keepPower_hold (s : State) : (State.keepPower s).hold = s.hold := by
  rfl
@[simp] theorem State.calibDone_hold (s : State) (k : ℕ) : (State.calibDone s k).hold = s.hold := by
  simp [State.calibDone]
@[simp] theorem State.floorWork_hold (s : State) (k : ℕ) : (State.floorWork s k).hold = s.hold := by
  simp [State.floorWork]
@[simp] theorem State.recheckBounds_hold (s : State) : (State.recheckBounds s).hold = s.hold := by
  simp [State.recheckBounds]
@[simp] theorem State.refuseLate_hold (s : State) (o b : ℕ) : (State.refuseLate s o b).2.hold = s.hold := by
  unfold State.refuseLate; dsimp only; split <;> simp
@[simp] theorem State.refuseOpen_hold (s : State) (st : Stream) (x : ℕ) : (State.refuseOpen s st x).hold = s.hold := by
  unfold State.refuseOpen
  exact hold_if (by simp) (hold_if ((State.unopen_hold _ _).trans (State.refuseLate_hold _ _ _)) (State.refuseLate_hold _ _ _))
@[simp] theorem State.recheckOne_hold (a : State × List Sched) (e : Sched) : (State.recheckOne a e).1.hold = a.1.hold := by
  obtain ⟨s, kept⟩ := a
  unfold State.recheckOne
  dsimp only
  split
  · rfl
  · split <;> simp
  · rw [apply_ite Prod.fst]
    exact hold_if (State.refuseLate_hold s _ _) (State.refuseLate_hold s _ _)
@[simp] theorem State.recheckAll_hold (s : State) : (State.recheckAll s).hold = s.hold := by
  unfold State.recheckAll
  have h := hold_foldlP State.recheckOne (fun s e => by simp) s.sched (s, [])
  generalize s.sched.foldl State.recheckOne (s, []) = p at h
  obtain ⟨t, kept⟩ := p
  refine (hold_foldl _ (fun s c => hold_if rfl (by simp)) _ _).trans ((hold_foldl _ (fun s st => ?_) _ _).trans h)
  split <;> simp
@[simp] theorem State.stackSlow_hold (s : State) (chan : ℕ) (tag : ℕ) (rt : ℕ) : (State.stackSlow s chan tag rt).hold = s.hold := by
  simp [State.stackSlow]
@[simp] theorem pumpSeries_hold (n cmd chan left : Nat) (s : State) : (pumpSeries n cmd chan left s).hold = s.hold := by
  induction n generalizing s with
  | zero => rfl
  | succ n ih =>
    unfold pumpSeries
    dsimp only
    refine hold_if rfl ?_
    simp [ih]
@[simp] theorem State.pumpCalib_hold (s : State) (c : Cmd) : (State.pumpCalib s c).hold = s.hold := by
  (unfold State.pumpCalib; repeat' split) <;> simp
@[simp] theorem State.pumpCalibs_hold (s : State) : (State.pumpCalibs s).hold = s.hold := by
  simp [State.pumpCalibs]
@[simp] theorem State.chanLeaves_hold (s : State) (chan cmd : ℕ) : (State.chanLeaves s chan cmd).hold = s.hold := by
  (unfold State.chanLeaves; repeat' split) <;> simp
@[simp] theorem State.chanEnds_hold (s : State) (chan : ℕ) : (State.chanEnds s chan).hold = s.hold := by
  simp [State.chanEnds]
@[simp] theorem State.calibStep_hold (s : State) (cmd tag : ℕ) (rt : ℕ) : (State.calibStep s cmd tag rt).hold = s.hold := by
  (unfold State.calibStep; repeat' split) <;> simp
@[simp] theorem State.calibAbsent_hold (s : State) (cmd : ℕ) (status : ℕ) : (State.calibAbsent s cmd status).hold = s.hold := by
  (unfold State.calibAbsent; repeat' split) <;> simp
@[simp] theorem State.pumpSweep_hold (s : State) : (State.pumpSweep s).hold = s.hold := by
  (unfold State.pumpSweep; repeat' split) <;> simp
@[simp] theorem State.sweepStep_hold (s : State) : (State.sweepStep s).hold = s.hold := by
  (unfold State.sweepStep; repeat' split) <;> simp
@[simp] theorem State.pingNow_hold (s : State) : (State.pingNow s).hold = s.hold := by
  simp [State.pingNow]

/-! The operations of Stack. -/

@[simp] theorem State.fetchMaster_hold (s : State) (slot tile : ℕ) : (State.fetchMaster s slot tile).hold = s.hold := by
  unfold State.fetchMaster
  split
  · rfl
  · exact (hold_foldl _ (fun s x => by simp) _ _).trans rfl
@[simp] theorem State.pumpMasters_hold (s : State) : (State.pumpMasters s).hold = s.hold := by
  unfold State.pumpMasters
  refine hold_if rfl ?_
  split
  · simp
  · split <;> simp
@[simp] theorem State.rewriteStep_hold (s : State) (slot : ℕ) (tile : ℕ) : (State.rewriteStep s slot tile).hold = s.hold := by
  unfold State.rewriteStep; split <;> simp
@[simp] theorem State.repairRead_hold (s : State) (slot : ℕ) (tile : ℕ) : (State.repairRead s slot tile).hold = s.hold := by
  unfold State.repairRead; split <;> simp
@[simp] theorem State.reloadMaster_hold (s : State) (slot : ℕ) : (State.reloadMaster s slot).hold = s.hold := by
  simp [State.reloadMaster]
@[simp] theorem State.streamLost_hold (s : State) (h : Nat) : (s.streamLost h).hold = s.hold := by
  unfold State.streamLost
  split
  · rfl
  · dsimp only
    refine hold_if (by simp) (hold_if (by simp) (by simp))
@[simp] theorem State.failWaiters_hold (s : State) (slot : ℕ) (key : ℕ) : (State.failWaiters s slot key).hold = s.hold := by
  rfl
@[simp] theorem State.encodeAbsent_hold (s : State) (h why : ℕ) : (State.encodeAbsent s h why).hold = s.hold := by
  (unfold State.encodeAbsent; repeat' split) <;> simp
@[simp] theorem State.absent_hold (s : State) (o : SOp) (why : ℕ) : (State.absent s o why).hold = s.hold := by
  unfold State.absent
  extract_lets t model
  have hm : ∀ a b, (model a b).hold = s.hold := by
    intro a b
    simp only [model]
    split
    · refine hold_if ?_ ?_ <;> (split <;> [split; skip]) <;> simp [t]
    · rfl
  have ht : t.hold = s.hold := rfl
  clear_value model t
  split
  all_goals try simp [hm, ht]
  all_goals repeat' split
  all_goals simp [ht]
@[simp] theorem State.partIn_hold (s : State) (rid : ℕ) (mi : ℕ) (key : ℕ) (xs : List W32) (nan : Bool) : (State.partIn s rid mi key xs nan).hold = s.hold := by
  rfl
@[simp] theorem State.stageIn_hold (s : State) (rid : ℕ) (mi : ℕ) : (State.stageIn s rid mi).hold = s.hold := by
  rfl
@[simp] theorem State.maskIn_hold (s : State) (mid : ℕ) (bs : List Byte) : (State.maskIn s mid bs).hold = s.hold := by
  (unfold State.maskIn; repeat' split) <;> simp
@[simp] theorem State.encodeIn_hold (s : State) (unit : ℕ) (slot : ℕ) (tile : ℕ) (h : ℕ) (bs : List Byte) : (State.encodeIn s unit slot tile h bs).hold = s.hold := by
  simp [State.encodeIn]
@[simp] theorem State.tileIn_hold (s : State) (o : SOp) (slot : ℕ) (key : ℕ) (bs : List Byte) : (State.tileIn s o slot key bs).hold = s.hold := by
  unfold State.tileIn; split <;> simp
@[simp] theorem State.repairIn_hold (s : State) (o : SOp) (slot : ℕ) (key : ℕ) (bs : List Byte) : (State.repairIn s o slot key bs).hold = s.hold := by
  unfold State.repairIn; split <;> simp
@[simp] theorem State.entryIn_hold (s : State) (o : SOp) (b u : ℕ) (bs : List Byte) : (State.entryIn s o b u bs).hold = s.hold := by
  unfold State.entryIn; split <;> simp
@[simp] theorem State.pinIn_hold (s : State) (o : SOp) (a b c d : ℕ) (bs : List Byte) : (State.pinIn s o a b c d bs).hold = s.hold := by
  simp [State.pinIn]
@[simp] theorem State.allowIn_hold (s : State) (o : SOp) (h : ℕ) (bs : List Byte) : (State.allowIn s o h bs).hold = s.hold := by
  unfold State.allowIn; split <;> simp
@[simp] theorem State.streamIn_hold (s : State) (o : SOp) (tile : ℕ) (bs : List Byte) : (State.streamIn s o tile bs).hold = s.hold := by
  unfold State.streamIn
  refine hold_foldl _ (fun s h => ?_) _ _
  repeat' split
  all_goals simp
@[simp] theorem State.checkCairns_hold (s : State) : (State.checkCairns s).hold = s.hold := by
  unfold State.checkCairns
  refine hold_foldl _ (fun s x => ?_) _ _
  split <;> simp
@[simp] theorem State.deliver_hold (s : State) (o : SOp) (r : Rsp) (rt : ℕ) : (State.deliver s o r rt).hold = s.hold := by
  (unfold State.deliver; dsimp only; repeat' split) <;> simp
@[simp] theorem State.result_hold (s : State) (o : SOp) (why : ℕ) (r : Rsp) (rt : ℕ) : (State.result s o why r rt).hold = s.hold := by
  simp [State.result]
@[simp] theorem State.duePoint_hold (s : State) (c : ℕ) (tag : ℕ) : (State.duePoint s c tag).hold = s.hold := by
  unfold State.duePoint; split <;> simp
@[simp] theorem State.duePast_hold (s : State) : (State.duePast s).hold = s.hold := by
  simp [State.duePast]

/-! The operations of Debug. -/

@[simp] theorem State.traceNow_hold (s : State) (on : Bool) (base : ℕ) (size : ℕ) (mask : ℕ) : (State.traceNow s on base size mask).hold = s.hold := by
  rfl
@[simp] theorem State.writeTrace_hold (s : State) : (State.writeTrace s).hold = s.hold := by
  unfold State.writeTrace; split <;> simp
@[simp] theorem flushTrace_hold (n : Nat) (s : State) : (flushTrace n s).hold = s.hold := by
  induction n generalizing s with
  | zero => rfl
  | succ n ih =>
    unfold flushTrace
    refine hold_if rfl ?_
    simp [ih]
@[simp] theorem State.dropTrace_hold (s : State) : (State.dropTrace s).hold = s.hold := by
  unfold State.dropTrace; split <;> simp
@[simp] theorem State.flushTraces_hold (s : State) : (State.flushTraces s).hold = s.hold := by
  simp [State.flushTraces]
@[simp] theorem State.counterNow_hold (s : State) (on : Bool) (k : ℕ) (base : ℕ) (size : ℕ) : (State.counterNow s on k base size).hold = s.hold := by
  rfl
@[simp] theorem State.sample_hold (s : State) : (State.sample s).hold = s.hold := by
  simp [State.sample]
@[simp] theorem State.pumpFlushes_hold (s : State) : s.pumpFlushes.hold = s.hold := by
  unfold State.pumpFlushes
  refine hold_if rfl (hold_foldl _ (fun s a => ?_) _ _)
  repeat' split
  all_goals simp
@[simp] theorem State.timeSync_hold (s : State) : (State.timeSync s).hold = s.hold := by
  simp [State.timeSync]

/-! The operations of Range. -/

@[simp] theorem State.formFailed_hold (s : State) (status : ℕ) : (State.formFailed s status).hold = s.hold := by
  (unfold State.formFailed; dsimp only; repeat' split) <;> simp
@[simp] theorem State.pumpProbes_hold (s : State) : (State.pumpProbes s).hold = s.hold := by
  simp [State.pumpProbes]
@[simp] theorem State.setAnchor_hold (s : State) (t : ℕ) (x2 : ℤ × ℕ × ℕ) : (State.setAnchor s t x2).hold = s.hold := by
  rfl
@[simp] theorem State.grantTo_hold (s : State) (m : ℕ) (t : ℕ) (g : Grant) : (State.grantTo s m t g).hold = s.hold := by
  simp [State.grantTo]
@[simp] theorem State.grantTenant_hold (s : State) (t : ℕ) : (State.grantTenant s t).hold = s.hold := by
  unfold State.grantTenant; dsimp only; split
  · rfl
  · split <;> simp
@[simp] theorem State.leaseGrant_hold (s : State) : (State.leaseGrant s).hold = s.hold := by
  simp [State.leaseGrant]
@[simp] theorem State.takeReport_hold (s : State) (m : ℕ) (t : ℕ) (period : ℕ) (charged : ℕ) (rem : ℤ) (count : ℕ) : (State.takeReport s m t period charged rem count).hold = s.hold := by
  simp [State.takeReport]
@[simp] theorem State.report_hold (s : State) (t : ℕ) : (State.report s t).hold = s.hold := by
  simp [State.report]
@[simp] theorem State.adoptLease_hold (s : State) (g : Grant) : (State.adoptLease s g).hold = s.hold := by
  simp [State.adoptLease]
@[simp] theorem State.adoptDue_hold (s : State) (now : ℕ) : (State.adoptDue s now).hold = s.hold := by
  simp [State.adoptDue]
@[simp] theorem State.splitFrom_hold (s : State) (peer : ℕ) (kind : ℕ) : (State.splitFrom s peer kind).hold = s.hold := by
  simp [State.splitFrom]
@[simp] theorem State.ackSend_hold (s : State) (lane : ℕ) : (State.ackSend s lane).hold = s.hold := by
  simp [State.ackSend]
@[simp] theorem State.prunePreds_hold (s : State) : (State.prunePreds s).hold = s.hold := by
  simp [State.prunePreds]

/-! The operations of Governor. -/

@[simp] theorem State.overTemp_hold (s : State) (n : ℕ) (v : ℤ) : (State.overTemp s n v).hold = s.hold := by
  simp [State.overTemp]
@[simp] theorem State.overTemps_hold (s : State) (x : BeatIn) : (State.overTemps s x).hold = s.hold :=
  hold_foldl _ (fun s a => by simp) _ _
@[simp] theorem State.sampleInputs_hold (s : State) (x1 : BeatIn) : (State.sampleInputs s x1).hold = s.hold :=
  Eq.trans rfl (State.overTemps_hold s x1)
@[simp] theorem State.refillNow_hold (s : State) : (State.refillNow s).hold = s.hold := by
  simp [State.refillNow]
@[simp] theorem State.snapWrite_hold (s : State) : (State.snapWrite s).hold = s.hold := by
  simp [State.snapWrite]
@[simp] theorem State.snapNow_hold (s : State) : (State.snapNow s).hold = s.hold := by
  simp [State.snapNow]

/-! The operations of Integrity. -/

@[simp] theorem State.sweepWords_hold (s : State) : (State.sweepWords s).hold = s.hold := by
  unfold State.sweepWords
  exact hold_if rfl (by dsimp only; exact Eq.trans rfl (State.pick_hold ..))
@[simp] theorem State.corrected_hold (s : State) (n : List ℕ) : (State.corrected s n).hold = s.hold := by
  rfl
@[simp] theorem State.tornCount_hold (s : State) : (State.tornCount s).hold = s.hold := by
  rfl
@[simp] theorem State.reloadLog_hold (s : State) (key : ℕ) (imageId : ℕ) (cls : ℕ) : (State.reloadLog s key imageId cls).hold = s.hold := by
  simp [State.reloadLog]
@[simp] theorem State.tileBad_hold (s : State) (slot : ℕ) (key : ℕ) (cls : ℕ) : (State.tileBad s slot key cls).hold = s.hold := by
  unfold State.tileBad; split <;> simp
@[simp] theorem State.tileStale_hold (s : State) (slot key : ℕ) : (State.tileStale s slot key).hold = s.hold := by
  unfold State.tileStale; dsimp only; split <;> simp
@[simp] theorem State.tileUse_hold (s : State) (slot key : ℕ) (u : UseRead) : (State.tileUse s slot key u).hold = s.hold := by
  unfold State.tileUse; split
  · rfl
  · split <;> simp
@[simp] theorem State.askTile_hold (s : State) (slot : ℕ) (key : ℕ) : (State.askTile s slot key).hold = s.hold := by
  unfold State.askTile; split <;> simp
@[simp] theorem State.askPin_hold (s : State) (slot : ℕ) (mask : ℕ) : (State.askPin s slot mask).hold = s.hold := by
  unfold State.askPin
  split
  · refine hold_foldl _ (fun s t => ?_) _ _
    exact hold_if rfl (hold_if (by simp) (by simp))
  · rfl
@[simp] theorem State.askAllow_hold (s : State) (st : Stream) : (State.askAllow s st).hold = s.hold := by
  unfold State.askAllow; split <;> simp
@[simp] theorem State.askEntry_hold (s : State) (bank : ℕ) (e : BEntry) : (State.askEntry s bank e).hold = s.hold := by
  (unfold State.askEntry; repeat' split) <;> simp
@[simp] theorem State.askStream_hold (s : State) (h : ℕ) : (State.askStream s h).hold = s.hold := by
  simp [State.askStream]
@[simp] theorem State.pumpReloads_hold (s : State) : (State.pumpReloads s).hold = s.hold := by
  simp [State.pumpReloads]
theorem State.rehome_hold (s : State) (slot key : Nat) : ∀ x, s.rehome slot key = some x → x.hold = s.hold := by
  intro x h
  unfold State.rehome at h
  split at h
  · cases h
  · split at h
    · cases h; rfl
    · dsimp only at h
      rw [Option.ite_none_left_eq_some] at h
      obtain ⟨_, h⟩ := h
      rw [Option.some.injEq] at h
      subst h
      simp
@[simp] theorem State.tileNow_hold (s : State) (slot key : Nat) : (s.tileNow slot key).hold = s.hold := by
  unfold State.tileNow
  split
  · rfl
  · rename_i q
    have := State.rehome_hold _ _ _ _ q
    simpa using this
@[simp] theorem State.streamNow_hold (s : State) (h : ℕ) : (State.streamNow s h).hold = s.hold :=
  (State.setStream_hold ..).trans rfl
@[simp] theorem State.pinNow_hold (s : State) (slot : ℕ) (mask : ℕ) : (State.pinNow s slot mask).hold = s.hold := by
  rfl
@[simp] theorem State.allowNow_hold (s : State) (h : ℕ) : (State.allowNow s h).hold = s.hold := by
  unfold State.allowNow; dsimp only; split <;> simp
@[simp] theorem State.entryNow_hold (s : State) (bank : ℕ) (unit : ℕ) : (State.entryNow s bank unit).hold = s.hold := by
  rfl
@[simp] theorem State.streamBad_hold (s : State) (h : Nat) : (s.streamBad h).hold = s.hold := by
  unfold State.streamBad
  split
  · rfl
  · dsimp only
    refine hold_if (by simp) (by simp)
@[simp] theorem State.tornRead_hold (s : State) (h : ℕ) : (State.tornRead s h).hold = s.hold := by
  unfold State.tornRead; split <;> simp
@[simp] theorem State.stagingTorn_hold (s : State) (h : ℕ) (p : Rec → Bool) : (State.stagingTorn s h p).hold = s.hold := by
  simp [State.stagingTorn]
@[simp] theorem State.nodeBad_hold (s : State) (h : ℕ) (node : ℕ) : (State.nodeBad s h node).hold = s.hold := by
  unfold State.nodeBad; split <;> simp
@[simp] theorem State.nodeTorn_hold (s : State) (h node : ℕ) (p : Rec → Bool) : (State.nodeTorn s h node p).hold = s.hold := by
  unfold State.nodeTorn
  split
  · rfl
  · split
    · rfl
    · simp
@[simp] theorem State.nodeUse_hold (s : State) (h node : ℕ) (u : UseRead) (now : Rec → Bool) : (State.nodeUse s h node u now).hold = s.hold := by
  unfold State.nodeUse; split
  · rfl
  · split <;> simp
@[simp] theorem State.streamUse_hold (s : State) (h : ℕ) (u : UseRead) : (State.streamUse s h u).hold = s.hold := by
  unfold State.streamUse; split
  · rfl
  · refine hold_if rfl ?_
    split <;> simp
@[simp] theorem State.stagingBad_hold (s : State) (h : ℕ) : (State.stagingBad s h).hold = s.hold := by
  (unfold State.stagingBad; repeat' split) <;> simp
@[simp] theorem State.saveTorn_hold (s : State) (c : Cmd) : (State.saveTorn s c).hold = s.hold := by
  simp [State.saveTorn]
@[simp] theorem State.stagingUse_hold (s : State) (h : ℕ) (u : UseRead) (now : Rec → Bool) : (State.stagingUse s h u now).hold = s.hold := by
  unfold State.stagingUse; repeat' split
  all_goals simp
@[simp] theorem State.checkStaging_hold (s : State) : (State.checkStaging s).hold = s.hold := by
  unfold State.checkStaging
  refine hold_foldl _ (fun s r => ?_) _ _
  split <;> simp
@[simp] theorem State.allowRead_hold (s : State) (h : ℕ) (u : UseRead) : (State.allowRead s h u).hold = s.hold := by
  unfold State.allowRead; split
  · rfl
  · dsimp only
    refine hold_if rfl ?_
    split
    · rfl
    · refine hold_if (by simp) (by simp)
    · simp
@[simp] theorem State.lateCheck_hold (s : State) (id : ℕ) : (State.lateCheck s id).hold = s.hold := by
  unfold State.lateCheck; split <;> simp
@[simp] theorem State.chunkUncorr_hold (s : State) (slot : ℕ) : (State.chunkUncorr s slot).hold = s.hold := by
  unfold State.chunkUncorr
  exact (hold_foldl _ (fun s a => by simp) _ _).trans rfl
@[simp] theorem State.evBefore_hold (s : State) (e : IntegEvt) : (State.evBefore s e).hold = s.hold := by
  unfold State.evBefore
  cases e with
  | pinnedBad slot mask => dsimp only; split <;> simp
  | tileUncorr slot tile => exact Eq.trans rfl (by simp)
  | genStore hs => exact (hold_foldl _ (fun s a => by simp) _ _).trans (by simp)
  | _ => simp
@[simp] theorem State.sweepEntry_hold (bank : ℕ) (s : State) (u : ℕ) : (State.sweepEntry bank s u).hold = s.hold := by
  (unfold State.sweepEntry; dsimp only; repeat' split) <;> simp
@[simp] theorem State.sweepBank_hold (s : State) (bank : ℕ) : (State.sweepBank s bank).hold = s.hold := by
  unfold State.sweepBank
  dsimp only
  refine (State.setBank_hold ..).trans ((hold_foldl _ (fun s u => by simp) _ _).trans rfl)
@[simp] theorem State.sweepStore_hold (s : State) : (State.sweepStore s).hold = s.hold := by
  unfold State.sweepStore
  have h (ks : List ℕ) (t : State) : (ks.foldl State.sweepBank t).hold = t.hold := hold_foldl _ (fun s u => by simp) _ _
  dsimp only
  exact hold_if (by simp [h]) (by simp [h])
@[simp] theorem State.evAfter_hold (a : State) (s : State) (e : IntegEvt) : (State.evAfter a s e).hold = s.hold := by
  unfold State.evAfter; split <;> simp
@[simp] theorem State.useCells_hold (a : State) (s : State) : (State.useCells a s).hold = s.hold := by
  rfl
@[simp] theorem State.countWork_hold (s : State) : (State.countWork s).hold = s.hold := by
  simp [State.countWork]
@[simp] theorem State.writeBacks_hold (a s : State) : (State.writeBacks a s).hold = s.hold := by
  unfold State.writeBacks
  exact (hold_foldl _ (fun s r => by simp) _ _).trans (hold_foldl _ (fun s r => by simp) _ _)
theorem State.computeNow_hold (s : State) (evts : List IntegEvt) : (s.computeNow evts).hold = (s.toPhase 1).hold := by
  unfold State.computeNow
  extract_lets a ms b b1 b2 b3
  have ha : a.hold = s.hold := by simp [a]
  have h0 : b.hold = (s.toPhase 1).hold :=
    (hold_foldl _ (fun s r => by simp) _ _).trans ((State.computeBeat_hold a).trans (State.toPhase_hold_congr 1 ha))
  have h1 : b1.hold = b.hold := hold_foldl _ (fun s r => by simp) _ _
  have h2 : b2.hold = b1.hold := State.writeBacks_hold ..
  have h3 : b3.hold = b2.hold := hold_foldl _ (fun s r => by simp) _ _
  simp [h3, h2, h1, h0]
@[simp] theorem State.pumpMirror_hold (s : State) : (State.pumpMirror s).hold = s.hold := by
  unfold State.pumpMirror; split <;> simp

/-! The operations of Tenants. -/

@[simp] theorem State.tenantNow_hold (s : State) (t : ℕ) (on : Bool) (ban : Option ℕ) (pd : Option ℕ) (td : Option ℕ) (cmd : ℕ) : (State.tenantNow s t on ban pd td cmd).hold = s.hold := by
  simp [State.tenantNow]
@[simp] theorem State.policyNow_hold (s : State) (pid : ℕ) (imageId : ℕ) (on : Bool) : (State.policyNow s pid imageId on).hold = s.hold := by
  have e : (match (if on then s.activeOf 10 imageId else none) with
    | some (_, i) => (streamsOnPolicy s pid).foldl (fun (s : State) (st : Stream) => s.setStream st.handle fun x =>
        { x with dMin := max x.dMin (liveD s i), brt := max x.brt s.stack.brt }) s
    | none => s).hold = s.hold := by
    split
    · exact hold_foldl _ (fun s st => by simp) _ _
    · rfl
  exact Eq.trans rfl e

/-! The operations of Beat. -/

@[simp] theorem State.openNow_hold (s : State) (h : ℕ) : (State.openNow s h).hold = s.hold := by
  unfold State.openNow; split <;> simp
@[simp] theorem endInput_hold (n h : Nat) (s : State) : (endInput n h s).hold = s.hold := by
  induction n generalizing s with
  | zero => rfl
  | succ n ih =>
    unfold endInput
    split
    · exact hold_if (by simp [ih]) (hold_if (by simp [ih]) rfl)
    · rfl
@[simp] theorem State.closeNow_hold (s : State) (h : ℕ) : (State.closeNow s h).hold = s.hold := by
  simp [State.closeNow]
@[simp] theorem State.chanNow_hold (s : State) (c : ℕ) : (State.chanNow s c).hold = s.hold := by
  rfl
@[simp] theorem State.endTimers_hold (s : State) : s.endTimers.hold = s.hold := by
  unfold State.endTimers
  dsimp only
  refine (hold_foldl _ (fun s a => hold_if (by simp) rfl) _ _).trans ?_
  have h1 : ∀ t : State, (if sampleDue t then t.sample else t).hold = t.hold := fun t => hold_if (by simp) rfl
  have h2 : ∀ t : State, (if syncDue t then t.timeSync else t).hold = t.hold := fun t => hold_if (by simp) rfl
  rw [h1, h2]
@[simp] theorem State.endWaits_hold (s : State) : (State.endWaits s).hold = s.hold := by
  (unfold State.endWaits; dsimp only; repeat' split) <;> simp
@[simp] theorem State.endRange_hold (s : State) : s.endRange.hold = s.hold := by
  unfold State.endRange
  refine hold_if rfl ?_
  dsimp only
  refine (hold_foldl _ (fun s a => hold_if rfl (by split <;> simp)) _ _).trans ?_
  refine (hold_foldl _ (fun s a => by simp) _ _).trans ?_
  refine (hold_foldl _ (fun s a => by simp) _ _).trans ?_
  exact hold_if (by simp) rfl
@[simp] theorem State.pumpWork_hold (s : State) : s.pumpWork.hold = s.hold := by
  unfold State.pumpWork
  simp
@[simp] theorem State.turn_hold (s : State) (st : Stream) : (State.turn s st).hold = s.hold := by
  (unfold State.turn; repeat' split) <;> simp
@[simp] theorem State.freeClosed_hold (s : State) : (State.freeClosed s).hold = s.hold := by
  rfl
theorem State.releaseBeat_hold (s : State) : s.releaseBeat.hold = (s.toPhase 3).hold := by
  unfold State.releaseBeat
  simp
/-! The boundary: effects, phases, the beat's count. -/

@[simp] theorem State.raiseRollback_hold (s : State) (h : ImgHdr) : (s.raiseRollback h).hold = s.hold :=
  hold_if ((State.log_hold ..).trans rfl) rfl
@[simp] theorem State.programNow_hold (s : State) (slot : Nat) : (s.programNow slot).hold = s.hold := by
  unfold State.programNow
  split
  · exact hold_if (Eq.trans rfl (State.refuseLate_hold ..)) (State.raiseRollback_hold ..)
  · rfl
@[simp] theorem State.settle_hold (s : State) : s.settle.hold = s.hold := by
  unfold State.settle
  refine hold_foldl _ (fun s e => ?_) _ _
  split
  · exact (State.programNow_hold ..).trans rfl
  · rfl

/-- The clock and the start state alone: joining and leaving a range drop another member's stop. -/
def State.timing (s : State) : ClockS × StartS := (s.clk, s.start)
theorem timing_of_hold {t s : State} (h : t.hold = s.hold) : t.timing = s.timing := congrArg (fun x : Hold => (x.clk, x.start)) h
theorem clk_of_hold {t s : State} (h : t.hold = s.hold) : t.clk = s.clk := congrArg Hold.clk h
theorem start_of_hold {t s : State} (h : t.hold = s.hold) : t.start = s.start := congrArg Hold.start h
theorem State.joinRange_timing (s : State) (formation dRange : Nat) : (s.joinRange formation dRange).timing = s.timing := by
  unfold State.joinRange
  dsimp only
  split
  · exact (timing_of_hold (State.finish_hold ..)).trans rfl
  · rfl
theorem State.leaveNow_timing (s : State) : s.leaveNow.timing = s.timing := by
  have h : (if s.range.joined && s.range.role = 0 then
      s.range.anchor.foldl (fun s (x : Nat × (Int × Nat × Nat)) => s.setTenant x.1 fun t => { t with k := x.2.1, x := x.2.2.1, u := x.2.2.2 }) s
    else s).hold = s.hold := hold_if (hold_foldl _ (fun s (x : Nat × Int × Nat × Nat) => State.setTenant_hold s x.1 _) _ _) rfl
  have kept := timing_of_hold h
  exact kept
/-- Effects of the two last ranks apart from bindings are those that join or leave a range (`Eff.rank`). -/
theorem State.applyEff_hold (s : State) (e : Eff) (h : e.rank ≠ 21) : (s.applyEff e).hold = s.hold := by
  unfold State.applyEff
  cases e with
  | leaveRange => exact absurd rfl h
  | joinRange f d => exact absurd rfl h
  | _ => simp
theorem State.applyEff_timing (s : State) (e : Eff) : (s.applyEff e).timing = s.timing := by
  by_cases h : e.rank = 21
  · cases e with
    | leaveRange => exact State.leaveNow_timing s
    | joinRange f d => exact State.joinRange_timing s f d
    | _ => cases h
  · exact timing_of_hold (State.applyEff_hold s e h)
theorem State.oneDue_timing (s : State) (e : Eff) : (s.oneDue e).timing = s.timing := by
  unfold State.oneDue
  split
  · exact timing_of_hold (State.takeCancel_hold ..)
  · split
    · rename_i q
      exact (State.applyEff_timing ..).trans (timing_of_hold (State.takeEff_hold _ _ _ q))
    · rfl
theorem applyDue_timing (n : Nat) (s : State) : (applyDue n s).timing = s.timing := by
  induction n generalizing s with
  | zero => rfl
  | succ n ih =>
    unfold applyDue
    split
    · exact (ih _).trans (State.oneDue_timing ..)
    · rfl

/-- What the ending beat brings about before the effects that are due. -/
def State.endWork (s : State) : State :=
  (s.openStreams.foldl (fun s st => endInput 2048 st.handle s) s).endTimers.endWaits.endRange.pumpCalibs
/-- What it brings about after them. -/
def State.afterDue (s : State) : State :=
  let s := if refillDue s then s.refillNow else s
  let s := if snapDue s then s.snapNow else s
  let s := if wearDue s then s.wearRotate else s
  let s := if pingDue s then s.pingNow else s
  let s := s.pumpWork
  (s.openStreams.foldl State.turn s).dynClose.dynFree
theorem State.endBeat_eq (s : State) : s.endBeat = (applyDue (2 * s.endWork.sched.length + 64) s.endWork).afterDue := rfl
theorem State.endWork_hold (s : State) : s.endWork.hold = s.hold := by
  have h : (s.openStreams.foldl (fun s st => endInput 2048 st.handle s) s).hold = s.hold := hold_foldl _ (fun s a => by simp) _ _
  simp [State.endWork, h]
theorem State.afterDue_hold (s : State) : s.afterDue.hold = s.hold := by
  unfold State.afterDue
  extract_lets a b c d e
  have ha : a.hold = s.hold := hold_if (by simp) rfl
  have hb : b.hold = a.hold := hold_if (by simp) rfl
  have hc : c.hold = b.hold := hold_if (by simp) rfl
  have hd : d.hold = c.hold := hold_if (by simp) rfl
  have he : e.hold = d.hold := State.pumpWork_hold d
  refine (State.dynFree_hold _).trans ((State.dynClose_hold _).trans ((hold_foldl _ (fun s st => by simp) _ _).trans ?_))
  exact he.trans (hd.trans (hc.trans (hb.trans ha)))
theorem State.endBeat_timing (s : State) : s.endBeat.timing = s.timing := by
  rw [State.endBeat_eq]
  exact (timing_of_hold (State.afterDue_hold _)).trans ((applyDue_timing ..).trans (timing_of_hold (State.endWork_hold s)))

@[simp] theorem State.bindDue_hold (s : State) : s.bindDue.hold = s.hold := by
  have h : ∀ (l : List Sched) (s : State), (∀ e ∈ l, e.eff.rank = 22) →
      (l.foldl (fun s e => ({ s with sched := s.sched.erase e } : State).applyEff e.eff) s).hold = s.hold := by
    intro l
    induction l with
    | nil => exact fun _ _ => rfl
    | cons e l ih =>
      intro s he
      have rank := he e List.mem_cons_self
      exact (ih _ fun x hx => he x (List.mem_cons_of_mem _ hx)).trans ((State.applyEff_hold _ _ (by omega)).trans rfl)
  refine h _ s fun e he => ?_
  have due := (List.mem_filter.mp he).2
  rw [Bool.and_eq_true, beq_iff_eq] at due
  exact due.2
@[simp] theorem State.openBeat_hold (s : State) (x : BeatIn) : (s.openBeat x).hold = s.hold := by
  unfold State.openBeat
  simp

/-! The phases that no row has run. -/

theorem State.phase_of_toPhase_hold {t s : State} {k : Nat} (h : t.hold = (s.toPhase k).hold) : t.clk.phase = k :=
  congrArg ClockS.phase (clk_of_hold h)
/-- A phase that begins after another. -/
theorem State.toPhase_after {t s : State} {j : Nat} (k : Nat) (h : t.hold = (s.toPhase j).hold) : (t.toPhase k).hold = (s.toPhase k).hold :=
  (State.toPhase_hold_congr k h).trans rfl
theorem State.runTo_of_sealed {s : State} (h : s.clk.phase = 2) : s.runTo 4 = s.releaseBeat := by simp [State.runTo, h]
theorem State.runTo_of_computed {s : State} (h : s.clk.phase = 1) : s.runTo 4 = (s.sealBeat []).releaseBeat := by
  simp [State.runTo, h, State.phase_of_toPhase_hold (State.sealBeat_hold s [])]
theorem State.runTo_of_begun {s : State} (h : s.clk.phase = 0) : s.runTo 4 = ((s.computeNow []).sealBeat []).releaseBeat := by
  simp [State.runTo, h, State.phase_of_toPhase_hold (State.computeNow_hold s []), State.phase_of_toPhase_hold (State.sealBeat_hold _ [])]
theorem State.runTo_of_over {s : State} (h : 3 ≤ s.clk.phase) : s.runTo 4 = s := by
  simp [State.runTo, show s.clk.phase ≠ 0 by omega, show s.clk.phase ≠ 1 by omega, show s.clk.phase ≠ 2 by omega]
/-- Run up to the boundary from a phase before the release, the beat stands in its release phase. -/
theorem State.runTo_boundary_hold {s : State} (h : s.clk.phase < 3) : (s.runTo 4).hold = (s.toPhase 3).hold := by
  have release : ∀ {t : State}, t.hold = (s.toPhase 2).hold → t.releaseBeat.hold = (s.toPhase 3).hold := fun e =>
    (State.releaseBeat_hold _).trans (State.toPhase_after 3 e)
  obtain h0 | h1 | h2 : s.clk.phase = 0 ∨ s.clk.phase = 1 ∨ s.clk.phase = 2 := by omega
  · rw [State.runTo_of_begun h0]
    exact release ((State.sealBeat_hold _ []).trans (State.toPhase_after 2 (State.computeNow_hold s [])))
  · rw [State.runTo_of_computed h1]
    exact release (State.sealBeat_hold s [])
  · rw [State.runTo_of_sealed h2]
    exact State.releaseBeat_hold s

/-- A beat's own parts of the clock; which phase it is in, and how far in it, apart (R59). -/
def ClockS.beatView (c : ClockS) : BitVec 48 × W64 × Nat × Bool × Bool × Bool := (c.beat, c.lastTime, c.timeSteps, c.stopPin, c.stopCmd, c.stopped)
/-- The phases leave the beat's number, its time and the stop as they were. -/
theorem State.runTo_boundary_beatView (s : State) :
    (s.runTo 4).clk.beatView = s.clk.beatView ∧ (s.runTo 4).start = s.start ∧ (s.runTo 4).range.stopIn = s.range.stopIn := by
  by_cases h : s.clk.phase < 3
  · have e := State.runTo_boundary_hold h
    exact ⟨(congrArg ClockS.beatView (clk_of_hold e)).trans rfl, (start_of_hold e).trans rfl, (congrArg Hold.stopIn e).trans rfl⟩
  · rw [State.runTo_of_over (by omega)]
    exact ⟨rfl, rfl, rfl⟩
/-- Whether a stop is due is not changed by the phases. -/
theorem State.runTo_boundary_stopDue (s : State) : (s.runTo 4).stopDue = s.stopDue := by
  obtain ⟨view, start, stopIn⟩ := State.runTo_boundary_beatView s
  simp only [ClockS.beatView, Prod.mk.injEq] at view
  obtain ⟨-, -, -, stopPin, stopCmd, stopped⟩ := view
  simp only [State.stopDue, State.stopAsked, State.complete, start, stopIn, stopPin, stopCmd, stopped]

/-! The stop. -/

/-- Relay records queued for every member change the range's backlog alone. -/
theorem State.relayAll_range (s : State) (kind : Nat) (ws : List W64) : s.relayAll kind ws = { s with range := (s.relayAll kind ws).range } := by
  have one : ∀ (s : State) m, s.relay m kind ws = { s with range := (s.relay m kind ws).range } := fun s m => by
    unfold State.relay State.relayAs
    dsimp only
    split <;> rfl
  have all : ∀ (l : List Nat) (s : State), l.foldl (fun s m => s.relay m kind ws) s = { s with range := (l.foldl (fun s m => s.relay m kind ws) s).range } := by
    intro l
    induction l with
    | nil => exact fun _ => rfl
    | cons m l ih =>
      intro s
      rw [List.foldl_cons]
      refine (ih _).trans ?_
      rw [one s m]
  exact all _ s
/-- The block at the end of the beat a stop comes in, the commands paused and the stop on record (R433, R435, Table 3-11). -/
def State.stopNoted (s : State) : State :=
  let u := ({ s with clk := { s.clk with stopped := true } } : State).pauseAll true
  (u.stopRecord 0 u.beat).emit (.stopPin true)
theorem State.stopNow_eq (s : State) :
    s.stopNow = if s.stopNoted.range.joined then s.stopNoted.relayAll 10 [w64 [(beat48 s.stopNoted.beat, 0)]] else s.stopNoted := rfl
theorem State.stopNoted_front (s : State) :
    s.stopNoted.front = (({ s with clk := { s.clk with stopped := true } } : State).pauseAll true).front := by
  simp [State.stopNoted, State.stopRecord]
theorem State.relayAll_if_range (s : State) (kind : Nat) (ws : List W64) :
    ∃ r, (if s.range.joined then s.relayAll kind ws else s) = { s with range := r } := by
  split
  · exact ⟨_, State.relayAll_range ..⟩
  · exact ⟨s.range, rfl⟩
/-- Telling the other members of it changes the range alone. -/
theorem State.stopNow_range (s : State) : ∃ r, s.stopNow = { s.stopNoted with range := r } := by
  obtain ⟨r, e⟩ := s.stopNoted.relayAll_if_range 10 [w64 [(beat48 s.stopNoted.beat, 0)]]
  exact ⟨r, s.stopNow_eq.trans e⟩
theorem State.stopNow_clk (s : State) : s.stopNow.clk = { s.clk with stopped := true } := by
  obtain ⟨r, e⟩ := s.stopNow_range
  rw [e]
  exact congrArg Front.clk s.stopNoted_front
theorem State.stopNow_start (s : State) : s.stopNow.start = s.start := by
  obtain ⟨r, e⟩ := s.stopNow_range
  rw [e]
  exact congrArg Front.start s.stopNoted_front
theorem State.stopNow_streams (s : State) : s.stopNow.streams = s.streams := by
  obtain ⟨r, e⟩ := s.stopNow_range
  rw [e]
  exact congrArg Front.streams s.stopNoted_front
theorem State.stopNow_recs (s : State) : s.stopNow.recs = s.recs := by
  obtain ⟨r, e⟩ := s.stopNow_range
  rw [e]
  exact congrArg Front.recs s.stopNoted_front
theorem State.stopNow_sched (s : State) : s.stopNow.sched = s.sched := by
  obtain ⟨r, e⟩ := s.stopNow_range
  rw [e]
  exact congrArg Front.sched s.stopNoted_front
theorem State.stopNow_cmds (s : State) : s.stopNow.cmds = s.cmds.map (fun c => { c with paused := true }) := by
  obtain ⟨r, e⟩ := s.stopNow_range
  rw [e]
  exact congrArg Front.cmds s.stopNoted_front
theorem State.settle_of_none {s : State} (h : ∀ e ∈ s.sched, ∀ k, e.eff ≠ .program k) : s.settle = s := by
  have all : ∀ (l : List Sched) (s : State), (∀ e ∈ l, ∀ k, e.eff ≠ .program k) → l.foldl (fun s e => match e.eff with
      | .program slot => ({ s with sched := s.sched.erase e } : State).programNow slot
      | _ => s) s = s := by
    intro l
    induction l with
    | nil => exact fun _ _ => rfl
    | cons e l ih =>
      intro s he
      rw [List.foldl_cons]
      have head := he e List.mem_cons_self
      split
      · exact absurd ‹_› (head _)
      · exact ih s fun x hx => he x (List.mem_cons_of_mem _ hx)
  exact all _ s h

/-! The fuses: an activation may program a rollback count at the boundary, and nothing else does (R451). -/

theorem FuseS.before_refl (f : FuseS) : f.before f := ⟨fun _ => le_rfl, fun _ => le_rfl, fun _ _ => rfl⟩
theorem FuseS.before_of_eq {f g : FuseS} (h : g = f) : f.before g := h ▸ f.before_refl
theorem FuseS.before_trans {f g h : FuseS} (a : f.before g) (b : g.before h) : f.before h := by
  obtain ⟨a1, a2, a3⟩ := a
  obtain ⟨b1, b2, b3⟩ := b
  refine ⟨fun k => (a1 k).trans (b1 k), fun n => (a2 n).trans (b2 n), fun n hn => ?_⟩
  have : g.keyState.getD n 0 ≠ 0 := fun e => hn (by have := a2 n; omega)
  exact (b3 n this).trans (a3 n hn)
theorem fuses_of_still {t s : State} (h : t.still = s.still) : t.fuses = s.fuses := congrArg Still.fuses h
theorem State.raiseRollback_before (s : State) (h : ImgHdr) : s.fuses.before (s.raiseRollback h).fuses := by
  unfold State.raiseRollback
  split
  · rename_i c
    have low : s.fuses.rollback.getD (h.kind - 1) 0 < h.rbVersion := by
      rw [raises, Bool.and_eq_true, decide_eq_true_eq] at c
      exact c.2
    rw [State.log_fuses]
    refine ⟨fun k => ?_, fun _ => le_rfl, fun _ _ => rfl⟩
    simp only [List.getD_eq_getElem?_getD, List.getElem?_set] at low ⊢
    split
    · subst k
      split
      · exact low.le
      · simp_all
    · exact le_rfl
  · exact FuseS.before_refl _
theorem State.programNow_before (s : State) (slot : Nat) : s.fuses.before (s.programNow slot).fuses := by
  unfold State.programNow
  split
  · split
    · exact FuseS.before_of_eq ((fuses_of_still (State.refuseLate_still ..)).trans rfl |> Eq.trans rfl)
    · exact State.raiseRollback_before ..
  · exact FuseS.before_refl _
theorem State.applyEff_before (s : State) (e : Eff) : s.fuses.before (s.applyEff e).fuses := by
  by_cases h : ∃ k, e = .program k
  · obtain ⟨k, rfl⟩ := h
    exact State.programNow_before s k
  · exact FuseS.before_of_eq (fuses_of_still (State.applyEff_still s e fun k q => h ⟨k, q⟩))
theorem State.oneDue_before (s : State) (e : Eff) : s.fuses.before (s.oneDue e).fuses := by
  unfold State.oneDue
  split
  · exact FuseS.before_of_eq (fuses_of_still (State.takeCancel_still ..))
  · split
    · rename_i q
      rw [← fuses_of_still (State.takeEff_still _ _ _ q)]
      exact State.applyEff_before ..
    · exact FuseS.before_refl _
theorem applyDue_before (n : Nat) (s : State) : s.fuses.before (applyDue n s).fuses := by
  induction n generalizing s with
  | zero => exact FuseS.before_refl _
  | succ n ih =>
    unfold applyDue
    split
    · exact FuseS.before_trans (State.oneDue_before ..) (ih _)
    · exact FuseS.before_refl _
theorem State.endWork_still (s : State) : s.endWork.still = s.still := by
  have h : (s.openStreams.foldl (fun s st => endInput 2048 st.handle s) s).still = s.still := still_foldl _ (fun s a => by simp) _ _
  simp [State.endWork, h]
theorem State.afterDue_still (s : State) : s.afterDue.still = s.still := by
  unfold State.afterDue
  extract_lets a b c d e
  have ha : a.still = s.still := still_if (by simp) rfl
  have hb : b.still = a.still := still_if (by simp) rfl
  have hc : c.still = b.still := still_if (by simp) rfl
  have hd : d.still = c.still := still_if (by simp) rfl
  have he : e.still = d.still := State.pumpWork_still d
  refine (State.dynFree_still _).trans ((State.dynClose_still _).trans ((still_foldl _ (fun s st => by simp) _ _).trans ?_))
  exact he.trans (hd.trans (hc.trans (hb.trans ha)))
theorem State.endBeat_before (s : State) : s.fuses.before s.endBeat.fuses := by
  have due := applyDue_before (2 * s.endWork.sched.length + 64) s.endWork
  rw [fuses_of_still (State.endWork_still s)] at due
  rw [State.endBeat_eq, fuses_of_still (State.afterDue_still _)]
  exact due

/-! The boundary. -/

theorem State.boundary_of_idle {s : State} (x : BeatIn) (h : s.complete = false ∨ s.clk.stopped = true) : s.boundary x = s := by
  refine if_pos ?_
  obtain h | h := h <;> simp [h]
theorem State.boundary_of_stop {s : State} (x : BeatIn) (h : s.live = true) (stop : s.stopAsked = true) :
    s.boundary x = (s.runTo 4).settle.stopNow := by
  simp only [State.live, Bool.and_eq_true, Bool.not_eq_eq_eq_not, Bool.not_true] at h
  obtain ⟨complete, running⟩ := h
  have due : (s.runTo 4).stopDue = true := by
    rw [State.runTo_boundary_stopDue]
    simp [State.stopDue, complete, running, stop]
  exact (if_neg (by simp [complete, running])).trans (if_pos due)
theorem State.boundary_of_beat {s : State} (x : BeatIn) (h : s.live = true) (go : s.stopAsked = false) :
    s.boundary x = ((s.runTo 4).endBeat.nextBeat x.time).openBeat x := by
  simp only [State.live, Bool.and_eq_true, Bool.not_eq_eq_eq_not, Bool.not_true] at h
  obtain ⟨complete, running⟩ := h
  have due : (s.runTo 4).stopDue = false := by
    rw [State.runTo_boundary_stopDue]
    simp [State.stopDue, go]
  exact (if_neg (by simp [complete, running])).trans (if_neg (by simp [due]))
/-- The clock of a new beat: its number, its phase, and the time taken, which never falls (R14, R59, R488). -/
theorem State.nextBeat_clk (s : State) (time : W64) : (s.nextBeat time).clk = { s.clk with
    beat := s.clk.beat + 1, phase := 0, cycle := 0,
    lastTime := if time.toNat < s.clk.lastTime.toNat then s.clk.lastTime else time,
    timeSteps := if time.toNat < s.clk.lastTime.toNat then s.clk.timeSteps + 1 else s.clk.timeSteps } := by
  unfold State.nextBeat State.takeTime
  dsimp only
  split <;> rfl
theorem State.nextBeat_start (s : State) (time : W64) : (s.nextBeat time).start = s.start := by
  unfold State.nextBeat State.takeTime
  split <;> rfl

/-- Settles O31: the phases not yet run, then a stop (`stopNow`) or the new beat (`nextBeat`) between the work of the ending and of the coming one. -/
theorem beatBoundaryCountsOneBeat : Obligations.BeatBoundaryCountsOneBeat := by
  intro x s
  have regs : (s.boundary x).regs = s.regs := regs_of_unfused (State.boundary_unfused s x)
  refine ⟨fun h => ?_, fun h stop before => ?_, fun h stop ended clean => ?_, fun h go => ?_⟩
  · exact congrArg Host.Outcome.next (State.boundary_of_idle x h)
  · have e := State.boundary_of_stop x h stop
    have ran := (State.settle_hold (s.runTo 4)).trans (State.runTo_boundary_hold before)
    refine ⟨_, rfl, ?_, ?_, regs⟩
    · rw [e, State.stopNow_clk, clk_of_hold ran]
      rfl
    · rw [e, State.stopNow_start, start_of_hold ran]
      rfl
  · have e := State.boundary_of_stop x h stop
    rw [State.runTo_of_over ended.ge, State.settle_of_none clean] at e
    exact ⟨_, rfl, (congrArg State.clk e).trans s.stopNow_clk, (congrArg State.streams e).trans s.stopNow_streams,
      (congrArg State.recs e).trans s.stopNow_recs, (congrArg State.sched e).trans s.stopNow_sched,
      (congrArg State.cmds e).trans s.stopNow_cmds, (congrArg State.start e).trans s.stopNow_start, regs⟩
  · have e := State.boundary_of_beat x h go
    obtain ⟨view, start, -⟩ := State.runTo_boundary_beatView s
    have ended : (s.runTo 4).endBeat.clk = (s.runTo 4).clk ∧ (s.runTo 4).endBeat.start = (s.runTo 4).start :=
      Prod.mk.inj (State.endBeat_timing (s.runTo 4))
    have opened := State.openBeat_hold ((s.runTo 4).endBeat.nextBeat x.time) x
    have clk := (clk_of_hold opened).trans (State.nextBeat_clk ..)
    have fuses := fuses_of_still ((State.openBeat_still ((s.runTo 4).endBeat.nextBeat x.time) x).trans (State.nextBeat_still ..))
    have unfused := State.boundary_unfused s x
    simp only [ClockS.beatView, Prod.mk.injEq] at view
    obtain ⟨beat, lastTime, timeSteps, -, -, stopped⟩ := view
    simp only [State.live, Bool.and_eq_true, Bool.not_eq_eq_eq_not, Bool.not_true] at h
    rw [ended.1] at clk
    refine ⟨_, rfl, ?_, ?_, ?_, ?_, ?_, ?_, regs, ?_, congrArg (fun v => v.2.2.2) unfused, congrArg (fun v => v.1) unfused⟩
    · rw [e, clk, beat]
    · rw [e, clk]
    · rw [e, clk]
      exact stopped.trans h.2
    · rw [e, clk, lastTime]
    · rw [e, clk, lastTime, timeSteps]
    · rw [e, start_of_hold opened, State.nextBeat_start, ended.2, start]
    · have before := State.endBeat_before (s.runTo 4)
      rw [fuses_of_still (State.runTo_still s 4)] at before
      rw [e, fuses]
      exact before
end Sys2Proof.Machine
end

section
/-! Relay records: what taking one in does to its lane, what hearing from a peer does where nothing is split, and the effect of each kind. -/

namespace Sys2Proof.Machine

/-! Maps. -/

theorem AMap.length_set_new {α : Type} (m : AMap α) (i : Nat) (v : α) (h : AMap.get? m i = none) :
    (AMap.set m i v).length = m.length + 1 := by
  induction m with
  | nil => rfl
  | cons x m ih =>
    obtain ⟨k, y⟩ := x
    simp only [AMap.get?] at h
    by_cases hk : k = i
    · simp [hk] at h
    · simp only [hk, if_false] at h
      simp only [AMap.set, Ne.symm hk, if_false]
      split
      · rfl
      · simp [ih h]
@[simp] theorem AMap.get?_modify {α : Type} (m : AMap α) (i j : Nat) (f : α → α) :
    AMap.get? (AMap.modify m i f) j = if j = i then (AMap.get? m i).map f else AMap.get? m j := by
  unfold AMap.modify
  cases h : AMap.get? m i with
  | none => by_cases e : j = i <;> simp [e, h]
  | some v => by_cases e : j = i <;> simp [e]

/-! The lane. -/

/-- A lane after one more record taken in from it (R424). -/
def laneNext (s : State) (lane : Nat) : Nat × Nat × Nat :=
  let x := AMap.getD s.range.lanes lane (0, 0, 0)
  (x.1 + 1, x.2.1 + 1, if x.2.1 = 0 then s.beat else x.2.2)
/-- The state whose lane has moved on. -/
def State.laneMoved (s : State) (lane : Nat) : State :=
  { s with range := { s.range with lanes := AMap.set s.range.lanes lane (laneNext s lane) } }
/-- A record stands at the head of its lane: the block takes part in a range and the record has the phase expected there. -/
def atHead (s : State) (r : RelayIn) : Prop :=
  s.complete = true ∧ fld s.regs.rangeMember 14 8 ≠ 0
    ∧ bit r.w7 63 = decide ((AMap.getD s.range.lanes r.lane.toNat (0, 0, 0)).1 / laneSlots s % 2 = 0)
/-- A member's record that came later than its hop allows is logged (R426). -/
def lateFrom (s : State) (r : RelayIn) : Prop :=
  ∃ m, AMap.get? s.range.members r.lane.toNat = some m ∧ m.hop < r.time.toNat - r.w6.toNat

section
variable {s : State} {r : RelayIn} {k : Nat}

theorem relayTake_of_not_atHead (h : ¬ atHead s r) : s.relayTake r k = none := by
  refine if_pos ?_
  by_contra c
  simp only [Bool.or_eq_true, Bool.not_eq_eq_eq_not, Bool.not_true, decide_eq_true_eq, not_or, Bool.not_eq_false, ne_eq, not_not] at c
  obtain ⟨⟨h1, h2⟩, h3⟩ := c
  exact h ⟨h1, h2, h3⟩

/-- A record at the head of its lane passes the first check of `relayTake`. -/
theorem relayTake_passes (h : atHead s r) : ¬ (!s.complete || fld s.regs.rangeMember 14 8 = 0
    || bit r.w7 63 ≠ ((AMap.getD s.range.lanes r.lane.toNat (0, 0, 0)).1 / laneSlots s % 2 == 0)) = true := by
  obtain ⟨h1, h2, h3⟩ := h
  simp only [Bool.or_eq_true, Bool.not_eq_eq_eq_not, Bool.not_true, decide_eq_true_eq, not_or, Bool.not_eq_false, ne_eq, not_not]
  exact ⟨⟨h1, h2⟩, h3⟩

theorem relayTake_of_bad (h : atHead s r) (bad : relayGood s r k = false) :
    s.relayTake r k = some ((s.laneMoved r.lane.toNat).count 114 1) := by
  refine (if_neg (relayTake_passes h)).trans (if_pos ?_)
  simp only [relayGood, Bool.and_eq_false_iff, beq_eq_false_iff_ne, Bool.not_eq_eq_eq_not, Bool.not_false] at bad
  simp only [Bool.or_eq_true, decide_eq_true_eq]
  exact bad

/-- A record of this formation and kind counted and traced. -/
def State.tookIn (s : State) (r : RelayIn) (k : Nat) : State :=
  ((s.laneMoved r.lane.toNat).count 113 1).ev 52 0x0D (fld r.w1 31 0) [(fld r.w7 47 0, 0), (fld r.w0 9 4, 48), (k, 54)]
@[simp] theorem tookIn_front (s : State) (r : RelayIn) (k : Nat) : (s.tookIn r k).front = (s.laneMoved r.lane.toNat).front := by
  simp [State.tookIn]
@[simp] theorem tookIn_host (s : State) (r : RelayIn) (k : Nat) : (s.tookIn r k).host = s.host := by
  simp [State.tookIn, State.laneMoved]
@[simp] theorem tookIn_members (s : State) (r : RelayIn) (k : Nat) : (s.tookIn r k).range.members = s.range.members := by
  simp [State.tookIn, State.laneMoved]

/-- What a record of this formation and kind leaves before its effect: the lane has moved on, the rest is counted, traced and, where it is late,
logged. -/
theorem relayTake_of_good (h : atHead s r) (good : relayGood s r k = true) :
    ∃ u, s.relayTake r k = some u ∧ u.front = (s.laneMoved r.lane.toNat).front ∧ (¬ lateFrom s r → u.host = s.host) := by
  have passes : ¬ (fld r.w0 31 16 ≠ (s.laneMoved r.lane.toNat).range.formation || fld r.w0 3 0 ≠ k || relayBad r k) = true := by
    simp only [relayGood, Bool.and_eq_true, beq_iff_eq, Bool.not_eq_eq_eq_not, Bool.not_true] at good
    simp only [Bool.or_eq_true, decide_eq_true_eq, not_or, Bool.not_eq_true, ne_eq, not_not]
    exact good
  have e : s.relayTake r k = match AMap.get? (s.tookIn r k).range.members r.lane.toNat with
      | some m =>
        if (s.tookIn r k).range.joined && m.succ = (s.tookIn r k).selfId && m.role ≠ 2 && m.hop < r.time.toNat - r.w6.toNat then
          some (((s.tookIn r k).count 115 1).log 0x0061 0 52 (w64 [(r.lane.toNat, 0)]) (w64 [(r.time.toNat - r.w6.toNat, 0)]) 0#64)
        else some (s.tookIn r k)
      | none => some (s.tookIn r k) := (if_neg (relayTake_passes h)).trans (if_neg passes)
  rw [e, tookIn_members]
  cases hm : AMap.get? s.range.members r.lane.toNat with
  | none => exact ⟨_, rfl, by simp, fun _ => by simp⟩
  | some m =>
    dsimp only
    split
    · rename_i c
      simp only [Bool.and_eq_true, decide_eq_true_eq] at c
      exact ⟨_, rfl, by simp, fun onTime => absurd ⟨m, hm, c.2⟩ onTime⟩
    · exact ⟨_, rfl, by simp, fun _ => by simp⟩

end

/-- A state with other contents in the parts that its front leaves out. -/
def State.withBack (s : State) (p : PersistS) (m : MgmtS) (h : HostS) (o : List Out) (f : Nat) : State :=
  { s with persist := p, mgmt := m, host := h, out := o, free := f }
/-- States of one front differ in those parts alone. -/
theorem exists_withBack_of_front {s u : State} (h : u.front = s.front) : ∃ p m h o f, u = s.withBack p m h o f := by
  refine ⟨u.persist, u.mgmt, u.host, u.out, u.free, ?_⟩
  obtain ⟨⟩ := s
  obtain ⟨⟩ := u
  simp only [State.front, Front.mk.injEq] at h
  simp only [State.withBack, State.mk.injEq]
  tauto

/-! Hearing from a peer. -/

/-- The peer's beat of last contact, brought up to date. -/
def State.heardFrom (s : State) (peer : Nat) : State :=
  { s with range := { s.range with members := AMap.modify s.range.members peer fun m => { m with lastHeard := s.beat } } }
/-- Where nothing is split and no grant is missed, hearing from a peer is its whole effect (R429). -/
theorem hear_of_whole {s : State} (hs : s.range.splitFrom = []) (hv : s.range.starved = 0) (peer kind : Nat) :
    s.hear peer kind = s.heardFrom peer := by
  have e : ({ s.range with
      members := AMap.modify s.range.members peer fun m => { m with lastHeard := s.beat }, splitFrom := [], starved := 0 } : RangeS)
      = (s.heardFrom peer).range := by rw [← hs, ← hv]; rfl
  unfold State.hear
  simp only [hs, hv, ne_eq, not_true_eq_false, decide_false, Bool.false_and, Bool.false_eq_true, if_false, List.filter_nil, List.isEmpty_nil,
    Bool.true_or, if_true, e]
  rfl

/-! What the effects leave: the lanes, and whether a split is in force. -/

/-- The lanes taken in, the peers split from, and a missed grant. -/
def State.laneView (s : State) : AMap (Nat × Nat × Nat) × List Nat × Nat := (s.range.lanes, s.range.splitFrom, s.range.starved)
theorem laneView_foldl {α : Type} (f : State → α → State) (h : ∀ s a, (f s a).laneView = s.laneView) (l : List α) (s : State) :
    (l.foldl f s).laneView = s.laneView := by
  induction l generalizing s with
  | nil => rfl
  | cons a l ih => exact (ih _).trans (h s a)
theorem laneView_if {c : Prop} [Decidable c] {a b s : State} (ha : a.laneView = s.laneView) (hb : b.laneView = s.laneView) :
    (if c then a else b).laneView = s.laneView := by
  split <;> assumption
theorem laneView_of_range {t s : State} (h : t.range = s.range) : t.laneView = s.laneView := by
  unfold State.laneView; rw [h]

@[simp] theorem finish_laneView (s : State) (c : Cmd) (d : Done) : (s.finish c d).laneView = s.laneView := laneView_of_range (by simp)
@[simp] theorem relayAs_laneView (s : State) (sender peer kind : Nat) (ws : List W64) : (s.relayAs sender peer kind ws).laneView = s.laneView :=
  laneView_if rfl rfl
@[simp] theorem relay_laneView (s : State) (peer kind : Nat) (ws : List W64) : (s.relay peer kind ws).laneView = s.laneView :=
  relayAs_laneView ..
@[simp] theorem relayAll_laneView (s : State) (kind : Nat) (ws : List W64) : (s.relayAll kind ws).laneView = s.laneView :=
  laneView_foldl _ (fun _ _ => relay_laneView ..) _ _
@[simp] theorem formFailed_laneView (s : State) (status : Nat) : (s.formFailed status).laneView = s.laneView := by
  have h : (if s.range.role = 2 then s.relayAll 12 [] else s).laneView = s.laneView := laneView_if (by simp) rfl
  unfold State.formFailed
  dsimp only
  split
  · exact (finish_laneView ..).trans (Eq.trans rfl h)
  · exact Eq.trans rfl h
@[simp] theorem formAll_laneView (s : State) : s.formAll.laneView = s.laneView := by
  refine laneView_if (by simp) (laneView_if (by simp) ?_)
  exact (laneView_foldl _ (fun _ _ => laneView_foldl _ (fun _ _ => relayAs_laneView ..) _ _) _ _).trans rfl
@[simp] theorem tailCheck_laneView (s : State) : s.tailCheck.laneView = s.laneView := laneView_if (by simp) rfl
@[simp] theorem joinIn_laneView (s : State) (r : RelayIn) : (s.joinIn r).laneView = s.laneView := by
  unfold State.joinIn
  refine laneView_if rfl (laneView_if rfl (laneView_if ?_ (laneView_if rfl (laneView_if ?_ ?_))))
  · exact (relayAs_laneView ..).trans rfl
  · exact (formFailed_laneView ..).trans rfl
  · exact (tailCheck_laneView _).trans rfl
@[simp] theorem membersIn_laneView (s : State) (r : RelayIn) : (s.membersIn r).laneView = s.laneView :=
  laneView_if rfl (laneView_if rfl rfl)
@[simp] theorem recIn_laneView (s : State) (r : RelayIn) : (s.recIn r).laneView = s.laneView := laneView_if rfl rfl
@[simp] theorem grantIn_laneView (s : State) (r : RelayIn) : (s.grantIn r).laneView = s.laneView := laneView_if rfl rfl
@[simp] theorem reportIn_laneView (s : State) (r : RelayIn) : (s.reportIn r).laneView = s.laneView :=
  laneView_if rfl (laneView_if rfl rfl)
@[simp] theorem ackIn_laneView (s : State) (r : RelayIn) : (s.ackIn r).laneView = s.laneView := by
  unfold State.ackIn
  dsimp only
  split
  · rfl
  · exact laneView_if rfl rfl
@[simp] theorem stopHeard_laneView (s : State) : s.stopHeard.laneView = s.laneView := laneView_if rfl rfl
@[simp] theorem askCancel_range (s : State) (h code flags : Nat) (event : Bool) : (s.askCancel h code flags event).range = s.range := by
  unfold State.askCancel
  split <;> rfl
@[simp] theorem askLeave_laneView (s : State) (b : Nat) : (s.askLeave b).laneView = s.laneView := by
  have h : (if s.forming?.isSome then s.formFailed stIncomplete else s).laneView = s.laneView := laneView_if (by simp) rfl
  refine laneView_if h (laneView_if ?_ (Eq.trans rfl h))
  exact (laneView_foldl _ (fun _ _ => laneView_of_range (by simp)) _ _).trans (Eq.trans rfl h)
theorem range_foldl {α : Type} (f : State → α → State) (h : ∀ s a, (f s a).range = s.range) (l : List α) (s : State) :
    (l.foldl f s).range = s.range := by
  induction l generalizing s with
  | nil => rfl
  | cons a l ih => exact (ih _).trans (h s a)
@[simp] theorem searchFinds_range (s : State) (bad lost : List Nat) : (s.searchFinds bad lost).range = s.range := by
  unfold State.searchFinds State.uncorrectable
  rw [State.count_range]
  exact range_foldl _ (fun s u => by simp) bad s
@[simp] theorem chunkRead_range (s : State) (h no n verdict flags addr : Nat) (data : List Byte) :
    (s.chunkRead h no n verdict flags addr data).range = s.range := by
  unfold State.chunkRead
  split
  · rfl
  · split
    · rfl
    · simp only [State.setStream_range, searchFinds_range, State.fresh]
      split
      · rfl
      · exact State.pick_range s 2
@[simp] theorem readChunk_laneView (s : State) (o : ROwner) : (s.readChunk o).laneView = s.laneView := by
  unfold State.readChunk
  split
  · exact laneView_of_range (by split <;> simp)
  · rfl
@[simp] theorem pumpChunks_laneView (s : State) : s.pumpChunks.laneView = s.laneView := by
  refine (laneView_foldl _ (fun s o => ?_) _ _).trans rfl
  split
  · exact laneView_if rfl (laneView_if rfl (by simp))
  · rfl
@[simp] theorem chunkIn_laneView (s : State) (r : RelayIn) : (s.chunkIn r).laneView = s.laneView := by
  refine laneView_if rfl ?_
  split
  · rfl
  · exact (pumpChunks_laneView _).trans rfl

/-! The effect of each kind. -/

/-- What a record of kind k brings, once it is taken in. -/
def State.relayIn (k : Nat) (r : RelayIn) (s : State) : State :=
  match k with
  | 1 => s.recIn r
  | 2 => s.chunkIn r
  | 3 => s.joinIn r
  | 4 => s.membersIn r
  | 5 => s.probeIn r
  | 6 => s.grantIn r
  | 7 => s.reportIn r
  | 8 => s.ackIn r
  | 10 => s.stopHeard
  | 11 => { s with range := { s.range with stopIn := false } }
  | 12 => s.askLeave s.nextB
  | _ => s
theorem exec_relay {r : RelayIn} {c : Instr} {k : Nat} (h : (c, k) ∈
    [(.relayRec r, 1), (.relayChunk r, 2), (.relayJoin r, 3), (.relayMembers r, 4), (.relayProbe r, 5), (.relayGrant r, 6),
      (.relayReport r, 7), (.relayAck r, 8), (.relayHeartbeat r, 9), (.relayStop r, 10), (.relayResume r, 11), (.relayLeave r, 12)]) (s : State) :
    exec c s = .next (s.relayDo r k (State.relayIn k r)) := by
  simp only [List.mem_cons, Prod.mk.injEq, List.not_mem_nil, or_false] at h
  rcases h with ⟨rfl, rfl⟩ | ⟨rfl, rfl⟩ | ⟨rfl, rfl⟩ | ⟨rfl, rfl⟩ | ⟨rfl, rfl⟩ | ⟨rfl, rfl⟩ | ⟨rfl, rfl⟩ | ⟨rfl, rfl⟩ | ⟨rfl, rfl⟩ | ⟨rfl, rfl⟩ |
    ⟨rfl, rfl⟩ | ⟨rfl, rfl⟩ <;> rfl
theorem relayIn_laneView (k : Nat) (r : RelayIn) (s : State) : (s.relayIn k r).laneView = s.laneView := by
  unfold State.relayIn
  split <;> first | rfl | simp

/-- REC (R428). -/
theorem recIn_of_joined {s : State} (r : RelayIn) (h : s.range.joined = true) (hf : s.isFirst = false) :
    ∃ p, (s.recIn r).range.preds = s.range.preds ++ [p] ∧ p.slot = fld r.w1 13 0 ∧ p.step = fld r.w1 29 14 ∧ p.kind = fld r.w1 37 36
      ∧ p.verdict = fld r.w1 41 38 ∧ p.flags = fld r.w1 53 42 ∧ p.time = r.w3 ∧ p.beat = s.beat := by
  unfold State.recIn
  rw [if_neg (by simp [h, hf])]
  exact ⟨_, rfl, rfl, rfl, rfl, rfl, rfl, rfl, rfl⟩

/-- A chunk of which nothing was read: its first part is asked for under the free tag (R473, R474). -/
theorem readChunk_first {s : State} {h no n v f a g : Nat} (hn : n ≠ 0) (hg : freeTag s.host.reads = some g)
    (hu : unacked s ((chunkPart n a []).1 / 64 * 64) (64 * cdiv ((chunkPart n a []).1 % 64 + (chunkPart n a []).2) 64) = false) :
    AMap.get? (s.readChunk (.chunk h no n v f a [])).host.reads g = some (.chunk h no n v f a []) := by
  have more : ¬ 4 * n ≤ ([] : List Byte).length := by simp only [List.length_nil]; omega
  simp only [State.readChunk, State.read, if_neg more, hu, Bool.false_eq_true, if_false, hg]
  exact (AMap.get?_set ..).trans (if_pos rfl)
/-- One chunk waits and nothing of its stream is being read: it goes on. -/
theorem pumpChunks_one {s : State} {o : ROwner} {h : Nat} (hq : s.range.chunkQ = [o]) (ho : o.chunkOf = some h)
    (hs : (s.stream? h).isNone = false) (hr : readingChunk s h = false) :
    s.pumpChunks = ({ s with range := { s.range with chunkQ := [] } } : State).readChunk o := by
  have idle : ¬ (readingChunk s h || ([] : List ROwner).any fun x => x.chunkOf == some h) = true := by simp [hr]
  unfold State.pumpChunks
  rw [hq, List.foldl_cons, List.foldl_nil, ho]
  exact (if_neg (ne_true_of_eq_false hs)).trans (if_neg idle)
/-- CHUNK: where nothing of its stream waits before it, its first part is asked for at once (R427). -/
theorem chunkIn_reads {s : State} (r : RelayIn) {st : Stream} {g : Nat} (hj : s.range.joined = true) (hf : s.isFirst = false)
    (hb : s.bound? (fld r.w1 13 0) = some st) (hs : s.stream? st.handle = some st) (hn : fld r.w1 36 24 ≠ 0)
    (hg : freeTag s.host.reads = some g) (hq : s.range.chunkQ = []) (hr : readingChunk s st.handle = false)
    (hu : let p := chunkPart (fld r.w1 36 24) (fld r.w2 56 0) []
      unacked s (p.1 / 64 * 64) (64 * cdiv (p.1 % 64 + p.2) 64) = false) :
    AMap.get? (s.chunkIn r).host.reads g = some (.chunk st.handle (fld r.w1 23 14) (fld r.w1 36 24) (fld r.w1 40 37) (fld r.w1 52 41) (fld r.w2 56 0) []) := by
  unfold State.chunkIn
  rw [if_neg (by simp [hj, hf]), hb]
  simp only [hq, List.nil_append]
  let o : ROwner := .chunk st.handle (fld r.w1 23 14) (fld r.w1 36 24) (fld r.w1 40 37) (fld r.w1 52 41) (fld r.w2 56 0) []
  have e := pumpChunks_one (s := { s with range := { s.range with chunkQ := [o] } }) (o := o) rfl rfl (congrArg Option.isNone hs) hr
  exact (congrArg (fun t : State => AMap.get? t.host.reads g) e).trans (readChunk_first hn hg hu)

/-- JOIN, before this member forms a range (R425). -/
theorem joinIn_of_idle {s : State} (r : RelayIn) (hj : s.range.joined = false) (hf : s.forming? = none) :
    ∃ m, AMap.get? (s.joinIn r).range.members (fld r.w0 9 4) = some m ∧ m.role = fld r.w1 1 0 ∧ m.di = fld r.w1 23 8 ∧ m.inbox = fld r.w2 56 0 := by
  have idle : s.forming?.isNone = true := by rw [hf]; rfl
  let m := if fld r.w0 9 4 = r.lane.toNat then { readMember s r with hop := AMap.getD s.range.hops r.lane.toNat 0, succ := s.selfId } else readMember s r
  have e : (s.joinIn r).range.members = AMap.set s.range.members (fld r.w0 9 4) m :=
    congrArg (fun t : State => t.range.members) ((if_neg (ne_true_of_eq_false hj)).trans (if_pos idle))
  refine ⟨m, by rw [e]; simp, ?_⟩
  by_cases c : fld r.w0 9 4 = r.lane.toNat
  · simp only [m, if_pos c]
    exact ⟨rfl, rfl, rfl⟩
  · simp only [m, if_neg c]
    exact ⟨rfl, rfl, rfl⟩

/-- MEMBERS, while the range forms: with the last of the roster the member joins at the coming boundary (R29, R425). -/
theorem membersIn_of_forming {s : State} (r : RelayIn) (hf : s.forming?.isSome = true) (hr : s.range.role ≠ 2) (hj : joining s = false)
    (hm : AMap.has s.range.members (fld r.w0 9 4) = false) :
    (s.membersIn r).range.joined = s.range.joined ∧ (s.membersIn r).range.forming = s.range.forming
      ∧ (AMap.get? (s.membersIn r).range.members (fld r.w0 9 4)).isSome = true
      ∧ (s.range.members.length + 1 < fld s.regs.rangeMember 14 8 → (s.membersIn r).sched = s.sched)
      ∧ (fld s.regs.rangeMember 14 8 ≤ s.range.members.length + 1 →
          (s.membersIn r).sched = s.sched ++ [⟨s.nextB, .joinRange (fld r.w4 31 16) (fld r.w4 15 0), 0⟩]) := by
  have new : AMap.get? s.range.members (fld r.w0 9 4) = none := by
    simpa only [AMap.has, Option.isSome_eq_false_iff, Option.isNone_iff_eq_none] using hm
  have len := AMap.length_set_new s.range.members (fld r.w0 9 4) (readMember s r) new
  have forms : s.forming?.isNone = false := Option.isNone_eq_false_iff.mpr hf
  unfold State.membersIn
  rw [if_neg (by simp only [forms, hj, hr, decide_false, Bool.or_false, Bool.false_eq_true, not_false_eq_true])]
  simp only [len]
  split
  · exact ⟨rfl, rfl, by simp, fun _ => rfl, fun c => by omega⟩
  · exact ⟨rfl, rfl, by simp, fun c => by omega, fun _ => rfl⟩

/-- A report taken in while no split is in force: its remainder is added, and the sum capped (R361). -/
theorem takeReport_anchorOf {s : State} (hs : s.range.split = false) (m t period charged : Nat) (rem : Int) (count : Nat) :
    (s.takeReport m t period charged rem count).anchorOf t =
      (satK (min ((s.anchorOf t).1 + rem) (anchorCap s (s.tenant t))), (s.anchorOf t).2.1, (s.anchorOf t).2.2) := by
  unfold State.takeReport
  simp only [State.anchorOf, State.setAnchor, State.count_range, hs, Bool.false_eq_true, if_false, Nat.cast_zero, Int.add_zero,
    Bool.false_and, AMap.getD_set, if_true]
  rfl
theorem reportIn_of_anchor {s : State} (r : RelayIn) (hj : s.range.joined = true) (h0 : s.range.role = 0) : s.reportIn r =
    let raw := fld r.w2 63 32
    s.takeReport (fld r.w0 9 4) (fld r.w1 11 0) (fld r.w1 63 32) (fld r.w2 31 0) (if raw < 2 ^ 31 then raw else (raw : Int) - 2 ^ 32) (fld r.w3 31 0) :=
  if_neg (by simp [hj, h0])

/-- ACK (R423). -/
theorem ackIn_of_lane {s : State} (r : RelayIn) {tail ret : Nat} (h : AMap.get? s.range.send r.lane.toNat = some (tail, ret)) :
    let n := ret + (fld r.w1 15 0 + 65536 - ret % 65536) % 65536
    AMap.get? (s.ackIn r).range.send r.lane.toNat = some (tail, if tail < n then ret else n) := by
  intro n
  have key : AMap.has s.range.send r.lane.toNat = true := by simp [AMap.has, h]
  unfold State.ackIn
  simp only [key, if_true, h]
  by_cases c : tail < n
  · rw [if_pos c, if_pos c]
    exact h
  · rw [if_neg c, if_neg c]
    exact (AMap.get?_set ..).trans (if_pos rfl)

/-- Asked cancels leave the range as it was and what is scheduled in its place. -/
theorem askCancels_keep (l : List Stream) (s : State) (e : Sched) (v : Bool) (hv : s.range.leaving = v) (he : e ∈ s.sched) :
    (l.foldl (fun s st => s.askCancel st.handle vCancelled 0 true) s).range.leaving = v
      ∧ e ∈ (l.foldl (fun s st => s.askCancel st.handle vCancelled 0 true) s).sched := by
  induction l generalizing s with
  | nil => exact ⟨hv, he⟩
  | cons st l ih =>
    have kept : e ∈ (s.askCancel st.handle vCancelled 0 true).sched := by
      unfold State.askCancel
      split
      · exact he
      · exact List.mem_append_left _ he
    exact ih _ (by simpa using hv) kept
/-- LEAVE, where no range forms and none is being left (R431). -/
theorem askLeave_of_still {s : State} (hf : s.forming? = none) (hl : s.range.leaving = false) (b : Nat) :
    (s.askLeave b).range.leaving = true ∧ (⟨b, .leaveRange, 0⟩ : Sched) ∈ (s.askLeave b).sched := by
  let u := ({ s with range := { s.range with leaving := true } } : State).at b .leaveRange
  have e : s.askLeave b = if s.range.joined then u.openStreams.foldl (fun s st => s.askCancel st.handle vCancelled 0 true) u else u := by
    unfold State.askLeave
    simp only [hf, hl, Option.isSome_none, Bool.false_eq_true, if_false]
    rfl
  have mem : (⟨b, .leaveRange, 0⟩ : Sched) ∈ u.sched := List.mem_append_right _ (List.mem_singleton_self _)
  rw [e]
  split
  · exact askCancels_keep _ _ _ _ rfl mem
  · exact ⟨rfl, mem⟩

theorem relayIn_still (k : Nat) (r : RelayIn) (s : State) : (s.relayIn k r).still = s.still := by
  unfold State.relayIn
  split <;> first | rfl | simp

/-- A member known stays known with its place in the range when a peer is heard from. -/
theorem heardFrom_member {s : State} {j : Nat} {m : Member} (peer : Nat) (h : AMap.get? s.range.members j = some m) :
    ∃ m', AMap.get? (s.heardFrom peer).range.members j = some m' ∧ m'.role = m.role ∧ m'.di = m.di ∧ m'.inbox = m.inbox := by
  by_cases e : j = peer
  · subst e
    exact ⟨{ m with lastHeard := s.beat }, by simp [State.heardFrom, h], rfl, rfl, rfl⟩
  · exact ⟨m, by simp [State.heardFrom, e, h], rfl, rfl, rfl⟩

/-- A good record where nothing is split: its lane moves on, its effect follows, and its sender is heard from. -/
theorem relayDo_of_good {s u : State} {r : RelayIn} {k : Nat} (hu : s.relayTake r k = some u) (good : relayGood s r k = true)
    (hs : u.range.splitFrom = []) (hv : u.range.starved = 0) :
    s.relayDo r k (State.relayIn k r) = (u.relayIn k r).heardFrom r.lane.toNat := by
  have view := relayIn_laneView k r u
  simp only [State.laneView, Prod.mk.injEq] at view
  obtain ⟨-, split, starved⟩ := view
  unfold State.relayDo
  rw [hu]
  exact (if_pos good).trans (hear_of_whole (split.trans hs) (starved.trans hv) _ _)

/-- Settles O57: a record is taken in (`relayTake`), brings its effect (`relayIn`), and its sender is heard from. -/
theorem relayRecordsTakeEffect : Obligations.RelayRecordsTakeEffect := by
  intro r s c k hc lane at_ next taken
  rw [exec_relay hc]
  refine ⟨fun h => ?_, fun h bad => ?_, fun h good whole fed => ?_⟩
  · unfold State.relayDo
    rw [relayTake_of_not_atHead h]
  · have e : s.relayDo r k (State.relayIn k r) = (s.laneMoved lane).count 114 1 := by
      unfold State.relayDo
      rw [relayTake_of_bad h bad, bad]
      rfl
    exact ⟨_, congrArg _ e, rfl, by simp [State.count, State.laneMoved], ⟨rfl, rfl, rfl, rfl⟩, rfl, rfl⟩
  · obtain ⟨u, hu, front, onTime⟩ := relayTake_of_good h good
    obtain ⟨p, m, hst, o, f, rfl⟩ := exists_withBack_of_front front
    let u := (s.laneMoved lane).withBack p m hst o f
    refine ⟨_, congrArg _ (relayDo_of_good hu good whole fed), ?_, regs_of_still (relayIn_still k r u), ?_⟩
    · exact (congrArg (fun v => AMap.get? v.1 lane) (relayIn_laneView k r u)).trans ((AMap.get?_set ..).trans (if_pos rfl))
    refine ⟨?_, ?_, ?_, ?_, ?_, ?_, ?_, ?_, ?_, ?_, ?_, ?_⟩
    · rintro rfl hj hf
      exact recIn_of_joined (s := u) r hj hf
    · rintro rfl hj hf st g hb hs hn hg hq hr hm hun
      have notLate : ¬ lateFrom s r := fun ⟨x, hx, late⟩ => absurd (hm x hx) (Nat.not_le.mpr late)
      obtain rfl : hst = s.host := onTime notLate
      exact chunkIn_reads (s := u) r hj hf hb hs hn hg hq hr hun
    · rintro rfl hj hf
      obtain ⟨x, hx, role, di, inbox⟩ := joinIn_of_idle (s := u) r hj hf
      obtain ⟨y, hy, role', di', inbox'⟩ := heardFrom_member lane hx
      exact ⟨y, hy, role'.trans role, di'.trans di, inbox'.trans inbox⟩
    · rintro rfl hf hr hj hm
      obtain ⟨joined, forming, known, waits, joins⟩ := membersIn_of_forming (s := u) r hf hr hj hm
      obtain ⟨x, hx⟩ := Option.isSome_iff_exists.mp known
      obtain ⟨y, hy, -⟩ := heardFrom_member lane hx
      exact ⟨joined, forming, Option.isSome_iff_exists.mpr ⟨y, hy⟩, waits, joins⟩
    · rintro rfl
      exact (AMap.get?_set ..).trans (if_pos rfl)
    · rintro rfl hj
      have notOut : ¬ (!u.range.joined) = true := by rw [show u.range.joined = true from hj]; decide
      exact congrArg (fun t : State => t.range.grants) (if_neg notOut)
    · rintro rfl hj h0 hs n a raw
      exact (congrArg (fun t : State => t.anchorOf n) (reportIn_of_anchor (s := u) r hj h0)).trans
        (takeReport_anchorOf (s := u) hs ..)
    · rintro rfl tail ret ht
      exact ackIn_of_lane (s := u) r ht
    · rintro rfl known
      obtain ⟨x, hx⟩ := Option.isSome_iff_exists.mp known
      refine ⟨{ x with lastHeard := s.beat }, (AMap.get?_modify ..).trans ((if_pos rfl).trans ?_), rfl⟩
      exact congrArg (Option.map _) hx
    · rintro rfl hj hs hp hc
      have asked : (u.range.joined && !u.clk.stopped && !u.clk.stopPin && !u.clk.stopCmd) = true := by
        rw [show u.range.joined = true from hj, show u.clk.stopped = false from hs, show u.clk.stopPin = false from hp,
          show u.clk.stopCmd = false from hc]
        rfl
      exact congrArg (fun t : State => t.range.stopIn) (if_pos asked)
    · rintro rfl
      rfl
    · rintro rfl hf hl
      exact askLeave_of_still (s := u) hf hl s.nextB
end Sys2Proof.Machine
end

section
/-! The gate: what becomes of the bytes it holds while a record is taken, and where the bytes of its entries come from (R47, R138 to R143). -/

namespace Sys2Proof.Machine

/-! Verdicts' effects. -/

/-- Where a policy maps its two codes to HOLD or BLOCK, the codes other than PASS and REDACT have an effect that releases nothing (R132). -/
theorem effectOf_withholds {p : PolicyImg} {v : Nat} (hi : p.mapIndet = vHold ∨ p.mapIndet = vBlock)
    (hc : p.mapIncomplete = vHold ∨ p.mapIncomplete = vBlock) (hp : v ≠ vPass) (hr : v ≠ vRedact) :
    effectOf p v ≠ vPass ∧ effectOf p v ≠ vRedact := by
  have hold : vHold ≠ vPass ∧ vHold ≠ vRedact := by decide
  have block : vBlock ≠ vPass ∧ vBlock ≠ vRedact := by decide
  unfold effectOf
  split
  · rcases hi with h | h <;> simp [h, hold, block]
  · split
    · rcases hc with h | h <;> simp [h, hold, block]
    · split
      · exact hold
      · exact ⟨hp, hr⟩

/-! What the steps of `Gate.take` do to the bytes. -/

/-- Every byte of the one list is a byte of the other with, at most, another fate, which does not free it. -/
def OnlyMarked (old new : List GByte) : Prop := ∀ y ∈ new, ∃ x ∈ old, y.item = x.item ∧ (y.fate = 1 → y = x)

theorem OnlyMarked.refl (bs : List GByte) : OnlyMarked bs bs := fun y h => ⟨y, h, rfl, fun _ => rfl⟩
theorem OnlyMarked.trans {a b c : List GByte} (hab : OnlyMarked a b) (hbc : OnlyMarked b c) : OnlyMarked a c := by
  intro z hz
  obtain ⟨y, hy, item_zy, freed_zy⟩ := hbc z hz
  obtain ⟨x, hx, item_yx, freed_yx⟩ := hab y hy
  refine ⟨x, hx, item_zy.trans item_yx, fun freed => ?_⟩
  have : z = y := freed_zy freed
  exact this.trans (freed_yx (this ▸ freed))
theorem onlyMarked_map {bs : List GByte} {f : GByte → GByte} (h : ∀ x, (f x).item = x.item ∧ ((f x).fate = 1 → f x = x)) :
    OnlyMarked bs (bs.map f) := by
  intro y hy
  obtain ⟨x, hx, rfl⟩ := List.mem_map.mp hy
  exact ⟨x, hx, h x⟩

/-- A discard frees no byte: its verdict is not PASS. -/
theorem Gate.drop_onlyMarked (g : Gate) (lo hi : Nat) {v : Nat} (hv : v ≠ vPass) : OnlyMarked g.bytes (g.drop lo hi v).bytes := by
  refine onlyMarked_map fun x => ?_
  split
  · exact ⟨rfl, fun freed => absurd (Nat.succ.inj freed) hv⟩
  · exact ⟨rfl, fun _ => rfl⟩
/-- Marking where characters begin touches held bytes only. -/
theorem Gate.chars_onlyMarked (g : Gate) (r : Rec) : OnlyMarked g.bytes (g.chars r).bytes := by
  refine onlyMarked_map fun x => ?_
  split
  · rename_i held
    simp only [Bool.and_eq_true, decide_eq_true_eq] at held
    exact ⟨rfl, fun freed => by simp_all⟩
  · exact ⟨rfl, fun _ => rfl⟩
theorem Gate.force_onlyMarked (n base fin : Nat) (g : Gate) : OnlyMarked g.bytes (Gate.force n base fin g).bytes := by
  induction n generalizing g with
  | zero => exact .refl _
  | succ n ih =>
    unfold Gate.force
    split
    · exact .refl _
    · split
      · exact .refl _
      · rename_i p _
        exact (g.drop_onlyMarked p.start base (by decide)).trans (ih _)

/-- The completed matches of a record discard the held bytes that a HOLD or BLOCK pattern covers (R140). -/
def Gate.dropMatches (g : Gate) (base : Nat) (cs : List Compl) : Gate :=
  cs.foldl (fun (g : Gate) c => if c.verdict = vHold || c.verdict = vBlock then g.drop c.spanStart base c.verdict else g) g
theorem Gate.dropMatches_onlyMarked (g : Gate) (base : Nat) (cs : List Compl) : OnlyMarked g.bytes (g.dropMatches base cs).bytes := by
  induction cs generalizing g with
  | nil => exact .refl _
  | cons c cs ih =>
    refine OnlyMarked.trans ?_ (ih _)
    dsimp only
    split
    · rename_i withholds
      refine g.drop_onlyMarked c.spanStart base ?_
      simp only [Bool.or_eq_true, decide_eq_true_eq] at withholds
      rcases withholds with h | h <;> rw [h] <;> decide
    · exact .refl _

/-- The bytes a record brings to the gate. -/
def Gate.brought (g : Gate) (p : PolicyImg) (r : Rec) (v : Nat) : List GByte :=
  if effectOf p v == vPass || effectOf p v == vRedact then g.own r else []
/-- The gate with a record's item and bytes added. -/
def Gate.enter (g : Gate) (p : PolicyImg) (r : Rec) (v : Nat) : Gate :=
  { g.chars r with
    items := (g.chars r).items ++ [⟨r.pos, r.token, r.policy, r.polGen, r.flags, v, true, r.step⟩], bytes := (g.chars r).bytes ++ g.brought p r v }
/-- The gate once a record's matches have been applied and forced resolutions made, before it frees what no pattern holds. -/
def Gate.resolve (g : Gate) (p : PolicyImg) (r : Rec) (v : Nat) : Gate :=
  let g := (g.enter p r v).dropMatches r.off r.compl
  let g : Gate := { g with
    spans := g.spans ++ (if effectOf p v = vBlock then [] else (r.compl.filter fun c => c.verdict == vRedact).filterMap (widen (g.bytes.filter fun x => x.fate == 0))),
    pends := agedPends g.pends g.gone r.pend r.pos,
    gone := g.gone.filter fun q => r.pend.any fun p => samePattern p q && decide (p.start < q.start) }
  g.force g.pends.length r.off (r.off + r.bytes.length)
/-- The gate once it has freed what no pattern holds, or discarded everything under a BLOCK. -/
def Gate.release (g : Gate) (eff fin : Nat) : Gate :=
  if eff = vBlock then { g with pends := [], bytes := g.bytes.map fun x => if x.fate = 0 then { x with fate := vBlock + 1 } else x }
  else { g with bytes := g.bytes.map fun x => if x.fate = 0 && x.pos < holdLo g.pends fin then { x with fate := 1 } else x }

/-- `Gate.take` in its parts. -/
theorem Gate.take_eq (g : Gate) (p : PolicyImg) (r : Rec) (v : Nat) :
    g.take p r v = g.stamp ((g.resolve p r v).release (effectOf p v) (r.off + r.bytes.length)) r.step := rfl
theorem Gate.take_bytes (g : Gate) (p : PolicyImg) (r : Rec) (v : Nat) :
    (g.take p r v).bytes = ((g.resolve p r v).release (effectOf p v) (r.off + r.bytes.length)).bytes := rfl
theorem Gate.take_pends (g : Gate) (p : PolicyImg) (r : Rec) (v : Nat) :
    (g.take p r v).pends = ((g.resolve p r v).release (effectOf p v) (r.off + r.bytes.length)).pends := rfl

theorem Gate.resolve_onlyMarked (g : Gate) (p : PolicyImg) (r : Rec) (v : Nat) :
    OnlyMarked ((g.chars r).bytes ++ g.brought p r v) (g.resolve p r v).bytes :=
  ((g.enter p r v).dropMatches_onlyMarked r.off r.compl).trans (Gate.force_onlyMarked _ _ _ _)
/-- A byte of the resolved gate is one of the gate before, which freeing has not touched, or one that the record brought, held (R141). -/
theorem Gate.mem_resolve {g : Gate} {p : PolicyImg} {r : Rec} {v : Nat} {y : GByte} (h : y ∈ (g.resolve p r v).bytes) :
    (∃ x ∈ g.bytes, y.item = x.item ∧ (y.fate = 1 → y = x)) ∨ ∃ x ∈ g.brought p r v, y.item = x.item ∧ y.fate ≠ 1 := by
  obtain ⟨x, hx, item_yx, freed_yx⟩ := g.resolve_onlyMarked p r v y h
  rcases List.mem_append.mp hx with hx | hx
  · obtain ⟨w, hw, item_xw, freed_xw⟩ := g.chars_onlyMarked r x hx
    refine .inl ⟨w, hw, item_yx.trans item_xw, fun freed => ?_⟩
    have : y = x := freed_yx freed
    exact this.trans (freed_xw (this ▸ freed))
  · refine .inr ⟨x, hx, item_yx, fun freed => ?_⟩
    have held : x.fate = 0 := by
      unfold Gate.brought at hx
      split at hx
      · obtain ⟨z, -, rfl⟩ := List.mem_map.mp hx
        rfl
      · cases hx
    rw [← freed_yx freed, freed] at held
    cases held

/-- A byte of the gate after its release is one before it, by its item; a freed one was freed before, or no pending pattern holds it (R140). -/
theorem Gate.mem_release {g : Gate} {eff fin : Nat} {y : GByte} (h : y ∈ (g.release eff fin).bytes) :
    ∃ x ∈ g.bytes, y.item = x.item ∧ (y.fate = 1 → y = x ∨ y.pos < holdLo (g.release eff fin).pends fin) := by
  unfold Gate.release at h ⊢
  split at h
  · obtain ⟨x, hx, rfl⟩ := List.mem_map.mp h
    refine ⟨x, hx, ?_⟩
    split
    · exact ⟨rfl, fun freed => absurd (Nat.succ.inj freed) (by decide)⟩
    · exact ⟨rfl, fun _ => .inl rfl⟩
  · rename_i notBlock
    obtain ⟨x, hx, rfl⟩ := List.mem_map.mp h
    refine ⟨x, hx, ?_⟩
    rw [if_neg notBlock]
    split
    · rename_i below
      simp only [Bool.and_eq_true, decide_eq_true_eq] at below
      exact ⟨rfl, fun _ => .inr below.2⟩
    · exact ⟨rfl, fun _ => .inl rfl⟩

/-! What the gate writes. -/

theorem mem_insertBy {α : Type} {key : α → Nat} {x y : α} {ys : List α} (h : y ∈ insertBy key x ys) : y = x ∨ y ∈ ys := by
  induction ys with
  | nil => exact .inl (List.mem_singleton.mp h)
  | cons z zs ih =>
    unfold insertBy at h
    split at h
    · exact List.mem_cons.mp h
    · rcases List.mem_cons.mp h with rfl | h
      · exact .inr List.mem_cons_self
      · exact (ih h).imp_right (List.mem_cons_of_mem _)
theorem mem_sortAsc {α : Type} {key : α → Nat} {y : α} {xs : List α} (h : y ∈ sortAsc key xs) : y ∈ xs := by
  have all : ∀ (xs acc : List α), y ∈ xs.foldl (fun acc x => insertBy key x acc) acc → y ∈ acc ∨ y ∈ xs := by
    intro xs
    induction xs with
    | nil => exact fun acc h => .inl h
    | cons x xs ih =>
      intro acc h
      rcases ih _ h with h | h
      · exact (mem_insertBy h).elim (fun e => .inr (e ▸ List.mem_cons_self)) .inl
      · exact .inr (List.mem_cons_of_mem _ h)
  exact (all xs [] h).resolve_left (List.not_mem_nil)

theorem Span.join_repl (x y : Span) : (x.join y).repl = x.repl ∨ (x.join y).repl = y.repl := by
  unfold Span.join
  dsimp only
  split
  · exact .inl rfl
  · exact .inr rfl
/-- A merged span has the replacement of one of the spans it is made of (R143). -/
theorem mergeFrom_repl {z : Span} {ys : List Span} : ∀ {x : Span}, z ∈ mergeFrom x ys → ∃ y ∈ x :: ys, z.repl = y.repl := by
  induction ys with
  | nil => exact fun h => ⟨_, h, rfl⟩
  | cons y ys ih =>
    intro x h
    unfold mergeFrom at h
    split at h
    · obtain ⟨w, hw, e⟩ := ih h
      rcases List.mem_cons.mp hw with rfl | hw
      · rcases x.join_repl y with j | j
        · exact ⟨x, by simp, e.trans j⟩
        · exact ⟨y, by simp, e.trans j⟩
      · exact ⟨w, by simp [hw], e⟩
    · rcases List.mem_cons.mp h with rfl | h
      · exact ⟨z, by simp, rfl⟩
      · obtain ⟨w, hw, e⟩ := ih h
        exact ⟨w, List.mem_cons_of_mem _ hw, e⟩
theorem mergeSpans_repl {z : Span} {ss : List Span} (h : z ∈ mergeSpans ss) : ∃ y ∈ ss, z.repl = y.repl := by
  cases ss with
  | nil => cases h
  | cons x xs => exact mergeFrom_repl h

/-- A byte the gate may write: a freed one, or one of a replacement. -/
def Payable (bs : List GByte) (spans : List Span) (b : Byte) : Prop := (∃ y ∈ bs, y.fate = 1 ∧ y.b = b) ∨ ∃ y ∈ spans, b ∈ y.repl
theorem itemPay_payable {spans : List Span} {bs : List GByte} {b : Byte} (h : b ∈ itemPay spans bs) : Payable bs spans b := by
  induction bs with
  | nil => cases h
  | cons x xs ih =>
    have rest (h : b ∈ itemPay spans xs) : Payable (x :: xs) spans b :=
      (ih h).imp_left fun ⟨y, hy, e⟩ => ⟨y, List.mem_cons_of_mem _ hy, e⟩
    unfold itemPay at h
    split at h
    · rename_i y found
      refine (List.mem_append.mp h).elim (fun h => ?_) rest
      split at h
      · exact .inr ⟨y, List.mem_of_find?_eq_some found, h⟩
      · cases h
    · refine (List.mem_append.mp h).elim (fun h => ?_) rest
      split at h
      · rename_i freed
        exact .inl ⟨x, List.mem_cons_self, freed, (List.mem_singleton.mp h).symm⟩
      · cases h

theorem mem_of_mem_ite {α : Type} {c : Prop} [Decidable c] {x : α} {xs : List α} (h : x ∈ if c then xs else []) : x ∈ xs := by
  split at h
  · exact h
  · cases h
@[simp] theorem mkEntry_bytes (h t p g pos v et fl : Nat) (bs : List Byte) : (mkEntry h t p g pos v et fl bs).bytes = bs := rfl
/-- The bytes of an item's entries: its payload, behind those of an entry that waits (R138). -/
theorem itemEntries_bytes {h : Nat} {bad : List Nat} {waiting : List EgEntry} {spans : List Span} {it : GItem} {bs : List GByte} {e : EgEntry} {b : Byte}
    (he : e ∈ itemEntries h bad waiting spans it bs) (hb : b ∈ e.bytes) : b ∈ itemPay spans bs ∨ ∃ w ∈ waiting, b ∈ w.bytes := by
  have told (lost : List Nat) (v : Nat) : e ∈ (match lost with
      | [] => ([] : List EgEntry)
      | d :: ds => [mkEntry h it.token it.policy it.gen it.pos (ds.foldl vMin d) v it.flags []]) → b ∉ e.bytes := by
    cases lost <;> simp +contextual
  unfold itemEntries at he
  dsimp only at he
  split at he
  · rcases List.mem_append.mp he with he | he
    · exact absurd hb (told _ _ he)
    · rw [List.mem_singleton.mp he, mkEntry_bytes] at hb
      exact .inl hb
  · split at he
    · cases he
    · split at he
      · rw [List.mem_singleton.mp he] at hb
        cases hb
      · split at he
        · rename_i w found
          rcases List.mem_append.mp he with he | he
          · split at he
            · rw [List.mem_singleton.mp he, mkEntry_bytes] at hb
              exact (List.mem_append.mp hb).elim (fun hb => .inr ⟨w, List.mem_of_find?_eq_some found, hb⟩) .inl
            · cases he
          · exact absurd hb (told _ _ he)
        · rw [List.mem_singleton.mp he, mkEntry_bytes] at hb
          exact .inl (mem_of_mem_ite hb)

/-- An entry that the gate writes is one of an item's, made of the bytes of that item and the merged spans. -/
theorem Gate.mem_close {g : Gate} {h : Nat} {bad : List Nat} {waiting : List EgEntry} {x : Nat × EgEntry} (hx : x ∈ (g.close h bad waiting).1) :
    ∃ it i, x.2 ∈ itemEntries h bad waiting (mergeSpans (sortAsc (·.lo) g.spans)) it (g.bytes.filter fun y => y.item == i) := by
  obtain ⟨it, -, hx⟩ := List.mem_flatMap.mp hx
  obtain ⟨e, he, rfl⟩ := List.mem_map.mp hx
  exact ⟨it.2, it.1, he⟩

/-- Settles O35: `OnlyMarked` follows the bytes through the steps of `Gate.take`, and the entries' bytes are traced back through `itemEntries`,
`itemPay` and the merging of spans. -/
theorem withheldBytesStayInTheGate : Obligations.WithheldBytesStayInTheGate := by
  refine ⟨fun g p r v hi hc hp hr items y hy => ?_, fun g p r v y hy freed => ?_, fun g h bad waiting x b hx hb => ?_⟩
  · have none_brought : g.brought p r v = [] := if_neg (by
      obtain ⟨notPass, notRedact⟩ := effectOf_withholds hi hc hp hr
      simp [notPass, notRedact])
    rw [Gate.take_bytes] at hy
    obtain ⟨w, hw, item_yw, -⟩ := Gate.mem_release hy
    rcases Gate.mem_resolve hw with ⟨x, hx, item_wx, -⟩ | ⟨x, hx, -⟩
    · rw [item_yw, item_wx]
      exact items x hx
    · rw [none_brought] at hx
      cases hx
  · rw [Gate.take_bytes] at hy
    rw [Gate.take_pends]
    obtain ⟨w, hw, -, how⟩ := Gate.mem_release hy
    refine (how freed).imp_left fun same => ?_
    subst same
    rcases Gate.mem_resolve hw with ⟨x, hx, -, same⟩ | ⟨x, hx, -, held⟩
    · exact same freed ▸ hx
    · exact absurd freed held
  · obtain ⟨it, i, he⟩ := Gate.mem_close hx
    rcases itemEntries_bytes he hb with pay | waits
    · rcases itemPay_payable pay with ⟨y, hy, e⟩ | ⟨z, hz, hb⟩
      · exact .inl ⟨y, (List.mem_filter.mp hy).1, e⟩
      · obtain ⟨y, hy, e⟩ := mergeSpans_repl hz
        exact .inr (.inl ⟨y, mem_sortAsc hy, e ▸ hb⟩)
    · exact .inr (.inr waits)
end Sys2Proof.Machine
end

section
/-! Streams by their handle, and the boundary of a cancel (R99, R102, R146). -/

namespace Sys2Proof.Machine

/-! A stream by its handle (R102). -/

theorem State.stream?_congr {s t : State} (h : t.streams = s.streams) (k : Nat) : t.stream? k = s.stream? k := by simp [State.stream?, h]
theorem State.stream?_eq_some {s : State} {h : Nat} {st : Stream} :
    s.stream? h = some st ↔ AMap.get? s.streams (hIndex h) = some st ∧ st.handle = h ∧ st.phase ≠ .closed := by
  unfold State.stream?
  cases AMap.get? s.streams (hIndex h) with
  | none => simp
  | some x =>
    simp only [Option.ite_none_right_eq_some, Option.some.injEq, Bool.and_eq_true, decide_eq_true_eq, bne_iff_ne]
    constructor
    · rintro ⟨named, rfl⟩
      exact ⟨rfl, named⟩
    · rintro ⟨rfl, named⟩
      exact ⟨named, rfl⟩
theorem State.setStream_of_some {s : State} {h : Nat} {st : Stream} (hs : s.stream? h = some st) (f : Stream → Stream) :
    s.setStream h f = { s with streams := AMap.set s.streams (hIndex h) (f st) } := by
  simp only [State.setStream, hs]
/-- A stream that an update leaves open under its handle reads as updated. -/
theorem State.stream?_setStream {s : State} {h : Nat} {st : Stream} {f : Stream → Stream} (hs : s.stream? h = some st)
    (handle : (f st).handle = h) (phase : (f st).phase ≠ .closed) : (s.setStream h f).stream? h = some (f st) := by
  rw [State.setStream_of_some hs]
  exact State.stream?_eq_some.mpr ⟨by simp, handle, phase⟩
/-- A handle names no stream once an update has closed the one it named. -/
theorem State.stream?_setStream_closed {s : State} {h : Nat} {st : Stream} {f : Stream → Stream} (hs : s.stream? h = some st)
    (closed : (f st).phase = .closed) : (s.setStream h f).stream? h = none := by
  rw [State.setStream_of_some hs]
  simp [State.stream?, closed]

/-! The boundary of a cancel. -/

/-- The first entry of the schedule is taken where it is due and of the kind asked for. -/
theorem State.takeEff_head {s : State} {e : Sched} {es : List Sched} {p : Eff → Bool} (hs : s.sched = e :: es) (ended : s.atEnd = true)
    (runs : s.clk.stopped = false) (due : beatLe e.at_ s.nextB = true) (hp : p e.eff = true) :
    s.takeEff p = some (e.eff, { s with sched := es }) := by
  simp [State.takeEff, hs, ended, runs, due, hp]
theorem State.takeEff_nil {s : State} (hs : s.sched = []) (p : Eff → Bool) : s.takeEff p = none := by
  simp [State.takeEff, hs]

theorem State.takeCancel_nil {s : State} (hs : s.sched = []) (h : Nat) : s.takeCancel h = s := by
  simp only [State.takeCancel, State.takeEff_nil hs]
  rfl
/-- An asked cancel at its boundary, alone in the schedule: it is taken whole, however often it stands there, and the stream is cancelled (R99). -/
theorem State.takeCancel_asked {s : State} {h b flags cmd : Nat} {event : Bool} {st : Stream} (ended : s.atEnd = true) (runs : s.clk.stopped = false)
    (due : beatLe b s.nextB = true) (alone : ∀ x ∈ s.sched, x = ⟨b, .cancel h vCancelled flags event, cmd⟩) (asked : s.sched ≠ [])
    (hs : s.stream? h = some st) : s.takeCancel h = ({ s with sched := [] } : State).cancelAt st vCancelled flags event := by
  obtain ⟨e, es, hes⟩ := List.exists_cons_of_ne_nil asked
  rw [hes] at alone
  obtain ⟨rfl, rest⟩ := List.forall_mem_cons.mp alone
  have named : ({ s with sched := [] } : State).stream? h = some st := hs
  have notBlock : ¬ vCancelled = vBlock := by decide
  unfold State.takeCancel
  extract_lets wanted ofStream
  have all_gone : es.filter (fun e => !ofStream e.eff) = [] := List.filter_eq_nil_iff.mpr fun x hx => by simp [ofStream, rest x hx]
  rw [State.takeEff_head hes ended runs due (by simp [wanted])]
  simp only [Option.orElse_some, all_gone, notBlock, decide_false, Bool.false_and, Bool.false_eq_true, if_false, named]

/-- The state of a cancel before its stream is closed: records, masks not begun, early frames and reads of the stream are gone, and with them the
entries of etype 10 that no batch has taken (R146). -/
def State.cancelDrops (s : State) (st : Stream) : State :=
  ({ s with
    recs := s.recs.filter (fun r => r.h != st.handle), masks := s.masks.filter (fun m => m.h != st.handle || m.begun),
    port := { s.port with early := s.port.early.filter fun e => st.slot != some e.1 },
    stack := { s.stack with allowUsed := s.stack.allowUsed.filter fun k => st.allowSlot != some k } } : State).setRing st.ring fun r => { r with
      acc := r.acc.map (fun (x : Nat × (Nat × List (Nat × Nat × EgEntry))) => (x.1, x.2.1, x.2.2.filter fun e => !(e.1 == st.handle && e.2.2.etype == 2))),
      loose := r.loose.filter (fun e => !(e.1 == st.handle && e.2.2.etype == 2)),
      waited := r.waited.filter (fun e => !(e.1 == st.handle && e.2.2.etype == 2)), next := r.next.filter fun e => e.1 != st.handle }
/-- A stream as its cancel leaves it. -/
def Stream.cancelled (x : Stream) : Stream := { x with phase := .closed, slot := none, held := [], pends := [], waiting := [], nodes := [], jobs := [] }
/-- A cancel in its parts: the drops, the stream's commands ended, the stream closed and, for one by a doorbell, its event. -/
theorem State.cancelAt_eq (s : State) (st : Stream) (code flags : Nat) (event : Bool) : s.cancelAt st code flags event =
    let u := (((s.cancelDrops st).cmds.filter fun c => c.stream == st.handle && namesStream c.opcode).foldl endCmd (s.cancelDrops st)).setStream
      st.handle Stream.cancelled
    if event then (u.postVerdict st 3 code flags u.nextB 0 st.charged []).count 109 1 else u := rfl
theorem State.cancelAt_of_unnamed {s : State} {st : Stream} (noCmds : ∀ c ∈ s.cmds, c.stream ≠ st.handle) (code flags : Nat) (event : Bool) :
    s.cancelAt st code flags event =
      let u := (s.cancelDrops st).setStream st.handle Stream.cancelled
      if event then (u.postVerdict st 3 code flags u.nextB 0 st.charged []).count 109 1 else u := by
  have none_named : (s.cancelDrops st).cmds.filter (fun c => c.stream == st.handle && namesStream c.opcode) = [] :=
    List.filter_eq_nil_iff.mpr fun c hc => by simp [noCmds c hc]
  rw [State.cancelAt_eq, none_named]
  rfl

/-- A verdict or event entry is queued on its stream's ring. -/
theorem State.postVerdict_queues (s : State) (st : Stream) (kind verdict flags relBeat chunk pos : Nat) (after : List Nat) :
    ∃ c ∈ ((s.postVerdict st kind verdict flags relBeat chunk pos after).ring st.ring).cqPend,
      c.kind = kind ∧ c.stream = st.handle ∧ c.verdict = verdict ∧ c.pos = pos := by
  rw [State.postVerdict, State.post_ring, if_pos rfl]
  exact ⟨_, List.mem_append_right _ (List.mem_singleton.mpr rfl), rfl, rfl, rfl, rfl⟩
/-- What the event of a cancel leaves of the state with the stream closed. -/
theorem State.cancelAt_ends {s : State} {st : Stream} (hs : s.stream? st.handle = some st) (noCmds : ∀ c ∈ s.cmds, c.stream ≠ st.handle) (code : Nat) :
    let t := s.cancelAt st code 0 true
    t.stream? st.handle = none ∧ t.sched = s.sched ∧ t.recs = s.recs.filter (fun r => r.h != st.handle)
      ∧ t.masks = s.masks.filter (fun m => m.h != st.handle || m.begun)
      ∧ (∃ c ∈ (t.ring st.ring).cqPend, c.kind = 3 ∧ c.stream = st.handle ∧ c.verdict = code ∧ c.pos = st.charged)
      ∧ t.images = s.images ∧ t.tenants = s.tenants ∧ t.cmds = s.cmds ∧ t.regs = s.regs := by
  have closed : ((s.cancelDrops st).setStream st.handle Stream.cancelled).stream? st.handle = none :=
    State.stream?_setStream_closed (s := s.cancelDrops st) hs rfl
  rw [State.cancelAt_of_unnamed noCmds]
  refine ⟨closed, ?_, ?_, ?_, ?_, ?_, ?_, ?_, ?_⟩
  case refine_4 => exact State.postVerdict_queues _ st 3 code 0 _ 0 st.charged []
  all_goals simp [State.postVerdict, State.cancelDrops]

/-- Settles O20: an asked cancel leaves the schedule whole (`takeCancel_asked`) and, with no command of its stream, is the drops, the closing and
the event (`cancelAt_ends`). -/
theorem cancelEndsTheStream : Obligations.CancelEndsTheStream := by
  intro h b st s
  refine ⟨fun none_due => congrArg Host.Outcome.next (State.takeCancel_nil none_due h.toNat), fun runs ended due alone asked hs noCmds => ?_⟩
  obtain ⟨-, handle, -⟩ := State.stream?_eq_some.mp hs
  refine ⟨_, congrArg Host.Outcome.next (State.takeCancel_asked ended runs due alone asked hs), ?_⟩
  rw [← handle] at hs noCmds ⊢
  exact State.cancelAt_ends (s := { s with sched := [] }) hs noCmds vCancelled
end Sys2Proof.Machine
end

section
/-! Sealing: the combination of verdicts, what sealing one record leaves of another, and the verdict of a record without models (R35, R131). -/

namespace Sys2Proof.Machine

/-! The combination of verdicts (R131). -/

theorem vRank_vMin_le_left (a b : Nat) : vRank (vMin a b) ≤ vRank a := by
  unfold vMin
  split <;> omega
theorem vRank_vMin_le_right (a b : Nat) : vRank (vMin a b) ≤ vRank b := by
  unfold vMin
  split <;> omega
theorem vMin_eq_or (a b : Nat) : vMin a b = a ∨ vMin a b = b := (ite_eq_or_eq (vRank b < vRank a) b a).symm
/-- Folded from any verdict, the combination has the lowest rank of that verdict and the list's. -/
theorem vRank_foldl_vMin_le (vs : List Nat) (a : Nat) {v : Nat} (h : v ∈ vs ∨ v = a) : vRank (vs.foldl vMin a) ≤ vRank v := by
  induction vs generalizing a v with
  | nil => exact (h.resolve_left List.not_mem_nil) ▸ le_rfl
  | cons b vs ih =>
    rw [List.foldl_cons]
    have start : vRank (vs.foldl vMin (vMin a b)) ≤ vRank (vMin a b) := ih _ (.inr rfl)
    rcases h with h | rfl
    · rcases List.mem_cons.mp h with e | h
      · exact e ▸ start.trans (vRank_vMin_le_right _ _)
      · exact ih _ (.inl h)
    · exact start.trans (vRank_vMin_le_left _ _)
theorem foldl_vMin_mem (vs : List Nat) (a : Nat) : vs.foldl vMin a ∈ vs ∨ vs.foldl vMin a = a := by
  induction vs generalizing a with
  | nil => exact .inr rfl
  | cons b vs ih =>
    rw [List.foldl_cons]
    rcases ih (vMin a b) with h | h
    · exact .inl (List.mem_cons_of_mem _ h)
    · rw [h]
      exact (vMin_eq_or a b).elim .inr fun e => .inl (List.mem_cons.mpr (.inl e))

/-! A record by its id. -/

/-- An update of one record that leaves its id. -/
theorem State.rec?_setRec {f : Rec → Rec} (hf : ∀ x, (f x).id = x.id) (s : State) (i j : Nat) :
    (s.setRec i f).rec? j = if j = i then (s.rec? j).map f else s.rec? j := by
  unfold State.rec? State.setRec
  dsimp only
  induction s.recs with
  | nil => simp
  | cons x xs ih =>
    have same : (if x.id = i then f x else x).id = x.id := by
      split
      · exact hf x
      · rfl
    rw [List.map_cons, List.find?_cons, List.find?_cons, same]
    by_cases hj : x.id = j
    · by_cases hi : j = i
      · simp [hj, hi]
      · simp [hj, hi]
    · simp [beq_eq_false_iff_ne.mpr hj, ih]
/-- Another record's removal. -/
theorem State.rec?_filter {s t : State} {i j : Nat} (ht : t.recs = s.recs.filter fun x => x.id != i) (h : j ≠ i) : t.rec? j = s.rec? j := by
  unfold State.rec?
  rw [ht, List.find?_filter]
  congr 1
  funext x
  by_cases hx : x.id = j
  · simp [hx, h]
  · simp [hx]
theorem State.rec?_id {s : State} {i : Nat} {r : Rec} (h : s.rec? i = some r) : r.id = i := by
  simpa using List.find?_some h
theorem State.rec?_mem {s : State} {i : Nat} {r : Rec} (h : s.rec? i = some r) : r ∈ s.recs := List.mem_of_find?_eq_some h
/-- A record is found by its id where no other one has it. -/
theorem State.rec?_of_unique {s : State} {r : Rec} (h : r ∈ s.recs) (unique : ∀ x ∈ s.recs, x.id = r.id → x = r) : s.rec? r.id = some r := by
  cases e : s.rec? r.id with
  | none => exact absurd (by simp) (List.find?_eq_none.mp e r h)
  | some x => rw [unique x (State.rec?_mem e) (State.rec?_id e)]

/-! What sealing one record leaves of another. -/

/-- An update that leaves a stream's handle and phase leaves which handles name an open stream. -/
theorem State.isSome_stream?_setStream {f : Stream → Stream} (hf : ∀ x, (f x).handle = x.handle ∧ (f x).phase = x.phase) (s : State) (g h : Nat) :
    ((s.setStream g f).stream? h).isSome = (s.stream? h).isSome := by
  cases hg : s.stream? g with
  | none => simp only [State.setStream, hg]
  | some st =>
    obtain ⟨named, handle, phase⟩ := State.stream?_eq_some.mp hg
    rw [State.setStream_of_some hg]
    by_cases same : hIndex h = hIndex g
    · simp only [State.stream?, AMap.get?_set, same, if_true, named, (hf st).1, (hf st).2]
      split <;> rfl
    · simp only [State.stream?, AMap.get?_set, same, if_false]

/-- From u to t, a record, whether its stream is open, and what else its sealing reads are as they were. -/
structure KeepsRec (id h : Nat) (u t : State) : Prop where
  clk : t.clk = u.clk
  regs : t.regs = u.regs
  range : t.range = u.range
  record : t.rec? id = u.rec? id
  stream : (t.stream? h).isSome = (u.stream? h).isSome

section
variable {id h : Nat}

theorem KeepsRec.refl (s : State) : KeepsRec id h s s := ⟨rfl, rfl, rfl, rfl, rfl⟩
theorem KeepsRec.trans {s t u : State} (a : KeepsRec id h s t) (b : KeepsRec id h t u) : KeepsRec id h s u :=
  ⟨b.clk.trans a.clk, b.regs.trans a.regs, b.range.trans a.range, b.record.trans a.record, b.stream.trans a.stream⟩
theorem KeepsRec.foldl {α : Type} {f : State → α → State} {l : List α} (hf : ∀ s, ∀ a ∈ l, KeepsRec id h s (f s a)) (s : State) :
    KeepsRec id h s (l.foldl f s) := by
  induction l generalizing s with
  | nil => exact .refl s
  | cons a l ih => exact (hf s a List.mem_cons_self).trans (ih (fun s b hb => hf s b (List.mem_cons_of_mem _ hb)) _)
theorem KeepsRec.of_front {s t : State} (e : t.front = s.front) : KeepsRec id h s t where
  clk := congrArg Front.clk e
  regs := congrArg Front.regs e
  range := congrArg Front.range e
  record := by
    have : t.recs = s.recs := congrArg Front.recs e
    simp [State.rec?, this]
  stream := congrArg Option.isSome (State.stream?_congr (congrArg Front.streams e) h)
theorem KeepsRec.setRec {f : Rec → Rec} (hf : ∀ x, (f x).id = x.id) (s : State) {i : Nat} (other : id ≠ i) : KeepsRec id h s (s.setRec i f) where
  clk := rfl
  regs := rfl
  range := rfl
  record := by rw [State.rec?_setRec hf, if_neg other]
  stream := rfl
theorem KeepsRec.setStream {f : Stream → Stream} (hf : ∀ x, (f x).handle = x.handle ∧ (f x).phase = x.phase) (s : State) (g : Nat) :
    KeepsRec id h s (s.setStream g f) where
  clk := by simp
  regs := by simp
  range := by simp
  record := by simp [State.rec?]
  stream := State.isSome_stream?_setStream hf s g h
theorem KeepsRec.isFirst {s t : State} (k : KeepsRec id h s t) : t.isFirst = s.isFirst := by
  simp only [State.isFirst, State.selfId, k.range, k.regs]
theorem KeepsRec.beat {s t : State} (k : KeepsRec id h s t) : t.beat = s.beat := congrArg (fun c : ClockS => c.beat.toNat) k.clk

theorem putCtx_keepsRec (s : State) (r : Rec) (c : Ctx) : KeepsRec id h s (s.putCtx r c) :=
  .setStream (fun x => by split <;> exact ⟨rfl, rfl⟩) s r.h
theorem putAccs_keepsRec (s : State) (r : Rec) (c : Ctx) : KeepsRec id h s (s.putAccs r c) :=
  .setStream (fun x => by split <;> [skip; split] <;> exact ⟨rfl, rfl⟩) s r.h
theorem foldNew_keepsRec (s : State) (r : Rec) : KeepsRec id h s (s.foldNew r) := by
  unfold State.foldNew
  split
  · split
    · exact .setStream (fun x => by exact ⟨rfl, rfl⟩) s r.h
    · exact .refl s
  · exact .refl s
theorem adoptPath_keepsRec (s : State) (st : Stream) {r : Rec} (other : id ≠ r.id) : KeepsRec id h s (s.adoptPath st r) := by
  have removed : KeepsRec id h s { s with recs := s.recs.filter fun x => x.id != r.id } :=
    ⟨rfl, rfl, rfl, State.rec?_filter rfl other, rfl⟩
  exact removed.trans (.setStream (fun x => by exact ⟨rfl, rfl⟩) _ st.handle)
theorem giveUp_keepsRec (s : State) {i : Nat} (v : Nat) (other : id ≠ i) : KeepsRec id h s (s.giveUp i v) := by
  unfold State.giveUp
  split
  · exact .refl s
  · rename_i r found
    have marked {f : Rec → Rec} (hf : ∀ x, (f x).id = x.id) (u : State) : KeepsRec id h u (u.setRec i f) := .setRec hf u other
    split
    · exact .refl s
    · split
      · exact marked (fun x => by rfl) s
      · split
        · exact (marked (fun x => by rfl) s).trans (adoptPath_keepsRec _ _ (State.rec?_id found ▸ other))
        · exact (marked (fun x => by rfl) s).trans ((marked (fun x => by rfl) _).trans (putCtx_keepsRec _ _ _))
theorem expire_keepsRec (s : State) {i : Nat} (other : id ≠ i) : KeepsRec id h s (s.expire i) :=
  (KeepsRec.setRec (f := fun x => { x with flags := setFlag x.flags fRecExt }) (fun _ => rfl) s other).trans (giveUp_keepsRec _ _ other)
@[simp] theorem traceScores_front (s : State) (r : Rec) (vs : List (Nat × List W32)) : (traceScores s r vs).front = s.front := by
  simp [traceScores]
end

/-! Sealing a record. -/

/-- A record with its verdict sealed in a beat (R35). -/
def Rec.sealWith (v flags beat : Nat) (x : Rec) : Rec := { x with sealed := true, verdict := v, flags := flags, rel := beatMax x.rel beat }
/-- The verdict of a committed record that has no model: that of its results, a draw without a token, a held stack tier and a shed class,
INDETERMINATE where the two check codes differ (R131, R135, R348). -/
def plainVerdict (mis : List (W32 × Nat)) (r : Rec) : Nat :=
  if mis.any (fun y => y.1.toNat == r.h && y.2 == r.pos) then vIndet
  else combine (r.results ++ (if r.draw = 3 then [vBudget] else []) ++ (if r.noStack then [vHold] else [])
    ++ (if r.shed = 1 then [vHold] else if r.shed = 2 then [vBudget] else []))
/-- A committed record whose verdict is `plainVerdict`: no model, no NaN seen. -/
structure Rec.Plain (r : Rec) : Prop where
  kind : r.kind = .committed
  models : r.models = []
  noNan : hasFlag r.flags fNanSeen = false

/-- The recovery-extension flag is another bit than the NaN flag (Table 4-7). -/
theorem hasFlag_or_recExt (f : Nat) (c : Prop) [Decidable c] : hasFlag (f ||| (if c then fRecExt else 0)) fNanSeen = hasFlag f fNanSeen := by
  have other : (if c then fRecExt else 0) &&& fNanSeen = 0 := by split <;> rfl
  rw [hasFlag, hasFlag, Nat.and_or_distrib_right, other, Nat.or_zero]
/-- Sealing a record of an open stream: nothing else of any record, and its own verdict (R35). -/
theorem State.sealRec_of_open {s : State} {mis : List (W32 × Nat)} {id : Nat} {r : Rec} {st : Stream} (hr : s.rec? id = some r)
    (hs : s.stream? r.h = some st) :
    ∃ u v flags, (∀ i h, KeepsRec i h s u) ∧ (s.sealRec mis id).front = (u.setRec id (Rec.sealWith v flags s.beat)).front
      ∧ (s.isFirst = true → r.Plain → v = plainVerdict mis r ∧ hasFlag flags fNanSeen = false) := by
  generalize sealed : s.sealRec mis id = t
  unfold State.sealRec at sealed
  rw [hr] at sealed
  dsimp -zeta only at sealed
  rw [hs] at sealed
  extract_lets p d late absent pred bad at sealed
  dsimp -zeta only at sealed
  extract_lets read flags0 flags res v deltas s1 s2 s3 s4 at sealed
  have before : ∀ i h, KeepsRec i h s s2 := by
    intro i h
    have counted : KeepsRec i h s s1 := (putAccs_keepsRec s r _).trans ((foldNew_keepsRec _ r).trans (.of_front (State.count_front _ 29 (b2n bad))))
    refine counted.trans ?_
    by_cases h : deltas.isEmpty = true
    · simpa [s2, h] using KeepsRec.refl s1
    · simpa [s2, h] using KeepsRec.setStream (fun x => by exact ⟨rfl, rfl⟩) s1 r.h
  refine ⟨s2, v, flags, before, ?_, fun first plain => ?_⟩
  · rw [← sealed, State.ev_front, traceScores_front, ← (before 0 0).beat]
    rfl
  · obtain ⟨kind, models, noNan⟩ := plain
    have nothing_read : read = [] := by simp [read, kind, models, foldModels]
    have flags_eq : flags = r.flags ||| (if beatLt r.sealBy s.beat then fRecExt else 0) := by
      simp [flags, flags0, readsDelta, absent, models, foldModels, pred, predRes, first]
    have no_nan : hasFlag flags fNanSeen = false := by
      rw [flags_eq, hasFlag_or_recExt, noNan]
    refine ⟨?_, no_nan⟩
    simp [v, plainVerdict, bad, kind, res, pred, predRes, first, late, absent, models, nothing_read, scoreRules, no_nan]
theorem sealRec_keepsRec (s : State) (mis : List (W32 × Nat)) {id h i : Nat} (other : id ≠ i) : KeepsRec id h s (s.sealRec mis i) := by
  cases hr : s.rec? i with
  | none =>
    rw [State.sealRec, hr]
    exact .refl s
  | some r =>
    cases hs : s.stream? r.h with
    | none =>
      simp only [State.sealRec, hr, hs]
      exact .refl s
    | some st =>
      obtain ⟨u, v, flags, before, front, -⟩ := State.sealRec_of_open (mis := mis) hr hs
      exact (before id h).trans ((KeepsRec.setRec (f := Rec.sealWith v flags s.beat) (fun _ => rfl) u other).trans (.of_front front))

/-! A record without models through the seal phase. -/

/-- What the seal of a record of a stream asks of a state, in a beat, where no predecessor's result is awaited. -/
structure SealsIn (h beat : Nat) (s : State) : Prop where
  first : s.isFirst = true
  beat : s.beat = beat
  stream : (s.stream? h).isSome = true
theorem SealsIn.keep {h beat id : Nat} {s t : State} (a : SealsIn h beat s) (k : KeepsRec id h s t) : SealsIn h beat t :=
  ⟨k.isFirst.trans a.first, k.beat.trans a.beat, k.stream.trans a.stream⟩

/-- A record sealed in a beat with its plain verdict. -/
def SealedPlain (mis : List (W32 × Nat)) (beat : Nat) (r x : Rec) : Prop :=
  ∃ flags, hasFlag flags fNanSeen = false ∧ x = r.sealWith (plainVerdict mis r) flags beat
theorem beatMax_beatMax (a b : Nat) : beatMax (beatMax a b) b = beatMax a b := by
  unfold beatMax
  split <;> simp_all
/-- Sealing again in the same beat changes nothing but the flags. -/
theorem SealedPlain.again {mis : List (W32 × Nat)} {beat flags : Nat} {r x : Rec} (h : x = r ∨ SealedPlain mis beat r x)
    (noNan : hasFlag flags fNanSeen = false) : SealedPlain mis beat r (x.sealWith (plainVerdict mis x) flags beat) := by
  rcases h with rfl | ⟨f, -, rfl⟩
  · exact ⟨flags, noNan, rfl⟩
  · refine ⟨flags, noNan, ?_⟩
    change ({ r with sealed := true, verdict := plainVerdict mis r, flags := flags, rel := beatMax (beatMax r.rel beat) beat } : Rec) = _
    rw [beatMax_beatMax]
    rfl
theorem SealedPlain.plain {mis : List (W32 × Nat)} {beat : Nat} {r x : Rec} (h : x = r ∨ SealedPlain mis beat r x) (p : r.Plain) :
    x.Plain ∧ x.h = r.h := by
  rcases h with rfl | ⟨f, noNan, rfl⟩
  · exact ⟨p, rfl⟩
  · exact ⟨⟨p.kind, p.models, noNan⟩, rfl⟩

section
variable {mis : List (W32 × Nat)} {beat : Nat} {r x : Rec} {s : State}

/-- A plain record's own seal. -/
theorem State.sealRec_plain (p : r.Plain) (ready : SealsIn r.h beat s) (hx : s.rec? r.id = some x) (state : x = r ∨ SealedPlain mis beat r x) :
    SealsIn r.h beat (s.sealRec mis r.id) ∧ ∃ y, (s.sealRec mis r.id).rec? r.id = some y ∧ SealedPlain mis beat r y := by
  obtain ⟨px, same⟩ := SealedPlain.plain state p
  obtain ⟨st, hs⟩ := Option.isSome_iff_exists.mp ready.stream
  obtain ⟨u, v, flags, before, front, verdict⟩ := State.sealRec_of_open (mis := mis) hx (same ▸ hs)
  obtain ⟨rfl, noNan⟩ := verdict ready.first px
  have after : KeepsRec r.id r.h (u.setRec r.id (Rec.sealWith (plainVerdict mis x) flags s.beat)) (s.sealRec mis r.id) := .of_front front
  obtain ⟨first, beat_eq, stream⟩ := ready.keep (before r.id r.h)
  have marked : SealsIn r.h beat (u.setRec r.id (Rec.sealWith (plainVerdict mis x) flags s.beat)) := ⟨first, beat_eq, stream⟩
  refine ⟨marked.keep after, _, ?_, SealedPlain.again state noNan⟩
  rw [after.record, State.rec?_setRec (f := Rec.sealWith _ flags s.beat) (fun _ => rfl), if_pos rfl, (before r.id r.h).record, hx, ready.beat]
  rfl
/-- The seals of a beat in any order: a plain record among them, or sealed already, is sealed with its plain verdict. -/
theorem State.foldl_sealRec_plain (p : r.Plain) (ids : List Nat) (ready : SealsIn r.h beat s) (hx : s.rec? r.id = some x)
    (state : x = r ∨ SealedPlain mis beat r x) (due : r.id ∈ ids ∨ SealedPlain mis beat r x) :
    ∃ y, (ids.foldl (fun s id => s.sealRec mis id) s).rec? r.id = some y ∧ SealedPlain mis beat r y := by
  induction ids generalizing s x with
  | nil => exact ⟨x, hx, due.resolve_left List.not_mem_nil⟩
  | cons i ids ih =>
    by_cases own : r.id = i
    · subst own
      obtain ⟨ready', y, hy, done⟩ := State.sealRec_plain p ready hx state
      exact ih ready' hy (.inr done) (.inr done)
    · have kept := sealRec_keepsRec s mis (h := r.h) own
      refine ih (ready.keep kept) (kept.record.trans hx) state (due.imp_left fun h => ?_)
      exact (List.mem_cons.mp h).resolve_left own

theorem mem_sealOrder (h : r ∈ s.recs) (due : sealDue s r = true) : r.id ∈ sealOrder s := by
  have mem : r ∈ s.recs.filter (sealDue s) := List.mem_filter.mpr ⟨h, due⟩
  refine List.mem_map_of_mem (List.mem_append.mpr ?_)
  by_cases inp : (r.kind == .span || r.kind == .chunk) = true
  · exact .inl (List.mem_filter.mpr ⟨mem, inp⟩)
  · exact .inr (List.mem_filter.mpr ⟨mem, by simpa using inp⟩)
theorem sealDue_congr {t : State} (h : t.beat = s.beat) (r : Rec) : sealDue t r = sealDue s r := by
  simp only [sealDue, h]
/-- A record that may be sealed has not run out of its recovery's time (R74). -/
theorem not_expired_of_sealDue {t : State} (due : sealDue s r = true) : expired t r = false := by
  simp only [sealDue, Bool.and_eq_true, List.all_eq_true, bne_iff_ne] at due
  obtain ⟨⟨⟨⟨⟨-, -⟩, screened⟩, noWait⟩, running⟩, -⟩ := due
  have none_running : r.models.any (fun m => m.st == 5) = false := by simpa using running
  simp [expired, screened, noWait, none_running]
theorem missing_nil_of_first (first : s.isFirst = true) : s.recs.filter (missingAt s) = [] :=
  List.filter_eq_nil_iff.mpr fun x _ => by simp [missingAt, first]
/-- Dependent rounds are of models (R321). -/
theorem State.depRounds_of_noModels (none : ∀ x ∈ s.recs, x.models = []) : s.depRounds = s := by
  have all (l : List Rec) (h : ∀ x ∈ l, x.models = []) : l.foldl (fun s r => r.models.foldl (fun s m => s.depRound r m) s) s = s := by
    induction l with
    | nil => rfl
    | cons x l ih =>
      rw [List.foldl_cons, h x List.mem_cons_self]
      exact ih fun y hy => h y (List.mem_cons_of_mem _ hy)
  exact all _ fun x hx => none x (mem_sortAsc hx)
end

/-- The state in which the seal phase begins. -/
def State.sealing (s : State) (mis : List (W32 × Nat)) : State :=
  { s.toPhase 2 with integ := { s.integ with mismatch := mis.map fun (x : W32 × Nat) => (x.1.toNat, x.2) } }
/-- The expiries of a seal phase (R74). -/
def State.expireAll (s : State) : State := ((s.recs.filter (expired s)).map (·.id)).foldl State.expire s
/-- The seal phase of an instance that awaits no predecessor, where no record has models: the expiries, then the seals. -/
theorem State.sealBeat_of_first {s : State} (mis : List (W32 × Nat)) (first : s.isFirst = true) (none : ∀ x ∈ s.recs, x.models = []) :
    s.sealBeat mis = (sealOrder (s.sealing mis).expireAll).foldl (fun s id => s.sealRec mis id) (s.sealing mis).expireAll := by
  have noRounds : (s.sealing mis).depRounds = s.sealing mis := State.depRounds_of_noModels none
  have noMissing : (s.sealing mis).recs.filter (missingAt (s.sealing mis)) = [] := missing_nil_of_first first
  unfold State.sealBeat
  extract_lets begun old noted dep missing all
  have dep_eq : dep = s.sealing mis := noRounds
  have missing_eq : missing = s.sealing mis := by
    simp only [missing, dep_eq, noMissing]
    rfl
  have all_eq : all = (s.sealing mis).expireAll := by
    simp only [all, missing_eq]
    rfl
  rw [all_eq]
/-- The expiries leave a record that may be sealed, where no other one has its id. -/
theorem State.expireAll_keepsRec {s : State} {r : Rec} (h : Nat) (unique : ∀ x ∈ s.recs, x.id = r.id → x = r) (due : sealDue s r = true) :
    KeepsRec r.id h s s.expireAll := by
  refine .foldl (fun u i hi => expire_keepsRec u ?_) s
  obtain ⟨x, hx, rfl⟩ := List.mem_map.mp hi
  obtain ⟨mem, late⟩ := List.mem_filter.mp hx
  intro same
  rw [unique x mem same.symm, not_expired_of_sealDue due] at late
  cases late
theorem State.sealPhase_of_computed {s : State} (mis : List (W32 × Nat)) (live : s.live = true) (phase : s.clk.phase = 1) :
    exec (.sealPhase mis) s = .next (s.sealBeat mis) := by
  have computed : s.runTo 2 = s := by simp [State.runTo, phase]
  simp only [State.live, Bool.and_eq_true, Bool.not_eq_eq_eq_not, Bool.not_true] at live
  refine congrArg Host.Outcome.next ((if_pos ?_).trans (congrArg (State.sealBeat · mis) computed))
  simp [live, phase]

/-- Settles O34: the record comes through the expiries (`expireAll_keepsRec`) and is sealed with its plain verdict among the seals of the beat
(`foldl_sealRec_plain`). -/
theorem sealedVerdictHasTheLowestRank : Obligations.SealedVerdictHasTheLowestRank := by
  refine ⟨fun vs v h => vRank_foldl_vMin_le vs vPass h, fun vs => foldl_vMin_mem vs vPass, ?_⟩
  intro mis r st s live phase first mem unique noModels hs kind due noNan
  have plain : r.Plain := ⟨kind, noModels r mem, noNan⟩
  have begun : SealsIn r.h s.beat (s.sealing mis) := ⟨first, rfl, Option.isSome_iff_exists.mpr ⟨st, hs⟩⟩
  have found : (s.sealing mis).rec? r.id = some r := State.rec?_of_unique (s := s.sealing mis) mem unique
  have kept : KeepsRec r.id r.h (s.sealing mis) (s.sealing mis).expireAll := State.expireAll_keepsRec r.h unique due
  have found' : (s.sealing mis).expireAll.rec? r.id = some r := kept.record.trans found
  have listed : r.id ∈ sealOrder (s.sealing mis).expireAll :=
    mem_sealOrder (State.rec?_mem found') ((sealDue_congr kept.beat r).trans due)
  obtain ⟨x, hx, flags, -, rfl⟩ := State.foldl_sealRec_plain (mis := mis) plain _ (begun.keep kept) found' (.inl rfl) (.inl listed)
  rw [← State.sealBeat_of_first mis first noModels] at hx
  exact ⟨_, _, State.sealPhase_of_computed mis live phase, hx, rfl, rfl, rfl, rfl, rfl, rfl⟩
end Sys2Proof.Machine
end

section
/-! Feature frames: the checks of their headers, and what a token frame or a span frame does (R122 to R128). -/

namespace Sys2Proof.Machine

/-! What the frame rules read of a state that has counted. -/

@[simp] theorem State.count_bound? (s : State) (i n slot : Nat) : (s.count i n).bound? slot = s.bound? slot := rfl
@[simp] theorem State.count_streamPol (s : State) (i n : Nat) (st : Stream) : (s.count i n).streamPol st = s.streamPol st := rfl
@[simp] theorem State.count_maxDraft (s : State) (i n rc : Nat) : (s.count i n).maxDraft rc = s.maxDraft rc := rfl
theorem State.streamPol_congr {s t : State} (images : t.images = s.images) (policies : t.policies = s.policies) (st : Stream) :
    t.streamPol st = s.streamPol st := by
  have only : t.streamPol st = ({ s with images := t.images, policies := t.policies } : State).streamPol st := rfl
  rw [only, images, policies]
theorem spanRead_congr {s t : State} (images : t.images = s.images) (d : PolDir) (n : Nat) : spanRead t d n = spanRead s d n := by
  have only : spanRead t d n = spanRead { s with images := t.images } d n := rfl
  rw [only, images]
/-- A counter after it is raised (R460). -/
theorem State.count_counter (s : State) (i n j : Nat) : AMap.getD (s.count i n).mgmt.counters j 0 =
    if j = i then (AMap.getD s.mgmt.counters i 0 + n) % 2 ^ 64 else AMap.getD s.mgmt.counters j 0 :=
  AMap.getD_set ..

@[simp] theorem State.stageFrame_recs (s : State) (i : Nat) (f : Feats) : (s.stageFrame i f).recs = s.recs := rfl
@[simp] theorem State.stageFrame_port (s : State) (i : Nat) (f : Feats) : (s.stageFrame i f).port = s.port := rfl
@[simp] theorem State.stageFrame_streams (s : State) (i : Nat) (f : Feats) : (s.stageFrame i f).streams = s.streams := rfl
@[simp] theorem State.stageFrame_sched (s : State) (i : Nat) (f : Feats) : (s.stageFrame i f).sched = s.sched := rfl

/-- A slot fault of a stream whose output is open ends it at the next boundary (R128). -/
theorem State.slotFault_of_open {st : Stream} (phase : st.phase = .inputOpen ∨ st.phase = .answering) (s : State) :
    s.slotFault st = (s.count 10 1).at s.nextB (.endOutput st.handle vIncomplete) := by
  refine if_pos ?_
  rcases phase with h | h <;> simp [h]
theorem State.slotFault_leaves {st : Stream} (phase : st.phase = .inputOpen ∨ st.phase = .answering) (s : State) :
    (s.slotFault st).recs = s.recs ∧ (s.slotFault st).port = s.port ∧ (s.slotFault st).streams = s.streams
      ∧ (s.slotFault st).sched = s.sched ++ [⟨s.nextB, .endOutput st.handle vIncomplete, 0⟩] := by
  rw [State.slotFault_of_open phase]
  exact ⟨rfl, rfl, rfl, rfl⟩

/-! The header's checks. -/

/-- What a frame's header and data give to the record that reads it (R122). -/
def frameFeats (x : FrameIn) : Feats :=
  ⟨fld x.hdr 16 15, frameElems (fld x.hdr 16 15) (fld x.hdr 14 0) x.data, fld (x.desc.headD 0#64) 15 0, fld (x.desc.headD 0#64) 31 16⟩

theorem phase_open {st : Stream} (phase : st.phase = .inputOpen ∨ st.phase = .answering) : st.phase ≠ .closing ∧ st.phase ≠ .outputEnded := by
  rcases phase with h | h <;> simp [h]
theorem State.frame_of_shut {s : State} (x : FrameIn) (shut : s.portOpen = false) : s.frame x = s := if_pos (by simp [shut])

section
variable {s : State} {x : FrameIn} (isOpen : s.portOpen = true) (kind : tkKind x.hdr = 4)
include isOpen kind

/-- A frame for no stream is counted (Table 4-5). -/
theorem State.frame_of_unbound (unbound : s.bound? (tkSlot x.hdr) = none) :
    s.frame x = (if frameWhole x then s.count 9 1 else s).count 11 1 := by
  unfold State.frame
  split <;> simp_all

variable {st : Stream} (bound : s.bound? (tkSlot x.hdr) = some st) (phase : st.phase = .inputOpen ∨ st.phase = .answering) (ended : st.ended = none)
include bound phase ended

/-- A frame cut short is a slot fault (R482). -/
theorem State.frame_of_cut (cut : frameWhole x = false) : s.frame x = s.slotFault st := by
  obtain ⟨notClosing, notEnded⟩ := phase_open phase
  simp [State.frame, isOpen, kind, bound, ended, cut, notClosing, notEnded]
/-- A whole span frame of the declared form (R125). -/
theorem State.frame_of_span (whole : frameWhole x = true) (use : fld x.hdr 18 17 = 1)
    (form : (fld x.hdr 14 0, fld x.hdr 16 15) = ((s.streamPol st).spanCount, (s.streamPol st).spanType)) (parent : tkParent x.hdr = 0)
    (node : tkNode x.hdr = 0) (step : tkStep x.hdr = 0) :
    s.frame x = (s.count 9 1).spanFrame st (tkSlot x.hdr) (fld (x.desc.headD 0#64) 55 32) (frameFeats x) := by
  obtain ⟨notClosing, notEnded⟩ := phase_open phase
  simp [State.frame, isOpen, kind, bound, ended, whole, notClosing, notEnded, use, form, parent, node, step, frameFeats]
/-- A whole token frame of the declared form (R124). -/
theorem State.frame_of_token (whole : frameWhole x = true)
    (use : fld x.hdr 18 17 = 0 ∧ tkNode x.hdr = 0 ∨ fld x.hdr 18 17 = 2 ∧ tkNode x.hdr < s.maxDraft st.rc)
    (form : (fld x.hdr 14 0, fld x.hdr 16 15) = ((s.streamPol st).tokCount, (s.streamPol st).tokType)) (parent : tkParent x.hdr = 0) :
    s.frame x = (s.count 9 1).tokenFrame st (tkSlot x.hdr) (tkStep x.hdr) (if fld x.hdr 18 17 = 2 then 1 else 0) (tkNode x.hdr) (frameFeats x) := by
  obtain ⟨notClosing, notEnded⟩ := phase_open phase
  rcases use with ⟨use, node⟩ | ⟨use, node⟩
  · simp [State.frame, isOpen, kind, bound, ended, whole, notClosing, notEnded, use, form, parent, node, frameFeats]
  · simp [State.frame, isOpen, kind, bound, ended, whole, notClosing, notEnded, use, form, parent, Nat.not_le.mpr node, frameFeats]
end

/-! Token frames (R124). -/

/-- A frame's step is at or before the slot's last closed step, or before its open part's (Table 4-5). -/
def frameLate (st : Stream) (step : Nat) : Bool :=
  (match st.lastClosed with | some l => !stepAfter step l | none => false)
    || (match st.step with | some q => q.seq != step && !stepAfter step q.seq | none => false)
/-- A record waits for the frame of a slot, step and use. -/
def frameWaits (st : Stream) (slot step k node : Nat) (r : Rec) : Bool :=
  r.h == st.handle && r.slot == slot && r.step == step && r.needFrame && !r.arrived
    && (if k == 1 then r.kind == .draft && r.node == node else r.kind == .committed)

section
variable {s : State} {st : Stream} {slot step k node : Nat} {f : Feats}

theorem State.tokenFrame_of_late (late : frameLate st step = true) : s.tokenFrame st slot step k node f = s.slotFault st := if_pos late
/-- A frame meets the record that waits for it. -/
theorem State.tokenFrame_of_waiting {r : Rec} (timely : frameLate st step = false) (waiting : s.recs.find? (frameWaits st slot step k node) = some r) :
    s.tokenFrame st slot step k node f = (s.setRec r.id fun x => { x with feats := some f, arrived := true }).stageFrame r.id f := by
  refine (if_neg (Bool.not_eq_true _ ▸ timely)).trans ?_
  split
  · rename_i x found
    have same : r = x := Option.some.inj (waiting.symm.trans found)
    rw [same]
  · rename_i found
    cases waiting.symm.trans found
/-- A frame that no record waits for, the first for its token, waits itself. -/
theorem State.tokenFrame_of_early (timely : frameLate st step = false) (none_waits : s.recs.find? (frameWaits st slot step k node) = none)
    (first : earlyFrame s slot step (frameKey k node) = none) :
    s.tokenFrame st slot step k node f = { s with port := { s.port with early := s.port.early ++ [(slot, step, frameKey k node, f)] } } := by
  refine (if_neg (Bool.not_eq_true _ ▸ timely)).trans ?_
  split
  · rename_i found
    cases none_waits.symm.trans found
  · exact if_neg (by simp [first])
end

/-! Span frames (R125). -/

/-- The record of a span frame. -/
def spanRec (st : Stream) (id slot start beat : Nat) (f : Feats) : Rec :=
  { Rec.blank with
    id := id, h := st.handle, kind := .span, slot := slot, token := start, n := (start - st.spanBase) / 64, feats := some f,
    arrived := true, arriveBeat := beat, policy := st.policy }
/-- The state with a span taken in. -/
def State.spanTaken (s : State) (st : Stream) (start : Nat) : State :=
  (s.count 4 1).fresh.2.setStream st.handle fun x => { x with spans := x.spans ++ [start] }

/-- What taking a span in leaves, and the stream with its span. -/
theorem State.spanTaken_leaves (s : State) (st : Stream) (start : Nat) :
    (s.spanTaken st start).images = s.images ∧ (s.spanTaken st start).policies = s.policies ∧ (s.spanTaken st start).recs = s.recs
      ∧ (s.spanTaken st start).port = s.port ∧ (s.spanTaken st start).sched = s.sched := by
  simp [State.spanTaken, State.fresh]
theorem State.spanTaken_stream {s : State} {st : Stream} (hs : s.stream? st.handle = some st) (start : Nat) :
    (s.spanTaken st start).stream? st.handle = some { st with spans := st.spans ++ [start] } := by
  obtain ⟨-, -, phase⟩ := State.stream?_eq_some.mp hs
  exact State.stream?_setStream (s := (s.count 4 1).fresh.2) hs rfl phase

section
variable {s : State} {st : Stream} {slot start : Nat} {f : Feats} (aligned : start % 64 = 0) (passed : spanPassed st start = true)
  (new : start ∉ st.spans)
include aligned passed new

/-- A passed span's frame is taken in once; it makes a record where a request-level classifier reads it before the input verdict (R40). -/
theorem State.spanFrame_of_passed : s.spanFrame st slot start f =
    if st.inVerdict.isSome || !spanRead s (s.streamPol st).inDir ((start - st.spanBase) / 64) then s.spanTaken st start
    else ({ s.spanTaken st start with recs := s.recs ++ [spanRec st s.nextId slot start s.beat f] } : State).stageFrame s.nextId f := by
  obtain ⟨images, policies, recs, -, -⟩ := s.spanTaken_leaves st start
  have unfolded : s.spanFrame st slot start f =
      if st.inVerdict.isSome || !spanRead (s.spanTaken st start) ((s.spanTaken st start).streamPol st).inDir ((start - st.spanBase) / 64) then s.spanTaken st start
      else ({ s.spanTaken st start with recs := (s.spanTaken st start).recs ++ [spanRec st s.nextId slot start s.beat f] } : State).stageFrame s.nextId f :=
    (if_neg (by simp [aligned, passed])).trans (if_neg (by simpa using new))
  rw [unfolded, State.streamPol_congr images policies, spanRead_congr images, recs]
end

/-- Settles O30: the header's checks (`frame_of_…`), then the branches of `tokenFrame` and `spanFrame`. -/
theorem featureFrameMeetsItsToken : Obligations.FeatureFrameMeetsItsToken := by
  intro f st s w p d0 start use key feats waits late
  have waits_eq : waits = frameWaits st (tkSlot w) (tkStep w) (if use = 2 then 1 else 0) (tkNode w) := by
    funext r
    by_cases draft : use = 2 <;> simp [waits, frameWaits, draft]
  have key_eq : key = frameKey (if use = 2 then 1 else 0) (tkNode w) := by
    by_cases draft : use = 2 <;> simp [key, frameKey, draft]
  refine ⟨fun shut => congrArg Host.Outcome.next (State.frame_of_shut f shut), fun isOpen kind unbound => ?_,
    fun isOpen kind bound ended phase => ⟨fun cut => ?_, fun whole uses form parent => ⟨fun isLate => ?_, fun r timely waiting => ?_, fun timely none_waits first => ?_⟩,
    fun whole isSpan form parent node step aligned passed new hs => ?_⟩⟩
  · refine ⟨_, congrArg Host.Outcome.next (State.frame_of_unbound isOpen kind unbound), ?_⟩
    rw [State.count_counter, if_pos rfl]
    by_cases whole : frameWhole f = true
    · rw [if_pos whole]
      exact ⟨rfl, rfl, rfl, rfl, by rw [State.count_counter, if_neg (by decide)]⟩
    · rw [if_neg whole]
      exact ⟨rfl, rfl, rfl, rfl, rfl⟩
  · have e := State.frame_of_cut isOpen kind bound phase ended cut
    exact ⟨_, rfl, e ▸ State.slotFault_leaves phase s⟩
  · have e := State.frame_of_token isOpen kind bound phase ended whole uses form parent
    rw [State.tokenFrame_of_late isLate] at e
    exact ⟨_, rfl, e ▸ State.slotFault_leaves phase (s.count 9 1)⟩
  · have e := State.frame_of_token isOpen kind bound phase ended whole uses form parent
    rw [State.tokenFrame_of_waiting (r := r) timely (waits_eq ▸ waiting)] at e
    exact ⟨_, rfl, e ▸ ⟨rfl, rfl, rfl, rfl⟩⟩
  · have e := State.frame_of_token isOpen kind bound phase ended whole uses form parent
    rw [State.tokenFrame_of_early timely (waits_eq ▸ none_waits) (key_eq ▸ first)] at e
    exact ⟨_, rfl, e ▸ ⟨rfl, rfl, rfl, key_eq ▸ rfl, rfl⟩⟩
  · have e := State.frame_of_span isOpen kind bound phase ended whole isSpan form parent node step
    rw [State.spanFrame_of_passed aligned passed new] at e
    obtain ⟨-, -, recs, port, sched⟩ := (s.count 9 1).spanTaken_leaves st start
    have stream := State.spanTaken_stream (s := s.count 9 1) hs start
    by_cases unread : (st.inVerdict.isSome || !spanRead s p.inDir ((start - st.spanBase) / 64)) = true
    · refine ⟨_, _, congrArg Host.Outcome.next (e.trans (if_pos unread)), stream, rfl, sched, port, fun _ => recs, fun undecided isRead => ?_⟩
      simp [undecided, isRead] at unread
    · refine ⟨_, _, congrArg Host.Outcome.next (e.trans (if_neg unread)), stream, rfl, sched, port, fun no => absurd ?_ unread,
        fun _ _ => ⟨_, rfl, rfl, rfl, rfl, rfl, rfl, rfl⟩⟩
      rcases no with h | h <;> simp [h]
end Sys2Proof.Machine
end

section
/-! Self-tests and calibrations: their bodies on a command that has just started, channels that leave service, and deferred commands (R53, R378, R379). -/

namespace Sys2Proof.Machine

/-! A command that has just started. -/

@[simp] theorem started_build (s : State) (d : Desc) : (s.started d).build = s.build := State.begin_build s d
@[simp] theorem started_regs (s : State) (d : Desc) : (s.started d).regs = s.regs := State.begin_regs s d
@[simp] theorem started_start (s : State) (d : Desc) : (s.started d).start = s.start := State.begin_start s d
@[simp] theorem started_clk (s : State) (d : Desc) : (s.started d).clk = s.clk := State.begin_clk s d
@[simp] theorem started_sched (s : State) (d : Desc) : (s.started d).sched = s.sched := State.begin_sched s d
@[simp] theorem started_streams (s : State) (d : Desc) : (s.started d).streams = s.streams := State.begin_streams s d
@[simp] theorem started_images (s : State) (d : Desc) : (s.started d).images = s.images := State.begin_images s d
@[simp] theorem started_stack (s : State) (d : Desc) : (s.started d).stack = s.stack := State.begin_stack s d
@[simp] theorem started_gov (s : State) (d : Desc) : (s.started d).gov = s.gov := State.begin_gov s d
@[simp] theorem started_integ (s : State) (d : Desc) : (s.started d).integ = s.integ := State.begin_integ s d
@[simp] theorem started_beat (s : State) (d : Desc) : (s.started d).beat = s.beat := by simp [State.beat]
@[simp] theorem started_nextB (s : State) (d : Desc) : (s.started d).nextB = s.nextB := by simp [State.nextB]
@[simp] theorem started_complete (s : State) (d : Desc) : (s.started d).complete = s.complete := by simp [State.complete]
@[simp] theorem started_testUnits (s : State) (d : Desc) (t : Nat) : testUnits (s.started d) t = testUnits s t := by
  have only : testUnits (s.started d) t = testUnits { s with build := (s.started d).build } t := rfl
  rw [only, started_build]
@[simp] theorem started_seriesPings (s : State) (d : Desc) (k : Nat) : seriesPings (s.started d) k = seriesPings s k := by
  have only : seriesPings (s.started d) k = seriesPings { s with build := (s.started d).build, regs := (s.started d).regs } k := rfl
  rw [only, started_build, started_regs]
@[simp] theorem started_liveChans (s : State) (d : Desc) : (s.started d).liveChans = s.liveChans := by
  have only : (s.started d).liveChans =
      ({ s with build := (s.started d).build, regs := (s.started d).regs, stack := (s.started d).stack } : State).liveChans := rfl
  rw [only, started_build, started_regs, started_stack]
@[simp] theorem started_cellTiles (s : State) (d : Desc) (k : Nat) : cellTiles (s.started d) k = cellTiles s k := by
  have only : cellTiles (s.started d) k = cellTiles { s with images := (s.started d).images } k := rfl
  rw [only, started_images]

/-- The started command running on as k. -/
def State.startedAs (s : State) (d : Desc) (k : CmdK) : Cmd := { s.startedCmd d with k := k }
/-- The state after the start, its command running on as k. -/
def State.startedOn (s : State) (d : Desc) (k : CmdK) : State := (s.started d).keep (s.startedCmd d) k

/-- Keeping the last of the commands, whose id no other one has. -/
theorem State.keep_cmds_last {u : State} {cs : List Cmd} {c : Cmd} (hu : u.cmds = cs ++ [c]) (others : ∀ x ∈ cs, x.id ≠ c.id) (k : CmdK) :
    (u.keep c k).cmds = cs ++ [{ c with k := k }] := by
  have same : cs.map (fun x => if x.id = c.id then { x with k := k } else x) = cs :=
    (List.map_congr_left fun x hx => if_neg (others x hx)).trans (List.map_id cs)
  simp only [State.keep, State.setCmd, hu, List.map_append, same, List.map_cons, List.map_nil, if_true]

section
variable {s : State} {d : Desc} (fresh : ∀ c ∈ s.cmds, c.id ≠ s.nextId)
include fresh

theorem startedOn_cmds (k : CmdK) : (s.startedOn d k).cmds = s.cmds ++ [s.startedAs d k] :=
  State.keep_cmds_last (started_cmds s d) fresh k
/-- A walk over the commands that touches none of the older ones comes to the started one alone. -/
theorem foldl_startedOn {k : CmdK} (f : State → Cmd → State) (older : ∀ u, ∀ c ∈ s.cmds, f u c = u) :
    (s.startedOn d k).cmds.foldl f (s.startedOn d k) = f (s.startedOn d k) (s.startedAs d k) := by
  have skip (cs : List Cmd) (h : ∀ c ∈ cs, f (s.startedOn d k) c = s.startedOn d k) : cs.foldl f (s.startedOn d k) = s.startedOn d k := by
    induction cs with
    | nil => rfl
    | cons c cs ih =>
      rw [List.foldl_cons, h c List.mem_cons_self]
      exact ih fun x hx => h x (List.mem_cons_of_mem _ hx)
  rw [startedOn_cmds fresh k, List.foldl_append, skip s.cmds (older _)]
  rfl
end

/-- The command of a descriptor runs on as k where it stands so among the commands and its ring is as after its start. -/
theorem runs_of_mem {s t : State} {d : Desc} {k : CmdK} (hc : s.startedAs d k ∈ t.cmds)
    (hr : t.ring d.ring.toNat = (s.started d).ring d.ring.toNat) : Runs s t d k := by
  refine ⟨⟨s.startedAs d k, hc, rfl, rfl, rfl, rfl, rfl⟩, ?_⟩
  rw [hr, started_ring, if_pos rfl]
  exact ⟨rfl, rfl⟩
/-- The command of a descriptor completes from a state that holds no command but the older ones and itself. -/
theorem completes_of_cmds {s u : State} {d : Desc} {c : Cmd} (r : Done) (hu : u.cmds = s.cmds ++ [c]) (hc : c.id = s.nextId)
    (hr : u.ring d.ring.toNat = (s.started d).ring d.ring.toNat) : Completes s (u.finish (s.startedCmd d) r) d r := by
  refine completes_finish r hr fun x hx => ?_
  rw [hu, List.mem_append, List.mem_singleton] at hx
  exact hx.imp_right fun e => (congrArg Cmd.id e).trans hc

/-! Self-tests. -/

theorem State.pumpTest_of_other {c : Cmd} (other : ∀ a b e f, c.k ≠ .test a b e f) (s : State) : s.pumpTest c = s := by
  unfold State.pumpTest
  split
  · exact absurd ‹_› (other _ _ _ _)
  · rfl
/-- A cell with margin and nothing placed on it: a faulty one leaves rotation, a good one leaves it for one beat (R53, R378). -/
theorem State.pumpTest_of_empty {u : State} {c : Cmd} {cell : Nat} {failed : Bool} (k : c.k = .test 0 cell failed false)
    (still : u.integ.moving = none) (margin : testMargin u = true) (empty : cellTiles u cell = []) :
    u.pumpTest c = if failed then u.testDone c 0 cell true
      else ((u.at u.nextB (.cellOut cell (Config.unlistedCause 2))).keep c (.test 0 cell failed true)).at (beatAdd u.nextB 1) (.cellBack cell) := by
  simp [State.pumpTest, k, still, margin, empty]

section
variable {d : Desc} {failed : Bool} {s : State} (ok : s.accepts d = true) (op : d.opcode = 0x28)
include ok op

theorem exec_selfTest : exec (.selfTest d failed) s = .next (selfTestBody d failed (s.started d) (s.startedCmd d)) :=
  congrArg Host.Outcome.next (runDesc_accepts ok (by simp [op]) _)
theorem selfTest_outside (outside : testUnits s (dfld d 2 3 0) ≤ dfld d 2 15 8) :
    exec (.selfTest d failed) s = .next ((s.started d).finish (s.startedCmd d) { status := stBadDesc }) :=
  (exec_selfTest ok op).trans (congrArg Host.Outcome.next (if_pos (by simpa using outside)))
/-- A test in slices has its result at once (R379). -/
theorem selfTest_slices (inside : dfld d 2 15 8 < testUnits s (dfld d 2 3 0))
    (slices : dfld d 2 3 0 ≠ 0 ∨ s.complete = false ∨ testMargin (s.started d) = false ∨ dfld d 2 15 8 ∈ s.integ.cellsOut) :
    exec (.selfTest d failed) s = .next ((s.started d).testDone (s.startedCmd d) (dfld d 2 3 0) (dfld d 2 15 8) failed) := by
  refine (exec_selfTest ok op).trans (congrArg Host.Outcome.next ((if_neg (by simpa using inside)).trans (if_neg ?_)))
  simp only [started_complete, started_integ, Bool.and_eq_true, decide_eq_true_eq, Bool.not_eq_eq_eq_not, Bool.not_true, List.contains_eq_mem]
  rintro ⟨⟨⟨cell, complete⟩, margin⟩, rotates⟩
  rcases slices with h | h | h | h
  · exact h cell
  · simp [complete] at h
  · simp [margin] at h
  · simp [h] at rotates
/-- A test out of rotation is under way as a command (R378). -/
theorem selfTest_rotates (inside : dfld d 2 15 8 < testUnits s (dfld d 2 3 0)) (cell : dfld d 2 3 0 = 0) (complete : s.complete = true)
    (margin : testMargin (s.started d) = true) (rotates : dfld d 2 15 8 ∉ s.integ.cellsOut) :
    exec (.selfTest d failed) s = .next (s.startedOn d (.test 0 (dfld d 2 15 8) failed false)).pumpTests :=
  (exec_selfTest ok op).trans (congrArg Host.Outcome.next ((if_neg (by simpa using inside)).trans
    (if_pos (by simp [cell, complete, margin, rotates]))))
end

/-- What the result of a test in slices leaves, by the result (R29, R53). -/
theorem testDone_started (s : State) (d : Desc) (target unit : Nat) (failed : Bool) :
    let t := (s.started d).testDone (s.startedCmd d) target unit failed
    Completes s t d { status := stOK, resB := b2n failed }
      ∧ (failed = false → t.integ = s.integ ∧ t.sched = s.sched)
      ∧ (failed = true → target ≠ 0 → t.integ.unitsOut = s.integ.unitsOut ++ [(target, unit)] ∧ t.sched = s.sched)
      ∧ (failed = true → target = 0 → t.integ = s.integ ∧ t.sched = s.sched ++ [⟨s.nextB, .cellOut unit (Config.unlistedCause 2), 0⟩])
      ∧ t.images = s.images ∧ t.streams = s.streams := by
  have completes {u : State} (hu : u.cmds = (s.started d).cmds) (hr : u.rings = (s.started d).rings) :
      Completes s (u.finish (s.startedCmd d) { status := stOK, resB := b2n failed }) d { status := stOK, resB := b2n failed } :=
    completes_of_cmds _ (hu.trans (started_cmds s d)) rfl (State.ring_congr hr _)
  unfold State.testDone
  cases failed with
  | false => exact ⟨completes rfl rfl, fun _ => by simp, nofun, nofun, by simp, by simp⟩
  | true =>
    by_cases cell : target = 0
    · simp only [Bool.not_true, Bool.false_eq_true, if_false, cell, if_true]
      exact ⟨completes rfl rfl, nofun, fun _ h => absurd rfl h, fun _ _ => by simp [State.at], by simp, by simp⟩
    · simp only [Bool.not_true, Bool.false_eq_true, if_false, if_neg cell]
      exact ⟨completes rfl rfl, nofun, fun _ _ => by simp, fun _ h => absurd h cell, by simp, by simp⟩

/-- What the test of a cell with nothing placed on it leaves: the result at once where it is faulty, else the command running on until the cell
is back (R53, R378). -/
theorem pumpTest_startedOn {s : State} {d : Desc} {cell : Nat} {failed : Bool} (fresh : ∀ c ∈ s.cmds, c.id ≠ s.nextId)
    (still : s.integ.moving = none) (margin : testMargin (s.started d) = true) (empty : cellTiles s cell = []) :
    let t := (s.startedOn d (.test 0 cell failed false)).pumpTest (s.startedAs d (.test 0 cell failed false))
    let out : Sched := ⟨s.nextB, .cellOut cell (Config.unlistedCause 2), 0⟩
    t.integ = s.integ ∧ t.streams = s.streams ∧ t.images = s.images
      ∧ (failed = true → Completes s t d { status := stOK, resB := 1 } ∧ t.sched = s.sched ++ [out])
      ∧ (failed = false → Runs s t d (.test 0 cell false true) ∧ t.sched = s.sched ++ [out, ⟨beatAdd s.nextB 1, .cellBack cell, 0⟩]) := by
  have e := State.pumpTest_of_empty (u := s.startedOn d (.test 0 cell failed false)) (c := s.startedAs d (.test 0 cell failed false))
    (cell := cell) rfl (by simpa [State.startedOn] using still) margin ((started_cellTiles s d cell).trans empty)
  have cmds := startedOn_cmds (d := d) fresh (.test 0 cell failed false)
  have nextB : (s.startedOn d (.test 0 cell failed false)).nextB = s.nextB := started_nextB s d
  have sched : (s.startedOn d (.test 0 cell failed false)).sched = s.sched := started_sched s d
  have integ : (s.startedOn d (.test 0 cell failed false)).integ = s.integ := started_integ s d
  have streams : (s.startedOn d (.test 0 cell failed false)).streams = s.streams := started_streams s d
  have images : (s.startedOn d (.test 0 cell failed false)).images = s.images := started_images s d
  dsimp only
  rw [e]
  cases failed with
  | true =>
    rw [if_pos rfl]
    have completes : Completes s ((s.startedOn d (.test 0 cell true false)).testDone (s.startedAs d (.test 0 cell true false)) 0 cell true) d
        { status := stOK, resB := 1 } :=
      completes_of_cmds (u := (s.startedOn d (.test 0 cell true false)).at _ (.cellOut cell (Config.unlistedCause 2))) _ cmds rfl rfl
    refine ⟨?_, ?_, ?_, fun _ => ⟨completes, ?_⟩, nofun⟩ <;> simp [State.testDone, State.at, sched, integ, streams, images, nextB]
  | false =>
    rw [if_neg Bool.false_ne_true, nextB]
    have kept := State.keep_cmds_last (u := (s.startedOn d (.test 0 cell false false)).at s.nextB (.cellOut cell (Config.unlistedCause 2))) cmds fresh
      (.test 0 cell false true)
    refine ⟨integ, streams, images, nofun, fun _ => ⟨runs_of_mem ?_ rfl, ?_⟩⟩
    · exact kept.symm ▸ List.mem_append_right _ List.mem_cons_self
    · simp [State.at, sched]

/-! Calibrations. -/

section
variable {d : Desc} {s : State} (ok : s.accepts d = true) (op : d.opcode = 0x29)
include ok op

theorem exec_calibrateThermalTrims (bad : List Nat) (kind : dfld d 2 1 0 = 0) :
    exec (.calibrateThermalTrims d bad) s = .next (thermalBody d bad (s.started d) (s.startedCmd d)) :=
  congrArg Host.Outcome.next (runDesc_accepts ok (by simp [op, kind]) _)
theorem exec_calibrateDroopDetectors (kind : dfld d 2 1 0 = 1) :
    exec (.calibrateDroopDetectors d) s = .next (droopBody d (s.started d) (s.startedCmd d)) :=
  congrArg Host.Outcome.next (runDesc_accepts ok (by simp [op, kind]) _)
omit ok op in
/-- A calibration of a floor, from the start with some governor settings: it completes with B_rt, restarts the floor and sets the power model
(R372, R376). -/
theorem calibDone_completes (k : Nat) (g : GovS) :
    let t := (({ s.started d with gov := g } : State).calibDone k).finish (s.startedCmd d) { status := stOK, resB := (s.started d).stack.brt }
    ∃ i p, Completes s t d { status := stOK, resB := s.stack.brt } ∧ t.gov = { g with idleMw := i, dynMw := p }
      ∧ AMap.get? t.integ.floorAt k = some s.beat ∧ t.stack = s.stack ∧ t.streams = s.streams := by
  rw [started_stack]
  refine ⟨Config.powerFound (s.started d).free, Config.powerFound ((s.started d).free + 1),
    completes_of_cmds (u := ({ s.started d with gov := g } : State).calibDone k) _ (started_cmds s d) rfl rfl, ?_, ?_, ?_, ?_⟩
  · rw [State.finish_gov]
    rfl
  · rw [State.finish_integ]
    refine (AMap.get?_set ..).trans ((if_pos rfl).trans (congrArg some ?_))
    exact started_beat s d
  · rw [State.finish_stack]
    exact started_stack s d
  · rw [State.finish_streams]
    exact started_streams s d
/-- The older commands are no calibrations, so the round trip's own series alone goes on (R105). -/
theorem exec_calibrateStackRoundTrip (kind : dfld d 2 1 0 = 2) (fresh : ∀ c ∈ s.cmds, c.id ≠ s.nextId)
    (alone : ∀ u, ∀ c ∈ s.cmds, State.pumpCalib u c = u) :
    exec (.calibrateStackRoundTrip d) s = .next ((s.startedOn d (.calib 2 0 0 0 false)).pumpCalib (s.startedAs d (.calib 2 0 0 0 false))) := by
  refine (congrArg Host.Outcome.next (runDesc_accepts ok (by simp [op, kind]) _)).trans (congrArg Host.Outcome.next ?_)
  exact foldl_startedOn fresh State.pumpCalib alone
end

theorem State.pumpCalib_of_other {c : Cmd} (other : ∀ a b e f g, c.k ≠ .calib a b e f g) (s : State) : s.pumpCalib c = s := by
  unfold State.pumpCalib
  split
  · exact absurd ‹_› (other _ _ _ _ _)
  · rfl

/-- The first channel of a series (R29). -/
theorem nextChan_eq_head (u : State) :
    (List.range u.channels).find? (fun k => decide (0 ≤ k) && u.chanEn k && (u.chan k).inService) = u.liveChans.head? := by
  rw [State.liveChans, List.head?_filter]
  simp

section
variable {u : State} {c : Cmd} (k : c.k = .calib 2 0 0 0 false)
include k

/-- A series does not begin while masters are rewritten (R325). -/
theorem State.pumpCalib_waits (rewrites : u.stack.rewriteLeft ≠ []) : u.pumpCalib c = u := by
  simp [State.pumpCalib, k, rewrites]

variable (rewritten : u.stack.rewriteLeft = []) (quiet : (AMap.vals u.stack.chans).any (·.calibrating) = false)
include rewritten quiet

/-- Without a channel in service the series is empty, and the command completes with B_rt (R68). -/
theorem State.pumpCalib_ends (none_live : u.liveChans = []) : u.pumpCalib c = u.finish c { status := stOK, resB := u.stack.brt } := by
  have none_next := nextChan_eq_head u
  rw [none_live] at none_next
  simp only [State.pumpCalib, k, ne_eq, not_true_eq_false, if_false, quiet, rewritten, List.isEmpty_nil, Bool.not_true, Bool.or_self,
    Bool.false_eq_true, none_next, List.head?_nil]
  simp [overBrt]
/-- A channel that can be spared leaves service at the next boundary for its share of the pings (R29, R378). -/
theorem State.pumpCalib_begins {n : Nat} {ns : List Nat} (live : u.liveChans = n :: ns) (spare : chanSpare u n = true) :
    u.pumpCalib c = (u.keep c (.calib 2 n (seriesPings u n) 0 true)).at u.nextB (.chanOut n c.id) := by
  have next := nextChan_eq_head u
  rw [live] at next
  simp only [State.pumpCalib, k, ne_eq, not_true_eq_false, if_false, quiet, rewritten, List.isEmpty_nil, Bool.not_true, Bool.or_self,
    Bool.false_eq_true, next, List.head?_cons, spare]
end

/-! A channel that leaves service (R29, R378). -/

/-- From s to t the streams and the other channels are as they were, and one channel serves or is calibrated as it did. -/
structure ServesAs (k : Nat) (s t : State) : Prop where
  streams : t.streams = s.streams
  others : ∀ j, j ≠ k → t.chan j = s.chan j
  inService : (t.chan k).inService = (s.chan k).inService
  calibrating : (t.chan k).calibrating = (s.chan k).calibrating

theorem ServesAs.refl (k : Nat) (s : State) : ServesAs k s s := ⟨rfl, fun _ _ => rfl, rfl, rfl⟩
theorem ServesAs.trans {k : Nat} {s t u : State} (a : ServesAs k s t) (b : ServesAs k t u) : ServesAs k s u :=
  ⟨b.streams.trans a.streams, fun j hj => (b.others j hj).trans (a.others j hj), b.inService.trans a.inService, b.calibrating.trans a.calibrating⟩
@[simp] theorem State.setChan_chan (s : State) (k : Nat) (f : Chan → Chan) (j : Nat) :
    (s.setChan k f).chan j = if j = k then f (s.chan k) else s.chan j := by
  simp [State.setChan, State.chan]
theorem State.chan_congr {s t : State} (h : t.stack = s.stack) (j : Nat) : t.chan j = s.chan j := by simp [State.chan, h]
theorem ServesAs.of_front {k : Nat} {s t : State} (e : t.front = s.front) : ServesAs k s t := by
  have stack : t.stack = s.stack := congrArg Front.stack e
  exact ⟨congrArg Front.streams e, fun j _ => State.chan_congr stack j, congrArg Chan.inService (State.chan_congr stack k),
    congrArg Chan.calibrating (State.chan_congr stack k)⟩
theorem setChan_servesAs (s : State) (k : Nat) {f : Chan → Chan} (hf : ∀ c, (f c).inService = c.inService ∧ (f c).calibrating = c.calibrating) :
    ServesAs k s (s.setChan k f) :=
  ⟨rfl, fun j hj => by simp [hj], by simp [(hf _).1], by simp [(hf _).2]⟩
/-- A background operation sent on a channel leaves it in service, or out of it. -/
theorem sendOn_servesAs (s : State) (k op : Nat) (purp : Purp) (words : List W64) (payload : List Byte) (respLen : Nat) :
    ServesAs k s (s.sendOn k .back op purp words payload respLen) := by
  unfold State.sendOn
  simp only [reduceCtorEq, if_false]
  have sent (t : State) (f : Chan → Chan) (a b c e : Nat) (info : List (Nat × Nat)) (o : Out) :
      ServesAs k (t.setChan k f) ((((t.setChan k f).count a 1).count 41 b).ev c 3 e info |>.emit o) := .of_front (by simp)
  refine (ServesAs.of_front (State.pick_front s 235)).trans (.trans (setChan_servesAs _ k ?_) (sent ..))
  exact fun _ => ⟨rfl, rfl⟩
theorem pumpSeries_servesAs (n cmd k left : Nat) (s : State) : ServesAs k s (pumpSeries n cmd k left s) := by
  induction n generalizing s with
  | zero => exact .refl k s
  | succ n ih =>
    unfold pumpSeries
    dsimp only
    split
    · exact .refl k s
    · exact (sendOn_servesAs ..).trans (ih _)
/-- The boundary of a channel that a calibration takes out of service. -/
theorem chanLeaves_takes {s : State} {c : Cmd} {k n w : Nat} {on : Bool} (running : s.cmd? c.id = some c) (kind : c.k = .calib 2 k n w on)
    (serves : (s.chan k).inService = true) :
    ((s.chanLeaves k c.id).chan k).inService = false ∧ ((s.chanLeaves k c.id).chan k).calibrating = true
      ∧ (∀ j, j ≠ k → (s.chanLeaves k c.id).chan j = s.chan j) ∧ (s.chanLeaves k c.id).streams = s.streams := by
  have e : s.chanLeaves k c.id = pumpSeries 64 c.id k n (s.setChan k fun x => { x with inService := false, calibrating := true }) := by
    simp [State.chanLeaves, running, kind, serves]
  obtain ⟨streams, others, inService, calibrating⟩ :=
    pumpSeries_servesAs 64 c.id k n (s.setChan k fun x => { x with inService := false, calibrating := true })
  rw [e]
  refine ⟨inService.trans (by simp), calibrating.trans (by simp), fun j hj => (others j hj).trans (by simp [hj]), streams⟩

/-! Deferred commands (R379). -/

/-- A command that completes queues its entry on its ring. -/
theorem State.finish_queues (s : State) (c : Cmd) (r : Done) :
    ∃ e : Cpl, ((s.finish c r).ring c.ring).cqPend = (s.ring c.ring).cqPend ++ [e] ∧ e.status = r.status ∧ e.tag = c.tag := by
  rw [State.finish_ring, if_pos rfl]
  exact ⟨_, rfl, rfl, rfl⟩

/-- Settles O45: the bodies of SELF_TEST and CALIBRATE on a command that has just started, the boundary of a channel's series
(`chanLeaves_takes`) and the completion of a deferred command. -/
theorem selfTestsAndCalibrations : Obligations.SelfTestsAndCalibrations := by
  constructor
  · intro d failed s u tg un ok op
    refine ⟨fun outside => ?_, fun inside slices => ?_, fun inside cell complete margin rotates still empty alone => ?_⟩
    · exact ⟨_, selfTest_outside ok op outside, completes_of_cmds _ (started_cmds s d) rfl rfl, by simp⟩
    · exact ⟨_, selfTest_slices ok op inside slices, testDone_started s d tg un failed⟩
    · have fresh : ∀ c ∈ s.cmds, c.id ≠ s.nextId := fun c hc => (alone c hc).1
      refine ⟨_, selfTest_rotates ok op inside cell complete margin rotates, ?_⟩
      rw [State.pumpTests, foldl_startedOn fresh State.pumpTest fun u c hc => State.pumpTest_of_other (alone c hc).2 u]
      exact pumpTest_startedOn fresh still margin empty
  · intro d bad s u
    refine ⟨fun ok op => ⟨fun kind => ?_, fun kind => ?_, fun kind alone => ?_⟩, fun c k n w on running kind serves => ?_,
      fun ring index => ⟨fun none_late => ?_, fun c late => ?_⟩⟩
    · obtain ⟨i, p, rest⟩ := calibDone_completes (s := s) (d := d) 3 { (s.started d).gov with sensorsBad := bad }
      rw [started_gov] at rest
      refine ⟨_, i, p, exec_calibrateThermalTrims ok op bad kind, ?_⟩
      simpa only [thermalBody, started_gov] using rest
    · obtain ⟨i, p, completes, gov, floor, rest⟩ := calibDone_completes (s := s) (d := d) 4 (s.started d).gov
      exact ⟨_, i, p, exec_calibrateDroopDetectors ok op kind, completes, floor, gov.trans (by rw [started_gov]), rest⟩
    · have fresh : ∀ c ∈ s.cmds, c.id ≠ s.nextId := fun c hc => (alone c hc).1
      have e := exec_calibrateStackRoundTrip ok op kind fresh fun u c hc => State.pumpCalib_of_other (alone c hc).2 u
      have cmds := startedOn_cmds (d := d) fresh (.calib 2 0 0 0 false)
      have stack : (s.startedOn d (.calib 2 0 0 0 false)).stack = s.stack := started_stack s d
      let begun := s.startedOn d (.calib 2 0 0 0 false)
      let cmd := s.startedAs d (.calib 2 0 0 0 false)
      refine ⟨fun rewrites => ?_, fun rewritten quiet none_live => ?_, fun n ns rewritten quiet live spare => ?_⟩
      · rw [State.pumpCalib_waits (u := begun) (c := cmd) rfl (stack.symm ▸ rewrites)] at e
        exact ⟨_, e, runs_of_mem (cmds.symm ▸ List.mem_append_right _ List.mem_cons_self) rfl, stack⟩
      · rw [State.pumpCalib_ends (u := begun) (c := cmd) rfl (stack.symm ▸ rewritten) (stack.symm ▸ quiet) ((started_liveChans s d).trans none_live), stack] at e
        exact ⟨_, e, completes_of_cmds _ cmds rfl rfl, by rw [State.finish_stack, stack]⟩
      · rw [State.pumpCalib_begins (u := begun) (c := cmd) rfl (stack.symm ▸ rewritten) (stack.symm ▸ quiet) ((started_liveChans s d).trans live) spare] at e
        have pings : seriesPings (s.startedOn d (.calib 2 0 0 0 false)) n = seriesPings s n := started_seriesPings s d n
        have nextB : (s.startedOn d (.calib 2 0 0 0 false)).nextB = s.nextB := started_nextB s d
        have kept := State.keep_cmds_last cmds fresh (.calib 2 n (seriesPings s n) 0 true)
        rw [pings, nextB] at e
        refine ⟨_, e, runs_of_mem (kept.symm ▸ List.mem_append_right _ List.mem_cons_self) rfl, ?_, stack, started_streams s d⟩
        exact congrArg (· ++ _) (started_sched s d)
    · exact chanLeaves_takes running kind serves
    · exact congrArg Host.Outcome.next (by rw [none_late])
    · obtain ⟨e, queued, status, tag⟩ := s.finish_queues c { status := stDeferred }
      refine ⟨s.finish c { status := stDeferred }, e, congrArg Host.Outcome.next (by rw [late]), queued, status, tag, ?_, ?_, ?_⟩
      all_goals simp
end Sys2Proof.Machine
end

section
/-! The checked registers stay within their ranges (R85, R370, R477, R500, R515). -/

namespace Sys2Proof.Machine

/-- Settles O14: the reset values, by evaluation. -/
theorem resetRegistersLegal : Obligations.ResetRegistersLegal := by
  unfold Obligations.ResetRegistersLegal
  decide

theorem regsReset_legal (c : Cfg) : (RegS.reset c).legal (c.ridges / 2) = true := by
  cases c <;> decide

/-! The words that a checked write leaves. -/

/-- A field that is set where a check holds and kept otherwise. -/
theorem fld_ite_setFld {w : W32} {hi lo v : Nat} (p : Prop) [Decidable p] (h1 : lo ≤ hi) (h2 : hi < 32) (hv : v < 2 ^ (hi + 1 - lo)) :
    fld (if p then setFld w hi lo v else w) hi lo = if p then v else fld w hi lo := by
  split
  · exact fld_setFld_same w h1 h2 hv
  · rfl
/-- Another field is kept either way. -/
theorem fld_ite_setFld_other {w : W32} {hi lo v hi' lo' : Nat} (p : Prop) [Decidable p] (h1 : lo ≤ hi) (h2 : hi < 32) (hd : hi' < lo ∨ hi < lo') :
    fld (if p then setFld w hi lo v else w) hi' lo' = fld w hi' lo' := by
  split
  · exact fld_setFld_other w h1 h2 hd
  · rfl

section
variable (old v : W32)

theorem fld_hostportWrite {lo : Nat} (h : lo ∈ [0, 4, 8, 12, 16]) :
    fld (hostportWrite old v) (lo + 2) lo = if fld v (lo + 2) lo ≤ 4 then fld v (lo + 2) lo else fld old (lo + 2) lo := by
  have lt : fld v (lo + 2) lo < 2 ^ (lo + 2 + 1 - lo) := fld_lt v _ _
  simp only [List.mem_cons, List.not_mem_nil, or_false] at h
  simp only [hostportWrite, List.foldl_cons, List.foldl_nil]
  rcases h with rfl | rfl | rfl | rfl | rfl
  all_goals simp (disch := omega) only [fld_ite_setFld_other, fld_ite_setFld]

theorem fld_rclassWrite_bound : fld (rclassWrite old v) 15 0 = if fld v 15 0 = 1 then fld old 15 0 else fld v 15 0 := by
  have lt : fld v 15 0 < 2 ^ (15 + 1 - 0) := fld_lt v _ _
  simp (disch := omega) only [rclassWrite, fld_ite_setFld_other]
  split
  · rfl
  · exact fld_setFld_same old (by decide) (by decide) lt
theorem fld_rclassWrite_deadline : fld (rclassWrite old v) 24 16 =
    if fld v 24 16 = 0 ∨ 8 ≤ fld v 24 16 ∧ fld v 24 16 ≤ 256 then fld v 24 16 else fld old 24 16 := by
  have lt : fld v 24 16 < 2 ^ (24 + 1 - 16) := fld_lt v _ _
  have kept : fld (if fld v 15 0 = 1 then old else setFld old 15 0 (fld v 15 0)) 24 16 = fld old 24 16 := by
    split
    · rfl
    · exact fld_setFld_other old (by decide) (by decide) (by decide)
  simp (disch := omega) only [rclassWrite, fld_ite_setFld_other, fld_ite_setFld, kept]
theorem fld_rclassWrite_draft : fld (rclassWrite old v) 31 25 = if fld v 31 25 ≤ 64 then fld v 31 25 else fld old 31 25 := by
  have lt : fld v 31 25 < 2 ^ (31 + 1 - 25) := fld_lt v _ _
  have kept : fld (if fld v 15 0 = 1 then old else setFld old 15 0 (fld v 15 0)) 31 25 = fld old 31 25 := by
    split
    · rfl
    · exact fld_setFld_other old (by decide) (by decide) (by decide)
  simp (disch := omega) only [rclassWrite, fld_ite_setFld_other, fld_ite_setFld, kept]

/-- The size fields of STACK_CFG (R515). -/
theorem fld_stackCfgWrite_window (chans : Nat) : fld (stackCfgWrite chans old v) 7 0 =
    if 8 ≤ fld v 7 0 ∧ fld v 7 0 ≤ 128 then fld v 7 0 else fld old 7 0 := by
  have lt : fld v 7 0 < 2 ^ (7 + 1 - 0) := fld_lt v _ _
  simp only [stackCfgWrite]
  split
  all_goals simp (disch := omega) [fld_ite_setFld_other, fld_ite_setFld, fld_setFld_other]
theorem fld_stackCfgWrite_resp (chans : Nat) : fld (stackCfgWrite chans old v) 15 8 =
    if 8 ≤ fld v 15 8 ∧ fld v 15 8 ≤ 128 then fld v 15 8 else fld old 15 8 := by
  have lt : fld v 15 8 < 2 ^ (15 + 1 - 8) := fld_lt v _ _
  simp only [stackCfgWrite]
  split
  all_goals simp (disch := omega) [fld_ite_setFld_other, fld_ite_setFld, fld_setFld_other]
/-- CHANNEL_EN of STACK_CFG: absent channels' bits read 0, and a value that enables none is refused (R515). -/
theorem fld_stackCfgWrite_channels (chans : Nat) : fld (stackCfgWrite chans old v) 23 16 =
    if fld v 23 16 % 2 ^ chans = 0 then fld old 23 16 else fld v 23 16 % 2 ^ chans := by
  have lt : fld v 23 16 % 2 ^ chans < 2 ^ (23 + 1 - 16) := Nat.lt_of_le_of_lt (Nat.mod_le _ _) (fld_lt v 23 16)
  simp only [stackCfgWrite]
  split
  · simp (disch := omega) [fld_ite_setFld_other]
  · exact fld_setFld_same _ (by decide) (by decide) lt

/-! A checked write leaves a legal word. -/

theorem hostportWrite_legal (h : hostportLegal old = true) : hostportLegal (hostportWrite old v) = true := by
  simp only [hostportLegal, List.all_eq_true, decide_eq_true_eq] at h ⊢
  intro lo m
  rw [fld_hostportWrite old v m]
  have := h lo m
  split <;> assumption
theorem rclassWrite_legal (h : rclassLegal old = true) : rclassLegal (rclassWrite old v) = true := by
  simp only [rclassLegal, Bool.and_eq_true, Bool.or_eq_true, bne_iff_ne, beq_iff_eq, decide_eq_true_eq, fld_rclassWrite_bound, fld_rclassWrite_deadline,
    fld_rclassWrite_draft] at h ⊢
  obtain ⟨⟨bound, deadline⟩, draft⟩ := h
  refine ⟨⟨?_, ?_⟩, ?_⟩
  all_goals split <;> assumption
theorem stackCfgWrite_legal (chans : Nat) (h : stackCfgLegal chans old = true) : stackCfgLegal chans (stackCfgWrite chans old v) = true := by
  simp only [stackCfgLegal, Bool.and_eq_true, bne_iff_ne, decide_eq_true_eq, fld_stackCfgWrite_window, fld_stackCfgWrite_resp,
    fld_stackCfgWrite_channels] at h ⊢
  obtain ⟨⟨⟨⟨⟨w1, w2⟩, r1⟩, r2⟩, c1⟩, c2⟩ := h
  have lt := Nat.mod_lt (fld v 23 16) (Nat.two_pow_pos chans)
  refine ⟨⟨⟨⟨⟨?_, ?_⟩, ?_⟩, ?_⟩, ?_⟩, ?_⟩
  all_goals split <;> omega
theorem govThermWrite_legal (h : govThermLegal old = true) : govThermLegal (govThermWrite old v) = true := by
  unfold govThermWrite
  split
  · rename_i c
    obtain ⟨c1, c2, c3⟩ := c
    have low (hi lo : Nat) (hb : hi < 28) (hl : lo ≤ hi) : fld (v &&& 0x0FFFFFFF#32) hi lo = fld v hi lo := by
      refine fld_and v _ hi lo fun i hi' => ?_
      have : lo + i < 28 := by omega
      generalize lo + i = k at *
      interval_cases k <;> rfl
    simp only [govThermLegal, low 7 0 (by decide) (by decide), low 15 8 (by decide) (by decide), low 23 16 (by decide) (by decide),
      low 27 24 (by decide) (by decide), Bool.and_eq_true, bne_iff_ne, decide_eq_true_eq]
    exact ⟨⟨c1, c2⟩, c3⟩
  · exact h
end

/-! The build: no command changes it. -/

theorem build_of_still {t s : State} (h : t.still = s.still) : t.build = s.build := congrArg Still.build h
theorem build_of_unfused {t s : State} (h : t.unfused = s.unfused) : t.build = s.build := congrArg (fun x => x.2.1) h

theorem takeEff_match_still (s : State) (p : Eff → Bool) (f : State → State) (hf : ∀ x, (f x).still = x.still) :
    (match s.takeEff p with | some (_, x) => f x | none => s).still = s.still := by
  cases h : s.takeEff p with
  | none => rfl
  | some x => exact (hf x.2).trans (State.takeEff_still s p x h)

theorem regWrite_build (s : State) (off : Nat) (v : W32) : (s.regWrite off v).build = s.build := by
  unfold State.regWrite
  split
  · unfold State.askRingReset
    split <;> rfl
  all_goals rfl

theorem steps13_cleared_build (s : State) (por cold : Bool) (b : BootIn) (c : Bool) : ((s.cleared por cold).steps13 b c).build = s.build :=
  (build_of_still (State.steps13_still _ b c)).trans rfl
theorem steps13_cleared_regs (s : State) (por cold : Bool) (b : BootIn) (c : Bool) :
    ((s.cleared por cold).steps13 b c).regs = RegS.reset s.build.cfg :=
  (regs_of_still (State.steps13_still _ b c)).trans rfl

/-- A part's elaboration is fixed (R498). -/
theorem exec_build (c : Instr) (s t : State) (h : exec c s = .next t) : t.build = s.build := by
  cases c with
  | registerWrite off v => cases h; exact regWrite_build s _ v
  | powerOnReset b => cases h; exact steps13_cleared_build s true true b true
  | warmReset b =>
    cases h
    unfold State.warmReset
    dsimp only
    split
    · rfl
    · exact steps13_cleared_build s false _ b _
  | beatBoundary x => cases h; exact build_of_unfused (State.boundary_unfused s x)
  | blockStop => cases h; exact build_of_unfused (blockStop_unfused s)
  | ringResetEffect ring => cases h; exact build_of_still (takeEff_match_still s _ (·.resetRingNow ring.toNat) (fun x => by simp))
  | streamCloseBoundary n => cases h; exact build_of_still (takeEff_match_still s _ (·.closeNow n.toNat) (fun x => by simp))
  | imageActivationBoundary slot => cases h; exact build_of_still (takeEff_match_still s _ (·.activateNow slot.toNat) (fun x => by simp))
  | matchShiftMove bank => cases h; exact build_of_still (takeEff_match_still s _ (·.shiftNow bank.toNat) (fun x => by simp))
  | tileReloadInstall slot tile => cases h; exact build_of_still (takeEff_match_still s _ (·.tileNow slot.toNat tile) (fun x => by simp))
  | mgmtTrap before o after => cases h; exact build_of_still (still_foldl _ State.coreOp_still _ s)
  | rangeJoinTimeout =>
    cases h
    refine build_of_still ?_
    cases s.forming? with
    | none => rfl
    | some c => exact still_if (by simp) rfl
  | relayTimeout peer =>
    cases h
    refine build_of_still (still_if ?_ rfl)
    cases splitShows s peer.toNat with
    | none => rfl
    | some k => exact State.splitFrom_still s peer.toNat k
  | commandDeferred ring index =>
    cases h
    refine build_of_still ?_
    split
    · simp
    · rfl
  | bypass bits | idcode | testReset => cases h; rfl
  | mbist pins groups failed | mbistResult pins | scan pins | fuseProg pins value target | fuseRead pins target => cases h; split <;> rfl
  | _ =>
    cases h
    exact build_of_still (by simp)

/-! Every step. -/

theorem AMap.mem_of_get? {α : Type} {m : AMap α} {i : Nat} {v : α} (h : AMap.get? m i = some v) : (i, v) ∈ m := by
  induction m with
  | nil => cases h
  | cons x m ih =>
    obtain ⟨k, x⟩ := x
    rw [AMap.get?] at h
    split at h
    · rename_i hk
      cases h
      exact hk ▸ List.mem_cons_self
    · exact List.mem_cons_of_mem _ (ih h)

/-- A property of every entry, and of the one written, holds of every entry after a write. -/
theorem AMap.all_set {α : Type} {p : α → Bool} {m : AMap α} {i : Nat} {v : α} (h : m.all (fun x => p x.2) = true) (hv : p v = true) :
    (AMap.set m i v).all (fun x => p x.2) = true := by
  induction m with
  | nil => simpa [AMap.set] using hv
  | cons x m ih =>
    obtain ⟨k, x⟩ := x
    simp only [List.all_cons, Bool.and_eq_true] at h
    obtain ⟨hx, hm⟩ := h
    simp only [AMap.set]
    split
    · simp only [List.all_cons, hv, hx, hm, Bool.and_self]
    · split
      · simp only [List.all_cons, hv, hm, Bool.and_self]
      · simp only [List.all_cons, hx, ih hm, Bool.and_self]

/-- Legal registers, part by part. -/
theorem RegS.legal_iff {r : RegS} {chans : Nat} : r.legal chans = true ↔ (500000 ≤ fld r.coreClock 19 0 ∧ fld r.coreClock 19 0 ≤ 940000)
    ∧ hostportLegal r.hostport = true ∧ govThermLegal r.govTherm = true ∧ stackCfgLegal chans r.stackCfg = true
    ∧ r.rclass.all (fun x => rclassLegal x.2) = true := by
  simp only [RegS.legal, Bool.and_eq_true, decide_eq_true_eq, and_assoc]

theorem rclassLegal_getD {m : AMap W32} (h : m.all (fun x => rclassLegal x.2) = true) (i : Nat) : rclassLegal (AMap.getD m i 0#32) = true := by
  unfold AMap.getD
  cases hg : AMap.get? m i with
  | none => decide
  | some w => exact List.all_eq_true.mp h _ (AMap.mem_of_get? hg)

theorem writeOpen_legal {r : RegS} {chans : Nat} (off : Nat) (v : W32) (h : r.legal chans = true) : (r.writeOpen off v).legal chans = true := by
  unfold RegS.writeOpen
  split
  · exact h
  · exact h
  · split <;> exact h

theorem writeLocked_legal {r : RegS} {chans : Nat} (off : Nat) (v : W32) (h : r.legal chans = true) : (r.writeLocked chans off v).legal chans = true := by
  have parts := RegS.legal_iff.mp h
  obtain ⟨clock, hostport, therm, stack, rclass⟩ := parts
  unfold RegS.writeLocked
  split
  case h_1 =>
    split
    · rename_i c
      have low : fld (v &&& 0x000FFFFF#32) 19 0 = fld v 19 0 := fld_and v _ 19 0 fun i hi => by interval_cases i <;> rfl
      exact RegS.legal_iff.mpr ⟨by simpa only [low] using c, hostport, therm, stack, rclass⟩
    · exact h
  case h_2 => exact RegS.legal_iff.mpr ⟨clock, hostportWrite_legal _ v hostport, therm, stack, rclass⟩
  case h_13 => exact RegS.legal_iff.mpr ⟨clock, hostport, therm, stackCfgWrite_legal _ v chans stack, rclass⟩
  case h_18 => exact RegS.legal_iff.mpr ⟨clock, hostport, govThermWrite_legal _ v therm, stack, rclass⟩
  case h_20 =>
    split
    · exact h
    · exact RegS.legal_iff.mpr ⟨clock, hostport, therm, stack, AMap.all_set rclass (rclassWrite_legal _ v (rclassLegal_getD rclass _))⟩
    · exact h
  all_goals exact h

theorem regWrite_legal {s : State} (off : Nat) (v : W32) (h : s.regsLegal = true) : (s.regWrite off v).regsLegal = true := by
  unfold State.regsLegal State.channels State.ridges
  rw [regWrite_build]
  unfold State.regWrite
  split
  · unfold State.askRingReset
    split <;> exact h
  case h_7 =>
    show RegS.legal (if s.rwl then _ else _) _ = true
    split
    · exact writeOpen_legal off v (writeLocked_legal off v h)
    · exact writeOpen_legal off v h
  all_goals exact h

theorem exec_regsLegal (c : Instr) (s t : State) (legal : s.regsLegal = true) (h : exec c s = .next t) : t.regsLegal = true := by
  have build := exec_build c s t h
  have reset (hr : t.regs = RegS.reset s.build.cfg) : t.regsLegal = true := by
    unfold State.regsLegal State.channels State.ridges
    rw [build, hr]
    exact regsReset_legal _
  by_cases hw : ∃ off v, c = .registerWrite off v
  · obtain ⟨off, v, rfl⟩ := hw
    cases h
    exact regWrite_legal _ v legal
  by_cases hp : ∃ b, c = .powerOnReset b
  · obtain ⟨b, rfl⟩ := hp
    cases h
    exact reset (steps13_cleared_regs s true true b true)
  by_cases hr : ∃ b, c = .warmReset b
  · obtain ⟨b, rfl⟩ := hr
    cases h
    refine reset ?_
    unfold State.warmReset
    dsimp only
    split
    · rfl
    · exact steps13_cleared_regs s false _ b _
  · push Not at hw hp hr
    unfold State.regsLegal State.channels State.ridges
    rw [build, exec_regs c s t h hw hp hr]
    exact legal

/-- Settles O13: the front command keeps them (`exec_regsLegal`): a write checks its fields, a reset sets legal values, and nothing else writes a
register. -/
theorem stepKeepsRegistersLegal : Obligations.StepKeepsRegistersLegal := by
  intro s t legal h
  unfold step at h
  split at h
  · cases h
    exact legal
  · rename_i c rest _
    exact exec_regsLegal c { s with pending := rest } t legal h

/-! Writes out of range. -/

/-- A write to a register of `RegS` alone while RWL fields take writes (R495). -/
theorem regWrite_of_rwl (s : State) (v : W32) (rwl : s.rwl = true) {off : Nat}
    (h : off ∉ [0x2010, 0x2014, 0x5010, 0x6000, 0x7000, 0x7004]) :
    s.regWrite off v = { s with regs := (s.regs.writeLocked s.channels off v).writeOpen off v } := by
  simp only [List.mem_cons, List.not_mem_nil, or_false, not_or] at h
  unfold State.regWrite
  split
  case h_7 => simp only [State.setRegs, rwl, if_true]
  all_goals simp at h

/-- A write of RCLASS_LIMIT sets the entry of its class alone. -/
theorem regWrite_rclass (s : State) (v : W32) (rwl : s.rwl = true) {n : Nat} (h : n < 16) :
    s.regWrite ((BitVec.ofNat 16 (0x4000 + 4 * n)).toNat / 4 * 4) v
      = { s with regs := { s.regs with rclass := AMap.set s.regs.rclass n (rclassWrite (s.rclassReg n) v) } } := by
  rw [regWrite_of_rwl s v rwl (by interval_cases n <;> decide)]
  interval_cases n <;> rfl

/-- Settles O11: each checked register's fields as its write leaves them. -/
theorem outOfRangeFieldsKeepTheirValue : Obligations.OutOfRangeFieldsKeepTheirValue := by
  intro v s rwl
  refine ⟨fun n hn => ⟨_, rfl, ?_⟩, ⟨_, rfl, fun lo m => ?_⟩, ⟨_, rfl, ?_⟩, ⟨_, rfl, ?_⟩, ⟨_, rfl, ?_⟩⟩
  · rw [regWrite_rclass s v rwl hn]
    have new : ∀ r : AMap W32, ({ s with regs := { s.regs with rclass := AMap.set r n (rclassWrite (s.rclassReg n) v) } } : State).rclassReg n
        = rclassWrite (s.rclassReg n) v := fun r => by simp [State.rclassReg]
    simp only [State.latBound, State.maskDeadline, State.maxDraft, new]
    refine ⟨fld_rclassWrite_bound _ v, fld_rclassWrite_deadline _ v, fld_rclassWrite_draft _ v, fun k hk => ?_⟩
    simp [State.rclassReg, hk]
  · rw [regWrite_of_rwl s v rwl (by decide)]
    exact fld_hostportWrite _ v m
  · rw [regWrite_of_rwl s v rwl (by decide)]
    exact ⟨fld_stackCfgWrite_window _ v _, fld_stackCfgWrite_resp _ v _, fld_stackCfgWrite_channels _ v _⟩
  · rw [regWrite_of_rwl s v rwl (by decide)]
    rfl
  · rw [regWrite_of_rwl s v rwl (by decide)]
    exact apply_ite RegS.coreClock _ _ _

end Sys2Proof.Machine
end

section
/-! What the operations of the three phases leave: the tenants and their counts. -/

set_option maxRecDepth 8000
namespace Sys2Proof.Machine

@[simp] theorem tenants_ite (c : Prop) [Decidable c] (a b : State) : (if c then a else b).tenants = if c then a.tenants else b.tenants := by split <;> rfl
@[simp] theorem tenants_foldl {α : Type} (f : State → α → State) (h : ∀ s a, (f s a).tenants = s.tenants) (l : List α) (s : State) :
    (l.foldl f s).tenants = s.tenants := by
  induction l generalizing s with
  | nil => rfl
  | cons a l ih => simp [ih, h]
theorem tenants_foldlP {α β : Type} (f : State × β → α → State × β) (h : ∀ s a, (f s a).1.tenants = s.1.tenants) (l : List α) (s : State × β) :
    (l.foldl f s).1.tenants = s.1.tenants := by
  induction l generalizing s with
  | nil => rfl
  | cons a l ih => simp [ih, h]
@[simp] theorem State.toPhase_tenants (s : State) (k : Nat) : (s.toPhase k).tenants = s.tenants := rfl
theorem tenants_if {c : Prop} [Decidable c] {a b t : State} (h1 : a.tenants = t.tenants) (h2 : b.tenants = t.tenants) :
    (if c then a else b).tenants = t.tenants := by
  split <;> assumption

@[simp] theorem State.dropReads_tenants (s : State) (p : ROwner → Bool) : (State.dropReads s p).tenants = s.tenants := by
  rfl
@[simp] theorem State.postVerdict_tenants (s : State) (st : Stream) (kind : ℕ) (verdict : ℕ) (flags : ℕ) (relBeat : ℕ) (chunk : ℕ) (pos : ℕ) (after : List ℕ) : (State.postVerdict s st kind verdict flags relBeat chunk pos after).tenants = s.tenants := by
  rfl
@[simp] theorem State.finishId_tenants (s : State) (id : ℕ) (d : Done) : (State.finishId s id d).tenants = s.tenants := by
  unfold State.finishId; split <;> simp
@[simp] theorem State.dynWrite_tenants (s : State) (u : TileUse) (p : List Byte) : (State.dynWrite s u p).tenants = s.tenants := by
  rfl
@[simp] theorem State.tileTorn_tenants (s : State) (u : TileUse) : (State.tileTorn s u).tenants = s.tenants := by
  rfl
@[simp] theorem State.writeBack_tenants (s : State) (h : ℕ) : (State.writeBack s h).tenants = s.tenants := by
  simp [State.writeBack]
@[simp] theorem State.writeNode_tenants (s : State) (h id : ℕ) : (State.writeNode s h id).tenants = s.tenants := by
  unfold State.writeNode
  extract_lets t
  have ht : t.tenants = s.tenants := State.setStream_tenants _ _ _
  clear_value t
  split
  · split
    · exact (State.dynWrite_tenants _ _ _).trans ht
    · exact ht
  · exact ht
@[simp] theorem State.recClose_tenants (s : State) : (State.recClose s).tenants = s.tenants := by
  rfl
@[simp] theorem State.heldBack_tenants (a s : State) : (State.heldBack a s).tenants = s.tenants := by
  simp [State.heldBack]
@[simp] theorem State.sendOn_tenants (s : State) (c : ℕ) (w : Win) (op : ℕ) (purp : Purp) (words : List W64) (payload : List Byte) (respLen : ℕ) : (State.sendOn s c w op purp words payload respLen).tenants = s.tenants := by
  (unfold State.sendOn; dsimp only; repeat' split) <;> simp
@[simp] theorem State.noIssue_tenants (s : State) (e c op : ℕ) : (State.noIssue s e c op).tenants = s.tenants := by
  simp [State.noIssue]
@[simp] theorem pumpFirm_tenants (n : ℕ) (s : State) : (pumpFirm n s).tenants = s.tenants := by
  induction n generalizing s with
  | zero => rfl
  | succ n ih =>
    unfold pumpFirm
    split
    · rfl
    · dsimp only
      split
      · exact (ih _).trans rfl
      · split
        · split
          · exact (ih _).trans ((State.sendOn_tenants _ _ _ _ _ _ _ _).trans rfl)
          · rfl
        · rfl
@[simp] theorem State.pumpFirms_tenants (s : State) : (State.pumpFirms s).tenants = s.tenants := by
  simp [State.pumpFirms]
@[simp] theorem State.firm_tenants (s : State) (op : ℕ) (purp : Purp) (words : List W64) (payload : List Byte) (respLen : ℕ) : (State.firm s op purp words payload respLen).tenants = s.tenants := by
  exact (State.pumpFirms_tenants _).trans rfl
@[simp] theorem State.issueOn_tenants (s : State) (c : ℕ) (w : Win) (op : ℕ) (purp : Purp) (words : List W64) (payload : List Byte) (respLen : ℕ) : (State.issueOn s c w op purp words payload respLen).2.tenants = s.tenants := by
  unfold State.issueOn; split <;> simp
@[simp] theorem State.issue_tenants (s : State) (w : Win) (op : ℕ) (purp : Purp) (words : List W64) (payload : List Byte) (respLen : ℕ) : (State.issue s w op purp words payload respLen).2.tenants = s.tenants := by
  unfold State.issue; split <;> simp
@[simp] theorem State.maskFlag_tenants (s : State) (m : MaskJ) (f : ℕ) : (State.maskFlag s m f).tenants = s.tenants := by
  unfold State.maskFlag; split <;> simp
@[simp] theorem State.maskReplaced_tenants (s : State) (id : ℕ) (f : ℕ) : (State.maskReplaced s id f).tenants = s.tenants := by
  unfold State.maskReplaced; split <;> simp
@[simp] theorem State.modelAbsent_tenants (s : State) (rid : ℕ) (mi : ℕ) : (State.modelAbsent s rid mi).tenants = s.tenants := by
  rfl
@[simp] theorem State.bankAt_tenants (s : State) (k : ℕ) (e : Eff) : (State.bankAt s k e).tenants = s.tenants := by
  simp [State.bankAt]
@[simp] theorem State.dropPlaced_tenants (s : State) (i : Img) : (State.dropPlaced s i).tenants = s.tenants := by
  simp [State.dropPlaced]
@[simp] theorem State.dropImage_tenants (s : State) (slot : ℕ) : (State.dropImage s slot).tenants = s.tenants := by
  unfold State.dropImage; split <;> simp
@[simp] theorem State.dropNewCairn_tenants (s : State) (id handle : ℕ) : (State.dropNewCairn s id handle).tenants = s.tenants := by
  unfold State.dropNewCairn
  extract_lets other
  generalize other = o
  split
  · rename_i k _
    generalize k.current.isNone = b
    cases b <;> cases o <;> rfl
  · rfl
@[simp] theorem State.dropSave_tenants (s : State) (c : Cmd) : (State.dropSave s c).tenants = s.tenants := by
  unfold State.dropSave; repeat' split
  all_goals simp
@[simp] theorem State.unopen_tenants (s : State) (h : ℕ) : (State.unopen s h).tenants = s.tenants := by
  unfold State.unopen
  generalize (h / 2 ^ 14 + 2 ^ 18 - 1) % 2 ^ 18 = q
  repeat' split
  all_goals rfl
@[simp] theorem State.cmdAbsent_tenants (s : State) (id : ℕ) (status : ℕ) : (State.cmdAbsent s id status).tenants = s.tenants := by
  (unfold State.cmdAbsent; repeat' split) <;> simp
@[simp] theorem State.relayWrite_tenants (s : State) (r : RelayOut) : (State.relayWrite s r).tenants = s.tenants := by
  simp [State.relayWrite]
@[simp] theorem State.pumpRelay_tenants (s : State) : (State.pumpRelay s).tenants = s.tenants := by
  simp [State.pumpRelay]
@[simp] theorem State.relayAs_tenants (s : State) (sender : ℕ) (peer : ℕ) (kind : ℕ) (ws : List W64) : (State.relayAs s sender peer kind ws).tenants = s.tenants := by
  simp [State.relayAs]
@[simp] theorem State.relay_tenants (s : State) (peer : ℕ) (kind : ℕ) (ws : List W64) : (State.relay s peer kind ws).tenants = s.tenants := by
  simp [State.relay]
@[simp] theorem State.dropPred_tenants (s : State) (r : Rec) : (State.dropPred s r).tenants = s.tenants := by
  unfold State.dropPred; split <;> simp
@[simp] theorem State.relayRec_tenants (s : State) (r : Rec) : (State.relayRec s r).tenants = s.tenants := by
  simp [State.relayRec]
@[simp] theorem State.relayChunk_tenants (s : State) (st : Stream) (r : Rec) : (State.relayChunk s st r).tenants = s.tenants := by
  simp [State.relayChunk]
@[simp] theorem State.failStream_tenants (s : State) (st : Stream) (gi : GrammarImg) (rel : ℕ) : (State.failStream s st gi rel).tenants = s.tenants := by
  simp [State.failStream]
@[simp] theorem State.putDeadEnd_tenants (s : State) (m : MaskJ) (st : Stream) (gimg dimg : Img) (gi : GrammarImg) (di : DictImg) : (State.putDeadEnd s m st gimg dimg gi di).tenants = s.tenants := by
  unfold State.putDeadEnd; repeat' split
  all_goals simp
@[simp] theorem State.maskDead_tenants (s : State) (m : MaskJ) (st : Stream) (gimg dimg : Img) (gi : GrammarImg) (di : DictImg) : (State.maskDead s m st gimg dimg gi di).tenants = s.tenants := by
  unfold State.maskDead; dsimp only; split <;> simp
@[simp] theorem State.askCombine_tenants (s : State) (m : MaskJ) (st : Stream) (gid dslot : ℕ) (dimg : Img) : (State.askCombine s m st gid dslot dimg).tenants = s.tenants := by
  unfold State.askCombine
  extract_lets n ops words payload t
  have ht : t.tenants = s.tenants := rfl
  clear_value n words payload t
  have h : ∀ p : Bool × State, p.2.tenants = s.tenants → (if p.1 then p.2 else p.2.maskReplaced m.id fTimeout).tenants = s.tenants :=
    fun p hp => tenants_if hp (by simp [hp])
  refine h (match (if dimg.masterLost then none else some m.chan) with
    | some (some c) => t.issueOn c (.first st.brt) 5 (.mask m.id) words payload (maskResp n)
    | some none => (false, t.noIssue 51 0 5)
    | none => (false, t)) ?_
  generalize (if dimg.masterLost = true then none else some m.chan) = o
  match o with
  | some (some c) => simp [ht]
  | some none => simp [ht]
  | none => simp [ht]
@[simp] theorem State.composeMask_tenants (s : State) (m : MaskJ) (st : Stream) (gimg : Img) (gi : GrammarImg) (gid dslot : ℕ) (dimg : Img) (di : DictImg) : (State.composeMask s m st gimg gi gid dslot dimg di).tenants = s.tenants := by
  unfold State.composeMask
  refine tenants_if (by simp) (tenants_if (by simp) (tenants_if (by simp) (tenants_if (by simp) ?_)))
  extract_lets x
  exact tenants_if (by simp) (by simp)
@[simp] theorem composeOne_tenants (s : State) (m : MaskJ) : (composeOne s m).tenants = s.tenants := by
  unfold composeOne
  split
  · rfl
  · extract_lets v
    refine tenants_if rfl ?_
    split
    · split
      · rfl
      · rename_i t _ _ _ _ _ _ _ _ _ _ _ _ _
        have ht : t.tenants = s.tenants := tenants_if rfl rfl
        clear_value t
        exact tenants_if (by simp [ht]) (tenants_if (by simp [ht]) (tenants_if (by simp [ht]) (by simp [ht])))
    · rfl
@[simp] theorem State.uncorrectable_tenants (s : State) (n : ℕ) : (State.uncorrectable s n).tenants = s.tenants := by
  rfl
@[simp] theorem State.searchFinds_tenants (s : State) (bad lost : List ℕ) : (State.searchFinds s bad lost).tenants = s.tenants := by
  simp [State.searchFinds]
@[simp] theorem State.fitRedo_tenants (s : State) (r : Rec) (w : Bool) : (State.fitRedo s r w).2.tenants = s.tenants := by
  unfold State.fitRedo
  dsimp only
  rw [apply_ite Prod.snd]
  exact tenants_if rfl rfl
@[simp] theorem State.waitFor_tenants (s : State) (rid : ℕ) (ks : List (ℕ × ℕ)) : (State.waitFor s rid ks).tenants = s.tenants := by
  rfl
@[simp] theorem State.stageOn_tenants (s : State) (c : ℕ) (w : Win) (rid mi seg : ℕ) (int : Bool) (xs : List W32) : (State.stageOn s c w rid mi seg int xs).2.tenants = s.tenants := by
  unfold State.stageOn; split <;> simp
@[simp] theorem stageSegs_tenants (s : State) (r : Rec) (mi : Nat) (int : Bool) (k : Nat) (l : List (List W32)) (p u : List Nat) :
    (stageSegs s r mi int k l p u).1.tenants = s.tenants := by
  induction l generalizing s k p u with
  | nil => rfl
  | cons x l ih =>
    unfold stageSegs
    dsimp only
    split
    · simp
    · simp [ih]
@[simp] theorem issueAll_tenants (s : State) (c : Nat) (w : Win) (l : List (Purp × Nat × List W64 × Nat)) : (issueAll s c w l).1.tenants = s.tenants := by
  induction l generalizing s with
  | nil => rfl
  | cons x l ih => simp [issueAll, ih]
@[simp] theorem startRound_tenants (s : State) (r : Rec) (mi : ℕ) (k : ℕ) (int : Bool) (lost : Bool) (xs : List W32) : (startRound s r mi k int lost xs).1.tenants = s.tenants := by
  unfold startRound
  dsimp only
  split
  · rfl
  split
  · split
    · simp
    · rename_i c _
      have h := State.stageOn_tenants s c (s.roundWin r) r.id mi 0 int xs
      revert h
      generalize s.stageOn c (s.roundWin r) r.id mi 0 int xs = p
      obtain ⟨o, t⟩ := p
      intro h
      cases o <;> simp_all
  · split <;> simp
@[simp] theorem headOn_tenants (s : State) (r : Rec) (f : Feats) (mi k : Nat) (i : Img) (h : HeadImg) : (headOn s r f mi k i h).1.tenants = s.tenants := by
  unfold headOn
  dsimp only
  repeat' split
  all_goals simp
@[simp] theorem ensOn_tenants (s : State) (r : Rec) (f : Feats) (mi k : Nat) (i : Img) (e : EnsImg) : (ensOn s r f mi k i e).1.tenants = s.tenants := by
  unfold ensOn
  dsimp only
  repeat' split
  all_goals simp
@[simp] theorem runHead_tenants (s : State) (r : Rec) (f : Feats) (mi id : Nat) : (runHead s r f mi id).1.tenants = s.tenants := by
  unfold runHead
  repeat' split
  all_goals simp
@[simp] theorem runEns_tenants (s : State) (r : Rec) (f : Feats) (mi id : Nat) : (runEns s r f mi id).1.tenants = s.tenants := by
  unfold runEns
  repeat' split
  all_goals simp
@[simp] theorem rerun_tenants (s : State) (r : Rec) (m : ModelR) : (rerun s r m).1.tenants = s.tenants := by
  unfold rerun
  repeat' split
  all_goals simp
@[simp] theorem State.rerunRec_tenants (s : State) (id : Nat) : (s.rerunRec id).tenants = s.tenants := by
  unfold State.rerunRec
  dsimp only
  repeat' split
  · rfl
  · rfl
  · simp
  · exact (tenants_foldl _ (fun s m => by simp) _ _).trans (by simp)
@[simp] theorem runModels_tenants (s : State) (r : Rec) (d : PolDir) (f : Feats) : (runModels s r d f).1.tenants = s.tenants := by
  unfold runModels
  refine (tenants_foldlP _ (fun s a => by simp) _ _).trans ((tenants_foldlP _ (fun s a => by simp) _ _).trans rfl)
@[simp] theorem State.fetchRing_tenants (s : State) (k : ℕ) : (State.fetchRing s k).tenants = s.tenants := by
  (unfold State.fetchRing; dsimp only; repeat' split) <;> simp
@[simp] theorem State.dropEffs_tenants (s : State) (cmd : ℕ) : (State.dropEffs s cmd).tenants = s.tenants := by
  rfl
@[simp] theorem State.abort_tenants (s : State) (c : Cmd) (status : ℕ) : (State.abort s c status).tenants = s.tenants := by
  unfold State.abort; split <;> simp
@[simp] theorem State.adoptPath_tenants (s : State) (st : Stream) (r : Rec) : (State.adoptPath s st r).tenants = s.tenants := by
  simp [State.adoptPath]
@[simp] theorem State.putCtx_tenants (s : State) (r : Rec) (c : Ctx) : (State.putCtx s r c).tenants = s.tenants := by
  simp [State.putCtx]
@[simp] theorem State.screenTok_tenants (s : State) (st : Stream) (r : Rec) : (State.screenTok s st r).tenants = s.tenants := by
  (unfold State.screenTok; dsimp only; repeat' split) <;> simp
@[simp] theorem State.screenSpan_tenants (s : State) (r : Rec) : (State.screenSpan s r).tenants = s.tenants := by
  (unfold State.screenSpan; dsimp only; repeat' split) <;> simp
@[simp] theorem State.waitRec_tenants (s : State) (id : ℕ) (ks : List (ℕ × ℕ)) : (State.waitRec s id ks).tenants = s.tenants := by
  rfl
@[simp] theorem State.computeRec_tenants (s : State) (id : ℕ) : (State.computeRec s id).tenants = s.tenants := by
  have fit (c : Prop) [Decidable c] {r : Rec} {q : Bool × State} (h : (if c then s.fitRedo r true else (true, s)) = q) : q.2.tenants = s.tenants := by
    rw [← h]; split <;> simp
  unfold State.computeRec
  split
  · rfl
  · split
    · rfl
    · split
      rename_i f t q
      have e := fit _ q
      dsimp only at e ⊢
      refine tenants_if e ?_
      split
      all_goals first | exact tenants_if (by simpa using e) (by simpa using e) | simpa using e
@[simp] theorem State.computeBeat_tenants (s : State) : s.computeBeat.tenants = s.tenants := by
  unfold State.computeBeat
  extract_lets a b c d
  have ha : a.tenants = s.tenants := tenants_foldl _ (fun s m => by simp) _ _
  have hc : c.tenants = b.tenants := tenants_foldl _ (fun s m => by simp) _ _
  have hd : d.tenants = c.tenants := tenants_foldl _ (fun s m => by simp) _ _
  exact Eq.trans rfl (hd.trans (hc.trans ha))
@[simp] theorem State.depRound_tenants (s : State) (r : Rec) (m : ModelR) : (State.depRound s r m).tenants = s.tenants := by
  simp [State.depRound]
@[simp] theorem State.depRounds_tenants (s : State) : (State.depRounds s).tenants = s.tenants := by
  simp [State.depRounds]
@[simp] theorem State.putAccs_tenants (s : State) (r : Rec) (c : Ctx) : (State.putAccs s r c).tenants = s.tenants := by
  simp [State.putAccs]
@[simp] theorem State.foldNew_tenants (s : State) (r : Rec) : (State.foldNew s r).tenants = s.tenants := by
  unfold State.foldNew
  split
  · refine tenants_if ?_ rfl
    dsimp only
    simp
  · rfl
@[simp] theorem traceScores_tenants (s : State) (r : Rec) (vs : List (ℕ × List W32)) : (traceScores s r vs).tenants = s.tenants := by
  simp [traceScores]
@[simp] theorem State.sealRec_tenants (s : State) (m : List (W32 × Nat)) (id : Nat) : (s.sealRec m id).tenants = s.tenants := by
  unfold State.sealRec
  split
  · rfl
  · split
    · rfl
    · simp
@[simp] theorem State.giveUp_tenants (s : State) (id : ℕ) (v : ℕ) : (State.giveUp s id v).tenants = s.tenants := by
  (unfold State.giveUp; repeat' split) <;> simp
@[simp] theorem State.sealMissing_tenants (s : State) (id : ℕ) : (State.sealMissing s id).tenants = s.tenants := by
  simp [State.sealMissing]
@[simp] theorem State.expire_tenants (s : State) (id : ℕ) : (State.expire s id).tenants = s.tenants := by
  simp [State.expire]
@[simp] theorem State.sealBeat_tenants (s : State) (m : List (W32 × Nat)) : (s.sealBeat m).tenants = s.tenants := by
  unfold State.sealBeat
  dsimp only
  refine (tenants_foldl _ (fun s a => by simp) _ _).trans ?_
  refine (tenants_foldl _ (fun s a => by simp) _ _).trans ?_
  refine (tenants_foldl _ (fun s a => by simp) _ _).trans ?_
  exact (State.depRounds_tenants _).trans rfl
@[simp] theorem State.dropRec_tenants (s : State) (id : ℕ) : (State.dropRec s id).tenants = s.tenants := by
  rfl
@[simp] theorem State.releaseChunk_tenants (s : State) (st : Stream) (r : Rec) : (State.releaseChunk s st r).tenants = s.tenants := by
  simp [State.releaseChunk]
@[simp] theorem State.releaseSpan_tenants (s : State) (st : Stream) (r : Rec) : (State.releaseSpan s st r).tenants = s.tenants := by
  simp [State.releaseSpan]
@[simp] theorem State.finishInput_tenants (s : State) (st : Stream) : (State.finishInput s st).tenants = s.tenants := by
  simp [State.finishInput]
@[simp] theorem State.gatePut_tenants (s : State) (st : Stream) (step : ℕ) (due : ℕ) (es : List EgEntry) : (State.gatePut s st step due es).tenants = s.tenants := by
  simp [State.gatePut]
@[simp] theorem State.gateStream_tenants (s : State) (h : ℕ) : (State.gateStream s h).tenants = s.tenants := by
  have put (st : Stream) (due : ℕ → ℕ) (es : ℕ → List EgEntry) (l : List ℕ) (t : State) :
      (l.foldl (fun s k => s.gatePut st k (due k) (es k)) t).tenants = t.tenants := tenants_foldl _ (fun s k => by simp) l t
  unfold State.gateStream
  split
  · rfl
  · rfl
  · refine tenants_if ?_ ?_
    · exact (tenants_foldl _ (fun s k => by simp) _ _).trans (tenants_foldl _ (fun s r => by simp) _ _)
    · refine (put _ _ _ _ _).trans ?_
      simp
@[simp] theorem State.releaseEnds_tenants (s : State) : s.releaseEnds.tenants = s.tenants := by
  unfold State.releaseEnds
  refine tenants_foldl _ (fun s a => ?_) _ _
  dsimp only
  split <;> simp
@[simp] theorem State.releaseTail_tenants (s : State) (h : ℕ) : (State.releaseTail s h).tenants = s.tenants := by
  unfold State.releaseTail; split <;> simp
@[simp] theorem State.releaseClose_tenants (s : State) (h : ℕ) : (State.releaseClose s h).tenants = s.tenants := by
  unfold State.releaseClose; split <;> simp
@[simp] theorem State.finishClose_tenants (s : State) (h : ℕ) : (State.finishClose s h).tenants = s.tenants := by
  (unfold State.finishClose; repeat' split) <;> simp
@[simp] theorem State.formBatches_tenants (s : State) (k : ℕ) : (State.formBatches s k).tenants = s.tenants := by
  (unfold State.formBatches; dsimp only; repeat' split) <;> simp
theorem State.writeBatch_tenants (s : State) (k : Nat) (e : RingEntry) (b : Batch) : ∀ x, s.writeBatch k e b = some x → x.tenants = s.tenants := by
  intro x h
  unfold State.writeBatch at h
  dsimp only at h
  simp only [Option.ite_none_left_eq_some, Option.some.injEq] at h
  obtain ⟨_, rfl⟩ := h
  refine (tenants_foldl _ (fun s a => by simp) _ _).trans ?_
  split <;> simp
@[simp] theorem State.writeBatches_tenants (n k : Nat) (s : State) : (s.writeBatches n k).tenants = s.tenants := by
  induction n generalizing s with
  | zero => rfl
  | succ n ih =>
    unfold State.writeBatches
    dsimp only
    split
    · split
      · rename_i h; simp [ih, State.writeBatch_tenants _ _ _ _ _ h]
      · rfl
    · rfl
@[simp] theorem State.writeCpls_tenants (n k : Nat) (s : State) : (s.writeCpls n k).tenants = s.tenants := by
  induction n generalizing s with
  | zero => rfl
  | succ n ih =>
    unfold State.writeCpls
    dsimp only
    split
    · split
      · rfl
      · simp [ih]
    · rfl
@[simp] theorem State.forwardRec_tenants (s : State) (r : Rec) : (State.forwardRec s r).tenants = s.tenants := by
  simp [State.forwardRec]
@[simp] theorem State.forwardAll_tenants (s : State) : (State.forwardAll s).tenants = s.tenants := by
  simp [State.forwardAll]
@[simp] theorem State.releaseInputs_tenants (s : State) : s.releaseInputs.tenants = s.tenants := by
  unfold State.releaseInputs
  refine tenants_foldl _ (fun s a => ?_) _ _
  repeat' split
  all_goals simp
@[simp] theorem State.sendWaiting_tenants (s : State) (h : ℕ) : (State.sendWaiting s h).tenants = s.tenants := by
  unfold State.sendWaiting
  repeat' split
  all_goals simp
@[simp] theorem State.releaseRecs_tenants (s : State) : s.releaseRecs.tenants = s.tenants := by
  have h2 : ∀ (l : List Nat) (t : State), (if t.isTail then l.foldl State.gateStream t else t.forwardAll).tenants = t.tenants :=
    fun l t => tenants_if (tenants_foldl _ (fun s h => by simp) l t) (by simp)
  have h3 : ∀ t : State, (if t.isTail then t.releaseEnds else t).tenants = t.tenants := fun t => tenants_if (State.releaseEnds_tenants t) rfl
  have h4 : ∀ (l : List Nat) (t : State), (l.foldl State.releaseClose
      (if (l.foldl State.releaseTail t).isTail then l.foldl State.sendWaiting (l.foldl State.releaseTail t) else l.foldl State.releaseTail t)).tenants = t.tenants :=
    fun l t => (tenants_foldl _ (fun s h => by simp) l _).trans
      ((tenants_if (tenants_foldl _ (fun s h => by simp) l _) rfl).trans (tenants_foldl _ (fun s h => by simp) l t))
  unfold State.releaseRecs
  generalize hq : s.releaseInputs = q
  rw [← State.releaseInputs_tenants s, hq]
  dsimp only
  rw [h4, h3]
  exact (h2 _ _).trans (tenants_foldl _ (fun s h => by split <;> simp) _ _)
@[simp] theorem State.releaseRings_tenants (s : State) : (State.releaseRings s).tenants = s.tenants := by
  simp [State.releaseRings]
@[simp] theorem State.pumpRetireImages_tenants (s : State) : s.pumpRetireImages.tenants = s.tenants := by
  unfold State.pumpRetireImages
  refine tenants_foldl _ (fun s a => ?_) _ _
  repeat' split
  all_goals simp
@[simp] theorem State.askRepair_tenants (s : State) (slot : ℕ) (key : ℕ) : (State.askRepair s slot key).tenants = s.tenants := by
  simp [State.askRepair]
@[simp] theorem State.streamLost_tenants (s : State) (h : Nat) : (s.streamLost h).tenants = s.tenants := by
  unfold State.streamLost
  split
  · rfl
  · dsimp only
    refine tenants_if (by simp) (tenants_if (by simp) (by simp))
@[simp] theorem State.failWaiters_tenants (s : State) (slot : ℕ) (key : ℕ) : (State.failWaiters s slot key).tenants = s.tenants := by
  rfl
@[simp] theorem State.pumpFlushes_tenants (s : State) : s.pumpFlushes.tenants = s.tenants := by
  unfold State.pumpFlushes
  refine tenants_if rfl (tenants_foldl _ (fun s a => ?_) _ _)
  repeat' split
  all_goals simp
@[simp] theorem State.corrected_tenants (s : State) (n : List ℕ) : (State.corrected s n).tenants = s.tenants := by
  rfl
@[simp] theorem State.tornCount_tenants (s : State) : (State.tornCount s).tenants = s.tenants := by
  rfl
@[simp] theorem State.reloadLog_tenants (s : State) (key : ℕ) (imageId : ℕ) (cls : ℕ) : (State.reloadLog s key imageId cls).tenants = s.tenants := by
  simp [State.reloadLog]
@[simp] theorem State.tileBad_tenants (s : State) (slot : ℕ) (key : ℕ) (cls : ℕ) : (State.tileBad s slot key cls).tenants = s.tenants := by
  unfold State.tileBad; split <;> simp
@[simp] theorem State.tileStale_tenants (s : State) (slot key : ℕ) : (State.tileStale s slot key).tenants = s.tenants := by
  unfold State.tileStale; dsimp only; split <;> simp
@[simp] theorem State.tileUse_tenants (s : State) (slot key : ℕ) (u : UseRead) : (State.tileUse s slot key u).tenants = s.tenants := by
  unfold State.tileUse; split
  · rfl
  · split <;> simp
@[simp] theorem State.askTile_tenants (s : State) (slot : ℕ) (key : ℕ) : (State.askTile s slot key).tenants = s.tenants := by
  unfold State.askTile; split <;> simp
@[simp] theorem State.askPin_tenants (s : State) (slot : ℕ) (mask : ℕ) : (State.askPin s slot mask).tenants = s.tenants := by
  unfold State.askPin
  split
  · refine tenants_foldl _ (fun s t => ?_) _ _
    exact tenants_if rfl (tenants_if (by simp) (by simp))
  · rfl
@[simp] theorem State.askAllow_tenants (s : State) (st : Stream) : (State.askAllow s st).tenants = s.tenants := by
  unfold State.askAllow; split <;> simp
@[simp] theorem State.askEntry_tenants (s : State) (bank : ℕ) (e : BEntry) : (State.askEntry s bank e).tenants = s.tenants := by
  (unfold State.askEntry; repeat' split) <;> simp
@[simp] theorem State.askStream_tenants (s : State) (h : ℕ) : (State.askStream s h).tenants = s.tenants := by
  simp [State.askStream]
@[simp] theorem State.pumpReloads_tenants (s : State) : (State.pumpReloads s).tenants = s.tenants := by
  simp [State.pumpReloads]
@[simp] theorem State.streamBad_tenants (s : State) (h : Nat) : (s.streamBad h).tenants = s.tenants := by
  unfold State.streamBad
  split
  · rfl
  · dsimp only
    refine tenants_if (by simp) (by simp)
@[simp] theorem State.tornRead_tenants (s : State) (h : ℕ) : (State.tornRead s h).tenants = s.tenants := by
  unfold State.tornRead; split <;> simp
@[simp] theorem State.stagingTorn_tenants (s : State) (h : ℕ) (p : Rec → Bool) : (State.stagingTorn s h p).tenants = s.tenants := by
  simp [State.stagingTorn]
@[simp] theorem State.nodeBad_tenants (s : State) (h : ℕ) (node : ℕ) : (State.nodeBad s h node).tenants = s.tenants := by
  unfold State.nodeBad
  split
  · rfl
  · exact (State.log_tenants ..).trans (State.setStream_tenants ..)
@[simp] theorem State.nodeTorn_tenants (s : State) (h node : ℕ) (p : Rec → Bool) : (State.nodeTorn s h node p).tenants = s.tenants := by
  unfold State.nodeTorn
  split
  · rfl
  · split
    · rfl
    · simp
@[simp] theorem State.nodeUse_tenants (s : State) (h node : ℕ) (u : UseRead) (now : Rec → Bool) : (State.nodeUse s h node u now).tenants = s.tenants := by
  unfold State.nodeUse; split
  · rfl
  · split <;> simp
@[simp] theorem State.streamUse_tenants (s : State) (h : ℕ) (u : UseRead) : (State.streamUse s h u).tenants = s.tenants := by
  unfold State.streamUse; split
  · rfl
  · refine tenants_if rfl ?_
    split <;> simp
@[simp] theorem State.stagingBad_tenants (s : State) (h : ℕ) : (State.stagingBad s h).tenants = s.tenants := by
  (unfold State.stagingBad; repeat' split) <;> simp
@[simp] theorem State.saveTorn_tenants (s : State) (c : Cmd) : (State.saveTorn s c).tenants = s.tenants := by
  simp [State.saveTorn]
@[simp] theorem State.stagingUse_tenants (s : State) (h : ℕ) (u : UseRead) (now : Rec → Bool) : (State.stagingUse s h u now).tenants = s.tenants := by
  unfold State.stagingUse; repeat' split
  all_goals simp
@[simp] theorem State.checkStaging_tenants (s : State) : (State.checkStaging s).tenants = s.tenants := by
  unfold State.checkStaging
  refine tenants_foldl _ (fun s r => ?_) _ _
  split <;> simp
@[simp] theorem State.allowRead_tenants (s : State) (h : ℕ) (u : UseRead) : (State.allowRead s h u).tenants = s.tenants := by
  unfold State.allowRead; split
  · rfl
  · dsimp only
    refine tenants_if rfl ?_
    split
    · rfl
    · refine tenants_if (by simp) (by simp)
    · simp
@[simp] theorem State.lateCheck_tenants (s : State) (id : ℕ) : (State.lateCheck s id).tenants = s.tenants := by
  unfold State.lateCheck; split <;> simp
@[simp] theorem State.chunkUncorr_tenants (s : State) (slot : ℕ) : (State.chunkUncorr s slot).tenants = s.tenants := by
  unfold State.chunkUncorr
  exact (tenants_foldl _ (fun s a => by simp) _ _).trans rfl
@[simp] theorem State.evBefore_tenants (s : State) (e : IntegEvt) : (State.evBefore s e).tenants = s.tenants := by
  unfold State.evBefore
  cases e with
  | pinnedBad slot mask => dsimp only; split <;> simp
  | tileUncorr slot tile => exact Eq.trans rfl (by simp)
  | genStore hs => exact (tenants_foldl _ (fun s a => by simp) _ _).trans (by simp)
  | _ => simp
@[simp] theorem State.evAfter_tenants (a : State) (s : State) (e : IntegEvt) : (State.evAfter a s e).tenants = s.tenants := by
  unfold State.evAfter; split <;> simp
@[simp] theorem State.useCells_tenants (a : State) (s : State) : (State.useCells a s).tenants = s.tenants := by
  rfl
@[simp] theorem State.countWork_tenants (s : State) : (State.countWork s).tenants = s.tenants := by
  simp [State.countWork]
@[simp] theorem State.writeBacks_tenants (a s : State) : (State.writeBacks a s).tenants = s.tenants := by
  unfold State.writeBacks
  exact (tenants_foldl _ (fun s r => by simp) _ _).trans (tenants_foldl _ (fun s r => by simp) _ _)
@[simp] theorem State.computeNow_tenants (s : State) (evts : List IntegEvt) : (s.computeNow evts).tenants = s.tenants := by
  unfold State.computeNow
  extract_lets a ms b b1 b2 b3
  have ha : a.tenants = s.tenants := by simp [a]
  have h0 : b.tenants = s.tenants :=
    (tenants_foldl _ (fun s r => by simp) _ _).trans ((State.computeBeat_tenants a).trans ha)
  have h1 : b1.tenants = b.tenants := tenants_foldl _ (fun s r => by simp) _ _
  have h2 : b2.tenants = b1.tenants := State.writeBacks_tenants ..
  have h3 : b3.tenants = b2.tenants := tenants_foldl _ (fun s r => by simp) _ _
  simp [h3, h2, h1, h0]
@[simp] theorem State.releaseBeat_tenants (s : State) : s.releaseBeat.tenants = s.tenants := by
  unfold State.releaseBeat
  simp

@[simp] theorem State.runTo_tenants (s : State) (k : Nat) : (s.runTo k).tenants = s.tenants := by
  simp [State.runTo]

/-! What the seal phase leaves: the rings, whose entries the release phase writes (R35, R45). -/

@[simp] theorem rings_ite (c : Prop) [Decidable c] (a b : State) : (if c then a else b).rings = if c then a.rings else b.rings := by split <;> rfl
@[simp] theorem rings_foldl {α : Type} (f : State → α → State) (h : ∀ s a, (f s a).rings = s.rings) (l : List α) (s : State) :
    (l.foldl f s).rings = s.rings := by
  induction l generalizing s with
  | nil => rfl
  | cons a l ih => simp [ih, h]

@[simp] theorem State.sendOn_rings (s : State) (c : Nat) (w : Win) (op : Nat) (purp : Purp) (words : List W64) (payload : List Byte) (respLen : Nat) :
    (s.sendOn c w op purp words payload respLen).rings = s.rings := by
  (unfold State.sendOn; dsimp only; repeat' split) <;> simp
@[simp] theorem State.noIssue_rings (s : State) (e c op : Nat) : (s.noIssue e c op).rings = s.rings := by
  simp [State.noIssue]
@[simp] theorem State.issueOn_rings (s : State) (c : Nat) (w : Win) (op : Nat) (purp : Purp) (words : List W64) (payload : List Byte) (respLen : Nat) :
    (s.issueOn c w op purp words payload respLen).2.rings = s.rings := by
  unfold State.issueOn; split <;> simp
@[simp] theorem issueAll_rings (s : State) (c : Nat) (w : Win) (l : List (Purp × Nat × List W64 × Nat)) : (issueAll s c w l).1.rings = s.rings := by
  induction l generalizing s with
  | nil => rfl
  | cons x l ih => simp [issueAll, ih]
@[simp] theorem State.modelAbsent_rings (s : State) (id mi : Nat) : (s.modelAbsent id mi).rings = s.rings := rfl
@[simp] theorem State.depRound_rings (s : State) (r : Rec) (m : ModelR) : (s.depRound r m).rings = s.rings := by
  unfold State.depRound; repeat' split
  all_goals simp
@[simp] theorem State.depRounds_rings (s : State) : s.depRounds.rings = s.rings := by
  simp [State.depRounds]
@[simp] theorem State.putCtx_rings (s : State) (r : Rec) (c : Ctx) : (s.putCtx r c).rings = s.rings := by
  simp [State.putCtx]
@[simp] theorem State.putAccs_rings (s : State) (r : Rec) (c : Ctx) : (s.putAccs r c).rings = s.rings := by
  simp [State.putAccs]
@[simp] theorem State.foldNew_rings (s : State) (r : Rec) : (s.foldNew r).rings = s.rings := by
  unfold State.foldNew; split <;> simp
@[simp] theorem State.adoptPath_rings (s : State) (st : Stream) (r : Rec) : (s.adoptPath st r).rings = s.rings := by
  simp [State.adoptPath]
@[simp] theorem traceScores_rings (s : State) (r : Rec) (vs : List (Nat × List W32)) : (traceScores s r vs).rings = s.rings := by
  simp [traceScores]
@[simp] theorem State.sealRec_rings (s : State) (m : List (W32 × Nat)) (id : Nat) : (s.sealRec m id).rings = s.rings := by
  unfold State.sealRec
  split
  · rfl
  · split
    · rfl
    · simp
@[simp] theorem State.giveUp_rings (s : State) (id v : Nat) : (s.giveUp id v).rings = s.rings := by
  unfold State.giveUp; repeat' split
  all_goals simp
@[simp] theorem State.expire_rings (s : State) (id : Nat) : (s.expire id).rings = s.rings := by
  simp [State.expire]
@[simp] theorem State.sealMissing_rings (s : State) (id : Nat) : (s.sealMissing id).rings = s.rings := by
  simp [State.sealMissing]
@[simp] theorem State.sealBeat_rings (s : State) (m : List (W32 × Nat)) : (s.sealBeat m).rings = s.rings := by
  unfold State.sealBeat
  dsimp only
  refine (rings_foldl _ (fun s a => by simp) _ _).trans ?_
  refine (rings_foldl _ (fun s a => by simp) _ _).trans ?_
  refine (rings_foldl _ (fun s a => by simp) _ _).trans ?_
  exact (State.depRounds_rings _).trans rfl

/-! The ring side while no beat runs (R113, R421). -/

/-- The parts of the state that serving the rings leaves: the clock, the streams, their records and masks, the tenants. -/
def State.beatSide (s : State) : ClockS × AMap Stream × List Rec × List MaskJ × AMap Tenant := (s.clk, s.streams, s.recs, s.masks, s.tenants)
theorem beatSide_foldl {α : Type} (f : State → α → State) (h : ∀ s a, (f s a).beatSide = s.beatSide) (l : List α) (s : State) :
    (l.foldl f s).beatSide = s.beatSide := by
  induction l generalizing s with
  | nil => rfl
  | cons a l ih => exact (ih _).trans (h s a)

theorem State.writeCpls_beatSide (f k : Nat) (s : State) : (State.writeCpls f k s).beatSide = s.beatSide := by
  induction f generalizing s with
  | zero => rfl
  | succ f ih =>
    unfold State.writeCpls
    dsimp only
    split
    · split
      · rfl
      · exact (ih _).trans (by simp [State.beatSide])
    · rfl
theorem State.fetchRing_beatSide (s : State) (k : Nat) : (s.fetchRing k).beatSide = s.beatSide := by
  unfold State.fetchRing
  dsimp only
  split
  · rfl
  · split
    · rfl
    · exact (beatSide_foldl _ (fun s i => by simp [State.beatSide]) _ _).trans rfl
theorem State.finish_beatSide (s : State) (c : Cmd) (d : Done) : (s.finish c d).beatSide = s.beatSide := by
  simp [State.beatSide]
theorem State.pumpUnlisted_beatSide (s : State) (k : Nat) : (s.pumpUnlisted k).beatSide = s.beatSide := by
  unfold State.pumpUnlisted
  generalize (s.ring k).fetched.length = f
  induction f generalizing s with
  | zero => rfl
  | succ f ih =>
    unfold Machine.pumpUnlisted
    split
    · exact (ih _).trans ((State.finish_beatSide ..).trans (by simp [State.beatSide]))
    · rfl
theorem State.relayWrite_beatSide (s : State) (r : RelayOut) : (s.relayWrite r).beatSide = s.beatSide := by
  simp [State.beatSide, State.relayWrite]
theorem State.pumpRelay_beatSide (s : State) : s.pumpRelay.beatSide = s.beatSide := by
  refine beatSide_foldl _ (fun s r => ?_) _ _
  dsimp only
  split
  · exact State.relayWrite_beatSide ..
  · rfl
theorem State.pumpFlushes_beatSide (s : State) : s.pumpFlushes.beatSide = s.beatSide := by
  unfold State.pumpFlushes
  split
  · rfl
  · refine beatSide_foldl _ (fun s c => ?_) _ _
    split
    · split
      · rfl
      · exact State.finish_beatSide ..
    · rfl
theorem State.releaseIdle_beatSide (s : State) : s.releaseIdle.beatSide = s.beatSide := by
  refine (State.pumpFlushes_beatSide _).trans ((State.pumpRelay_beatSide _).trans ?_)
  refine (beatSide_foldl _ (fun s k => ?_) _ _).trans (beatSide_foldl _ (fun s k => State.writeCpls_beatSide _ k s) _ _)
  exact (State.pumpUnlisted_beatSide ..).trans (State.fetchRing_beatSide ..)

/-! The phases. -/

/-- What a phase that begins leaves and sets. -/
structure PhaseBegun (s t : State) (k : Nat) : Prop where
  clk : t.clk = { s.clk with phase := k, cycle := (phaseCycles k).1 }
  regs : t.regs = s.regs
  fuses : t.fuses = s.fuses
  tenants : t.tenants = s.tenants
  start : t.start = s.start

theorem PhaseBegun.of_hold {s t : State} {k : Nat} (hold : t.hold = (s.toPhase k).hold) (still : t.still = s.still) (tenants : t.tenants = s.tenants) :
    PhaseBegun s t k :=
  ⟨clk_of_hold hold, regs_of_still still, fuses_of_still still, tenants, (start_of_hold hold).trans rfl⟩

/-- The phases before the seal phase, as far as none has run. -/
theorem State.runTo_two {s : State} (h : s.clk.phase ≤ 1) : s.runTo 2 = if s.clk.phase = 0 then s.computeNow [] else s := by
  obtain h0 | h1 : s.clk.phase = 0 ∨ s.clk.phase = 1 := by omega
  · simp [State.runTo, h0]
  · simp [State.runTo, h1]
theorem State.runTo_three_hold {s : State} (h : s.clk.phase ≤ 2) : ((s.runTo 3).toPhase 3).hold = (s.toPhase 3).hold := by
  obtain h0 | h1 | h2 : s.clk.phase = 0 ∨ s.clk.phase = 1 ∨ s.clk.phase = 2 := by omega
  · have e : s.runTo 3 = (s.computeNow []).sealBeat [] := by
      simp [State.runTo, h0, State.phase_of_toPhase_hold (State.computeNow_hold s [])]
    rw [e]
    exact State.toPhase_after 3 ((State.sealBeat_hold _ []).trans (State.toPhase_after 2 (State.computeNow_hold s [])))
  · have e : s.runTo 3 = s.sealBeat [] := by simp [State.runTo, h1]
    rw [e]
    exact State.toPhase_after 3 (State.sealBeat_hold s [])
  · have e : s.runTo 3 = s := by simp [State.runTo, h2]
    rw [e]

theorem sealPhase_begins {s : State} (mis : List (W32 × Nat)) (h : s.clk.phase ≤ 1) : PhaseBegun s ((s.runTo 2).sealBeat mis) 2 := by
  refine .of_hold ((State.sealBeat_hold _ mis).trans ?_) ((State.sealBeat_still ..).trans (State.runTo_still s 2)) (by simp)
  rw [State.runTo_two h]
  split
  · exact State.toPhase_after 2 (State.computeNow_hold s [])
  · rfl
theorem releasePhase_begins {s : State} (h : s.clk.phase ≤ 2) : PhaseBegun s (s.runTo 3).releaseBeat 3 :=
  .of_hold ((State.releaseBeat_hold _).trans (State.runTo_three_hold h)) ((State.releaseBeat_still _).trans (State.runTo_still s 3)) (by simp)

theorem execReleasePhase_of_idle {s : State} (serving : s.serving = true) (h : s.live = false) : exec .releasePhase s = .next s.releaseIdle := by
  have idle : (s.running && s.complete) = false := by
    simp only [State.live, State.running] at h ⊢
    cases hc : s.complete <;> cases hs : s.clk.stopped <;> simp_all
  show Host.Outcome.next _ = _
  rw [serving, idle]
  rfl
theorem execReleasePhase_of_live {s : State} (h : s.live = true) :
    exec .releasePhase s = .next (if s.clk.phase ≤ 2 then (s.runTo 3).releaseBeat else s) := by
  simp only [State.live, Bool.and_eq_true, Bool.not_eq_eq_eq_not, Bool.not_true] at h
  obtain ⟨complete, going⟩ := h
  have serving : s.serving = true := by
    unfold State.serving
    unfold State.complete at complete
    rw [complete, Bool.true_or]
  have running : (s.running && s.complete) = true := by simp only [State.running, serving, going, complete]; rfl
  show Host.Outcome.next _ = _
  rw [serving, running]
  rfl

/-- Settles O32: each phase's clock (`computeNow_hold`, `sealBeat_hold`, `releaseBeat_hold`) and frame, and the ring side while no beat runs
(`releaseIdle_beatSide`). -/
theorem phasesKeepTheBeat : Obligations.PhasesKeepTheBeat := by
  intro evts mis s
  refine ⟨fun h => ?_, fun h => ⟨fun past => ?_, fun past => ?_, fun past => ?_, fun now => ?_, fun now => ?_, fun now => ?_⟩, fun h => ?_, fun h idle => ?_⟩
  · have off : (s.complete && !s.clk.stopped) = false := h
    constructor
    · show Host.Outcome.next _ = _
      rw [off]
      rfl
    · show Host.Outcome.next _ = _
      rw [off]
      rfl
  · have e : (s.complete && !s.clk.stopped && decide (s.clk.phase = 0)) = false := by simp [past]
    show Host.Outcome.next _ = _
    rw [e]
    rfl
  · have e : (s.complete && !s.clk.stopped && decide (s.clk.phase ≤ 1)) = false := by simp [past]
    show Host.Outcome.next _ = _
    rw [e]
    rfl
  · rw [execReleasePhase_of_live h, if_neg (by omega)]
  · have e : (s.complete && !s.clk.stopped && decide (s.clk.phase = 0)) = true := by rw [show (s.complete && !s.clk.stopped) = true from h]; simp [now]
    have begun : PhaseBegun s (s.computeNow evts) 1 := .of_hold (State.computeNow_hold s evts) (State.computeNow_still ..) (by simp)
    refine ⟨_, congrArg Host.Outcome.next (if_pos e), begun.clk, begun.regs, begun.fuses, begun.tenants, begun.start⟩
  · have e : (s.complete && !s.clk.stopped && decide (s.clk.phase ≤ 1)) = true := by rw [show (s.complete && !s.clk.stopped) = true from h]; simp [now]
    have begun := sealPhase_begins mis now
    refine ⟨_, congrArg Host.Outcome.next (if_pos e), begun.clk, begun.regs, begun.fuses, begun.tenants, begun.start, fun one => ?_⟩
    rw [State.sealBeat_rings, State.runTo_two now, if_neg (by omega)]
  · have begun := releasePhase_begins now
    exact ⟨_, (execReleasePhase_of_live h).trans (congrArg Host.Outcome.next (if_pos now)), begun.clk, begun.regs, begun.fuses, begun.tenants, begun.start⟩
  · show Host.Outcome.next _ = _
    rw [h]
    rfl
  · have kept : s.releaseIdle.beatSide = s.beatSide := State.releaseIdle_beatSide s
    simp only [State.beatSide, Prod.mk.injEq] at kept
    exact ⟨_, execReleasePhase_of_idle h idle, kept⟩

end Sys2Proof.Machine
end

section
/-! A command that has just started and completes at once, and what it leaves (R101 to R106). -/

namespace Sys2Proof.Machine

@[simp] theorem started_fuses (s : State) (d : Desc) : (s.started d).fuses = s.fuses := State.begin_fuses s d
@[simp] theorem started_pending (s : State) (d : Desc) : (s.started d).pending = s.pending := State.begin_pending s d
@[simp] theorem started_opens (s : State) (d : Desc) : (s.started d).opens = s.opens := State.begin_opens s d
@[simp] theorem started_recs (s : State) (d : Desc) : (s.started d).recs = s.recs := State.begin_recs s d
@[simp] theorem started_masks (s : State) (d : Desc) : (s.started d).masks = s.masks := State.begin_masks s d
@[simp] theorem started_port (s : State) (d : Desc) : (s.started d).port = s.port := State.begin_port s d
@[simp] theorem started_banks (s : State) (d : Desc) : (s.started d).banks = s.banks := State.begin_banks s d
@[simp] theorem started_tenants (s : State) (d : Desc) : (s.started d).tenants = s.tenants := State.begin_tenants s d
@[simp] theorem started_policies (s : State) (d : Desc) : (s.started d).policies = s.policies := State.begin_policies s d
@[simp] theorem started_cairns (s : State) (d : Desc) : (s.started d).cairns = s.cairns := State.begin_cairns s d
@[simp] theorem started_tokCache (s : State) (d : Desc) : (s.started d).tokCache = s.tokCache := State.begin_tokCache s d
@[simp] theorem started_range (s : State) (d : Desc) : (s.started d).range = s.range := State.begin_range s d
@[simp] theorem started_test (s : State) (d : Desc) : (s.started d).test = s.test := State.begin_test s d
@[simp] theorem started_img? (s : State) (d : Desc) (k : Nat) : (s.started d).img? k = s.img? k := by simp [State.img?]
@[simp] theorem started_ridges (s : State) (d : Desc) : (s.started d).ridges = s.ridges := by simp [State.ridges]
@[simp] theorem started_bankSoon (s : State) (d : Desc) (k : Nat) : bankSoon (s.started d) k = bankSoon s k := by
  simp [bankSoon, State.bank]

/-- A started command completes from a state with the commands and rings of the start. -/
theorem completes_of_started {s u : State} {d : Desc} (r : Done) (cmds : u.cmds = (s.started d).cmds) (rings : u.rings = (s.started d).rings) :
    Completes s (u.finish (s.startedCmd d) r) d r :=
  completes_of_cmds r (cmds.trans (started_cmds s d)) rfl (State.ring_congr rings _)
theorem completes_started (s : State) (d : Desc) (r : Done) : Completes s ((s.started d).finish (s.startedCmd d) r) d r :=
  completes_of_started r rfl rfl

/-! Frames, through a completion. -/

section
variable {s u : State} (c : Cmd) (r : Done)

theorem SameStreams.finish (h : SameStreams s u) : SameStreams s (u.finish c r) := by
  simpa only [SameStreams, State.finish_streams, State.finish_recs, State.finish_masks, State.finish_opens] using h
theorem SameStores.finish (h : SameStores s u) : SameStores s (u.finish c r) := by
  simpa only [SameStores, State.finish_images, State.finish_banks, State.finish_policies, State.finish_cairns, State.finish_tokCache] using h
theorem SameTenants.finish (h : SameTenants s u) : SameTenants s (u.finish c r) := by
  simpa only [SameTenants, State.finish_tenants] using h
theorem SameStack.finish (h : SameStack s u) : SameStack s (u.finish c r) := by
  simpa only [SameStack, State.finish_stack] using h
theorem SameControl.finish (h : SameControl s u) : SameControl s (u.finish c r) := by
  simpa only [SameControl, State.finish_regs, State.finish_fuses, State.finish_build, State.finish_start, State.finish_clk, State.finish_gov,
    State.finish_integ, State.finish_range, State.finish_port, State.finish_test, State.finish_pending] using h
end

theorem sameStreams_started (s : State) (d : Desc) : SameStreams s (s.started d) := by simp [SameStreams]
theorem sameStores_started (s : State) (d : Desc) : SameStores s (s.started d) := by simp [SameStores]
theorem sameTenants_started (s : State) (d : Desc) : SameTenants s (s.started d) := by simp [SameTenants]
theorem sameStack_started (s : State) (d : Desc) : SameStack s (s.started d) := by simp [SameStack]
theorem sameControl_started (s : State) (d : Desc) : SameControl s (s.started d) := by simp [SameControl]

end Sys2Proof.Machine
end

section
/-! The actions of EXPERT (R80, R103, R115, R235, R245, R373). -/

namespace Sys2Proof.Machine

/-! Putting an image in its place leaves the images. -/

theorem images_foldl {α : Type} (f : State → α → State) (h : ∀ s a, (f s a).images = s.images) (l : List α) (s : State) :
    (l.foldl f s).images = s.images := by
  induction l generalizing s with
  | nil => rfl
  | cons a l ih => exact (ih _).trans (h s a)
@[simp] theorem State.bankAt_images (s : State) (k : Nat) (e : Eff) : (s.bankAt k e).images = s.images := by
  unfold State.bankAt
  split <;> rfl
@[simp] theorem State.dropPlaced_images (s : State) (i : Img) : (s.dropPlaced i).images = s.images :=
  images_foldl _ (fun _ _ => State.bankAt_images ..) _ _
theorem State.putCopy_images (s : State) (w : Nat) (rs : List EntryRec) (os : List Offer) : (s.putCopy w rs os).images = s.images :=
  (images_foldl _ (fun _ _ => by simp) _ _).trans rfl
theorem placeOnce_images (s : State) (ridges : List Nat) (n : Nat) : (placeOnce s ridges n).2.images = s.images := by
  simp [placeOnce]
theorem placeSet_images (s : State) (p : PatSetImg) (banks : List Nat) : ∀ x, placeSet s p banks = some x → x.2.images = s.images := by
  intro x hx
  simp only [placeSet, Option.map_eq_some_iff] at hx
  obtain ⟨cs, -, rfl⟩ := hx
  exact (images_foldl _ (fun _ _ => State.putCopy_images ..) _ _).trans (State.pick_images ..)
theorem placeBody_images (s : State) (b : ImgBody) (ridges : List Nat) : ∀ x, placeBody s b ridges = some x → x.2.images = s.images := by
  have once (n : Nat) : ∀ m t, placeOnce s ridges n = (some m, t) → t.images = s.images := fun m t h =>
    (congrArg (fun y => y.2.images) h).symm.trans (placeOnce_images s ridges n)
  intro x hx
  unfold placeBody at hx
  cases b with
  | vocabulary v =>
    dsimp only at hx
    split at hx
    · split at hx
      · cases hx
        exact once _ _ _ ‹_›
      · cases hx
    · cases hx
  | probeHead h =>
    dsimp only at hx
    split at hx
    · cases hx
      exact once _ _ _ ‹_›
    · cases hx
  | maskDictionary m => cases hx; rfl
  | policy p => cases hx; rfl
  | patternSet p =>
    simp only [Option.map_eq_some_iff] at hx
    obtain ⟨y, hy, rfl⟩ := hx
    exact placeSet_images s p _ y hy
  | probeDelta bs =>
    simp only [Option.map_eq_some_iff] at hx
    obtain ⟨m, -, rfl⟩ := hx
    rfl
  | grammar g =>
    dsimp only at hx
    split at hx
    · simp only [Option.map_eq_some_iff] at hx
      obtain ⟨m, -, rfl⟩ := hx
      rfl
    · cases hx
  | automaton _ | treeEnsemble e | treeDelta _ =>
    dsimp only at hx
    split at hx
    · cases hx
      rfl
    · cases hx

/-- The list of a range's numbers with their values, as a map. -/
theorem AMap.get?_zip_range {α : Type} (l : List α) (i : Nat) : AMap.get? ((List.range l.length).zip l) i = l[i]? := by
  have shifted : ∀ (l : List α) (k i : Nat), AMap.get? ((List.range' k l.length).zip l) i = if k ≤ i then l[i - k]? else none := by
    intro l
    induction l with
    | nil => simp [AMap.get?]
    | cons x l ih =>
      intro k i
      rw [List.length_cons, List.range'_succ, List.zip_cons_cons, AMap.get?, ih]
      obtain h | h | h := Nat.lt_trichotomy i k
      · simp [Nat.not_le.mpr h, show ¬ k + 1 ≤ i by omega, show k ≠ i by omega]
      · simp [h]
      · have e : i - k = (i - (k + 1)) + 1 := by omega
        simp [show k + 1 ≤ i by omega, show k ≤ i by omega, show k ≠ i by omega, e]
  simpa [List.range_eq_range'] using shifted l 0 i

section
variable {d : Desc} {s : State} (ok : s.accepts d = true) (op : d.opcode = 0x48)
include ok op

theorem exec_expertQuery (action : d.fnAct.2 = 0) : exec (.expertQuery d) s = .next (expertQueryBody d (s.started d) (s.startedCmd d)) :=
  congrArg Host.Outcome.next (runDesc_accepts ok (by simp [op, action]) _)
theorem exec_expertSetBankWidth (action : d.fnAct = (2, 1)) :
    exec (.expertSetBankWidth d) s = .next (bankWidthBody d (s.started d) (s.startedCmd d)) :=
  congrArg Host.Outcome.next (runDesc_accepts ok (by simp [op, action]) _)
theorem exec_expertReserveSlots (action : d.fnAct = (1, 1)) :
    exec (.expertReserveSlots d) s = .next (reserveBody d (s.started d) (s.startedCmd d)) :=
  congrArg Host.Outcome.next (runDesc_accepts ok (by simp [op, action]) _)
theorem exec_expertReleaseSlots (action : d.fnAct = (1, 2)) :
    exec (.expertReleaseSlots d) s = .next (releaseSlotsBody d (s.started d) (s.startedCmd d)) :=
  congrArg Host.Outcome.next (runDesc_accepts ok (by simp [op, action]) _)
theorem exec_expertGovBound (action : d.fnAct = (3, 1)) :
    exec (.expertGovBound d) s = .next (govBoundBody d (s.started d) (s.startedCmd d)) :=
  congrArg Host.Outcome.next (runDesc_accepts ok (by simp [op, action]) _)
theorem exec_expertPinImage (action : d.fnAct = (0, 1)) :
    exec (.expertPinImage d) s = .next (pinBody d (s.started d) (s.startedCmd d)) :=
  congrArg Host.Outcome.next (runDesc_accepts ok (by simp [op, action]) _)
end

/-- An image pinned to ridges that hold it: the images, banks and streams it leaves. -/
theorem pinBody_places {s : State} {d : Desc} {slot : Nat} {i : Img} {rs : List Nat} {cells : AMap Nat} {ps : List Nat} {placed : List (Nat × Nat × Nat)}
    {v : State} (pl : placeBody { (s.started d).unplace slot i with images := AMap.erase (s.started d).images slot } i.body rs = some ((cells, ps, placed), v)) :
    let x : Img := { i with cells := cells, ridges := ps, placed := placed, pinned := some rs, badTiles := [] }
    let t := ({ v with images := AMap.set v.images slot x } : State).finish (s.startedCmd d) { status := stOK }
    Completes s t d { status := stOK } ∧ t.banks = v.banks ∧ AMap.get? t.images slot = some x
      ∧ (∀ k, k ≠ slot → AMap.get? t.images k = AMap.get? s.images k) ∧ SameStreams s t := by
  have images : v.images = AMap.erase s.images slot := (placeBody_images _ _ _ _ pl).trans (by rw [started_images])
  have seat : v.seat = (s.started d).seat := (placeBody_seat _ _ _ _ pl).trans (State.dropPlaced_seat ..)
  have streams : SameStreams s v := by
    have started := sameStreams_started s d
    exact ⟨(congrArg Seat.streams seat).trans started.1, (congrArg Seat.recs seat).trans started.2.1, (congrArg Seat.masks seat).trans started.2.2.1,
      (congrArg Seat.opens seat).trans started.2.2.2⟩
  refine ⟨completes_of_started _ (congrArg Seat.cmds seat) (congrArg Seat.rings seat), by simp, by simp, fun k hk => ?_,
    SameStreams.finish (u := { v with images := _ }) _ _ streams⟩
  simp [images, hk]

/-- Settles O49: each action's body on a command that has just started. -/
theorem expertActions : Obligations.ExpertActions := by
  intro d s u ok op
  refine ⟨fun action => ⟨fun fn => ?_, fun fn => ?_⟩, fun action => ?_, fun action => ?_, fun action => ?_, fun action => ?_, fun action => ?_⟩
  · rw [exec_expertQuery ok op action]
    exact ⟨_, congrArg Host.Outcome.next (if_pos fn), completes_started ..⟩
  · rw [exec_expertQuery ok op action]
    refine ⟨_, _, _, congrArg Host.Outcome.next (if_neg (by omega)), completes_started .., Nat.mod_lt _ (by decide), Nat.mod_lt _ (by decide), ?_⟩
    exact ⟨(sameStreams_started s d).finish .., (sameStores_started s d).finish .., (sameTenants_started s d).finish ..,
      (sameStack_started s d).finish .., (sameControl_started s d).finish ..⟩
  · rw [exec_expertSetBankWidth ok op action]
    unfold bankWidthBody
    dsimp only
    rw [started_bankSoon]
    refine ⟨fun busy => ?_, fun invalid still => ?_⟩
    · rw [if_pos (by simpa using busy)]
      exact ⟨_, rfl, completes_started .., by simp⟩
    · rw [if_neg (by simp [invalid, still])]
      exact ⟨_, rfl, completes_started .., by simp [State.at], by simp⟩
  · rw [exec_expertReserveSlots ok op action]
    unfold reserveBody
    dsimp only
    rw [started_gov]
    refine ⟨fun fits => ?_, fun fails => ?_⟩
    · rw [if_pos fits]
      exact ⟨_, rfl, completes_of_started _ rfl rfl, by simp, SameStreams.finish _ _ (sameStreams_started s d)⟩
    · rw [if_neg (by rw [fails]; exact Bool.false_ne_true)]
      exact ⟨_, rfl, completes_started .., by simp, (sameStreams_started s d).finish ..⟩
  · rw [exec_expertReleaseSlots ok op action]
    exact ⟨_, rfl, completes_started .., by simp [releaseSlotsBody], by simp [releaseSlotsBody, State.at]⟩
  · rw [exec_expertGovBound ok op action]
    unfold govBoundBody
    refine ⟨_, rfl, completes_of_started _ rfl rfl, by simp, fun i p hp => ?_, by simp, ?_, ?_⟩
    · rw [State.finish_gov]
      exact (AMap.get?_zip_range _ i).trans hp
    · exact SameStreams.finish _ _ (sameStreams_started s d)
    · exact SameStores.finish _ _ (sameStores_started s d)
  · rw [exec_expertPinImage ok op action]
    unfold pinBody
    dsimp only
    rw [started_img?, started_ridges]
    generalize (List.range 16).filter (fun r => dbit d 3 (16 + r)) = rs
    refine ⟨fun absent => ?_, fun i hi loaded => ⟨fun outside => ?_, fun inside none => ?_, fun cells ps placed v inside some base pl => ?_⟩⟩
    · obtain none | ⟨i, hi, busy⟩ := absent
      · rw [none]
        exact ⟨_, rfl, completes_started .., by simp, by simp⟩
      · rw [hi]
        exact ⟨_, congrArg Host.Outcome.next (if_pos busy), completes_started .., by simp, by simp⟩
    all_goals
      rw [hi]
      dsimp only
      rw [if_neg (not_not.mpr loaded)]
    · rw [if_pos (by simpa using outside)]
      exact ⟨_, rfl, completes_started .., by simp⟩
    · rw [if_neg (by simpa using inside), if_pos (by simp [none])]
      exact ⟨_, rfl, completes_started .., by simp⟩
    · rw [if_neg (by simpa using inside), if_neg (by rw [base]; simp [some]), pl]
      exact ⟨_, rfl, pinBody_places pl⟩

end Sys2Proof.Machine
end

section
/-! SET_BUDGET, SET_TENANT and SET_POLICY, and their boundaries (R83, R299, R300, R340, R341, R347, R351). -/

namespace Sys2Proof.Machine

@[simp] theorem started_tenant (s : State) (d : Desc) (n : Nat) : (s.started d).tenant n = s.tenant n := by simp [State.tenant]
@[simp] theorem State.setTenant_tenant (s : State) (n : Nat) (f : Tenant → Tenant) (m : Nat) :
    (s.setTenant n f).tenant m = if m = n then f (s.tenant n) else s.tenant m := by
  simp [State.setTenant, State.tenant]
theorem State.tenant_congr {s t : State} (h : t.tenants = s.tenants) (n : Nat) : t.tenant n = s.tenant n := by simp [State.tenant, h]
/-- A start changes the rings, the commands, their next number and the trace alone. -/
theorem started_eq (s : State) (d : Desc) : ∃ R C N M, s.started d = { s with rings := R, cmds := C, nextId := N, mgmt := M } := by
  simp only [State.started, State.begin, State.trace]
  split
  · split
    · exact ⟨_, _, _, _, rfl⟩
    · exact ⟨_, _, _, _, rfl⟩
  · exact ⟨_, _, _, _, rfl⟩
theorem started_policyLate (s : State) (d : Desc) (pid : Nat) (i : Img) : policyLate (s.started d) pid i = policyLate s pid i := by
  obtain ⟨R, C, N, M, e⟩ := started_eq s d
  rw [e]
  rfl
theorem started_committedSum (s : State) (d : Desc) (n c : Nat) : committedSum (s.started d) n c = committedSum s n c := by
  simp [committedSum]
theorem started_deltaExists (s : State) (d : Desc) (want : Option Nat) (kind : Nat) : deltaExists (s.started d) want kind = deltaExists s want kind := by
  simp [deltaExists]
theorem started_tenantStreams (s : State) (d : Desc) (n : Nat) : tenantStreams (s.started d) n = tenantStreams s n := by
  simp [tenantStreams, State.openStreams]
theorem started_streamsOnPolicy (s : State) (d : Desc) (pid : Nat) : streamsOnPolicy (s.started d) pid = streamsOnPolicy s pid := by
  simp [streamsOnPolicy, State.openStreams]

section
variable {d : Desc} {s : State} (ok : s.accepts d = true)
include ok

theorem exec_setBudget (op : d.opcode = 0x19) : exec (.setBudget d) s = .next (setBudgetBody d (s.started d) (s.startedCmd d)) :=
  congrArg Host.Outcome.next (runDesc_accepts ok (by simp [op]) _)
theorem exec_setTenant (op : d.opcode = 0x18) : exec (.setTenant d) s = .next (setTenantBody d (s.started d) (s.startedCmd d)) :=
  congrArg Host.Outcome.next (runDesc_accepts ok (by simp [op]) _)
theorem exec_setPolicy (op : d.opcode = 0x1A) : exec (.setPolicy d) s = .next (setPolicyBody d (s.started d) (s.startedCmd d)) :=
  congrArg Host.Outcome.next (runDesc_accepts ok (by simp [op]) _)
end

/-- The bounds a policy's binding can break, each of its own (R66, R83). -/
theorem bindingFails_of_bound {s : State} {d : Desc} {pid : Nat} {i : Img}
    (h : rangeDOk s (liveD s i) = false ∨ ∃ st ∈ streamsOnPolicy s pid, s.latBound st.rc < s.dRangeOf (liveD s i) + 1) :
    bindingFails (s.started d) pid i = true := by
  have late : policyLate s pid i = true := by
    simp only [policyLate, Bool.or_eq_true, Bool.not_eq_eq_eq_not, Bool.not_true, List.any_eq_true, decide_eq_true_eq]
    exact h
  rw [bindingFails, started_policyLate, late, Bool.true_or]

/-! The boundary of SET_TENANT. -/

/-- A completion by the command's number queues its entry on its ring. -/
theorem State.finishId_queues {s : State} {c : Cmd} (h : s.cmd? c.id = some c) (r : Done) :
    ∃ e, ((s.finishId c.id r).ring c.ring).cqPend = (s.ring c.ring).cqPend ++ [e] ∧ e.status = r.status ∧ e.tag = c.tag := by
  refine ⟨{ c.entry r with since := s.beat }, ?_, rfl, rfl⟩
  rw [State.finishId, h]
  simp [State.finish_ring]
/-- The settings of a tenant once the boundary of its SET_TENANT has come (R299, R340). -/
theorem State.tenantNow_tenant (s : State) (n : Nat) (on : Bool) (ban pd td : Option Nat) (cmd m : Nat) :
    (s.tenantNow n on ban pd td cmd).tenant m = if m = n then
      { s.tenant n with enabled := on, ban := ban, pd := (bindDelta s (s.tenant n).pd pd).1, pdNext := (bindDelta s (s.tenant n).pd pd).2,
                        td := (bindDelta s (s.tenant n).td td).1, tdNext := (bindDelta s (s.tenant n).td td).2 }
      else s.tenant m :=
  (State.tenant_congr (State.finishId_tenants ..) m).trans (State.setTenant_tenant ..)

/-! The boundary of SET_POLICY. -/

theorem policies_foldl {α : Type} (f : State → α → State) (h : ∀ s a, (f s a).policies = s.policies) (l : List α) (s : State) :
    (l.foldl f s).policies = s.policies := by
  induction l generalizing s with
  | nil => rfl
  | cons a l ih => exact (ih _).trans (h s a)
theorem State.policyNow_policies (s : State) (pid id : Nat) (on : Bool) :
    (s.policyNow pid id on).policies = if on then AMap.set s.policies pid ⟨id, true⟩ else AMap.erase s.policies pid := by
  unfold State.policyNow
  dsimp only
  by_cases h : on = true
  · rw [if_pos h, if_pos h, if_pos h]
    cases s.activeOf 10 id with
    | none => rfl
    | some i => exact congrArg (AMap.set · pid _) (policies_foldl _ (fun _ _ => State.setStream_policies ..) _ _)
  · rw [if_neg h, if_neg h, if_neg h]
theorem State.policyNow_tenants (s : State) (pid id : Nat) (on : Bool) : (s.policyNow pid id on).tenants = s.tenants := by
  unfold State.policyNow
  dsimp only
  split
  · exact tenants_foldl _ (fun _ _ => by simp) _ _
  · rfl

/-- Settles O42: each body on a command that has just started, and each effect at its boundary. -/
theorem tenantsBudgetsAndPolicies : Obligations.TenantsBudgetsAndPolicies := by
  refine ⟨?_, fun n on ban pd td c s hc => ⟨?_, fun pid id => ⟨?_, ?_, ?_⟩⟩⟩
  intro d s u n ok
  refine ⟨fun op => ?_, fun op => ?_, fun op => ?_⟩
  · rw [exec_setBudget ok op]
    unfold setBudgetBody
    dsimp only
    rw [started_tenant, started_regs, started_committedSum]
    refine ⟨fun off => ?_, fun on exceeds => ?_, fun on fits => ?_⟩
    · rw [if_pos (by simp [n, off])]
      exact ⟨_, rfl, completes_started .., by simp⟩
    · rw [if_neg (by simp [n, on]), if_pos exceeds]
      exact ⟨_, rfl, completes_started .., by simp⟩
    · rw [if_neg (by simp [n, on]), if_neg (Nat.not_lt.mpr fits)]
      refine ⟨_, rfl, completes_of_started _ rfl rfl, ?_, fun m hm => ?_, SameStreams.finish _ _ (sameStreams_started s d),
        SameStores.finish _ _ (sameStores_started s d), SameStack.finish _ _ (sameStack_started s d), SameControl.finish _ _ (sameControl_started s d)⟩
      · rw [State.tenant_congr (State.finish_tenants ..), State.setTenant_tenant, if_pos rfl, started_tenant]
      · rw [State.tenant_congr (State.finish_tenants ..), State.setTenant_tenant, if_neg hm, started_tenant]
  · rw [exec_setTenant ok op]
    unfold setTenantBody
    dsimp only
    simp only [started_deltaExists, started_tenantStreams, started_nextB]
    refine ⟨fun missing => ?_, fun e hpd htd refused => ?_, fun hpd htd admitted => ⟨fun off busy => ?_, fun free => ?_⟩⟩
    · rw [if_pos (by simpa using missing)]
      exact ⟨_, rfl, completes_started .., by simp, by simp⟩
    all_goals rw [if_neg (by simp [hpd, htd])]
    · rw [refused]
      exact ⟨_, rfl, completes_started .., by simp, by simp⟩
    all_goals rw [admitted]
    · exact ⟨_, congrArg Host.Outcome.next (if_pos (by simp [off, n, busy])), completes_started .., by simp, by simp⟩
    · refine ⟨_, congrArg Host.Outcome.next (if_neg ?_), ?_, by simp, by simp [State.at, n], ?_, ?_⟩
      · obtain on | none := free
        · simp [on]
        · simp [n, none]
      · exact runs_of_mem (startedCmd_mem s d) rfl
      · exact sameStreams_started s d
      · exact sameStores_started s d
  · rw [exec_setPolicy ok op]
    unfold setPolicyBody
    dsimp only
    simp only [started_streamsOnPolicy, started_nextB, started_img?]
    refine ⟨fun off busy => ?_, fun off free => ?_, fun i on hi active policy => ⟨fun broken => ?_, fun holds => ?_⟩⟩
    · rw [if_pos (by simp [off]), if_pos (by simpa using busy)]
      exact ⟨_, rfl, completes_started .., by simp⟩
    · rw [if_pos (by simp [off]), if_neg (by simpa using free)]
      exact ⟨_, rfl, completes_started .., by simp [State.at], by simp⟩
    all_goals
      rw [if_neg (by simp [on]), hi]
      dsimp only
      rw [if_neg (by simp [active, Option.ne_none_iff_isSome.mpr policy])]
    · have fails : bindingFails (s.started d) (dfld d 2 9 0) i = true :=
        (or_assoc.mpr broken).elim bindingFails_of_bound id
      rw [if_pos fails]
      exact ⟨_, rfl, completes_started .., by simp⟩
    · rw [if_neg (by rw [holds]; exact Bool.false_ne_true)]
      exact ⟨_, rfl, completes_started .., by simp [State.atFor], by simp [State.atFor]⟩
  · have settings := s.tenantNow_tenant n on ban pd td c.id
    have self := settings n
    rw [if_pos rfl] at self
    intro t
    rw [show t.tenant n = _ from self]
    refine ⟨rfl, rfl, rfl, rfl, ?_, ?_, fun m hm => (settings m).trans (if_neg hm), ?_⟩
    · rintro rfl
      exact ⟨rfl, rfl⟩
    · rintro k rfl
      simp only [bindDelta]
      split <;> exact ⟨rfl, rfl⟩
    · exact State.finishId_queues (s := s.setTenant n _) hc _
  · exact (congrArg (AMap.get? · pid) (s.policyNow_policies pid id true)).trans (by simp)
  · exact (congrArg (AMap.get? · pid) (s.policyNow_policies pid id false)).trans (by simp)
  · exact s.policyNow_tenants pid id true

end Sys2Proof.Machine
end

section
/-! The stamp of a committed record (R57, R61, R147, R348, R349). -/

namespace Sys2Proof.Machine

theorem State.rec?_congr {s t : State} (h : t.recs = s.recs) (i : Nat) : t.rec? i = s.rec? i := by rw [State.rec?, h, State.rec?]
theorem State.stream?_handle {s : State} {h : Nat} {st : Stream} (hs : s.stream? h = some st) : st.handle = h :=
  (State.stream?_eq_some.mp hs).2.1
theorem State.stream?_open {s : State} {h : Nat} {st : Stream} (hs : s.stream? h = some st) : st.phase ≠ .closed :=
  (State.stream?_eq_some.mp hs).2.2
theorem stampPolicy_congr {s t : State} (policies : t.policies = s.policies) (images : t.images = s.images) (st : Stream) :
    stampPolicy t st = stampPolicy s st := by
  simp only [stampPolicy, State.policyOf, State.activeOf, policies, images]
theorem State.dRangeOf_congr {s t : State} (h : t.range = s.range) (d : Nat) : t.dRangeOf d = s.dRangeOf d := by
  rw [State.dRangeOf, h, State.dRangeOf]

theorem State.grammarOf_congr {s t : State} (h : t.images = s.images) (st : Stream) : t.grammarOf st = s.grammarOf st := by
  simp only [State.grammarOf, State.img?, h]

/-! The draw. -/

theorem drawFrom_le (t : Tenant) (c : Nat) : (drawFrom t c).1 ≤ 3 := by
  unfold drawFrom
  split_ifs <;> simp only [Nat.zero_le, Nat.one_le_ofNat, Nat.reduceLeDiff, le_refl]
/-- On the path's first member a record draws once, and its stream is charged unless there was no token (R348, R349). -/
theorem State.drawRec_first {s : State} (first : s.isFirst = true) (st : Stream) :
    s.drawRec st = (s.drawClass st.tenant, ((s.draw st.tenant).2.count (64 + s.drawClass st.tenant) 1).setStream st.handle fun x =>
      { x with charged := x.charged + (if s.drawClass st.tenant = 3 then 0 else 1) }) := by
  unfold State.drawRec
  rw [State.charges, first]
  rfl

/-! The stamp. -/

/-- A record other than a chunk, as its stamp leaves it before its own part. -/
def State.stamped (s : State) (st : Stream) (x : Rec) : Rec :=
  let (k, g, d, b) := stampPolicy s st
  let t := s.tenant st.tenant
  { x with stamp := some s.beat, sealBy := beatAdd s.beat (s.dRangeOf d - 1), rel := beatAdd s.beat (s.dRangeOf d - 1), brt := b,
           polSlot := k, polGen := g, policy := st.policy, pd := t.pd, td := t.td, ban := t.ban }
theorem State.stampRec_images (s : State) (st : Stream) (r : Rec) (f : Rec → Rec) : (s.stampRec st r f).images = s.images := by
  unfold State.stampRec
  dsimp only
  split
  · simp
  · simp
section
variable {s : State} {st x : Stream} {r : Rec} (hx : s.stream? st.handle = some x) (kind : r.kind ≠ .chunk) (f : Rec → Rec)
include hx kind

theorem State.stampRec_recs : (s.stampRec st r f).recs = s.recs.map fun x => if x.id = r.id then f (s.stamped st x) else x := by
  simp only [State.stampRec, if_neg kind, State.ev_recs, State.setStream_of_some hx]
  rfl
theorem State.stampRec_streams : (s.stampRec st r f).streams =
    AMap.set s.streams (hIndex st.handle) { x with dMin := (stampPolicy s st).2.2.1, brt := (stampPolicy s st).2.2.2 } := by
  simp only [State.stampRec, if_neg kind, State.ev_streams, State.setRec_streams, State.setStream_of_some hx]
/-- The stream whose record is stamped. -/
theorem State.stampRec_stream? :
    (s.stampRec st r f).stream? st.handle = some { x with dMin := (stampPolicy s st).2.2.1, brt := (stampPolicy s st).2.2.2 } := by
  have opened := State.stream?_open hx
  have handle := State.stream?_handle hx
  refine State.stream?_eq_some.mpr ⟨?_, handle, opened⟩
  rw [State.stampRec_streams hx kind, AMap.get?_set, if_pos rfl]
theorem State.stampRec_rec? (hf : ∀ x, (f x).id = x.id) : (s.stampRec st r f).rec? r.id = (s.rec? r.id).map fun x => f (s.stamped st x) := by
  rw [State.rec?_congr (t := s.stampRec st r f) (s := s.setRec r.id fun x => f (s.stamped st x)) (State.stampRec_recs hx kind f),
    State.rec?_setRec (f := fun x => f (s.stamped st x)) (fun x => hf _), if_pos rfl]
end

/-! A committed record of an unconstrained stream, on the path's first member. -/

section
variable {s : State} {st : Stream} {r : Rec}

theorem State.drawRec_stream? (first : s.isFirst = true) (hs : s.stream? st.handle = some st) : (s.drawRec st).2.stream? st.handle =
    some { st with charged := st.charged + (if s.drawClass st.tenant = 3 then 0 else 1) } := by
  have opened := State.stream?_open hs
  rw [State.drawRec_first first]
  exact State.stream?_setStream ((State.stream?_congr (by simp [State.draw]) _).trans hs) rfl opened
theorem State.drawRec_stamped (first : s.isFirst = true) (x : Rec) :
    let y := (s.drawRec st).2.stamped st x
    y.stamp = some s.beat ∧ y.rel = beatAdd s.beat (s.dRangeOf (stampPolicy s st).2.2.1 - 1) ∧ y.sealBy = y.rel := by
  intro y
  have policy : stampPolicy (s.drawRec st).2 st = stampPolicy s st := by
    rw [State.drawRec_first first]
    exact stampPolicy_congr (by simp [State.draw]) (by simp [State.draw]) st
  have beat : (s.drawRec st).2.beat = s.beat := by
    have clk : (s.drawRec st).2.clk = s.clk := by simp [State.drawRec_first first, State.draw]
    rw [State.beat, clk, State.beat]
  have range : (s.drawRec st).2.range = s.range := by simp [State.drawRec_first first, State.draw]
  refine ⟨congrArg some beat, ?_, rfl⟩
  simp only [y, State.stamped, policy, beat, State.dRangeOf_congr range]

/-- The committed part of a record's stamp while the stream's output has room (R57, R61, R203). -/
theorem State.committedPart_eq (room : st.pos < 4194304) (first : s.isFirst = true) (unconstrained : s.grammarOf st = none) :
    s.committedPart st r = (((s.drawRec st).2.stampRec st r fun x => { x with pos := st.pos, draw := s.drawClass st.tenant }).setStream st.handle
      fun x => { x with pos := x.pos + 1 }) := by
  have draws : (s.drawRec st).1 = s.drawClass st.tenant := by rw [State.drawRec_first first]
  unfold State.committedPart
  rw [if_neg (Nat.not_le.mpr room)]
  dsimp only
  rw [draws]
  have images : ((((s.drawRec st).2.stampRec st r fun x => { x with pos := st.pos, draw := s.drawClass st.tenant }).setStream st.handle
      fun x => { x with pos := x.pos + 1 })).images = s.images := by
    rw [State.setStream_images, State.stampRec_images, State.drawRec_first first]
    simp [State.draw]
  rw [State.grammarOf_congr images, unconstrained]
  split
  · contradiction
  · rfl
end

/-- Settles O33: the draw (`drawRec_first`), the stamp (`stampRec_rec?`) and the position it moves (`committedPart_eq`). -/
theorem stampFixesReleaseBeat : Obligations.StampFixesReleaseBeat := by
  intro r st s hr unique hs kind new arrived ready masked phase going noDraft room first unconstrained d
  have handle := State.stream?_handle hs
  rw [← handle] at hs ⊢
  have eq : State.stampOne (s, []) r.id = (s.committedPart st r, []) := by
    have hs' : s.stream? r.h = some st := handle ▸ hs
    have runs : ¬ (st.phase = .outputEnded) ∧ ¬ (st.phase = .closing) := by
      obtain h | h := phase <;> simp [h]
    simp [State.stampOne, hr, hs', kind, new, arrived, ready, masked, going, noDraft, runs]
  rw [eq, State.committedPart_eq room first unconstrained]
  have chunkless : r.kind ≠ .chunk := by simp [kind]
  have drawn := State.drawRec_stream? first hs
  have stamped := State.drawRec_stamped (st := st) first r
  have recs : (s.drawRec st).2.recs = s.recs := by simp [State.drawRec_first first, State.draw]
  have found := State.stampRec_rec? (st := st) drawn chunkless (fun x => { x with pos := st.pos, draw := s.drawClass st.tenant }) (fun _ => rfl)
  rw [State.rec?_congr recs, hr] at found
  have opened := State.stream?_open hs
  obtain ⟨stamp, rel, sealBy⟩ := stamped
  refine ⟨_, _, State.stream?_setStream (State.stampRec_stream? drawn chunkless _) rfl opened,
    (State.rec?_congr (State.setStream_recs ..) _).trans found, rfl, stamp, rfl, rel, sealBy, rfl, rfl, rfl, drawFrom_le _ _, rfl, ?_⟩
  rw [State.setStream_recs, State.stampRec_recs drawn chunkless, List.length_map, recs]
end Sys2Proof.Machine
end

section
/-! Records of the port that join their slot's part of a step (R57, R121, R124, R126, R127, R210, R211). -/

namespace Sys2Proof.Machine

/-- What the port leaves alone between s and t when a part of stream h's step closes: markers of count 0 may have joined the records (R220). -/
structure PartSide (h : Nat) (s t : State) : Prop where
  tenants : t.tenants = s.tenants
  sched : t.sched = s.sched
  rings : t.rings = s.rings
  regs : t.regs = s.regs
  images : t.images = s.images
  policies : t.policies = s.policies
  recs : ∃ pre, t.recs = s.recs ++ pre ∧ ∀ x ∈ pre, x.kind = .marker ∧ x.n = 0 ∧ x.h = h

theorem PartSide.refl (h : Nat) (s : State) : PartSide h s s :=
  ⟨rfl, rfl, rfl, rfl, rfl, rfl, [], by simp⟩
theorem PartSide.trans {h : Nat} {s t u : State} (a : PartSide h s t) (b : PartSide h t u) : PartSide h s u := by
  obtain ⟨p, hp, markers⟩ := a.recs
  obtain ⟨q, hq, more⟩ := b.recs
  refine ⟨b.tenants.trans a.tenants, b.sched.trans a.sched, b.rings.trans a.rings, b.regs.trans a.regs, b.images.trans a.images,
    b.policies.trans a.policies, p ++ q, by rw [hq, hp, List.append_assoc], fun x hx => ?_⟩
  exact (List.mem_append.mp hx).elim (markers x) (more x)
theorem PartSide.setStream (h : Nat) (s : State) (g : Nat) (f : Stream → Stream) : PartSide h s (s.setStream g f) :=
  ⟨by simp, by simp, by simp, by simp, by simp, by simp, [], by simp⟩
theorem PartSide.streamPol {h : Nat} {s t : State} (a : PartSide h s t) (st : Stream) : t.streamPol st = s.streamPol st := by
  simp only [State.streamPol, State.policyOf, State.activeOf, a.images, a.policies]
theorem PartSide.maxDraft {h : Nat} {s t : State} (a : PartSide h s t) (rc : Nat) : t.maxDraft rc = s.maxDraft rc := by
  simp only [State.maxDraft, State.rclassReg, a.regs]

/-! A part that closes. -/

/-- A stream whose part of a step has closed (R126). -/
def Stream.partClosed (x : Stream) (p : StepPart) : Stream := { x with step := none, lastClosed := some p.seq }

/-- The close of a part but for the marker of its drafts (R126). -/
def State.partShut (s : State) (h slot : Nat) (p : StepPart) : State :=
  let s := s.setStream h fun x => x.partClosed p
  { s with port := { s.port with early := s.port.early.filter fun e => !(e.1 == slot && e.2.1 == p.seq) } }
theorem State.closePart_eq (s : State) (h slot : Nat) (p : StepPart) : s.closePart h slot p =
    if !p.nodes.isEmpty && p.marker.isNone then
      { s.partShut h slot p with nextId := (s.partShut h slot p).nextId + 1, recs := (s.partShut h slot p).recs ++
        [switchRec (s.partShut h slot p).nextId h slot p.seq (s.partShut h slot p).beat] }
    else s.partShut h slot p := rfl
theorem State.partShut_side (s : State) (h slot : Nat) (p : StepPart) : PartSide h s (s.partShut h slot p) :=
  (PartSide.setStream h s h _).trans ⟨rfl, rfl, rfl, rfl, rfl, rfl, [], by simp [State.partShut]⟩
theorem State.closePart_side (s : State) (h slot : Nat) (p : StepPart) : PartSide h s (s.closePart h slot p) := by
  rw [State.closePart_eq]
  split
  · exact (s.partShut_side h slot p).trans ⟨rfl, rfl, rfl, rfl, rfl, rfl, [_], rfl, by simp [switchRec, Rec.blank]⟩
  · exact s.partShut_side h slot p
theorem State.closePart_streams (s : State) (h slot : Nat) (p : StepPart) :
    (s.closePart h slot p).streams = (s.setStream h fun x => x.partClosed p).streams := by
  rw [State.closePart_eq]
  split <;> rfl
theorem State.closePart_stream? {s : State} {h : Nat} {x : Stream} (hx : s.stream? h = some x) (slot : Nat) (p : StepPart) :
    (s.closePart h slot p).stream? h = some (x.partClosed p) := by
  have handle := State.stream?_handle hx
  have opened := State.stream?_open hx
  rw [State.stream?_congr (s.closePart_streams h slot p)]
  exact State.stream?_setStream hx handle opened

/-! A record that is taken. -/

/-- A stream whose open part has taken a record of kind k; a step end closes it (R126). -/
def Stream.partTakes (x : Stream) (p : StepPart) (k : Nat) (w : W64) : Stream :=
  if k = 3 then x.partClosed p else { x with step := some (p.take k w) }
/-- A record taken: its stream's part moves on, and it joins the records behind a marker of the part it closes. -/
theorem State.takeRec_eq {s : State} {st x : Stream} (hx : s.stream? st.handle = some x) (p : StepPart) (k : Nat) (w : W64) :
    ∃ v id retry D, PartSide st.handle s v ∧ v.stream? st.handle = some (x.partTakes p k w)
      ∧ s.takeRec st p k w = { v with recs := v.recs ++ [portRec { s with nextId := s.nextId + 1 } st k id w retry], dyn := D } := by
  have handle := State.stream?_handle hx
  have opened := State.stream?_open hx
  unfold State.takeRec State.fresh
  dsimp -zeta only
  extract_lets retry r port s₁ s₂ s₃ s₄
  have moved : PartSide st.handle s s₂ :=
    PartSide.trans (t := s₁) ⟨rfl, rfl, rfl, rfl, rfl, rfl, [], by simp [s₁]⟩ (PartSide.setStream st.handle s₁ st.handle _)
  have stepped : s₂.stream? st.handle = some { x with step := some (p.take k w) } := State.stream?_setStream (s := s₁) hx handle opened
  have closed : PartSide st.handle s s₃ ∧ s₃.stream? st.handle = some (x.partTakes p k w) := by
    unfold Stream.partTakes
    by_cases ends : k = 3
    · simp only [s₃, if_pos ends]
      exact ⟨moved.trans (s₂.closePart_side _ _ p), State.closePart_stream? stepped _ p⟩
    · simp only [s₃, if_neg ends]
      exact ⟨moved, stepped⟩
  obtain ⟨D, staged⟩ : ∃ D, (match r.feats with | some f => s₄.stageFrame s.nextId f | none => s₄) = { s₄ with dyn := D } := by
    cases r.feats with
    | none => exact ⟨_, rfl⟩
    | some f => exact ⟨_, rfl⟩
  exact ⟨s₃, s.nextId, retry, D, closed.1, closed.2, staged⟩

/-- What a record of the port brings in of its kinds (R57, R124, R210). -/
theorem portRec_fields {s : State} {st : Stream} {c : Instr} {k id : Nat} {kind : RecK} {w : W64} {retry : Bool}
    (hc : (c, k, kind) ∈ [(.committedToken w, 0, RecK.committed), (.draftToken w, 1, .draft), (.acceptMarker w, 2, .marker), (.stepEnd w, 3, .stepEnd)]) :
    let r := portRec s st k id w retry
    r.kind = kind ∧ (k < 2 → r.token = tkToken w) ∧ (k = 2 → r.n = fld w 6 0) := by
  simp only [List.mem_cons, Prod.mk.injEq, List.not_mem_nil, or_false] at hc
  obtain ⟨-, rfl, rfl⟩ | ⟨-, rfl, rfl⟩ | ⟨-, rfl, rfl⟩ | ⟨-, rfl, rfl⟩ := hc
  · exact ⟨rfl, fun _ => rfl, nofun⟩
  · exact ⟨rfl, fun _ => rfl, nofun⟩
  · exact ⟨rfl, nofun, fun _ => rfl⟩
  · exact ⟨rfl, nofun, nofun⟩
theorem portRec_arrived {s : State} {st : Stream} {k id : Nat} {w : W64} {retry : Bool} (unread : (s.streamPol st).tokCount = 0) :
    (portRec s st k id w retry).arrived = true := by
  simp [portRec, unread]


/-- The part a record belongs to: the open one of its step, else a new one (R126). -/
def partOf (s : State) (st : Stream) (seq : Nat) : StepPart :=
  match st.step with
  | some p => if p.seq = seq then p else ⟨seq, s.beat, [], none, false⟩
  | none => ⟨seq, s.beat, [], none, false⟩
theorem partOf_seq (s : State) (st : Stream) (seq : Nat) : (partOf s st seq).seq = seq := by
  unfold partOf
  split
  · split
    · assumption
    · rfl
  · rfl
theorem partOf_congr {s t : State} (h : t.beat = s.beat) (st : Stream) (seq : Nat) : partOf t st seq = partOf s st seq := by
  simp only [partOf, h]
/-- What a stream keeps while the parts of its steps come and go. -/
structure StepsOnly (x y : Stream) : Prop where
  pos : y.pos = x.pos
  charged : y.charged = x.charged
  phase : y.phase = x.phase
theorem Stream.partTakes_stepsOnly (x : Stream) (p : StepPart) (k : Nat) (w : W64) : StepsOnly x (x.partTakes p k w) := by
  unfold Stream.partTakes
  split <;> exact ⟨rfl, rfl, rfl⟩

theorem State.closePart_beat (s : State) (h slot : Nat) (p : StepPart) : (s.closePart h slot p).beat = s.beat := by
  have shut : (s.partShut h slot p).clk = s.clk := State.setStream_clk ..
  rw [State.closePart_eq]
  split <;> exact congrArg (fun c => c.beat.toNat) shut
/-- A record that meets no condition of a slot fault is taken into its part, an open part of an earlier step closed before it (R126, R127). -/
theorem State.partRecord_eq {s : State} {st : Stream} {k : Nat} {w : W64} (hs : s.stream? st.handle = some st)
    (fresh : ∀ l, st.lastClosed = some l → stepAfter (tkStep w) l = true)
    (inOrder : ∀ q, st.step = some q → q.seq = tkStep w ∨ stepAfter (tkStep w) q.seq = true)
    (sound : partFault (partOf s st (tkStep w)) (s.maxDraft st.rc) k w = false) :
    ∃ v x, PartSide st.handle s v ∧ v.stream? st.handle = some x ∧ StepsOnly st x
      ∧ s.partRecord st k w = v.takeRec st (partOf s st (tkStep w)) k w := by
  have later : ¬ ((match st.lastClosed with | some l => !stepAfter (tkStep w) l | none => false)
      || (match st.step with | some p => p.seq != tkStep w && !stepAfter (tkStep w) p.seq | none => false)) = true := by
    rw [Bool.or_eq_true, not_or]
    constructor
    · cases h : st.lastClosed with
      | none => simp
      | some l => simp [fresh l h]
    · cases h : st.step with
      | none => simp
      | some q => obtain e | e := inOrder q h <;> simp [e]
  unfold State.partRecord
  extract_lets seq v p
  rw [if_neg]
  case hnc => exact later
  obtain ⟨side, beat, x, hx, steps⟩ : PartSide st.handle s v ∧ v.beat = s.beat ∧ ∃ x, v.stream? st.handle = some x ∧ StepsOnly st x := by
    simp only [v]
    split
    · split
      · exact ⟨State.closePart_side .., State.closePart_beat .., _, State.closePart_stream? hs .., rfl, rfl, rfl⟩
      · exact ⟨PartSide.refl .., rfl, st, hs, rfl, rfl, rfl⟩
    · exact ⟨PartSide.refl .., rfl, st, hs, rfl, rfl, rfl⟩
  have part : p = partOf s st (tkStep w) := partOf_congr beat st (tkStep w)
  refine ⟨v, x, side, hx, steps, ?_⟩
  rw [part, side.maxDraft, sound]
  rfl

/-- Settles O28: the record passes the checks (`partRecord_eq`) and is taken (`takeRec_eq`). -/
theorem portRecordsJoinTheirStep : Obligations.PortRecordsJoinTheirStep := by
  intro w st s c k kind hc seq p opens hk bound hs going fields fresh inOrder sound
  have port : exec c s = .next (s.portRecord k w) ∧ k ≤ 3 := by
    simp only [List.mem_cons, Prod.mk.injEq, List.not_mem_nil, or_false] at hc
    obtain ⟨rfl, rfl, -⟩ | ⟨rfl, rfl, -⟩ | ⟨rfl, rfl, -⟩ | ⟨rfl, rfl, -⟩ := hc <;> exact ⟨rfl, by omega⟩
  obtain ⟨runs, small⟩ := port
  have passes : s.portRecord k w = (s.count (5 + k) 1).partRecord st k w := by
    unfold State.portRecord
    rw [if_neg (by simp [opens, hk]), bound]
    dsimp only
    rw [if_neg going, if_neg (by simp only [hk, fields, Bool.or_false, decide_eq_true_eq]; omega)]
  have counted : PartSide st.handle s (s.count (5 + k) 1) := ⟨by simp, by simp, by simp, by simp, by simp, by simp, [], by simp⟩
  have part : partOf (s.count (5 + k) 1) st seq = p := partOf_congr rfl st seq
  obtain ⟨v, x, closes, hx, steps, eq⟩ := State.partRecord_eq (s := s.count (5 + k) 1) (k := k) (w := w)
    ((State.stream?_congr (State.count_streams ..) _).trans hs) fresh inOrder (by rw [part, counted.maxDraft]; exact sound)
  rw [part] at eq
  obtain ⟨u, id, retry, D, takes, hu, eq'⟩ := State.takeRec_eq hx p k w
  have side := counted.trans (closes.trans takes)
  obtain ⟨pre, recs, markers⟩ := side.recs
  obtain ⟨kinds, tokens, counts⟩ := portRec_fields (s := { v with nextId := v.nextId + 1 }) (st := st) (id := id) (w := w) (retry := retry) hc
  have takesSteps := x.partTakes_stepsOnly p k w
  refine ⟨_, _, pre, _, runs.trans (congrArg Host.Outcome.next (passes.trans (eq.trans eq'))), by rw [recs], markers, kinds, rfl, rfl, rfl, rfl, rfl,
    fun token => ⟨tokens token, rfl, rfl⟩, counts, fun unread => portRec_arrived ?_, hu, ?_, fun ends => ?_, ?_⟩
  · rw [← unread]
    exact congrArg PolicyImg.tokCount ((counted.trans closes).streamPol st)
  · unfold Stream.partTakes
    split <;> rfl
  · have shut : x.partTakes p k w = x.partClosed p := if_pos ends
    rw [shut]
    exact congrArg some (partOf_seq s st seq)
  · exact ⟨takesSteps.pos.trans steps.pos, takesSteps.charged.trans steps.charged, takesSteps.phase.trans steps.phase, side.tenants, side.sched,
      side.rings, side.regs⟩
end Sys2Proof.Machine
end

section
/-! The completion of an INGEST and of a chunk (R58, R112, R147, R170, R171, R173). -/

namespace Sys2Proof.Machine

theorem exec_ingestComplete {s : State} (started : s.complete = true) (h : W32) : exec (.ingestComplete h) s = .next (s.ingestDone h.toNat) :=
  congrArg Host.Outcome.next (if_pos started)
theorem exec_chunkComplete {s : State} (started : s.complete = true) (h : W32) : exec (.chunkComplete h) s = .next (s.chunkDone h.toNat) :=
  congrArg Host.Outcome.next (if_pos started)

/-! An INGEST whose bytes are consumed. -/

/-- With no job left to read, the jobs of a stream do nothing. -/
theorem State.runJobs_idle {s : State} {h : Nat} {st : Stream} (hs : s.stream? h = some st) (idle : ∀ j ∈ st.jobs, j.ready = true) (fuel : Nat) :
    s.runJobs fuel h = s := by
  have none_waits : st.jobs.find? (fun j => !j.ready) = none := List.find?_eq_none.mpr fun j hj => by simp [idle j hj]
  cases fuel with
  | zero => rfl
  | succ f =>
    simp only [State.runJobs, hs, none_waits]
theorem State.runStream_idle {s : State} {h : Nat} {st : Stream} (hs : s.stream? h = some st) (idle : ∀ j ∈ st.jobs, j.ready = true) :
    s.runStream h = s := s.runJobs_idle hs idle _
theorem State.ingestDone_waits {s : State} {h : Nat} {st : Stream} (hs : s.stream? h = some st)
    (waits : (∀ j js, st.jobs = j :: js → j.ready = false) ∨ cancelDue s h = true) : s.ingestDone h = s := by
  unfold State.ingestDone
  rw [hs]
  dsimp only
  cases hj : st.jobs with
  | nil => rfl
  | cons j js =>
    refine if_pos ?_
    obtain unread | cancelled := waits
    · simp [unread j js hj]
    · simp [cancelled]
/-- A job that is ready leaves its stream and its command ends; with every other job ready too, nothing else goes on (R112, R173). -/
theorem State.ingestDone_eq {s : State} {h : Nat} {st : Stream} {j : Ingest} {js : List Ingest} {c : Cmd} (hs : s.stream? h = some st)
    (jobs : st.jobs = j :: js) (ready : j.ready = true) (going : cancelDue s h = false) (idle : ∀ x ∈ js, x.ready = true)
    (hc : s.cmd? j.cmd = some c) : s.ingestDone h = (s.setStream h fun x => { x with jobs := js }).finish c
      { status := if j.full then stCapacity else stOK, resA := j.consumed, pos := j.posAfter } := by
  have handle := State.stream?_handle hs
  have opened := State.stream?_open hs
  have hc' : (s.setStream h fun x => { x with jobs := js }).cmd? j.cmd = some c := by rw [State.cmd?, State.setStream_cmds]; exact hc
  have left : (s.setStream h fun x => { x with jobs := js }).stream? h = some { st with jobs := js } := State.stream?_setStream hs handle opened
  unfold State.ingestDone
  simp only [hs, jobs, ready, going, Bool.not_true, Bool.or_self, Bool.false_eq_true, if_false, hc']
  exact State.runStream_idle ((State.stream?_congr (State.finish_streams ..) _).trans left) idle

/-! A chunk whose last token is there. -/

theorem State.chunkDone_waits {s : State} {h : Nat} {st : Stream} (hs : s.stream? h = some st) (waits : chunkReady st = none) :
    s.chunkDone h = s := by
  unfold State.chunkDone
  simp only [hs, waits]
/-- A chunk past the position limit is discarded and ends the output (R147). -/
theorem State.chunkDone_past {s : State} {h n : Nat} {last : Bool} {st : Stream} (hs : s.stream? h = some st)
    (ready : chunkReady st = some (n, last)) (past : 4194304 < st.pos + n) :
    s.chunkDone h = (s.setStream h fun x => { stopTok x with toks := [] }).at s.nextB (.endOutput h vIncomplete) := by
  unfold State.chunkDone
  rw [hs]
  dsimp only
  rw [ready]
  exact if_pos past

/-- What writing token words leaves alone: the stream's jobs for the write of its words alone change. -/
structure WordsOnly (h : Nat) (st : Stream) (s t : State) : Prop where
  recs : t.recs = s.recs
  tenants : t.tenants = s.tenants
  cmds : t.cmds = s.cmds
  stream : ∃ parts, t.stream? h = some { st with parts := parts }
theorem State.writeToks_words {s : State} {h : Nat} {st : Stream} (hs : s.stream? h = some st) (a b : Nat) :
    WordsOnly h st s (s.writeToks h a b) := by
  have handle := State.stream?_handle hs
  have opened := State.stream?_open hs
  unfold State.writeToks
  rw [hs]
  dsimp only
  split
  · exact ⟨rfl, rfl, rfl, st.parts, hs⟩
  · refine ⟨by simp, by simp, by simp, _, State.stream?_setStream ((State.stream?_congr (State.write_streams ..) _).trans hs) handle opened⟩
/-- The chunk's record of a stream within the position limit, and the stream past it (R58, R171, R172). -/
theorem State.chunkDone_record {s : State} {h n : Nat} {last : Bool} {st : Stream} (hs : s.stream? h = some st)
    (ready : chunkReady st = some (n, last)) (room : st.pos + n ≤ 4194304) :
    ∃ st' r, (s.chunkDone h).stream? h = some st' ∧ (s.chunkDone h).recs = s.recs ++ [r]
        ∧ r.kind = .chunk ∧ r.h = h ∧ r.token = st.chunkNo ∧ r.n = n ∧ r.arrived = true ∧ r.stamp = none
        ∧ r.step = b2n last ∧ r.pos = st.p0 + st.tokIdx + n
        ∧ st'.toks = st.toks.drop n ∧ st'.tokIdx = st.tokIdx + n ∧ st'.chunkNo = st.chunkNo + 1 ∧ st'.pos = st.pos + n
        ∧ st'.lastMade = last ∧ st'.charged = st.charged ∧ st'.jobs = st.jobs ∧ (s.chunkDone h).tenants = s.tenants
        ∧ (s.chunkDone h).cmds = s.cmds := by
  have handle := State.stream?_handle hs
  have opened := State.stream?_open hs
  unfold State.chunkDone
  rw [hs]
  dsimp -zeta only
  rw [ready]
  dsimp -zeta only
  rw [if_neg (Nat.not_lt.mpr room)]
  extract_lets v x q waits blank r t
  have words : WordsOnly h st s v := by
    simp only [v]
    split
    · exact ⟨rfl, rfl, rfl, st.parts, hs⟩
    · exact State.writeToks_words hs _ _
  obtain ⟨recs, tenants, cmds, parts, stream⟩ := words
  have same : x = { st with parts := parts } := by rw [show x = (v.stream? h).getD st from rfl, stream]; rfl
  have named : t.stream? h = some { st with parts := parts } := stream
  refine ⟨_, r, State.stream?_setStream named handle opened, ?_⟩
  refine ⟨?_, rfl, rfl, ?_, rfl, rfl, rfl, rfl, ?_, rfl, rfl, rfl, rfl, rfl, rfl, rfl, ?_, ?_⟩
  · exact (State.setStream_recs ..).trans (congrArg (· ++ [r]) recs)
  · have number : x.chunkNo = st.chunkNo := by rw [same]
    exact number
  · have place : x.p0 + x.tokIdx + n = st.p0 + st.tokIdx + n := by rw [same]
    exact place
  · exact (State.setStream_tenants ..).trans tenants
  · exact (State.setStream_cmds ..).trans cmds

/-- Settles O27: an INGEST waits or completes (`ingestDone_eq`), and a chunk waits, is discarded or becomes a record (`chunkDone_record`). -/
theorem ingestAndChunkComplete : Obligations.IngestAndChunkComplete := by
  intro h st s started hs
  have handle := State.stream?_handle hs
  have opened := State.stream?_open hs
  rw [exec_ingestComplete started, exec_chunkComplete started]
  refine ⟨fun waits => ?_, fun j js c jobs ready going idle hc => ?_, fun waits => ?_, fun n last ready past => ?_, fun n last ready room => ?_⟩
  · rw [State.ingestDone_waits hs waits]
  · rw [State.ingestDone_eq hs jobs ready going idle hc]
    refine ⟨_, _, rfl, (State.stream?_congr (State.finish_streams ..) _).trans (State.stream?_setStream hs handle opened), rfl, rfl,
      by simp, by simp,
      { c.entry { status := if j.full then stCapacity else stOK, resA := j.consumed, pos := j.posAfter } with since := s.beat }, ?_, rfl, rfl, rfl, rfl⟩
    have clk : (s.setStream h.toNat fun x => { x with jobs := js }).beat = s.beat := by rw [State.beat, State.setStream_clk, State.beat]
    rw [State.finish_ring, if_pos rfl, clk, State.ring_congr (State.setStream_rings ..)]
  · rw [State.chunkDone_waits hs waits]
  · rw [State.chunkDone_past hs ready past]
    exact ⟨_, _, rfl, State.stream?_setStream hs handle opened, by simp [State.at], rfl, rfl, rfl, by simp [State.at]⟩
  · obtain ⟨st', r, fields⟩ := State.chunkDone_record hs ready room
    exact ⟨_, st', r, rfl, fields⟩
end Sys2Proof.Machine
end

section
/-! OPEN_STREAM without an allow list and without a cairn (R83, R118, R119, R339). -/

namespace Sys2Proof.Machine

/-! What the free choices leave of admission. -/

/-- The state at another place in the stream of free choices. -/
def State.withFree (s : State) (x : Nat) : State := { s with free := x }
theorem State.pick_eq (s : State) (n : Nat) : ∃ x, (s.pick n).2 = s.withFree x := by
  unfold State.pick
  split
  · exact ⟨s.free, rfl⟩
  · exact ⟨_, rfl⟩
theorem State.pick_lt (s : State) {n : Nat} (h : 0 < n) : (s.pick n).1 < n := by
  unfold State.pick
  split
  · exact h
  · exact Nat.mod_lt _ (by omega)
theorem State.soon_free (s : State) (x : Nat) : (s.withFree x).soon = s.soon.withFree x := by
  have next : (s.withFree x).nextB = s.nextB := rfl
  unfold State.soon
  rw [next]
  refine List.foldl_hom (fun v : State => v.withFree x) fun v e => ?_
  cases e.eff with
  | activate k =>
    dsimp only
    split <;> rfl
  | _ => rfl
theorem State.seen_free (s : State) (x : Nat) (e : Eff) : (s.withFree x).seen e = (s.seen e).withFree x := by
  cases e <;> rfl
theorem State.seenBy_free (s : State) (x b : Nat) : (s.withFree x).seenBy b = (s.seenBy b).withFree x := by
  unfold State.seenBy
  refine List.foldl_hom (fun v : State => v.withFree x) fun v e => ?_
  split
  · exact v.seen_free x e.eff
  · rfl
theorem State.viewsFrom_free (s : State) (x b : Nat) :
    (s.withFree x).viewsFrom b = (s.viewsFrom b).map fun v => v.withFree x := by
  unfold State.viewsFrom
  rw [List.map_cons, ← State.seenBy_free, List.map_filterMap]
  refine congrArg _ (List.filterMap_congr fun e _ => ?_)
  cases e.eff with
  | activate k =>
    dsimp only
    split
    · rfl
    · exact congrArg some (s.seenBy_free x e.at_)
  | _ => rfl
/-- Admission does not read the free choices. -/
theorem openAdmit_free (s : State) (x rc : Nat) (a : OpenArgs) (o : OpenObj) (ridge : Option Nat) (pinned : Bool) :
    openAdmit (s.withFree x) rc a o ridge pinned = openAdmit s rc a o ridge pinned := by
  unfold openAdmit
  have next : (s.withFree x).nextB = s.nextB := rfl
  rw [State.soon_free, next, State.viewsFrom_free]
  simp only [List.map_cons, List.map_map, List.any_cons, List.any_map]
  rfl

theorem openAdmit_pick (s : State) (n rc : Nat) (a : OpenArgs) (o : OpenObj) (ridge : Option Nat) (pinned : Bool) :
    openAdmit (s.pick n).2 rc a o ridge pinned = openAdmit s rc a o ridge pinned := by
  obtain ⟨x, picked⟩ := s.pick_eq n
  rw [picked, openAdmit_free]
theorem freeIdx_pick (s : State) (n r : Nat) : freeIdx (s.pick n).2 r = freeIdx s r := by simp [freeIdx]

section
variable {d : Desc} {s : State} (ok : s.accepts d = true) (op : d.opcode = 0x01) (allow : List Byte)
include ok op

theorem exec_openStream : exec (.openStream d allow) s = .next (openBody d allow (s.started d) (s.startedCmd d)) :=
  congrArg Host.Outcome.next (runDesc_accepts ok (by simp [op]) _)
end

section
variable {d : Desc} {allow : List Byte} {u : State} {c : Cmd} {o : OpenObj} (unlisted : (openArgs d allow).allowAddr = 0)
include unlisted

/-- Objects of an open without an allow list. -/
theorem openObjects_unlisted (h : openObjects u (openArgs d allow) = .ok o) : o.allow = none := by
  unfold openObjects at h
  simp only [if_pos unlisted] at h
  split at h
  · split_ifs at h
    cases h
    rfl
  · exact nomatch h
  · exact nomatch h
  · exact nomatch h
theorem openBody_missing {e : Nat} (tenant : tenantOk u c.ring (openArgs d allow).tenant = true) (missing : openObjects u (openArgs d allow) = .error e) :
    openBody d allow u c = u.finish c { status := e } := by
  unfold openBody
  rw [if_neg (by simp [tenant]), if_neg (by simp [unlisted]), missing]
/-- The admission of an open whose objects are there, on the ridge that the free choice takes (R83). -/
theorem openBody_admission (tenant : tenantOk u c.ring (openArgs d allow).tenant = true) (objects : openObjects u (openArgs d allow) = .ok o) :
    let a := openArgs d allow
    let rc := ((u.ring c.ring).entry.map (·.rclass)).getD 0
    let cand := ridgeCand u (u.maxDraft rc) a.ridge (pinnedRidges u a o)
    let p := u.pick cand.length
    openBody d allow u c = match openAdmit p.2 rc a o cand[p.1]? false with
      | some e => p.2.finish c { status := e }
      | none => openStart p.2 c a o rc (cand[p.1]?.getD 0) false := by
  have listless : o.allow.isSome = false := by rw [openObjects_unlisted unlisted objects]; rfl
  unfold openBody
  rw [if_neg (by simp [tenant]), if_neg (by simp [unlisted]), objects]
  dsimp only
  rw [listless]
  rfl
end

theorem openBody_badTenant {d : Desc} {allow : List Byte} {u : State} {c : Cmd}
    (bad : tenantOk u c.ring (openArgs d allow).tenant = false) :
    openBody d allow u c = u.finish c { status := stBadTenant } := by
  unfold openBody
  rw [if_pos (by simp [bad])]

/-- The stream an open makes: its handle from the index taken and that index's next open sequence (R119). -/
def State.openHandle (s : State) (i : Nat) : Nat := i + ((AMap.getD s.opens i 0 + 1) % 2 ^ 18) * 2 ^ 14
/-- A stream that joins the others at a resident index, with the index's next open sequence taken. -/
def State.addStream (s : State) (i : Nat) (st : Stream) : State :=
  { s with opens := AMap.set s.opens i ((AMap.getD s.opens i 0 + 1) % 2 ^ 18), streams := AMap.set s.streams i st,
           stack := { s.stack with allowUsed := s.stack.allowUsed ++ [] } }
/-- An open with no allow list and no cairn makes its stream and completes (Table 3-7). -/
theorem openStart_plain {s : State} {a : OpenArgs} {o : OpenObj} (fresh : a.resume = false) (listless : o.allow = none) (c : Cmd) (rc ridge : Nat) :
    let free := freeIdx s ridge
    let p := s.pick free.length
    let i := free.getD p.1 0
    openStart s c a o rc ridge false =
      (p.2.addStream i (newStream p.2 (p.2.openHandle i) c.ring rc ridge (p.2.drawClass a.tenant) c.id a o none false)).opened c (p.2.openHandle i) := by
  unfold openStart
  simp [fresh, listless, State.openHandle, State.addStream]

theorem completes_opened {s v : State} {d : Desc} (cmds : v.cmds = (s.started d).cmds) (rings : v.rings = (s.started d).rings) (h : Nat) :
    Completes s (v.opened (s.startedCmd d) h) d { status := stOK, stream := h } :=
  completes_of_started _ cmds rings

/-- The resident indices of a ridge in the configuration are below 2^14 (R119). -/
theorem freeIdx_lt {s : State} {r i : Nat} (hr : r < s.ridges) (hi : i ∈ freeIdx s r) : i < 2 ^ 14 ∧ AMap.get? s.streams i = none := by
  obtain ⟨place, free⟩ := List.mem_filter.mp hi
  obtain ⟨j, hj, rfl⟩ := List.mem_map.mp place
  have small : s.ridges ≤ 16 := by
    unfold State.ridges
    cases s.build.cfg <;> decide
  refine ⟨?_, by simpa [AMap.has] using free⟩
  have := List.mem_range.mp hj
  omega
theorem State.openHandle_index (s : State) {i : Nat} (h : i < 2 ^ 14) :
    hIndex (s.openHandle i) = i ∧ s.openHandle i / 2 ^ 14 = (AMap.getD s.opens i 0 + 1) % 2 ^ 18 := by
  unfold hIndex State.openHandle
  omega

/-- Settles O23: the checks in order (`openBody_badTenant`, `openBody_missing`, `openBody_admission`), then the stream made (`openStart_plain`). -/
theorem openStreamMakesAStream : Obligations.OpenStreamMakesAStream := by
  intro d allow o s u k a rc cand ok op unlisted fresh
  rw [exec_openStream ok op]
  refine ⟨fun bad => ?_, fun e tenant missing => ?_, fun e tenant objects nowhere refused => ?_, fun tenant objects somewhere listless admitted => ?_⟩
  · rw [openBody_badTenant bad]
    exact ⟨_, rfl, completes_started .., by simp⟩
  · rw [openBody_missing unlisted tenant missing]
    exact ⟨_, rfl, completes_started .., by simp [u]⟩
  all_goals
    have admits : openBody d allow u (s.startedCmd d) = match openAdmit (u.pick cand.length).2 rc a o cand[(u.pick cand.length).1]? false with
        | some e => (u.pick cand.length).2.finish (s.startedCmd d) { status := e }
        | none => openStart (u.pick cand.length).2 (s.startedCmd d) a o rc (cand[(u.pick cand.length).1]?.getD 0) false :=
      openBody_admission unlisted tenant objects
    rw [show openBody d allow (s.started d) (s.startedCmd d) = _ from admits, openAdmit_pick]
  · rw [show cand[(u.pick cand.length).1]? = none by simp [nowhere], refused]
    exact ⟨_, rfl, completes_of_started _ (by simp [u]) (by simp [u]), by simp [u]⟩
  · have bound : (u.pick cand.length).1 < cand.length := u.pick_lt (List.length_pos_iff.mpr somewhere)
    obtain ⟨r, hr, mem⟩ : ∃ r, cand[(u.pick cand.length).1]? = some r ∧ r ∈ cand :=
      ⟨_, List.getElem?_eq_getElem bound, List.getElem_mem bound⟩
    rw [show cand[(u.pick cand.length).1]? = some r from hr, admitted r mem]
    dsimp only [Option.getD_some]
    have made := openStart_plain (s := (u.pick cand.length).2) fresh listless (s.startedCmd d) rc r
    rw [freeIdx_pick] at made
    extract_lets free p i at made
    obtain ⟨onRidge, open_⟩ : r < s.ridges ∧ free ≠ [] := by
      obtain ⟨inRange, fits⟩ := List.mem_filter.mp mem
      simp only [Bool.and_eq_true, Bool.not_eq_eq_eq_not, Bool.not_true, List.isEmpty_eq_false_iff] at fits
      refine ⟨?_, fits.2⟩
      rw [← started_ridges s d]
      exact List.mem_range.mp inRange
    have inFree : i ∈ free := by
      have bound : p.1 < free.length := State.pick_lt _ (List.length_pos_iff.mpr open_)
      rw [show i = free[p.1] from List.getD_eq_getElem _ _ bound]
      exact List.getElem_mem bound
    obtain ⟨small, unused⟩ := freeIdx_lt (s := u) ((started_ridges s d).symm ▸ onRidge) inFree
    rw [show u.streams = s.streams from started_streams s d] at unused
    have handle : p.2.openHandle i = s.openHandle i := by simp [State.openHandle, p, u]
    obtain ⟨index, seq⟩ := s.openHandle_index small
    rw [made, handle]
    refine ⟨_, s.openHandle i, newStream p.2 (s.openHandle i) k rc r (p.2.drawClass a.tenant) s.nextId a o none false, rfl,
      completes_opened (by simp [State.addStream, p, u]) (by simp [State.addStream, p, u]) _, ?_, ?_, ?_, rfl, rfl, rfl, rfl, rfl, mem, rfl, rfl, rfl, rfl, ?_, ?_, ?_⟩
    · rw [index]
      exact unused
    · rw [index]
      simp [State.opened, State.at, State.addStream, k]
    · rw [index]
      exact seq
    · rw [index]
      intro j hj
      simp [State.opened, State.at, State.addStream, p, u, hj]
    · simp [State.opened, State.at, State.addStream, State.nextB, State.beat, p, u]
    · simp [State.opened, State.at, State.addStream, p, u]
end Sys2Proof.Machine
end

section
/-! The compute phase of a state with one record to screen, or with none (R82, R174, R240, R405). -/

set_option maxRecDepth 8000
namespace Sys2Proof.Machine

/-! What asking for reloads and counting work leave: `Work` is what a token's screening reads and writes, with the counts of block-memory errors. -/

structure Work where
  regs : RegS
  streams : AMap Stream
  rings : AMap Ring
  images : AMap Img
  clk : ClockS
  range : RangeS
  masks : List MaskJ
  recs : List Rec
  eccCorr : Nat
  eccUncorr : Nat
  rewrites : List Nat
def State.work (s : State) : Work :=
  ⟨s.regs, s.streams, s.rings, s.images, s.clk, s.range, s.masks, s.recs, s.integ.eccCorr, s.integ.eccUncorr, s.integ.rewrites⟩

section
variable {s t : State} (h : t.work = s.work)
include h
theorem State.recs_of_work : t.recs = s.recs := congrArg Work.recs h
theorem State.masks_of_work : t.masks = s.masks := congrArg Work.masks h
theorem State.streams_of_work : t.streams = s.streams := congrArg Work.streams h
theorem State.rings_of_work : t.rings = s.rings := congrArg Work.rings h
theorem State.images_of_work : t.images = s.images := congrArg Work.images h
theorem State.clk_of_work : t.clk = s.clk := congrArg Work.clk h
theorem State.range_of_work : t.range = s.range := congrArg Work.range h
theorem State.regs_of_work : t.regs = s.regs := congrArg Work.regs h
end

theorem work_ite {c : Prop} [Decidable c] {a b t : State} (h1 : a.work = t.work) (h2 : b.work = t.work) : (if c then a else b).work = t.work := by
  split <;> assumption
theorem work_foldl {α : Type} (f : State → α → State) (h : ∀ s a, (f s a).work = s.work) (l : List α) (s : State) :
    (l.foldl f s).work = s.work := by
  induction l generalizing s with
  | nil => rfl
  | cons a l ih => exact (ih _).trans (h s a)

@[simp] theorem State.count_work (s : State) (i n : Nat) : (s.count i n).work = s.work := rfl
@[simp] theorem State.setChan_work (s : State) (c : Nat) (f : Chan → Chan) : (s.setChan c f).work = s.work := rfl
@[simp] theorem State.setBank_work (s : State) (k : Nat) (f : Bank → Bank) : (s.setBank k f).work = s.work := rfl
@[simp] theorem State.log_work (s : State) (c v e : Nat) (d0 d1 d2 : W64) : (s.log c v e d0 d1 d2).work = s.work := by simp [State.work]
@[simp] theorem State.sendOn_work (s : State) (c : Nat) (w : Win) (op : Nat) (purp : Purp) (words : List W64) (payload : List Byte) (respLen : Nat) :
    (s.sendOn c w op purp words payload respLen).work = s.work := by
  (unfold State.sendOn; dsimp only; repeat' split) <;> simp [State.work]
@[simp] theorem State.noIssue_work (s : State) (e c op : Nat) : (s.noIssue e c op).work = s.work := by
  simp [State.noIssue]
@[simp] theorem State.issue_work (s : State) (w : Win) (op : Nat) (purp : Purp) (words : List W64) (payload : List Byte) (respLen : Nat) :
    (s.issue w op purp words payload respLen).2.work = s.work := by
  unfold State.issue
  split
  · unfold State.issueOn
    split <;> simp
  · simp
@[simp] theorem State.askRepair_work (s : State) (slot key : Nat) : (s.askRepair slot key).work = s.work := by
  unfold State.askRepair
  exact work_ite rfl ((State.log_work ..).trans rfl)
@[simp] theorem State.askPin_work (s : State) (slot mask : Nat) : (s.askPin slot mask).work = s.work := by
  unfold State.askPin
  split
  · exact work_foldl _ (fun s t => work_ite rfl (work_ite (by simp) (by simp))) _ _
  · rfl
@[simp] theorem State.askAllow_work (s : State) (st : Stream) : (s.askAllow st).work = s.work := by
  unfold State.askAllow
  split
  · exact work_ite rfl (by simp)
  · rfl
@[simp] theorem State.askEntry_work (s : State) (bank : Nat) (e : BEntry) : (s.askEntry bank e).work = s.work := by
  unfold State.askEntry
  refine work_ite rfl ?_
  split
  · exact work_ite rfl (by simp)
  · rfl
@[simp] theorem State.askStream_work (s : State) (h : Nat) : (s.askStream h).work = s.work := by
  unfold State.askStream
  exact work_ite rfl (by simp)

/-- No record of the state waits for a tile. -/
def State.noneWaits (s : State) : Prop := ∀ r ∈ s.recs, r.waitTile = []
theorem State.noneWaits_congr {s t : State} (h : t.work = s.work) (none : s.noneWaits) : t.noneWaits := by
  have recs : t.recs = s.recs := State.recs_of_work h
  rw [State.noneWaits, recs]
  exact none
theorem State.failWaiters_work {s : State} (none : s.noneWaits) (slot key : Nat) : (s.failWaiters slot key).work = s.work := by
  have same : (s.failWaiters slot key).recs = s.recs :=
    (List.map_congr_left fun r hr => if_neg (by simp [none r hr])).trans (List.map_id s.recs)
  simp only [State.work, same]
  rfl
theorem State.askTile_work {s : State} (none : s.noneWaits) (slot key : Nat) : (s.askTile slot key).work = s.work := by
  unfold State.askTile
  split
  · rfl
  · exact work_ite rfl (work_ite ((State.askRepair_work ..).trans (State.failWaiters_work none ..)) (work_ite rfl (by simp)))
theorem State.pumpReloads_work {s : State} (none : s.noneWaits) : s.pumpReloads.work = s.work := by
  have tiles (l : List (Nat × Nat)) : ∀ u : State, u.noneWaits → (l.foldl (fun s t => s.askTile t.1 t.2) u).work = u.work := by
    induction l with
    | nil => exact fun u _ => rfl
    | cons t l ih =>
      intro u hu
      have one := State.askTile_work hu t.1 t.2
      exact (ih _ (State.noneWaits_congr one hu)).trans one
  unfold State.pumpReloads
  extract_lets
  refine (work_foldl _ State.askStream_work _ _).trans ?_
  refine (work_foldl _ (fun s (e : Nat × BEntry) => s.askEntry_work e.1 e.2) _ _).trans ?_
  refine (work_foldl _ State.askAllow_work _ _).trans ?_
  refine (work_foldl _ (fun s (p : Nat × Nat) => s.askPin_work p.1 p.2) _ _).trans ?_
  exact tiles _ s none
@[simp] theorem State.useCells_work (a s : State) : (State.useCells a s).work = s.work := rfl
@[simp] theorem State.countWork_work (s : State) : s.countWork.work = s.work := by
  unfold State.countWork
  refine (work_foldl _ ?_ _ _).trans rfl
  intro s r
  refine work_foldl _ ?_ _ _
  intro s j
  rfl


/-! A write-back changes what a stream's record in memory is, and leaves the stream's own course (R398). -/

/-- What of a stream the write-backs leave. -/
structure SameCourse (x y : Stream) : Prop where
  ctx : y.ctx = x.ctx
  pos : y.pos = x.pos
  charged : y.charged = x.charged
theorem SameCourse.refl (x : Stream) : SameCourse x x := ⟨rfl, rfl, rfl⟩
theorem SameCourse.trans {x y z : Stream} (a : SameCourse x y) (b : SameCourse y z) : SameCourse x z :=
  ⟨b.ctx.trans a.ctx, b.pos.trans a.pos, b.charged.trans a.charged⟩
/-- An update of one stream that leaves its handle and phase leaves each stream as it is, or updated. -/
theorem State.stream?_setStream_or {f : Stream → Stream} (hf : ∀ x, (f x).handle = x.handle ∧ (f x).phase = x.phase) {s : State} {h : Nat} {st : Stream}
    (hs : s.stream? h = some st) (g : Nat) : (s.setStream g f).stream? h = some st ∨ (s.setStream g f).stream? h = some (f st) := by
  cases hg : s.stream? g with
  | none =>
    left
    simpa only [State.setStream, hg] using hs
  | some x =>
    obtain ⟨named, handle, opened⟩ := State.stream?_eq_some.mp hs
    obtain ⟨other, -, -⟩ := State.stream?_eq_some.mp hg
    rw [State.setStream_of_some hg]
    by_cases same : hIndex h = hIndex g
    · right
      obtain rfl : st = x := Option.some.inj (named.symm.trans ((congrArg _ same).trans other))
      exact State.stream?_eq_some.mpr ⟨by simp [same], (hf st).1.trans handle, fun e => opened ((hf st).2.symm.trans e)⟩
    · left
      exact State.stream?_eq_some.mpr ⟨by simp [AMap.get?_set, same, named], handle, opened⟩
theorem State.writeBack_stream? {s : State} {h : Nat} {st : Stream} (hs : s.stream? h = some st) (g : Nat) :
    ∃ x, (s.writeBack g).stream? h = some x ∧ SameCourse st x := by
  have kept (x : Stream) : let y := if x.wbOpen then x else { x with gen := (x.gen + 1) % 2 ^ 32, wbOpen := true }
      (y.handle = x.handle ∧ y.phase = x.phase) ∧ SameCourse x y := by
    dsimp only
    split <;> exact ⟨⟨rfl, rfl⟩, rfl, rfl, rfl⟩
  obtain e | e := State.stream?_setStream_or (fun x => (kept x).1) hs g
  · exact ⟨st, e, SameCourse.refl st⟩
  · exact ⟨_, e, (kept st).2⟩
/-- What write-backs leave, besides the streams. -/
structure WritesBack (s t : State) : Prop where
  recs : t.recs = s.recs
  rings : t.rings = s.rings
  clk : t.clk = s.clk
  eccCorr : t.integ.eccCorr = s.integ.eccCorr
  eccUncorr : t.integ.eccUncorr = s.integ.eccUncorr
  rewrites : t.integ.rewrites = s.integ.rewrites
  stream : ∀ h st, s.stream? h = some st → ∃ x, t.stream? h = some x ∧ SameCourse st x
theorem foldl_writeBack_writesBack (hs : List Nat) (s : State) : WritesBack s (hs.foldl State.writeBack s) := by
  induction hs generalizing s with
  | nil => exact ⟨rfl, rfl, rfl, rfl, rfl, rfl, fun h st hs => ⟨st, hs, SameCourse.refl st⟩⟩
  | cons g hs ih =>
    obtain ⟨recs, rings, clk, corr, uncorr, rewrites, streams⟩ := ih (s.writeBack g)
    refine ⟨recs.trans (State.setStream_recs ..), rings.trans (State.setStream_rings ..), clk.trans (State.setStream_clk ..),
      corr.trans (congrArg IntegS.eccCorr (State.setStream_integ ..)), uncorr.trans (congrArg IntegS.eccUncorr (State.setStream_integ ..)),
      rewrites.trans (congrArg IntegS.rewrites (State.setStream_integ ..)), fun h st named => ?_⟩
    obtain ⟨x, hx, one⟩ := State.writeBack_stream? named g
    obtain ⟨y, hy, rest⟩ := streams h x hx
    exact ⟨y, hy, one.trans rest⟩
theorem WritesBack.of_work {s t u : State} (a : WritesBack s t) (h : u.work = t.work) : WritesBack s u where
  recs := (State.recs_of_work h).trans a.recs
  rings := (State.rings_of_work h).trans a.rings
  clk := (State.clk_of_work h).trans a.clk
  eccCorr := (congrArg Work.eccCorr h).trans a.eccCorr
  eccUncorr := (congrArg Work.eccUncorr h).trans a.eccUncorr
  rewrites := (congrArg Work.rewrites h).trans a.rewrites
  stream g st hs := by
    rw [State.stream?_congr (State.streams_of_work h)]
    exact a.stream g st hs

/-! The phase in its parts. -/

/-- No draft's state is written back where no record ran as a draft. -/
theorem State.writeBacks_eq {a s : State} (committed : ∀ r ∈ a.recs, r.spec = false) :
    State.writeBacks a s = (ranStreams a s).foldl State.writeBack s := by
  have drafts : (ranRecs a s).filter (·.spec) = [] :=
    List.filter_eq_nil_iff.mpr fun r hr => by simp [committed r (List.mem_of_mem_filter hr)]
  rw [State.writeBacks, drafts]
  rfl
theorem lostMarkers_nil {s : State} (markerless : ∀ r ∈ s.recs, r.kind ≠ .marker) : lostMarkers s = [] :=
  List.filterMap_eq_nil_iff.mpr fun r hr => by simp [markerless r hr]
theorem State.checkStaging_eq {s : State} (frameless : ∀ r ∈ s.recs, r.feats = none) : s.checkStaging = s := by
  have unread : s.recs.filter (fun r => r.feats.isSome && runsNow s r && !recBlocked s r) = [] :=
    List.filter_eq_nil_iff.mpr fun r hr => by simp [frameless r hr]
  simp only [State.checkStaging, unread]
  rfl
theorem State.rerunRec_idle {s : State} (modelless : ∀ r ∈ s.recs, r.models = []) (id : Nat) : s.rerunRec id = s := by
  unfold State.rerunRec
  split
  · rfl
  · exact if_pos (by simp [modelless _ (State.rec?_mem ‹_›)])
theorem foldl_rerunRec_idle {s : State} (modelless : ∀ r ∈ s.recs, r.models = []) (ids : List Nat) : ids.foldl State.rerunRec s = s := by
  induction ids with
  | nil => rfl
  | cons id ids ih => rw [List.foldl_cons, State.rerunRec_idle modelless, ih]
/-- With no mask, and no model of a record that waits: the compute phase of the records alone (R332, R357). -/
theorem State.computeBeat_eq {s : State} (maskless : s.masks = []) (modelless : ∀ r ∈ s.recs, r.models = []) :
    s.computeBeat = let t := ((sortAsc (planKey (s.toPhase 1) ·.h) s.recs).map (·.id)).foldl State.computeRec (s.toPhase 1)
      { t with plan := { t.plan with resp := [] } } := by
  have unmasked (f : MaskJ → Bool) : planMasks s f = [] := by simp [planMasks, maskless, sortAsc]
  simp only [State.computeBeat, unmasked, List.foldl_nil, foldl_rerunRec_idle (s := s.toPhase 1) modelless]
  rfl
theorem State.lateCheck_idle {s : State} (modelless : ∀ r ∈ s.recs, r.models = []) (id : Nat) : s.lateCheck id = s := by
  unfold State.lateCheck
  split
  · rfl
  · rename_i r hr
    have none_late : lateImgs s r = [] := by simp [lateImgs, modelless r (State.rec?_mem hr), slotImgs]
    rw [none_late]
    rfl
theorem foldl_lateCheck_idle {s : State} (modelless : ∀ r ∈ s.recs, r.models = []) (ids : List Nat) : ids.foldl State.lateCheck s = s := by
  induction ids with
  | nil => rfl
  | cons id ids ih => rw [List.foldl_cons, State.lateCheck_idle modelless, ih]

/-- The work of a compute phase that meets no event but single-bit errors, of a state without masks, frames, markers, drafts, or models before or
after it: the records' own, and the write-backs (R56). -/
theorem State.computeNow_writesBack {s a : State} {evts : List IntegEvt} (ha : ((evts.foldl State.evBefore s).checkStaging.pumpReloads) = a)
    (after : ∀ e ∈ evts, ∀ u, State.evAfter s u e = u) (markerless : ∀ r ∈ a.recs, r.kind ≠ .marker) (committed : ∀ r ∈ a.recs, r.spec = false)
    (modelless : ∀ r ∈ a.computeBeat.recs, r.models = []) (noneWaits : a.computeBeat.noneWaits) :
    WritesBack a.computeBeat (s.computeNow evts) := by
  have untouched (l : List IntegEvt) (h : ∀ e ∈ l, e ∈ evts) (u : State) : l.foldl (State.evAfter s) u = u := by
    induction l with
    | nil => rfl
    | cons e l ih =>
      rw [List.foldl_cons, after e (h e List.mem_cons_self)]
      exact ih fun x hx => h x (List.mem_cons_of_mem _ hx)
  have writes := foldl_writeBack_writesBack (ranStreams a a.computeBeat) a.computeBeat
  unfold State.computeNow
  rw [ha]
  dsimp only
  rw [lostMarkers_nil markerless, foldl_lateCheck_idle modelless]
  simp only [List.filter_nil, List.foldl_nil]
  rw [State.writeBacks_eq committed, untouched evts fun _ h => h]
  have counted : ∀ u : State, (State.useCells s u).countWork.work = u.work := fun u => (State.countWork_work _).trans (State.useCells_work s u)
  have still : ((ranStreams a a.computeBeat).foldl State.writeBack a.computeBeat).noneWaits := by
    rw [State.noneWaits, writes.recs]
    exact noneWaits
  exact writes.of_work ((State.pumpReloads_work (State.noneWaits_congr (counted _) still)).trans (counted _))

/-! The token. -/

/-- The record and the stream's context, where a shed record is screened by nothing (R82). -/
theorem State.screenTok_shed {s : State} {st : Stream} {r : Rec} (committed : r.spec = false) (shed : r.shed ≠ 0) :
    s.screenTok st r = (s.setRec r.id fun x => { x with screened := true, off := st.ctx.off, pend := st.ctx.pend }).setStream r.h fun x =>
      { x with ctx := { skipToken st.ctx r.token with gram := x.ctx.gram } } := by
  unfold State.screenTok
  rw [if_pos shed]
  simp only [startCtx, parentNode, State.putCtx, committed]
  rfl
/-- A committed token screened from its stream's context, under the policy of its stamp (R174). -/
def State.screened (s : State) (st : Stream) (r : Rec) : Found × Ctx × List Byte :=
  screenToken s st ((s.polOf r.polSlot).getD default) st.ctx r.token r.pos
/-- A record once it is screened as y, from offset off, with further results rs. -/
def Rec.whole (y : Found × Ctx × List Byte) (rs : List Nat) (off : Nat) (x : Rec) : Rec :=
  { x with screened := true, bytes := y.2.2, results := x.results ++ y.1.results ++ [] ++ rs, flags := x.flags ||| y.1.flags ||| 0, compl := y.1.compl,
           pend := y.2.1.pend, off := off, models := [] }
theorem State.screenTok_whole {s : State} {st : Stream} {r : Rec} (committed : r.spec = false) (frameless : r.feats = none) (kept : r.shed = 0) :
    ∃ rs, s.screenTok st r = (((s.searchFinds (s.screened st r).1.falseHits (s.screened st r).1.lost).setRec r.id
      (Rec.whole (s.screened st r) rs st.ctx.off)).setStream r.h fun x => { x with ctx := { (s.screened st r).2.1 with gram := x.ctx.gram } }) := by
  unfold State.screenTok
  rw [if_neg (not_not.mpr kept), frameless]
  simp only [startCtx, parentNode, State.putCtx, committed, Bool.false_eq_true, if_false]
  exact ⟨_, rfl⟩
/-- The bytes and the context of a token that is screened (R174, R240). -/
theorem screenToken_window (s : State) (st : Stream) (p : PolicyImg) (c : Ctx) (tok pos : Nat) :
    let x := screenToken s st p c tok pos
    x.2.2 = (s.vocabOf st).decode.getD tok [] ∧ x.2.1.window = (tok :: c.window).take 14 ∧ x.2.1.off = c.off + x.2.2.length := ⟨rfl, rfl, rfl⟩

/-- What searches found is counted and put down in the banks (R257, R405). -/
theorem State.searchFinds_work (s : State) (bad lost : List Nat) : { (s.searchFinds bad lost).work with eccUncorr := s.integ.eccUncorr } = s.work := by
  have counted (u : State) (n : Nat) : { (u.uncorrectable n).work with eccUncorr := s.integ.eccUncorr } = { u.work with eccUncorr := s.integ.eccUncorr } := rfl
  unfold State.searchFinds
  rw [counted, work_foldl _ (fun s u => by simp)]
  rfl

/-- A stamped token of vocabulary v after its compute phase, and its stream (R82, R174, R240). -/
structure TokenScreened (v : VocabImg) (st : Stream) (r x : Rec) (st' : Stream) : Prop where
  screened : x.screened = true
  stamp : x.stamp = r.stamp
  rel : x.rel = r.rel
  sealed : x.sealed = r.sealed
  models : x.models = []
  waitTile : x.waitTile = r.waitTile
  whole : r.shed = 0 → x.bytes = v.decode.getD r.token [] ∧ st'.ctx.window = (r.token :: st.ctx.window).take 14 ∧ st'.ctx.off = st.ctx.off + x.bytes.length
  shed : r.shed ≠ 0 → x.bytes = r.bytes ∧ x.results = r.results ∧ st'.ctx = skipToken st.ctx r.token
  pos : st'.pos = st.pos
  charged : st'.charged = st.charged

/-- The only record's update and its stream's, one after the other. -/
theorem State.only_record {s t : State} {st : Stream} {r : Rec} (recs : t.recs = [r]) (streams : t.streams = s.streams) (hs : s.stream? r.h = some st)
    (f : Rec → Rec) (g : Stream → Stream) (hg : (g st).handle = st.handle ∧ (g st).phase = st.phase) :
    ((t.setRec r.id f).setStream r.h g).recs = [f r] ∧ ((t.setRec r.id f).setStream r.h g).stream? r.h = some (g st) := by
  obtain ⟨-, handle, opened⟩ := State.stream?_eq_some.mp hs
  constructor
  · rw [State.setStream_recs]
    simp [State.setRec, recs]
  · exact State.stream?_setStream ((State.stream?_congr (t := t.setRec r.id f) streams _).trans hs) (hg.1.trans handle) (hg.2 ▸ opened)
theorem State.screenTok_token {s : State} {st : Stream} {r : Rec} (recs : s.recs = [r]) (hs : s.stream? r.h = some st) (committed : r.spec = false)
    (frameless : r.feats = none) (modelless : r.models = []) :
    (∃ x st', (s.screenTok st r).recs = [x] ∧ (s.screenTok st r).stream? r.h = some st' ∧ TokenScreened (s.vocabOf st) st r x st')
      ∧ (s.screenTok st r).rings = s.rings ∧ (s.screenTok st r).clk = s.clk := by
  by_cases shed : r.shed = 0
  · obtain ⟨rs, eq⟩ := State.screenTok_whole (s := s) (st := st) committed frameless shed
    rw [eq]
    have finds := s.searchFinds_work (s.screened st r).1.falseHits (s.screened st r).1.lost
    have recs' := (congrArg Work.recs finds).trans recs
    obtain ⟨one, stream⟩ := State.only_record recs' (congrArg Work.streams finds) hs (Rec.whole (s.screened st r) rs st.ctx.off)
      (fun x => { x with ctx := { (s.screened st r).2.1 with gram := x.ctx.gram } }) ⟨rfl, rfl⟩
    refine ⟨⟨_, _, one, stream, rfl, rfl, rfl, rfl, rfl, rfl, fun _ => screenToken_window s st _ st.ctx r.token r.pos, fun e => absurd shed e, rfl, rfl⟩, ?_, ?_⟩
    · exact (State.setStream_rings ..).trans (congrArg Work.rings finds)
    · exact (State.setStream_clk ..).trans (congrArg Work.clk finds)
  · rw [State.screenTok_shed committed shed]
    obtain ⟨one, stream⟩ := State.only_record (t := s) recs rfl hs (fun x => { x with screened := true, off := st.ctx.off, pend := st.ctx.pend })
      (fun x => { x with ctx := { skipToken st.ctx r.token with gram := x.ctx.gram } }) ⟨rfl, rfl⟩
    exact ⟨⟨_, _, one, stream, rfl, rfl, rfl, rfl, modelless, rfl, fun e => absurd e shed, fun _ => ⟨rfl, rfl, rfl⟩, rfl, rfl⟩, by simp, by simp⟩

/-! The only record of a beat. -/

theorem runsNow_congr {s t : State} (regs : t.regs = s.regs) (range : t.range = s.range) (beat : t.beat = s.beat) (r : Rec) : runsNow t r = runsNow s r := by
  simp only [runsNow, predIn, predOf, State.isFirst, State.isTail, State.selfId, regs, range, beat]
theorem tokImgs_congr {s t : State} (images : t.images = s.images) (st : Stream) (r : Rec) :
    tokImgs t st ((t.polOf r.polSlot).getD default) = tokImgs s st ((s.polOf r.polSlot).getD default) := by
  simp only [tokImgs, slotImgs, State.polOf, State.img?, State.activeOf, images]
theorem State.vocabOf_congr {s t : State} (images : t.images = s.images) (st : Stream) : t.vocabOf st = s.vocabOf st := by
  simp only [State.vocabOf, State.img?, images]
/-- A token that runs now, needs no tile, and is alone or stamped with the beat is screened (R82, R174). -/
theorem State.computeRec_token {s : State} {st : Stream} {r : Rec} (recs : s.recs = [r]) (hs : s.stream? r.h = some st) (kind : r.kind = .committed)
    (runs : runsNow s r = true) (now : r.ext = false ∨ r.stamp = some s.beat) (tiles : tileWaits (tokImgs s st ((s.polOf r.polSlot).getD default)) = []) :
    s.computeRec r.id = s.screenTok st r := by
  have found : s.rec? r.id = some r := by simp [State.rec?, recs]
  have first : recBlocked s r = false := by simp [recBlocked, recs]
  have plain : (r.ext && r.stamp ≠ some s.beat && runsNow s r && !recBlocked s r && r.shed = 0) = false := by
    obtain e | e := now <;> simp [e]
  unfold State.computeRec
  simp only [found, hs, plain, Bool.false_eq_true, if_false]
  simp [runs, first, kind, tiles]

/-- A compute phase without records and masks, and with single-bit errors in ws (R405). -/
theorem State.computeNow_corrects {s : State} (recs : s.recs = []) (maskless : s.masks = []) (ws : List Nat) :
    (s.computeNow [.eccSingle ws]).clk.phase = 1 ∧ (s.computeNow [.eccSingle ws]).integ.eccCorr = min 65535 (s.integ.eccCorr + ws.length)
      ∧ (s.computeNow [.eccSingle ws]).integ.eccUncorr = s.integ.eccUncorr
      ∧ (s.computeNow [.eccSingle ws]).integ.rewrites = s.integ.rewrites ++ ws ∧ (s.computeNow [.eccSingle ws]).recs = [] := by
  have recs' : (s.corrected ws).recs = [] := recs
  have maskless' : (s.corrected ws).masks = [] := maskless
  have staged : (s.corrected ws).checkStaging = s.corrected ws := State.checkStaging_eq (by simp [recs'])
  have pumped : (s.corrected ws).pumpReloads.work = (s.corrected ws).work := State.pumpReloads_work (by simp [State.noneWaits, recs'])
  obtain ⟨a, ha⟩ : ∃ a, (s.corrected ws).pumpReloads = a := ⟨_, rfl⟩
  rw [ha] at pumped
  have none_left : a.recs = [] := (State.recs_of_work pumped).trans recs'
  have beat := State.computeBeat_eq ((State.masks_of_work pumped).trans maskless') (by simp [none_left])
  rw [none_left] at beat
  have none_after : a.computeBeat.recs = [] := by
    rw [beat]
    exact none_left
  have writes := State.computeNow_writesBack (s := s) (evts := [.eccSingle ws]) ((congrArg State.pumpReloads staged).trans ha) (by simp [State.evAfter])
    (by simp [none_left]) (by simp [none_left]) (by simp [none_after]) (by simp [State.noneWaits, none_after])
  refine ⟨?_, writes.eccCorr.trans ?_, writes.eccUncorr.trans ?_, writes.rewrites.trans ?_, writes.recs.trans none_after⟩
  · rw [writes.clk, beat]
    rfl
  all_goals rw [beat]
  · exact congrArg Work.eccCorr pumped
  · exact congrArg Work.eccUncorr pumped
  · exact congrArg Work.rewrites pumped

/-- A compute phase whose only work is one token (R82, R174, R240). -/
theorem State.computeNow_token {s : State} {st : Stream} {r : Rec} (recs : s.recs = [r]) (hs : s.stream? r.h = some st) (kind : r.kind = .committed)
    (committed : r.spec = false) (runs : runsNow s r = true) (modelless : r.models = []) (now : r.ext = false ∨ r.stamp = some s.beat)
    (frameless : r.feats = none) (maskless : s.masks = []) (tiles : tileWaits (tokImgs s st ((s.polOf r.polSlot).getD default)) = []) :
    ∃ x st' st'', (s.computeNow []).recs = [x] ∧ (s.computeNow []).stream? r.h = some st'' ∧ TokenScreened (s.vocabOf st) st r x st' ∧ SameCourse st' st''
      ∧ (s.computeNow []).rings = s.rings := by
  have still : r.waitTile = [] := by
    simp only [runsNow, Bool.and_eq_true, List.isEmpty_iff] at runs
    obtain ⟨⟨⟨-, waits⟩, -⟩, -⟩ := runs
    exact waits
  have staged : s.checkStaging = s := State.checkStaging_eq (by simp [recs, frameless])
  have pumped : s.pumpReloads.work = s.work := State.pumpReloads_work (by simp [State.noneWaits, recs, still])
  obtain ⟨a, ha⟩ : ∃ a, s.pumpReloads = a := ⟨_, rfl⟩
  rw [ha] at pumped
  have arecs : a.recs = [r] := (State.recs_of_work pumped).trans recs
  have beat := State.computeBeat_eq ((State.masks_of_work pumped).trans maskless) (by simp [arecs, modelless])
  have alone : (sortAsc (planKey (a.toPhase 1) ·.h) a.recs).map (·.id) = [r.id] := by rw [arecs]; rfl
  rw [alone] at beat
  have images : (a.toPhase 1).images = s.images := show a.images = s.images from State.images_of_work pumped
  have time : (a.toPhase 1).beat = s.beat := congrArg (fun c => c.beat.toNat) (State.clk_of_work pumped)
  have stream : (a.toPhase 1).stream? r.h = some st := (State.stream?_congr (State.streams_of_work pumped) _).trans hs
  have runs' : runsNow (a.toPhase 1) r = true :=
    (runsNow_congr (t := a.toPhase 1) (show a.regs = s.regs from State.regs_of_work pumped) (show a.range = s.range from State.range_of_work pumped)
      time r).trans runs
  have screens := State.computeRec_token (s := a.toPhase 1) arecs stream kind runs' (time.symm ▸ now) (by rw [tokImgs_congr images]; exact tiles)
  obtain ⟨⟨x, st', one, named, token⟩, rings, clk⟩ := State.screenTok_token (s := a.toPhase 1) arecs stream committed frameless modelless
  rw [State.vocabOf_congr images] at token
  have after : a.computeBeat.recs = [x] := by
    rw [beat, List.foldl_cons, List.foldl_nil, screens]
    exact one
  have writes := State.computeNow_writesBack (s := s) (evts := []) ((congrArg State.pumpReloads staged).trans ha) (by simp)
    (by simp [arecs, kind]) (by simp [arecs, committed]) (by simp [after, token.models]) (by simp [State.noneWaits, after, token.waitTile, still])
  have named' : a.computeBeat.stream? r.h = some st' := by
    rw [beat, List.foldl_cons, List.foldl_nil, screens]
    exact named
  obtain ⟨st'', last, course⟩ := writes.stream r.h st' named'
  refine ⟨x, st', st'', writes.recs.trans after, last, token, course, writes.rings.trans ?_⟩
  rw [beat, List.foldl_cons, List.foldl_nil, screens]
  exact rings.trans (show a.rings = s.rings from State.rings_of_work pumped)

/-- Settles O54: single-bit errors are counted (`computeNow_corrects`), and the one token is screened (`computeNow_token`). -/
theorem computePhaseScreensTheToken : Obligations.ComputePhaseScreensTheToken := by
  intro r st s
  refine ⟨fun l idle => congrArg Host.Outcome.next (if_neg ?_), fun ws live begun recs maskless => ?_,
    fun live begun recs hs kind committed runs modelless now frameless maskless tiles => ?_⟩
  · simp only [Bool.and_eq_true, Bool.not_eq_eq_eq_not, Bool.not_true, decide_eq_true_eq]
    rintro ⟨⟨complete, going⟩, first⟩
    obtain e | e := idle
    · simp [State.live, complete, going] at e
    · exact e first
  all_goals have runsPhase (l : List IntegEvt) : exec (.computePhase l) s = .next (s.computeNow l) :=
    congrArg Host.Outcome.next (if_pos (by simpa [State.live, begun] using live))
  · exact ⟨_, runsPhase _, State.computeNow_corrects recs maskless ws⟩
  · obtain ⟨x, st', st'', one, stream, token, course, rings⟩ :=
      State.computeNow_token recs hs kind committed runs modelless now frameless maskless tiles
    refine ⟨_, x, st'', runsPhase _, one, stream, token.screened, token.stamp, token.rel, token.sealed, ?_, ?_, course.pos.trans token.pos,
      course.charged.trans token.charged, rings, State.computeNow_tenants ..⟩
    all_goals rw [course.ctx]
    · exact token.whole
    · exact token.shed
end Sys2Proof.Machine
end

section
/-! ACTIVATE_IMAGE and its boundary, RETIRE_IMAGE and QUERY_IMAGE (R65, R66, R83, R159, R190, R300, R451, R453). -/

namespace Sys2Proof.Machine

section
variable {d : Desc} {s : State} (ok : s.accepts d = true)
include ok

theorem exec_activateImage (op : d.opcode = 0x11) : exec (.activateImage d) s = .next (activateBody d (s.started d) (s.startedCmd d)) :=
  congrArg Host.Outcome.next (runDesc_accepts ok (by simp [op]) _)
theorem exec_retireImage (op : d.opcode = 0x12) : exec (.retireImage d) s = .next (retireImgBody d (s.started d) (s.startedCmd d)) :=
  congrArg Host.Outcome.next (runDesc_accepts ok (by simp [op]) _)
theorem exec_queryImage (op : d.opcode = 0x13) : exec (.queryImage d) s = .next (queryBody d (s.started d) (s.startedCmd d)) :=
  congrArg Host.Outcome.next (runDesc_accepts ok (by simp [op]) _)
end

/-! ACTIVATE_IMAGE. -/

theorem raises_iff (s : State) (h : ImgHdr) : raises s h = true ↔ h.raise = true ∧ s.fuses.rollback.getD (h.kind - 1) 0 < h.rbVersion := by
  simp [raises]
theorem started_raises (s : State) (d : Desc) (h : ImgHdr) : raises (s.started d) h = raises s h := by simp [raises]

section
variable {d : Desc} {u : State} {c : Cmd} {i : Img}

/-- The boundary that an activation asks for: the next one where it names none. -/
def activateAt (d : Desc) (u : State) : Nat := if dfld d 3 47 0 = 0 then u.nextB else dfld d 3 47 0
theorem activateBody_missing (hi : u.img? (dfld d 2 7 0) = none) : activateBody d u c = u.finish c { status := stNotFound } := by
  unfold activateBody
  dsimp only
  rw [hi]

variable (hi : u.img? (dfld d 2 7 0) = some i)
include hi

theorem activateBody_loading (loading : i.status = 3) : activateBody d u c = u.finish c { status := stNotFound } := by
  unfold activateBody
  dsimp only
  rw [hi]
  exact if_pos loading
theorem activateBody_busy (there : i.status ≠ 3) (busy : i.status ≠ 0) : activateBody d u c = u.finish c { status := stState } := by
  unfold activateBody
  dsimp only
  rw [hi]
  exact (if_neg there).trans (if_pos busy)
theorem activateBody_early (loaded : i.status = 0) (asked : dfld d 3 47 0 ≠ 0) (early : beatLt (dfld d 3 47 0) (beatAdd u.beat 2) = true) :
    activateBody d u c = u.finish c { status := stBadDesc } := by
  unfold activateBody
  dsimp only
  rw [hi]
  exact (if_neg (by simp [loaded])).trans ((if_neg (by simp [loaded])).trans (if_pos (by simp [asked, early])))

variable (loaded : i.status = 0) (due : dfld d 3 47 0 = 0 ∨ beatLt (dfld d 3 47 0) (beatAdd u.beat 2) = false)
include loaded due

/-- An activation that comes in time is checked with its policy, then against the deltas in force (R83, R300, R345). -/
theorem activateBody_checks : activateBody d u c =
    match (match i.policy? with
      | some p => if !namesActive (imagesAt u (activateAt d u) (dfld d 2 7 0)) p then some stNotFound else activateFails u (dfld d 2 7 0) (activateAt d u) i p
      | none => none) with
    | some e => u.finish c { status := e }
    | none => if deltaBlocks u i.hdr then u.finish c { status := stState }
      else
        let t := (u.finish c { status := stOK, resB := beat48 (activateAt d u) }).atFor (activateAt d u) (.activate (dfld d 2 7 0)) c.id
        if raises t i.hdr then t.at t.nextB (.program (dfld d 2 7 0)) else t := by
  have inTime : ¬ (dfld d 3 47 0 ≠ 0 && beatLt (dfld d 3 47 0) (beatAdd u.beat 2)) = true := by
    obtain e | e := due <;> simp [e]
  unfold activateBody
  dsimp only
  rw [hi]
  exact (if_neg (by simp [loaded])).trans ((if_neg (by simp [loaded])).trans (if_neg inTime))
theorem activateBody_refused {p : PolicyImg} (hp : i.policy? = some p) :
    (namesActive (imagesAt u (activateAt d u) (dfld d 2 7 0)) p = false → activateBody d u c = u.finish c { status := stNotFound })
      ∧ ∀ e, namesActive (imagesAt u (activateAt d u) (dfld d 2 7 0)) p = true → activateFails u (dfld d 2 7 0) (activateAt d u) i p = some e →
        activateBody d u c = u.finish c { status := e } := by
  rw [activateBody_checks hi loaded due, hp]
  refine ⟨fun unnamed => ?_, fun e named fails => ?_⟩
  · dsimp only
    rw [unnamed]
    rfl
  · dsimp only
    rw [named, fails]
    rfl
theorem activateBody_accepted (deltas : deltaBlocks u i.hdr = false)
    (pol : ∀ p, i.policy? = some p → namesActive (imagesAt u (activateAt d u) (dfld d 2 7 0)) p = true
      ∧ activateFails u (dfld d 2 7 0) (activateAt d u) i p = none) :
    activateBody d u c =
      let t := (u.finish c { status := stOK, resB := beat48 (activateAt d u) }).atFor (activateAt d u) (.activate (dfld d 2 7 0)) c.id
      if raises t i.hdr then t.at t.nextB (.program (dfld d 2 7 0)) else t := by
  rw [activateBody_checks hi loaded due]
  cases hp : i.policy? with
  | none =>
    rw [deltas]
    rfl
  | some p =>
    obtain ⟨named, passes⟩ := pol p hp
    dsimp only
    rw [named, passes, deltas]
    rfl
end

/-! The rollback count at the end of the beat (R451). -/

section
variable {s : State} {slot : Nat} {i : Img} {e : Sched} (hi : s.img? slot = some i) (he : s.sched.find? (fun e => e.eff == .activate slot) = some e)
include hi he

theorem State.programNow_unasked (unasked : raises s i.hdr = false) : s.programNow slot = s := by
  unfold State.programNow
  rw [hi, he]
  exact (if_neg (by simp [unasked])).trans (if_neg (by simp [unasked]))
theorem State.programNow_programs (asked : raises s i.hdr = true) (good : Config.fuseFails s.free = false) :
    let t := s.programNow slot
    t.fuses = { s.fuses with rollback := s.fuses.rollback.set (i.hdr.kind - 1) i.hdr.rbVersion } ∧ t.sched = s.sched ∧ t.images = s.images ∧ t.rings = s.rings := by
  have eq : s.programNow slot = s.raiseRollback i.hdr := by
    unfold State.programNow
    rw [hi, he]
    exact if_neg (by simp [good])
  intro t
  rw [show t = s.raiseRollback i.hdr from eq, State.raiseRollback, if_pos asked]
  simp
theorem State.programNow_fails (asked : raises s i.hdr = true) (bad : Config.fuseFails s.free = true) :
    s.programNow slot = { (s.refuseLate e.cmd stInternal).2 with free := s.free + 1, sched := s.sched.erase e } := by
  unfold State.programNow
  rw [hi, he]
  exact if_pos (by simp [asked, bad])
end
theorem State.refuseLate_keeps (s : State) (cmd status : Nat) :
    (s.refuseLate cmd status).2.fuses = s.fuses ∧ (s.refuseLate cmd status).2.images = s.images := by
  unfold State.refuseLate
  dsimp only
  split <;> simp
/-- The only completion of its beat becomes a refusal (R70). -/
theorem State.refuseLate_only {s : State} {cmd status r : Nat} {x : Ring} {c : Cpl} (rings : s.rings = [(r, x)]) (only : x.cqPend = [c])
    (kind : c.kind = 0) (named : c.cmd = cmd) (good : c.status = stOK) (now : c.since = s.beat) :
    ∃ y, ((s.refuseLate cmd status).2.ring r).cqPend = [y] ∧ y.status = status ∧ y.tag = c.tag ∧ y.resB = 0 := by
  have counted (u : State) : (countRefusal u status).ring r = u.ring r := State.ring_congr (by simp) r
  have here : s.ring r = x := by simp [State.ring, rings, AMap.getD, AMap.get?]
  unfold State.refuseLate
  simp [rings, only, kind, named, good, now, counted, here]


/-! The boundary of an activation (R65, R66, R453). -/

/-- A map over the entries of a store, each at its key. -/
theorem AMap.get?_map {α β : Type} (f : Nat × α → Nat × β) (g : Nat → α → β) (hf : ∀ k v, f (k, v) = (k, g k v)) (m : AMap α) (i : Nat) :
    AMap.get? (m.map f) i = (AMap.get? m i).map (g i) := by
  induction m with
  | nil => rfl
  | cons x m ih =>
    obtain ⟨k, v⟩ := x
    rw [List.map_cons, hf]
    by_cases e : k = i
    · subst e
      simp [AMap.get?]
    · simpa [AMap.get?, e] using ih
/-- An image as the activation of image i in a slot leaves it, at its own slot k. -/
def Img.activatedBy (slot : Nat) (i : Img) (k : Nat) (y : Img) : Img :=
  let idx (x : Img) : Option Nat := x.vocab?.map (·.vocabIdx)
  if k = slot then { y with status := 1 }
  else if y.status = 1 && y.hdr.kind == i.hdr.kind && (y.hdr.imageId == i.hdr.imageId || (i.hdr.kind == 1 && idx y == idx i)) then { y with status := 0 }
  else y
theorem Img.activatedBy_own (slot : Nat) (i y : Img) : i.activatedBy slot slot y = { y with status := 1 } := if_pos rfl
theorem activateIn_get? {imgs : AMap Img} {slot : Nat} {i : Img} (hi : AMap.get? imgs slot = some i) (k : Nat) :
    AMap.get? (activateIn imgs slot) k = (AMap.get? imgs k).map (i.activatedBy slot k) := by
  unfold activateIn
  rw [hi]
  refine AMap.get?_map _ (i.activatedBy slot) (fun k v => ?_) imgs k
  dsimp only [Img.activatedBy]
  split
  · rfl
  · split <;> rfl
@[simp] theorem State.actWrite_front (s : State) (slot : Nat) (h : ImgHdr) (state beat : Nat) : (s.actWrite slot h state beat).front = s.front := by
  simp [State.actWrite]
/-- What the records of an activation and the bindings it settles leave. -/
structure ActSide (s t : State) : Prop where
  images : t.images = s.images
  streams : t.streams = s.streams
  fuses : t.fuses = s.fuses
  cmds : t.cmds = s.cmds
  rings : t.rings = s.rings
theorem ActSide.of_front {s t : State} (h : t.front = s.front) : ActSide s t :=
  ⟨congrArg Front.images h, congrArg Front.streams h, congrArg Front.fuses h, congrArg Front.cmds h, congrArg Front.rings h⟩
theorem ActSide.trans {s t u : State} (a : ActSide s t) (b : ActSide t u) : ActSide s u :=
  ⟨b.images.trans a.images, b.streams.trans a.streams, b.fuses.trans a.fuses, b.cmds.trans a.cmds, b.rings.trans a.rings⟩
theorem State.actWrite_side (s : State) (slot : Nat) (h : ImgHdr) (state beat : Nat) : ActSide s (s.actWrite slot h state beat) :=
  .of_front (s.actWrite_front slot h state beat)
theorem State.yieldMove_side (s : State) (h : ImgHdr) : ActSide s (s.yieldMove h) ∧ (s.yieldMove h).stack = s.stack := by
  unfold State.yieldMove
  split
  · split <;> exact ⟨⟨rfl, rfl, rfl, rfl, rfl⟩, rfl⟩
  · exact ⟨⟨rfl, rfl, rfl, rfl, rfl⟩, rfl⟩
/-- The state with a loaded image i as the active generation, before the records and bindings of its activation. -/
def State.inForce (s : State) (slot : Nat) (i : Img) : State :=
  ({ s.yieldMove i.hdr with images := activateIn s.images slot } : State).setImg slot fun x =>
    { x with fixedD := match i.policy? with | some p => s.delayOf p | none => 0, brt := (s.yieldMove i.hdr).stack.brt }
theorem State.activateNow_side {s : State} {slot : Nat} {i : Img} (hi : s.img? slot = some i) (loaded : i.status = 0) :
    ActSide (s.inForce slot i) (s.activateNow slot) := by
  have records (l : List (Nat × Img)) (u : State) : ActSide u (l.foldl (fun s x => s.actWrite x.1 x.2.hdr 2 s.nextB) u) := by
    induction l generalizing u with
    | nil => exact ⟨rfl, rfl, rfl, rfl, rfl⟩
    | cons x l ih => exact (u.actWrite_side ..).trans (ih _)
  have settles (u : State) : ActSide u u.settleDeltas := ⟨rfl, rfl, rfl, rfl, rfl⟩
  unfold State.activateNow
  rw [hi]
  dsimp only
  rw [if_neg (not_not.mpr loaded)]
  exact ((s.inForce slot i).actWrite_side slot i.hdr 1 _).trans ((records _ _).trans (settles _))
/-- A loaded image's activation: its images, and what stays as it was (R65, R66). -/
theorem State.activateNow_eq {s : State} {slot : Nat} {i : Img} (hi : s.img? slot = some i) (loaded : i.status = 0) :
    (s.activateNow slot).images = AMap.modify (activateIn s.images slot) slot (fun x =>
        { x with fixedD := match i.policy? with | some p => s.delayOf p | none => 0, brt := s.stack.brt })
      ∧ (s.activateNow slot).streams = s.streams ∧ (s.activateNow slot).fuses = s.fuses ∧ (s.activateNow slot).cmds = s.cmds := by
  have side := State.activateNow_side hi loaded
  obtain ⟨yields, stack⟩ := s.yieldMove_side i.hdr
  refine ⟨side.images.trans ?_, side.streams.trans yields.streams, side.fuses.trans yields.fuses, side.cmds.trans yields.cmds⟩
  unfold State.inForce
  rw [stack]
  rfl

/-- An image's boundary with no activation due, and with one. -/
theorem exec_imageActivationBoundary_idle {s : State} {slot : BitVec 8} (idle : s.dueNow (.activate slot.toNat) = false) :
    exec (.imageActivationBoundary slot) s = .next s := by
  have none_due : s.takeEff (fun e => e == .activate slot.toNat) = none := by
    simpa [State.dueNow] using idle
  show Host.Outcome.next _ = _
  rw [none_due]
theorem exec_imageActivationBoundary_due {s : State} {slot : BitVec 8} (due : s.dueNow (.activate slot.toNat) = true) :
    ∃ sched, exec (.imageActivationBoundary slot) s = .next (({ s with sched := sched } : State).activateNow slot.toNat) := by
  obtain ⟨x, hx⟩ := Option.isSome_iff_exists.mp due
  have taken : ∃ sched, x.2 = { s with sched := sched } := by
    unfold State.takeEff at hx
    split at hx
    · cases hx
      exact ⟨_, rfl⟩
    · cases hx
  obtain ⟨sched, hs⟩ := taken
  refine ⟨sched, ?_⟩
  rw [← hs]
  show Host.Outcome.next _ = _
  rw [hx]

/-! RETIRE_IMAGE and QUERY_IMAGE. -/

theorem runs_congr {s v t : State} {d : Desc} {k : CmdK} (cmds : t.cmds = v.cmds) (rings : t.rings = v.rings) (h : Runs s v d k) : Runs s t d k := by
  rw [Runs, cmds, State.ring_congr rings]
  exact h


section
variable {d : Desc} {u : State} {c : Cmd} {i : Img}

theorem queryBody_missing (h : u.img? (dfld d 2 7 0) = none ∨ ∃ i, u.img? (dfld d 2 7 0) = some i ∧ i.status = 3) :
    queryBody d u c = u.finish c { status := stNotFound } := by
  unfold queryBody
  obtain h | ⟨i, h, loading⟩ := h
  · rw [h]
  · rw [h]
    exact if_pos loading
theorem queryBody_reports (h : u.img? (dfld d 2 7 0) = some i) (there : i.status ≠ 3) : queryBody d u c =
    u.finish c { status := stOK, resA := i.hdr.imageId, resB := pack [(i.hdr.gen, 0),
      ((match i.policy? with | some p => if i.status = 0 then u.delayOf p else i.fixedD | none => 0), 32), (i.hdr.kind, 48), (i.status, 56)] } := by
  unfold queryBody
  rw [h]
  exact if_neg there
theorem retireImgBody_missing (h : u.img? (dfld d 2 7 0) = none ∨ ∃ i, u.img? (dfld d 2 7 0) = some i ∧ i.status = 3) :
    retireImgBody d u c = u.finish c { status := stNotFound } := by
  unfold retireImgBody
  dsimp only
  obtain h | ⟨i, h, loading⟩ := h
  · rw [h]
  · rw [h]
    exact if_pos loading
theorem retireImgBody_held (h : u.img? (dfld d 2 7 0) = some i) (there : i.status ≠ 3)
    (held : i.status ≠ 0 ∨ tenantHolds u (dfld d 2 7 0) i = true ∨ lifeHolds u (dfld d 2 7 0) i = true) :
    retireImgBody d u c = u.finish c { status := stState } := by
  unfold retireImgBody
  dsimp only
  rw [h]
  refine (if_neg there).trans (if_pos ?_)
  obtain e | e | e := held <;> simp [e]
theorem retireImgBody_begins (h : u.img? (dfld d 2 7 0) = some i) (loaded : i.status = 0) (tenants : tenantHolds u (dfld d 2 7 0) i = false)
    (life : lifeHolds u (dfld d 2 7 0) i = false) : retireImgBody d u c =
      ((u.setImg (dfld d 2 7 0) fun x => { x with status := 2, retireBeat := u.nextB }).keep c (.retireI (dfld d 2 7 0))).actWrite (dfld d 2 7 0)
        i.hdr 2 u.nextB := by
  unfold retireImgBody
  dsimp only
  rw [h]
  exact (if_neg (by simp [loaded])).trans (if_neg (by simp [loaded, tenants, life]))
end

/-- The other images at the boundary of an activation (R66). -/
theorem Img.activatedBy_other {slot k : Nat} (other : k ≠ slot) (i y : Img) :
    let z := i.activatedBy slot k y
    z.hdr = y.hdr ∧ (y.status ≠ 1 → z = y) ∧ (y.status = 1 → y.hdr.kind = i.hdr.kind → y.hdr.imageId = i.hdr.imageId → z.status = 0)
      ∧ (y.hdr.kind ≠ i.hdr.kind → z = y) := by
  intro z
  simp only [z, Img.activatedBy, if_neg other]
  refine ⟨?_, fun idle => if_neg (by simp [idle]), fun active kind id => ?_, fun kind => if_neg (by simp [kind])⟩
  · split <;> rfl
  · rw [if_pos (by simp [active, kind, id])]

/-- Settles O41: the checks of an activation (`activateBody_checks`), its count at the end of the beat (`programNow_fails`), its boundary
(`activateNow_eq`), and the bodies of RETIRE_IMAGE and QUERY_IMAGE. -/
theorem activationRetirementAndQuery : Obligations.ActivationRetirementAndQuery := by
  refine ⟨fun d slot i s => ⟨?_, fun e hi he => ?_, exec_imageActivationBoundary_idle, fun due hi loaded => ?_⟩, ?_⟩
  · intro u k want at_ ok op
    have img (o : Option Img) (h : s.img? k = o) : u.img? (dfld d 2 7 0) = o := (started_img? s d _).trans h
    have at_eq : activateAt d u = at_ := by simp only [activateAt, u, started_nextB, at_, want]
    have inTime : (want = 0 ∨ beatLt want (beatAdd s.beat 2) = false) →
        (dfld d 3 47 0 = 0 ∨ beatLt (dfld d 3 47 0) (beatAdd u.beat 2) = false) := by rw [show u.beat = s.beat from started_beat s d]; exact id
    rw [exec_activateImage ok op]
    refine ⟨fun missing => ?_, fun hi => ⟨fun loading => ?_, fun there busy => ?_, fun loaded asked early => ?_, fun loaded due deltas pol => ?_,
      fun loaded due p hp => ⟨fun unnamed => ?_, fun e named fails => ?_⟩⟩⟩
    · rw [activateBody_missing (img _ missing)]
      exact ⟨_, rfl, completes_started .., by simp [u]⟩
    · rw [activateBody_loading (img _ hi) loading]
      exact ⟨_, rfl, completes_started .., by simp [u]⟩
    · rw [activateBody_busy (img _ hi) there busy]
      exact ⟨_, rfl, completes_started .., by simp [u]⟩
    · rw [activateBody_early (img _ hi) loaded asked ((started_beat s d).symm ▸ early)]
      exact ⟨_, rfl, completes_started .., by simp [u]⟩
    · rw [activateBody_accepted (img _ hi) loaded (inTime due) deltas (at_eq.symm ▸ pol), show activateAt d (s.started d) = at_ from at_eq]
      extract_lets v
      have same : raises v i.hdr = raises s i.hdr := by simp [raises, v, State.atFor, u]
      have completed : Completes s v d { status := stOK, resB := beat48 at_ } := completes_started s d _
      have sched : v.sched = s.sched ++ [⟨at_, .activate k, s.nextId⟩] := by simp [v, State.atFor, k, u]
      simp only [← raises_iff, same]
      by_cases raised : raises s i.hdr = true
      · rw [if_pos raised, if_pos raised]
        refine ⟨_, rfl, by simp [v, State.at, State.atFor, u], by simp [v, State.at, State.atFor, u], completed, ?_⟩
        have next : v.nextB = s.nextB := by simp [v, State.atFor, State.nextB, State.beat, u]
        rw [State.at, sched, next]
      · rw [if_neg raised, if_neg raised]
        exact ⟨_, rfl, by simp [v, State.atFor, u], by simp [v, State.atFor, u], completed, by rw [sched, List.append_nil]⟩
    · rw [(activateBody_refused (img _ hi) loaded (inTime due) hp).1 (at_eq.symm ▸ unnamed)]
      exact ⟨_, rfl, completes_started .., by simp [u]⟩
    · rw [(activateBody_refused (img _ hi) loaded (inTime due) hp).2 e (at_eq.symm ▸ named) (at_eq.symm ▸ fails)]
      exact ⟨_, rfl, completes_started .., by simp [u]⟩
  · intro t
    refine ⟨fun unasked => ?_, fun asked above => ⟨fun good => ?_, fun bad => ?_⟩⟩
    · refine State.programNow_unasked hi he (Bool.eq_false_iff.mpr fun raised => ?_)
      obtain ⟨asked, above⟩ := (raises_iff s i.hdr).mp raised
      obtain off | below := unasked
      · simp [asked] at off
      · omega
    · exact State.programNow_programs hi he ((raises_iff s i.hdr).mpr ⟨asked, above⟩) good
    · have fails := State.programNow_fails hi he ((raises_iff s i.hdr).mpr ⟨asked, above⟩) bad
      obtain ⟨fuses, images⟩ := s.refuseLate_keeps e.cmd stInternal
      rw [show t = _ from fails]
      exact ⟨fuses, rfl, images, fun r x c rings only kind named good now => State.refuseLate_only rings only kind named good now⟩
  · obtain ⟨sched, runs⟩ := exec_imageActivationBoundary_due due
    obtain ⟨images, streams, fuses, cmds⟩ := State.activateNow_eq (s := { s with sched := sched }) hi loaded
    have img (k : Nat) : (({ s with sched := sched } : State).activateNow slot.toNat).img? k =
        if k = slot.toNat then (s.img? k).map fun y => { y with
          status := 1, fixedD := match i.policy? with | some p => s.delayOf p | none => 0, brt := s.stack.brt }
        else (s.img? k).map (i.activatedBy slot.toNat k) := by
      rw [State.img?, images, AMap.get?_modify]
      split
      · rename_i e
        rw [activateIn_get? hi, e, Option.map_map, funext (Img.activatedBy_own slot.toNat i)]
        rfl
      · exact activateIn_get? hi k
    refine ⟨_, _, runs, (img slot.toNat).trans ((if_pos rfl).trans (congrArg (Option.map _) hi)), rfl, rfl, rfl, rfl, rfl, rfl, fun k y other hy => ?_,
      streams, fuses, cmds⟩
    exact ⟨_, (img k).trans ((if_neg other).trans (congrArg (Option.map _) hy)), Img.activatedBy_other other i y⟩
  · intro d s u k ok
    have img (o : Option Img) (h : s.img? k = o) : u.img? (dfld d 2 7 0) = o := (started_img? s d _).trans h
    have missing : (s.img? k = none ∨ ∃ i, s.img? k = some i ∧ i.status = 3) →
        (u.img? (dfld d 2 7 0) = none ∨ ∃ i, u.img? (dfld d 2 7 0) = some i ∧ i.status = 3) := by
      rw [show u.img? (dfld d 2 7 0) = s.img? k from started_img? s d _]
      exact id
    refine ⟨fun op => ⟨fun gone => ?_, fun i hi there => ?_⟩, fun op => ⟨fun gone => ?_, fun i hi there => ⟨fun held => ?_, fun loaded tenants life => ?_⟩⟩⟩
    · rw [exec_queryImage ok op, queryBody_missing (missing gone)]
      exact ⟨_, rfl, completes_started .., by simp [u]⟩
    · rw [exec_queryImage ok op, queryBody_reports (img _ hi) there]
      exact ⟨_, rfl, by simp [u], completes_started .., SameStreams.finish _ _ (sameStreams_started s d), SameStores.finish _ _ (sameStores_started s d),
        SameTenants.finish _ _ (sameTenants_started s d), SameStack.finish _ _ (sameStack_started s d), SameControl.finish _ _ (sameControl_started s d)⟩
    · rw [exec_retireImage ok op, retireImgBody_missing (missing gone)]
      exact ⟨_, rfl, completes_started .., by simp [u]⟩
    · rw [exec_retireImage ok op, retireImgBody_held (img _ hi) there held]
      exact ⟨_, rfl, completes_started .., by simp [u]⟩
    · rw [exec_retireImage ok op, retireImgBody_begins (img _ hi) loaded tenants life]
      have side := (((u.setImg k fun x => { x with status := 2, retireBeat := u.nextB }).keep (s.startedCmd d) (.retireI k)).actWrite_side k i.hdr 2 u.nextB)
      have runs := runs_keep (s := s) (u := u.setImg k fun x => { x with status := 2, retireBeat := u.nextB }) (.retireI k) rfl (startedCmd_mem s d)
      refine ⟨_, rfl, runs_congr side.cmds side.rings runs, ?_, fun j other => ?_, ?_, ?_⟩
      · rw [side.images]
        refine (AMap.get?_modify u.images k k _).trans ((if_pos rfl).trans ?_)
        rw [show AMap.get? u.images k = some i from img _ hi, show u.nextB = s.nextB from started_nextB s d]
        rfl
      · rw [side.images]
        refine (AMap.get?_modify u.images k j _).trans ((if_neg other).trans ?_)
        exact congrArg (AMap.get? · j) (show u.images = s.images by simp [u])
      · exact side.streams.trans (show u.streams = s.streams by simp [u])
      · exact (congrArg Front.tenants (State.actWrite_front _ _ _ _ _)).trans (show u.tenants = s.tenants by simp [u])

end Sys2Proof.Machine
end

section
/-! SUPPORT. A late response and a waiting operation of no opcode of Table 10-5: the absence of a save's operation sends what waits, and each
operation sent is counted by its opcode (47 and up), an opcode of 12 in the counter of responses that come too late (59). -/

namespace Sys2Proof.Machine

/-- A save's CAIRN_SAVE on channel 0, due in beat 0. -/
def lateSave : SOp := ⟨0, 7, 0, .cairnSave 1, 0, 0, 0, 0, false⟩
/-- Its response, with status OK. -/
def lateSaveRsp : Rsp := ⟨0, 0, 7, 0, 0, 0, 0, 0, 0, 0, []⟩
/-- A started block in beat 5,000: the save writes a location of cairn 5, its operation is at the head of a channel in service, and a firmware
operation with opcode 12 waits. -/
def strayFirm : State :=
  { State.reset with
    start := { StartS.reset 0 0 false false with phase := .complete }
    clk := { ClockS.reset with beat := 5000 }
    cmds := [{ (default : Cmd) with id := 1, k := .saveC 0 5 0 1 0 0 }]
    cairns := [(5, default)]
    stack := { StackS.reset with
      chans := [(0, { Chan.blank with inService := true, credit := 300, outs := [lateSave] })], firm := [⟨12, .saveDrop, [], [], 0⟩] } }

/-- The late response and the operation that its absence sends are both counted. -/
theorem strayFirm_counts : ∀ t, exec (.cairnSaveResponse lateSaveRsp) strayFirm = .next t → AMap.getD t.mgmt.counters 59 0 = 2 := by
  intro t ran
  obtain rfl : strayFirm.rspOf 7 lateSaveRsp = t := Host.Outcome.next.inj ran
  rfl

/-- Refutes O52: nothing in the statement bounds the opcode of an operation that waits. In `strayFirm` the late response's absence ends a save,
whose own clear is sent behind an operation of opcode 12, and counter 59 moves by two where the statement has one. -/
theorem not_responsesDuePointsAndCredit : ¬ Obligations.ResponsesDuePointsAndCredit := by
  intro holds
  obtain ⟨-, -, -, taken⟩ := holds.1 lateSaveRsp strayFirm (.cairnSaveResponse lateSaveRsp) 7 (by simp)
  obtain ⟨-, -, -, late⟩ := taken lateSave [] rfl rfl rfl ⟨rfl, rfl, by decide, rfl⟩ rfl
  obtain ⟨t, ran, -, -, once⟩ := late rfl (.inl rfl) (by simp [lateSave])
  rw [strayFirm_counts t ran] at once
  exact absurd once (by decide)

end Sys2Proof.Machine
end

section
/-! Ring doorbells: those that are discarded, and what a good one moves (R92 to R98). -/

namespace Sys2Proof.Machine

/-! What a ring's own traffic leaves. -/

/-- Every other ring is as before, and so is all that the front of the state holds besides the rings. -/
structure RingStep (k : Nat) (s t : State) : Prop where
  others : SameRingsBut k s t
  rest : ({ t with rings := s.rings } : State).front = s.front

section
variable {k : Nat} {s t u : State}

theorem RingStep.refl (k : Nat) (s : State) : RingStep k s s := ⟨fun _ _ => rfl, rfl⟩
theorem RingStep.of_front (h : t.front = s.front) : RingStep k s t where
  others := fun j _ => State.ring_congr (congrArg Front.rings h) j
  rest := by
    obtain ⟨_, _, _, _, _, rfl⟩ := exists_withBack_of_front h
    rfl
theorem RingStep.trans (a : RingStep k s t) (b : RingStep k t u) : RingStep k s u where
  others := fun j other => (b.others j other).trans (a.others j other)
  rest := (congrArg (fun f : Front => { f with rings := s.rings }) b.rest).trans a.rest
theorem RingStep.setRing (k : Nat) (s : State) (f : Ring → Ring) : RingStep k s (s.setRing k f) where
  others := fun j other => by rw [State.setRing_ring, if_neg other]
  rest := rfl
theorem RingStep.foldl {α : Type} {f : State → α → State} (hf : ∀ s a, RingStep k s (f s a)) (l : List α) (s : State) :
    RingStep k s (l.foldl f s) := by
  induction l generalizing s with
  | nil => exact RingStep.refl k s
  | cons a l ih => exact (hf s a).trans (ih _)

theorem RingStep.streams (h : RingStep k s t) : t.streams = s.streams := congrArg Front.streams h.rest
theorem RingStep.regs (h : RingStep k s t) : t.regs = s.regs := congrArg Front.regs h.rest
theorem RingStep.cmds (h : RingStep k s t) : t.cmds = s.cmds := congrArg Front.cmds h.rest
theorem RingStep.clk (h : RingStep k s t) : t.clk = s.clk := congrArg Front.clk h.rest
theorem RingStep.start (h : RingStep k s t) : t.start = s.start := congrArg Front.start h.rest
end

@[simp] theorem State.dbFaultAt_front (s : State) (k cause : Nat) : (s.dbFaultAt k cause).front = s.front := by
  simp [State.dbFaultAt]
theorem State.dbFaultAt_ring (s : State) (k cause j : Nat) : (s.dbFaultAt k cause).ring j = s.ring j :=
  State.ring_congr (congrArg Front.rings (State.dbFaultAt_front s k cause)) j
theorem State.dbFaultAt_dbFault (s : State) (k cause : Nat) : (s.dbFaultAt k cause).host.dbFault = true := by
  unfold State.dbFaultAt
  extract_lets h u
  split
  · assumption
  · rfl

/-- Fetching asks for descriptors: of its ring it changes those under way alone, and the host port's flags stay. -/
structure FetchStep (k : Nat) (s t : State) : Prop extends RingStep k s t where
  ring : ∃ is, t.ring k = { s.ring k with fetching := is }
  lines : t.lines = s.lines
theorem FetchStep.dbFault {k : Nat} {s t : State} (h : FetchStep k s t) : t.host.dbFault = s.host.dbFault := congrArg Lines.dbFault h.lines
theorem State.fetchRing_step (s : State) (k : Nat) : FetchStep k s (s.fetchRing k) := by
  have idle : FetchStep k s s := ⟨RingStep.refl k s, ⟨_, rfl⟩, rfl⟩
  unfold State.fetchRing
  extract_lets r
  split
  · exact idle
  · split
    · exact idle
    · rename_i e held may_fetch
      extract_lets is u
      have asked : (is.foldl (fun s i => s.read (.desc k i) (e.sqBase + 64 * i) 1 e.attr) u).front = u.front :=
        front_foldl _ (fun s i => State.read_front s _ _ _ _) is u
      refine ⟨(RingStep.setRing k s _).trans (RingStep.of_front asked), ⟨(s.ring k).fetching ++ is, ?_⟩, ?_⟩
      · rw [State.ring_congr (congrArg Front.rings asked)]
        exact (State.setRing_ring ..).trans (if_pos rfl)
      · exact lines_foldl _ (fun s i => State.read_lines s _ _ _ _) is u

/-! A doorbell on its ring. -/

/-- A doorbell kept until its ring's entry arrives. -/
def State.doorbellNoted (s : State) (k which index : Nat) : State := s.setRing k fun x => { x with early := x.early ++ [(which, index)] }
/-- A ring's size for the row of the doorbell. -/
def RingEntry.rowSize (e : RingEntry) (which : Nat) : Nat := ringSize (if which = 0 then e.sqSize else if which = 1 then e.cqSize else e.egSize)

section
variable {s : State} {num which : Nat} {word : W64}

theorem State.ringDoorbell_unserved (unserved : s.serving = false) : s.ringDoorbell num which word = s := by
  simp [State.ringDoorbell, unserved]
theorem State.ringDoorbell_misdirected (serving : s.serving = true) (other : fld word 9 0 ≠ num % 1024) :
    s.ringDoorbell num which word = s.dbFaultAt (num % 1024) 5 := by
  simp [State.ringDoorbell, serving, other]

variable (serving : s.serving = true) (own : fld word 9 0 = num % 1024) (unasked : (s.ring (num % 1024)).resetAsked = false)
include serving own unasked
theorem State.ringDoorbell_faulted (faulted : (s.ring (num % 1024)).faulted = true) :
    s.ringDoorbell num which word = s.dbFaultAt (num % 1024) (s.ring (num % 1024)).cause := by
  simp [State.ringDoorbell, serving, own, unasked, faulted]

variable (sound : (s.ring (num % 1024)).faulted = false)
include sound
theorem State.ringDoorbell_reserved (row : fld word 27 26 = 3) : s.ringDoorbell num which word = s.dbFaultAt (num % 1024) 7 := by
  simp [State.ringDoorbell, serving, own, unasked, sound, row]

variable (row : fld word 27 26 = which) (listed : which < 3)
include row listed
theorem State.ringDoorbell_held {e : RingEntry} (held : (s.ring (num % 1024)).entry = some e) :
    s.ringDoorbell num which word = s.ringDoorbellAct (num % 1024) e which (fld word 25 10) := by
  have row_used : which ≠ 3 := by omega
  simp [State.ringDoorbell, serving, own, unasked, sound, row, row_used, held]
theorem State.ringDoorbell_waits {k : Nat} (hk : num % 1024 = k) (unread : (s.ring k).entry = none) : s.ringDoorbell num which word =
    if (s.ring k).early.isEmpty then (s.doorbellNoted k which (fld word 25 10)).read (.table k) (ringTableBase s + 64 * k) 1 (s.hpAttr 0)
    else s.doorbellNoted k which (fld word 25 10) := by
  subst hk
  have row_used : which ≠ 3 := by omega
  simp only [State.ringDoorbell, serving, own, unasked, sound, row, row_used, unread, Bool.not_true, Bool.false_eq_true, if_false, ne_eq,
    not_true_eq_false]
  rfl
end

section
variable {s : State} {k index which : Nat} {e : RingEntry}

theorem State.ringDoorbellAct_outside (outside : e.rowSize which ≤ index) : s.ringDoorbellAct k e which index = s.dbFaultAt k 6 :=
  if_pos outside
theorem State.ringDoorbellAct_tail (inside : index < ringSize e.sqSize) : s.ringDoorbellAct k e 0 index =
    if (s.ring k).halted then s else (s.setRing k fun x => { x with sqTail := index, stale := false }).fetchRing k :=
  if_neg (Nat.not_le.mpr inside)

/-- The entries or slots that a head doorbell returns. -/
def returned (size head index : Nat) : Nat := (index + size - head) % size
theorem returnHead_beyond {n used done head : Nat} (beyond : done < returned n head index) : returnHead n used done head index = none :=
  if_pos beyond
theorem returnHead_written {n used done head : Nat} (written : returned n head index ≤ done) :
    returnHead n used done head index = some (used - returned n head index, done - returned n head index) :=
  if_neg (Nat.not_lt.mpr written)

theorem State.ringDoorbellAct_completions (inside : index < ringSize e.cqSize) : s.ringDoorbellAct k e 1 index =
    match returnHead (ringSize e.cqSize) (s.ring k).cqUsed (s.ring k).cqDone (s.ring k).cqHead index with
    | some (u, d) => (s.setRing k fun x => { x with cqHead := index, cqUsed := u, cqDone := d }).fetchRing k
    | none => s.dbFaultAt k 0xA :=
  if_neg (Nat.not_le.mpr inside)
theorem State.ringDoorbellAct_egress (inside : index < ringSize e.egSize) : s.ringDoorbellAct k e 2 index =
    match returnHead (ringSize e.egSize) (s.ring k).egUsed (s.ring k).egDone (s.ring k).egHead index with
    | some (u, d) => s.setRing k fun x => { x with egHead := index, egUsed := u, egDone := d }
    | none => s.dbFaultAt k 0xA :=
  if_neg (Nat.not_le.mpr inside)
end

theorem exec_tailDoorbell (num : BitVec 11) (word : W64) (s : State) :
    exec (.submissionTailDoorbell num word) s = .next (s.ringDoorbell num.toNat 0 word) := rfl
theorem exec_completionDoorbell (num : BitVec 11) (word : W64) (s : State) :
    exec (.completionHeadDoorbell num word) s = .next (s.ringDoorbell num.toNat 1 word) := rfl
theorem exec_egressDoorbell (num : BitVec 11) (word : W64) (s : State) :
    exec (.egressHeadDoorbell num word) s = .next (s.ringDoorbell num.toNat 2 word) := rfl
/-- The three ring doorbells, each with its row. -/
theorem exec_ringDoorbell {num : BitVec 11} {word : W64} {c : Instr} {which : Nat}
    (h : (c, which) ∈ [(.submissionTailDoorbell num word, 0), (.completionHeadDoorbell num word, 1), (.egressHeadDoorbell num word, 2)]) (s : State) :
    exec c s = .next (s.ringDoorbell num.toNat which word) ∧ which < 3 := by
  simp only [List.mem_cons, Prod.mk.injEq, List.not_mem_nil, or_false] at h
  rcases h with ⟨rfl, rfl⟩ | ⟨rfl, rfl⟩ | ⟨rfl, rfl⟩ <;> exact ⟨rfl, by decide⟩

/-- The record of a discarded doorbell: the first keeps ring and cause, a further one is an overrun (Table 17-8). -/
theorem dbFaultAt_records {o : Host.Outcome State Fault Refusal} {s : State} {k cause : Nat} (h : o = .next (s.dbFaultAt k cause)) :
    ∃ t, o = .next t ∧ t.rings = s.rings ∧ t.streams = s.streams ∧ t.host.dbFault = true
      ∧ (s.host.dbFault = false → t.host.dbRing = k ∧ t.host.dbCause = cause ∧ t.host.dbOverrun = s.host.dbOverrun)
      ∧ (s.host.dbFault = true → t.host.dbRing = s.host.dbRing ∧ t.host.dbCause = s.host.dbCause ∧ t.host.dbOverrun = true) := by
  have front := State.dbFaultAt_front s k cause
  refine ⟨_, h, congrArg Front.rings front, congrArg Front.streams front, State.dbFaultAt_dbFault s k cause, fun first => ?_, fun further => ?_⟩
  · simp [State.dbFaultAt, first]
  · simp [State.dbFaultAt, further]

/-- Settles O16: each doorbell is `ringDoorbell` of its row, whose discards are `dbFaultAt` with the cause of their case. -/
theorem discardedDoorbellsAreRecorded : Obligations.DiscardedDoorbellsAreRecorded := by
  intro num word s c which hc
  obtain ⟨run, listed⟩ := exec_ringDoorbell hc s
  rw [run]
  refine ⟨fun unserved => by rw [State.ringDoorbell_unserved unserved],
    fun serving other => dbFaultAt_records (by rw [State.ringDoorbell_misdirected serving other]), fun serving own unasked => ⟨fun faulted => ?_, ?_, ?_⟩⟩
  · exact dbFaultAt_records (by rw [State.ringDoorbell_faulted serving own unasked faulted])
  · exact fun sound row => dbFaultAt_records (by rw [State.ringDoorbell_reserved serving own unasked sound row])
  · intro sound row e held
    rw [State.ringDoorbell_held serving own unasked sound row listed held]
    refine ⟨fun outside => ?_, ?_, ?_⟩
    · exact dbFaultAt_records (by rw [State.ringDoorbellAct_outside outside])
    · rintro rfl inside beyond
      exact dbFaultAt_records (by rw [State.ringDoorbellAct_completions inside, returnHead_beyond beyond])
    · rintro rfl inside beyond
      exact dbFaultAt_records (by rw [State.ringDoorbellAct_egress inside, returnHead_beyond beyond])

/-- A ring changed and then fetching: the change of its ring, but for the descriptors under way, and the rest as before. -/
theorem State.setRing_fetchRing (s : State) (k : Nat) (f : Ring → Ring) :
    RingStep k s ((s.setRing k f).fetchRing k) ∧ (∃ is, ((s.setRing k f).fetchRing k).ring k = { f (s.ring k) with fetching := is })
      ∧ ((s.setRing k f).fetchRing k).host.dbFault = s.host.dbFault := by
  have step := (s.setRing k f).fetchRing_step k
  refine ⟨(RingStep.setRing k s f).trans step.toRingStep, ?_, step.dbFault⟩
  simpa only [State.setRing_ring, if_true] using step.ring

/-- Settles O17: a good doorbell is a change of its ring's pointers (`ringDoorbellAct`), after which the first two fetch (`setRing_fetchRing`). -/
theorem doorbellsMoveTailAndHeads : Obligations.DoorbellsMoveTailAndHeads := by
  intro num word s e k r i serving own unasked sound held
  refine ⟨fun row inside => ⟨fun halted => ?_, fun runs => ?_⟩, fun row inside written => ?_, fun row inside written => ?_⟩
  · rw [exec_tailDoorbell, State.ringDoorbell_held serving own unasked sound row (by decide) held,
      State.ringDoorbellAct_tail inside, if_pos halted]
  · rw [exec_tailDoorbell, State.ringDoorbell_held serving own unasked sound row (by decide) held,
      State.ringDoorbellAct_tail inside, if_neg (by simpa using runs)]
    obtain ⟨step, ⟨is, ring⟩, flag⟩ := s.setRing_fetchRing k fun x => { x with sqTail := i, stale := false }
    refine ⟨_, rfl, ?_, ?_, ?_, ?_, ?_, step.others, step.streams, step.regs, flag⟩ <;> exact (congrArg _ ring).trans rfl
  · rw [exec_completionDoorbell, State.ringDoorbell_held serving own unasked sound row (by decide) held,
      State.ringDoorbellAct_completions inside, returnHead_written written]
    obtain ⟨step, ⟨is, ring⟩, flag⟩ := s.setRing_fetchRing k fun x => { x with
      cqHead := i, cqUsed := r.cqUsed - returned (ringSize e.cqSize) r.cqHead i, cqDone := r.cqDone - returned (ringSize e.cqSize) r.cqHead i }
    refine ⟨_, rfl, ?_, ?_, ?_, ?_, ?_, step.others, step.streams, step.regs, flag⟩ <;> exact (congrArg _ ring).trans rfl
  · rw [exec_egressDoorbell, State.ringDoorbell_held serving own unasked sound row (by decide) held,
      State.ringDoorbellAct_egress inside, returnHead_written written]
    refine ⟨_, rfl, ?_, ?_, ?_, ?_, ?_, (RingStep.setRing k s _).others, rfl, rfl, rfl⟩ <;>
      exact (congrArg _ ((State.setRing_ring ..).trans (if_pos rfl))).trans rfl

/-! The ring table (R92, R93, R407, R475). -/

@[simp] theorem State.nextRead_front (s : State) : s.nextRead.front = s.front :=
  front_foldl _ (fun s _ => State.read_front s _ _ _ _) _ _
@[simp] theorem State.nextRead_lines (s : State) : s.nextRead.lines = s.lines :=
  lines_foldl _ (fun s _ => State.read_lines s _ _ _ _) _ _

section
variable {s : State} {o : ROwner} {addr rows attr : Nat}

theorem State.read_now {g : Nat} (free : freeTag s.host.reads = some g) (clear : unacked s addr (64 * rows) = false) :
    s.read o addr rows attr = ({ s with host := { s.host with reads := AMap.set s.host.reads g o } } : State).emit (.hmRead addr rows g attr) := by
  simp [State.read, free, clear]
theorem State.read_later (overlaps : unacked s addr (64 * rows) = true) :
    s.read o addr rows attr = { s with host := { s.host with readQ := s.host.readQ ++ [(o, addr, rows, attr)] } } := by
  simp [State.read, overlaps]
end

/-- A step that leaves its ring's entry, the mark of a fault and the doorbells that wait. -/
structure EntryStep (k : Nat) (s t : State) : Prop extends RingStep k s t where
  entry : (t.ring k).entry = (s.ring k).entry
  faulted : (t.ring k).faulted = (s.ring k).faulted
  early : (t.ring k).early = (s.ring k).early

section
variable {k : Nat} {s t u : State}

theorem EntryStep.refl (k : Nat) (s : State) : EntryStep k s s := ⟨RingStep.refl k s, rfl, rfl, rfl⟩
theorem EntryStep.trans (a : EntryStep k s t) (b : EntryStep k t u) : EntryStep k s u :=
  ⟨a.toRingStep.trans b.toRingStep, b.entry.trans a.entry, b.faulted.trans a.faulted, b.early.trans a.early⟩
theorem EntryStep.of_front (h : t.front = s.front) : EntryStep k s t := by
  have ring := State.ring_congr (congrArg Front.rings h) k
  exact ⟨RingStep.of_front h, congrArg Ring.entry ring, congrArg Ring.faulted ring, congrArg Ring.early ring⟩
theorem EntryStep.setRing {f : Ring → Ring} (s : State) (hf : ∀ x, (f x).entry = x.entry ∧ (f x).faulted = x.faulted ∧ (f x).early = x.early) :
    EntryStep k s (s.setRing k f) := by
  obtain ⟨entry, faulted, early⟩ := hf (s.ring k)
  have ring : (s.setRing k f).ring k = f (s.ring k) := (State.setRing_ring ..).trans (if_pos rfl)
  exact ⟨RingStep.setRing k s f, (congrArg _ ring).trans entry, (congrArg _ ring).trans faulted, (congrArg _ ring).trans early⟩
theorem EntryStep.foldl {α : Type} {f : State → α → State} (hf : ∀ s a, EntryStep k s (f s a)) (l : List α) (s : State) :
    EntryStep k s (l.foldl f s) := by
  induction l generalizing s with
  | nil => exact EntryStep.refl k s
  | cons a l ih => exact (hf s a).trans (ih _)
theorem FetchStep.entryStep (h : FetchStep k s t) : EntryStep k s t := by
  obtain ⟨is, ring⟩ := h.ring
  exact ⟨h.toRingStep, by rw [ring], by rw [ring], by rw [ring]⟩
end

theorem State.ringDoorbellAct_entryStep (s : State) (k : Nat) (e : RingEntry) (which index : Nat) :
    EntryStep k s (s.ringDoorbellAct k e which index) := by
  have discarded (cause : Nat) : EntryStep k s (s.dbFaultAt k cause) := EntryStep.of_front (State.dbFaultAt_front s k cause)
  have fetches {f : Ring → Ring} (hf : ∀ x, (f x).entry = x.entry ∧ (f x).faulted = x.faulted ∧ (f x).early = x.early) :
      EntryStep k s ((s.setRing k f).fetchRing k) := (EntryStep.setRing s hf).trans (State.fetchRing_step _ k).entryStep
  unfold State.ringDoorbellAct
  extract_lets r n
  split
  · exact discarded 6
  split
  · split
    · exact EntryStep.refl k s
    · exact fetches fun _ => ⟨rfl, rfl, rfl⟩
  split <;> split
  · exact fetches fun _ => ⟨rfl, rfl, rfl⟩
  · exact discarded 0xA
  · exact EntryStep.setRing s fun _ => ⟨rfl, rfl, rfl⟩
  · exact discarded 0xA
theorem State.post_entryStep (s : State) (k : Nat) (c : Cpl) : EntryStep k s (s.post k c) := EntryStep.setRing s fun _ => ⟨rfl, rfl, rfl⟩
theorem State.reportGhosts_entryStep (s : State) (k : Nat) : EntryStep k s (s.reportGhosts k) := by
  refine (EntryStep.foldl (fun s g => ?_) (s.ring k).ghosts s).trans
    (EntryStep.setRing (f := fun x => { x with ghosts := [] }) _ fun _ => ⟨rfl, rfl, rfl⟩)
  exact (State.post_entryStep s k _).trans (EntryStep.of_front (State.count_front _ _ _))

theorem foldl_dbFaultAt_front {α : Type} (k cause : Nat) (l : List α) (s : State) :
    (l.foldl (fun s _ => s.dbFaultAt k cause) s).front = s.front :=
  front_foldl _ (fun s _ => State.dbFaultAt_front s k cause) l s
theorem foldl_dbFaultAt_dbFault {α : Type} (k cause : Nat) {l : List α} (some_wait : l ≠ []) (s : State) :
    (l.foldl (fun s _ => s.dbFaultAt k cause) s).host.dbFault = true := by
  obtain ⟨front, last, rfl⟩ := List.eq_nil_or_concat l |>.resolve_left some_wait
  simp only [List.concat_eq_append, List.foldl_append, List.foldl_cons, List.foldl_nil, State.dbFaultAt_dbFault]

section
variable {s : State} {k : Nat} {data : List Byte} {poison : Bool}

/-- An entry that is poisoned or fails a check marks its ring faulted, and every doorbell that waited is discarded with its cause. -/
theorem State.entryArrive_bad {cause : Nat} (bad : (if poison then some 8 else entryCause (parseRing data)) = some cause) :
    s.entryArrive k data poison = (s.ring k).early.foldl (fun s _ => s.dbFaultAt k cause)
      ((s.setRing k fun x => { x with early := [] }).setRing k fun x => { x with faulted := true, cause := cause }) := by
  simp only [State.entryArrive, bad]
theorem State.entryArrive_refuses {cause : Nat} (bad : (if poison then some 8 else entryCause (parseRing data)) = some cause)
    (some_wait : (s.ring k).early ≠ []) :
    RingStep k s (s.entryArrive k data poison) ∧ (s.entryArrive k data poison).host.dbFault = true
      ∧ (s.entryArrive k data poison).ring k = { s.ring k with early := [], faulted := true, cause := cause } := by
  rw [State.entryArrive_bad bad]
  have front := foldl_dbFaultAt_front k cause (s.ring k).early
    ((s.setRing k fun x => { x with early := [] }).setRing k fun x => { x with faulted := true, cause := cause })
  refine ⟨((RingStep.setRing k s _).trans (RingStep.setRing k _ _)).trans (RingStep.of_front front), foldl_dbFaultAt_dbFault k cause some_wait _, ?_⟩
  rw [State.ring_congr (congrArg Front.rings front)]
  simp
/-- A good entry is kept, and the doorbells that waited act on it. -/
theorem State.entryArrive_keeps (clean : poison = false) (good : entryCause (parseRing data) = none) :
    RingStep k s (s.entryArrive k data poison) ∧ ((s.entryArrive k data poison).ring k).entry = some (parseRing data)
      ∧ ((s.entryArrive k data poison).ring k).faulted = (s.ring k).faulted ∧ ((s.entryArrive k data poison).ring k).early = [] := by
  have acts : EntryStep k ((s.setRing k fun x => { x with early := [] }).setRing k fun x => { x with entry := some (parseRing data) })
      (s.entryArrive k data poison) := by
    simp only [State.entryArrive, clean, good, Bool.false_eq_true, if_false]
    exact (State.reportGhosts_entryStep _ k).trans (EntryStep.foldl (fun s x => State.ringDoorbellAct_entryStep s k _ _ _) _ _)
  refine ⟨((RingStep.setRing k s _).trans (RingStep.setRing k _ _)).trans acts.toRingStep, ?_, ?_, ?_⟩
  · rw [acts.entry]
    simp
  · rw [acts.faulted]
    simp
  · rw [acts.early]
    simp
end

section
variable {tag : BitVec 8} {s : State} {k : Nat} {data : List Byte} {poison : Bool} (owner : AMap.get? s.host.reads tag.toNat = some (.table k))
  (unread : (s.ring k).entry = none) (some_wait : (s.ring k).early ≠ [])
include owner unread some_wait

/-- Ring-table data for a ring whose doorbells wait for its entry: the entry arrives on a state of the same front. -/
theorem exec_hostReadData_table :
    ∃ v : State, v.front = s.front ∧ exec (.hostReadData tag data poison) s = .next (v.entryArrive k data poison).nextRead := by
  refine ⟨{ s with host := { s.host with reads := AMap.erase s.host.reads tag.toNat } }, rfl, congrArg Host.Outcome.next ?_⟩
  have waits : ((s.ring k).entry.isSome || (s.ring k).early.isEmpty) = false := by simp [unread, some_wait]
  simp only [State.readData, owner]
  exact congrArg State.nextRead (if_neg (Bool.eq_false_iff.mp waits))
theorem tableData_refuses {cause : Nat} (bad : (if poison then some 8 else entryCause (parseRing data)) = some cause) :
    ∃ t, exec (.hostReadData tag data poison) s = .next t ∧ RingStep k s t
      ∧ (t.ring k).faulted = true ∧ (t.ring k).cause = cause ∧ (t.ring k).entry = none ∧ t.host.dbFault = true := by
  obtain ⟨v, front, run⟩ := exec_hostReadData_table (data := data) (poison := poison) owner unread some_wait
  have same : v.ring k = s.ring k := State.ring_congr (congrArg Front.rings front) k
  obtain ⟨step, flag, marked⟩ := State.entryArrive_refuses bad (same ▸ some_wait)
  have nexts := State.nextRead_front (v.entryArrive k data poison)
  refine ⟨_, run, ((RingStep.of_front front).trans step).trans (RingStep.of_front nexts), ?_⟩
  rw [State.ring_congr (congrArg Front.rings nexts), marked, same]
  exact ⟨rfl, rfl, unread, (congrArg Lines.dbFault (State.nextRead_lines _)).trans flag⟩
theorem tableData_keeps (clean : poison = false) (good : entryCause (parseRing data) = none) :
    ∃ t, exec (.hostReadData tag data poison) s = .next t ∧ RingStep k s t
      ∧ (t.ring k).entry = some (parseRing data) ∧ (t.ring k).faulted = (s.ring k).faulted ∧ (t.ring k).early = [] := by
  obtain ⟨v, front, run⟩ := exec_hostReadData_table (data := data) (poison := poison) owner unread some_wait
  have same : v.ring k = s.ring k := State.ring_congr (congrArg Front.rings front) k
  obtain ⟨step, kept⟩ := State.entryArrive_keeps (s := v) (k := k) clean good
  have nexts := State.nextRead_front (v.entryArrive k data poison)
  refine ⟨_, run, ((RingStep.of_front front).trans step).trans (RingStep.of_front nexts), ?_⟩
  rw [State.ring_congr (congrArg Front.rings nexts), ← same]
  exact kept
end

/-- Settles O18: a doorbell without an entry waits (`ringDoorbell_waits`), the first with a read; the entry that comes is refused or kept
(`tableData_refuses`, `tableData_keeps`). -/
theorem ringEntryIsReadAndChecked : Obligations.RingEntryIsReadAndChecked := by
  intro num word tag data poison s k r
  refine ⟨fun serving own unasked sound unread row => ?_, fun unknown => ?_, fun owner unread some_wait => ?_⟩
  · rw [exec_tailDoorbell, State.ringDoorbell_waits serving own unasked sound row (by decide) rfl unread]
    have waiting : (s.doorbellNoted k 0 (fld word 25 10)).ring k = { r with early := r.early ++ [(0, fld word 25 10)] } :=
      (State.setRing_ring ..).trans (if_pos rfl)
    have noted : RingStep k s (s.doorbellNoted k 0 (fld word 25 10)) := RingStep.setRing k s _
    by_cases first : r.early = []
    · rw [if_pos (List.isEmpty_iff.mpr first)]
      have asked := State.read_front (s.doorbellNoted k 0 (fld word 25 10)) (.table k) (ringTableBase s + 64 * k) 1 (s.hpAttr 0)
      have after := noted.trans (RingStep.of_front asked)
      refine ⟨_, rfl, ?_, after.others, after.streams, fun more => absurd first more, fun _ g free clear => ?_, fun _ overlaps => ?_⟩
      · rw [State.ring_congr (congrArg Front.rings asked), waiting]
      · rw [State.read_now (s := s.doorbellNoted k 0 (fld word 25 10)) (rows := 1) free clear]
        exact ⟨rfl, (AMap.get?_set ..).trans (if_pos rfl)⟩
      · rw [State.read_later (s := s.doorbellNoted k 0 (fld word 25 10)) (rows := 1) overlaps]
        exact ⟨rfl, rfl⟩
    · rw [if_neg (mt List.isEmpty_iff.mp first)]
      exact ⟨_, rfl, congrArg Ring.early waiting, noted.others, noted.streams, fun _ => rfl, fun h => absurd h first, fun h => absurd h first⟩
  · exact congrArg Host.Outcome.next (by simp only [State.readData, unknown])
  · cases poison with
    | true =>
      obtain ⟨t, run, step, marked⟩ := tableData_refuses (data := data) (poison := true) owner unread some_wait rfl
      exact ⟨t, run, step.streams, step.regs, fun _ => marked, nofun, nofun⟩
    | false => cases good : entryCause (parseRing data) with
      | some cause =>
        obtain ⟨t, run, step, marked⟩ := tableData_refuses (poison := false) owner unread some_wait good
        refine ⟨t, run, step.streams, step.regs, nofun, fun _ c bad => ?_, fun _ => nofun⟩
        obtain rfl := Option.some.inj bad
        exact marked
      | none =>
        obtain ⟨t, run, step, kept⟩ := tableData_keeps owner unread some_wait rfl good
        exact ⟨t, run, step.streams, step.regs, nofun, fun _ => nofun, fun _ _ => kept⟩

end Sys2Proof.Machine
end

section
/-! Cancels that are asked for, and the resets of rings at their boundary (R92, R94, R98, R99, R146, R502). -/

namespace Sys2Proof.Machine

/-! Cancels. -/

section
variable {s : State} {num : Nat} {word : W64}

theorem State.cancelDoorbell_unserved (unserved : s.serving = false) : s.cancelDoorbell num word = s := by
  simp [State.cancelDoorbell, unserved]

variable (serving : s.serving = true) (own : fld word 9 0 = num % 1024)
include serving own
theorem State.cancelDoorbell_open {st : Stream} (hs : s.stream? (fld word 41 10) = some st) (ring : st.ring = num % 1024) (phase : st.phase ≠ .opening) :
    s.cancelDoorbell num word = ((s.count 104 1).cancelIngests st).askCancel st.handle vCancelled 0 true := by
  have found : (s.count 104 1).stream? (fld word 41 10) = some st := hs
  simp [State.cancelDoorbell, serving, own, found, ring, phase]
theorem State.cancelDoorbell_misses (none_open : ∀ st, s.stream? (fld word 41 10) = some st → st.ring ≠ num % 1024 ∨ st.phase = .opening) :
    s.cancelDoorbell num word = (s.count 104 1).cancelMissed := by
  have same : (s.count 104 1).stream? (fld word 41 10) = s.stream? (fld word 41 10) := rfl
  cases hs : s.stream? (fld word 41 10) with
  | none => simp [State.cancelDoorbell, serving, own, same, hs]
  | some st =>
    have shut : (decide (st.ring = num % 1024) && st.phase != .opening) = false := by
      rcases none_open st hs with other | opening
      · simp [other]
      · simp [opening]
    simp [State.cancelDoorbell, serving, own, same, hs, shut]
end

/-- A cancel asked for joins the schedule, unless one is due already (R99). -/
theorem State.askCancel_eq (s : State) (h code flags : Nat) (event : Bool) : s.askCancel h code flags event =
    { s with sched := if cancelDue s h then s.sched else s.sched ++ [⟨s.nextB, .cancel h code flags event, 0⟩] } := by
  unfold State.askCancel
  split <;> rfl
theorem cancelDue_congr {s t : State} (h : t.sched = s.sched) (k : Nat) : cancelDue t k = cancelDue s k := by simp [cancelDue, h]

/-- A descriptor that meets no shared refusal and names a stream: the stream is there, and no cancel of it is due (R102). -/
theorem accepts_stream {s : State} {d : Desc} (ok : s.accepts d = true) (names : namesStream d.opcode = true) :
    ∃ st, s.stream? (dStream d) = some st ∧ st.ring = d.ring.toNat ∧ st.phase ≠ .opening ∧ cancelDue s st.handle = false := by
  have clear : descStatus (s.started d) d true = none := by simpa using (Bool.and_eq_true_iff.mp ok).2
  have due (h : Nat) : cancelDue (s.started d) h = cancelDue s h := cancelDue_congr (started_sched s d) h
  simp only [descStatus, names, if_true, ite_eq_iff, reduceCtorEq, and_false, false_or, State.stream?_congr (started_streams s d), due] at clear
  obtain ⟨-, -, -, -, named⟩ := clear
  cases hs : s.stream? (dStream d) with
  | none => simp [hs] at named
  | some st => 
    simp only [hs] at named
    refine ⟨st, rfl, ?_⟩
    simpa [and_assoc] using named

/-- The ring of a stream whose cancel wins over the INGESTs that completed in this beat (Table 1-3). -/
theorem State.cancelIngests_ring (s : State) (st : Stream) : ((s.cancelIngests st).ring st.ring).cqPend =
    (s.ring st.ring).cqPend.map fun c =>
      if c.opcode = 3 ∧ c.kind = 0 ∧ c.stream = st.handle ∧ c.since = s.beat then { c with status := stBadStream } else c := by
  rw [State.cancelIngests, State.setRing_ring, if_pos rfl]
  simp [and_assoc]
theorem State.cancelIngests_others (s : State) (st : Stream) : SameRingsBut st.ring s (s.cancelIngests st) := (RingStep.setRing st.ring s _).others

section
variable {s : State} {d : Desc} (ok : s.accepts d = true)
include ok

/-- CANCEL runs on and asks, for its shared checks have found none due. -/
theorem exec_cancel (op : d.opcode = 0x05) : exec (.cancel d) s = .next { s.startedOn d (.cancelC (dStream d)) with
    sched := s.sched ++ [⟨s.nextB, .cancel (dStream d) vCancelled 0 false, 0⟩] } := by
  obtain ⟨st, hs, -, -, none_due⟩ := accepts_stream ok (by rw [op]; decide)
  rw [State.stream?_handle hs] at none_due
  have sched : (s.startedOn d (.cancelC (dStream d))).sched = s.sched := started_sched s d
  have asks : cancelDue (s.startedOn d (.cancelC (dStream d))) (dStream d) = false := (cancelDue_congr sched _).trans none_due
  have next : (s.startedOn d (.cancelC (dStream d))).nextB = s.nextB := started_nextB s d
  refine congrArg Host.Outcome.next ((runDesc_accepts ok (by simp [op]) _).trans ((State.askCancel_eq ..).trans ?_))
  show ({ s.startedOn d (.cancelC (dStream d)) with sched := if cancelDue (s.startedOn d (.cancelC (dStream d))) (dStream d) then _ else
    (s.startedOn d (.cancelC (dStream d))).sched ++ [⟨(s.startedOn d (.cancelC (dStream d))).nextB, _, 0⟩] } : State) = _
  rw [asks, sched, next]
  rfl
end

/-- Settles O19: the doorbell asks for its stream's cancel or counts a miss (`cancelDoorbell_open`, `cancelDoorbell_misses`), and CANCEL asks where
none is due, as its shared checks have it (`exec_cancel`). -/
theorem cancelsAreAskedOnce : Obligations.CancelsAreAskedOnce := by
  constructor
  · intro num word s k h
    refine ⟨fun unserved => congrArg Host.Outcome.next (State.cancelDoorbell_unserved unserved), fun serving own => ?_⟩
    by_cases hit : ∃ st, s.stream? h = some st ∧ st.ring = k ∧ st.phase ≠ .opening
    · obtain ⟨st, hs, ring, phase⟩ := hit
      have run := (State.cancelDoorbell_open serving own hs ring phase).trans (State.askCancel_eq ..)
      refine ⟨_, congrArg Host.Outcome.next run, rfl, rfl, rfl, fun x hx _ _ => ?_, fun none_open => ?_⟩
      · obtain rfl := Option.some.inj (hs.symm.trans hx)
        rw [State.stream?_handle hs, ← ring]
        exact ⟨rfl, fun j other => State.cancelIngests_others (s.count 104 1) st j other, State.stream?_handle hs ▸ State.cancelIngests_ring s st, rfl⟩
      · exact absurd (none_open st hs) (by simp [ring, phase])
    · have none_open (st : Stream) (hs : s.stream? h = some st) : st.ring ≠ k ∨ st.phase = .opening := by
        by_contra both
        rw [not_or, not_not] at both
        exact hit ⟨st, hs, both⟩
      refine ⟨_, congrArg Host.Outcome.next (State.cancelDoorbell_misses serving own none_open), rfl, rfl, rfl, fun st hs ring phase => ?_,
        fun _ => ⟨rfl, rfl, rfl⟩⟩
      exact absurd ⟨st, hs, ring, phase⟩ hit
  · intro d s ok op
    refine ⟨_, exec_cancel ok op, ?_, rfl, ?_, ?_, ?_, ?_⟩
    · exact runs_congr (v := s.startedOn d (.cancelC (dStream d))) rfl rfl (runs_keep _ rfl (startedCmd_mem s d))
    · exact started_streams s d
    · exact started_recs s d
    · exact started_tenants s d
    · exact started_regs s d

/-! The reset of a ring. -/

theorem State.takeEff_of_idle {s : State} {e : Eff} (idle : s.dueNow e = false) : s.takeEff (fun x => x == e) = none := by
  simpa [State.dueNow] using idle
theorem State.takeEff_of_due {s : State} {e : Eff} (due : s.dueNow e = true) :
    ∃ y sched, s.takeEff (fun x => x == e) = some (y, { s with sched := sched }) := by
  obtain ⟨x, hx⟩ := Option.isSome_iff_exists.mp due
  rw [hx]
  unfold State.takeEff at hx
  split at hx
  · cases hx
    exact ⟨_, _, rfl⟩
  · cases hx

/-- What keeps a ring from its reset: an open stream, or a fetched command that waits or runs (R502). -/
def State.ringBusy (s : State) (k : Nat) : Bool := !(streamsOf s k).isEmpty || !(s.ring k).fetched.isEmpty || s.cmds.any fun c => c.ring == k
/-- A write job of a ring is the ring's no more (R98). -/
def WJob.orphan (k : Nat) (w : WJob) : WJob :=
  { w with owner := match w.owner with
    | .cpl r _ _ => if r = k then .gone else w.owner
    | .batch r _ => if r = k then .gone else w.owner
    | .tokens r => if r = k then .gone else w.owner
    | o => o }
/-- A ring's writes, reads and own state given up. -/
def State.ringGivenUp (s : State) (k : Nat) : State :=
  (({ s with host := { s.host with jobs := s.host.jobs.map fun x => (x.1, x.2.orphan k) } } : State).dropReads (ROwner.ofRing k)).setRing k fun _ => Ring.blank
theorem State.resetRingNow_eq (s : State) (k : Nat) : s.resetRingNow k =
    if s.ringBusy k then { s.setRing k fun x => { x with resetAsked := false } with host := { s.host with resetBusy := true } }
    else (s.setRing k fun x => { x with resetAsked := false }).ringGivenUp k := by
  have fetched : ((s.setRing k fun x => { x with resetAsked := false }).ring k).fetched = (s.ring k).fetched := by simp
  simp only [State.resetRingNow, State.ringBusy, fetched]
  rfl

theorem WJob.orphan_owner (k : Nat) (w : WJob) :
    (∀ i c, (w.orphan k).owner ≠ .cpl k i c) ∧ (∀ n, (w.orphan k).owner ≠ .batch k n) ∧ (w.orphan k).owner ≠ .tokens k := by
  unfold WJob.orphan
  cases w.owner <;> grind
theorem ROwner.not_ofRing_dropped (k : Nat) (o : ROwner) : ROwner.ofRing k (if ROwner.ofRing k o then .gone else o) = false := by
  split
  · rfl
  · exact Bool.eq_false_iff.mpr ‹_›

/-- Settles O21: a reset is asked for once; at its boundary the ring is either busy or given up (`resetRingNow_eq`). -/
theorem ringResetAtTheBoundary : Obligations.RingResetAtTheBoundary := by
  intro v ring s k r busy
  refine ⟨fun asked => congrArg Host.Outcome.next (if_pos asked), fun unasked => ?_, fun idle => ?_, fun due => ?_⟩
  · have asks := RingStep.setRing k s fun x => { x with resetAsked := true }
    have ring : (s.setRing k fun x => { x with resetAsked := true }).ring k = { s.ring k with resetAsked := true } :=
      (State.setRing_ring ..).trans (if_pos rfl)
    exact ⟨_, congrArg Host.Outcome.next (if_neg (by simp [k, unasked])), congrArg Ring.resetAsked ring, rfl, fun j other => asks.others j other, rfl, rfl⟩
  · show Host.Outcome.next _ = _
    rw [State.takeEff_of_idle idle]
  · obtain ⟨y, sched, taken⟩ := State.takeEff_of_due due
    have run : exec (.ringResetEffect ring) s = .next (({ s with sched := sched } : State).resetRingNow r) := by
      show Host.Outcome.next _ = _
      rw [taken]
    have asks : ({ s with sched := sched } : State).ringBusy r = busy := rfl
    rw [run, State.resetRingNow_eq, asks]
    have unasks := RingStep.setRing r s fun x => { x with resetAsked := false }
    cases hb : busy with
    | true =>
      have ring : (s.setRing r fun x => { x with resetAsked := false }).ring r = { s.ring r with resetAsked := false } :=
        (State.setRing_ring ..).trans (if_pos rfl)
      exact ⟨_, rfl, fun j other => unasks.others j other, rfl, rfl, congrArg Ring.resetAsked ring,
        fun _ => ⟨rfl, (congrArg Ring.fetched ring).trans rfl, (congrArg Ring.cqPend ring).trans rfl⟩, nofun⟩
    | false =>
      have ring (u : State) : (u.ringGivenUp r).ring r = Ring.blank := (State.setRing_ring ..).trans (if_pos rfl)
      refine ⟨_, rfl, fun j other => ?_, rfl, rfl, congrArg Ring.resetAsked (ring _), nofun, fun _ => ⟨ring _, rfl, rfl, rfl, rfl, ?_, ?_, ?_⟩⟩
      · exact ((RingStep.setRing r _ fun _ => Ring.blank).others j other).trans (unasks.others j other)
      · intro x hx
        obtain ⟨y, -, rfl⟩ := List.mem_map.mp hx
        exact ROwner.not_ofRing_dropped r y.2
      · intro x hx
        simpa using (List.mem_filter.mp hx).2
      · intro x hx
        obtain ⟨y, -, rfl⟩ := List.mem_map.mp hx
        exact y.2.orphan_owner r

end Sys2Proof.Machine
end

section
/-! CLOSE_STREAM and its boundary, and BIND_SLOT (R112, R178, R220, Tables 3-7 and 5-5). -/

namespace Sys2Proof.Machine

/-- A command that runs on from its start as k and asks for one effect at the next boundary. -/
theorem runs_asking {s : State} (d : Desc) (k : CmdK) (e : Eff) :
    Runs s ((s.startedOn d k).at s.nextB e) d k ∧ ((s.startedOn d k).at s.nextB e).sched = s.sched ++ [⟨s.nextB, e, 0⟩]
      ∧ ((s.startedOn d k).at s.nextB e).streams = s.streams ∧ ((s.startedOn d k).at s.nextB e).recs = s.recs
      ∧ ((s.startedOn d k).at s.nextB e).regs = s.regs := by
  refine ⟨runs_congr (v := s.startedOn d k) rfl rfl (runs_keep k rfl (startedCmd_mem s d)), ?_, ?_, ?_, ?_⟩
  · exact congrArg (· ++ [(⟨s.nextB, e, 0⟩ : Sched)]) (started_sched s d)
  · exact started_streams s d
  · exact started_recs s d
  · exact started_regs s d

/-! The boundary of a close. -/

/-- No chunk and no INGEST of the stream is complete. -/
def Stream.inputIdle (st : Stream) : Prop := chunkReady st = none ∧ ∀ j js, st.jobs = j :: js → j.ready = false
theorem endInput_idle {s : State} {h : Nat} {st : Stream} (hs : s.stream? h = some st) (idle : st.inputIdle) (n : Nat) : endInput n h s = s := by
  obtain ⟨chunk, job⟩ := idle
  have none_ready : (st.jobs.head?.map (·.ready)).getD false = false := by
    cases jobs : st.jobs with
    | nil => rfl
    | cons j js => exact job j js jobs
  cases n with
  | zero => rfl
  | succ n => simp [endInput, hs, chunk, none_ready]

/-- A stream as its close leaves it: intake over, its open step closed, every node dropped (Table 5-5). -/
def Stream.closingBy (st : Stream) (cmd : Nat) : Stream :=
  { st with
    phase := .closing, closing := some cmd, toks := [], parts := [], jobs := [], carry := [], step := none, nodes := [], base := none,
    lastClosed := match st.step with | some p => some p.seq | none => st.lastClosed }

/-- The drafts of a stream dropped, with the masks of the nodes given, and the drop counted. -/
def State.draftsDropped (s : State) (h : Nat) (gone : List Nat) : State :=
  (((({ s with recs := s.recs.filter fun r => !(r.h == h && r.kind == RecK.draft) } : State).count 45 (b2n (gone.length != 0))).count 46
    gone.length).dropMasks h gone)
/-- The switchback of every step of a stream: its drafts, its nodes and their unwritten masks are dropped (R220). -/
theorem State.switchback_all {s : State} {h : Nat} {st : Stream} (hs : s.stream? h = some st) : s.switchback h none =
    { s.draftsDropped h (st.nodes.map (·.1)) with streams := AMap.set s.streams (hIndex h) { st with nodes := [], base := none } } := by
  have gone : st.nodes.filter (fun _ => true) = st.nodes := List.filter_true _
  have named : (s.draftsDropped h (st.nodes.map (·.1))).stream? h = some st := hs
  have all : s.switchback h none = (s.draftsDropped h (st.nodes.map (·.1))).setStream h fun x => { x with nodes := [], base := none } := by
    simp only [State.switchback, Option.isNone_none, Bool.true_or, Bool.not_true, Bool.and_true, hs, Option.map_some, Option.getD_some, gone,
      List.filter_false, List.isEmpty_nil, if_true, State.draftsDropped]
  rw [all, State.setStream_of_some named]
  rfl

/-- A stream's close at its boundary. -/
theorem State.closeAt_drains {s : State} {h : Nat} {st : Stream} (hs : s.stream? h = some st) (cmd : Nat) :
    (s.closeAt h cmd).stream? h = some (st.closingBy cmd)
      ∧ (s.closeAt h cmd).recs = s.recs.filter (fun r => !(r.h == h && ((r.stamp.isNone && r.kind != RecK.chunk) || r.kind == RecK.draft)))
      ∧ (∀ i, i ≠ hIndex h → AMap.get? (s.closeAt h cmd).streams i = AMap.get? s.streams i) ∧ (s.closeAt h cmd).rings = s.rings
      ∧ (s.closeAt h cmd).masks =
          s.masks.filter (fun m => !(m.h == h && !m.taken && !m.begun && (m.rid.map (st.nodes.map (·.1)).contains).getD false))
      ∧ (s.closeAt h cmd).cmds = s.cmds ∧ (s.closeAt h cmd).regs = s.regs := by
  obtain ⟨-, handle, phase⟩ := State.stream?_eq_some.mp hs
  unfold State.closeAt
  extract_lets u v
  have drained : v = { u.draftsDropped h (st.nodes.map (·.1)) with
      streams := AMap.set s.streams (hIndex h) { st with nodes := [], base := none } } := State.switchback_all (s := u) hs
  have named : v.stream? h = some { st with nodes := [], base := none } := by
    rw [drained]
    exact State.stream?_eq_some.mpr ⟨by simp, handle, phase⟩
  refine ⟨State.stream?_setStream named handle (by simp), ?_, fun i other => ?_, ?_, ?_, ?_, ?_⟩
  · rw [State.setStream_recs, drained]
    refine List.filter_filter.trans (List.filter_congr fun r _ => ?_)
    simp only [unstamped]
    cases r.h == h <;> cases r.stamp.isNone <;> cases r.kind <;> rfl
  · rw [State.setStream_of_some named, drained]
    simp [other]
  · rw [State.setStream_rings, drained]
    rfl
  · rw [State.setStream_masks, drained]
    rfl
  · rw [State.setStream_cmds, drained]
    rfl
  · rw [State.setStream_regs, drained]
    rfl

/-- Settles O24: the command asks for its boundary (`runs_asking`), and with nothing complete the boundary is the close itself (`closeAt_drains`). -/
theorem closeDrainsTheStream : Obligations.CloseDrainsTheStream := by
  intro d h s
  refine ⟨fun ok op => ?_, fun idle => ?_, fun due st hs chunk job => ?_⟩
  · obtain ⟨runs, sched, streams, recs, regs⟩ := runs_asking (s := s) d (.closeS (dStream d)) (.closeS (dStream d))
    have body : exec (.closeStream d) s = .next ((s.startedOn d (.closeS (dStream d))).at s.nextB (.closeS (dStream d))) :=
      congrArg Host.Outcome.next ((runDesc_accepts ok (by simp [op]) _).trans (congrArg (State.at _ · _) (started_nextB s d)))
    exact ⟨_, body, runs, sched, streams, recs, regs⟩
  · show Host.Outcome.next _ = _
    rw [State.takeEff_of_idle idle]
  · obtain ⟨y, sched, taken⟩ := State.takeEff_of_due due
    have run : exec (.streamCloseBoundary h) s = .next (({ s with sched := sched } : State).closeAt h.toNat (closeCmd s h.toNat)) := by
      show Host.Outcome.next _ = _
      rw [taken]
      have named : ({ s with sched := sched } : State).stream? h.toNat = some st := hs
      refine congrArg Host.Outcome.next ?_
      simp only [State.closeNow, endInput_idle named ⟨chunk, job⟩, named, Option.isSome_some, if_true]
      rfl
    obtain ⟨stream, recs, others, rings, masks, cmds, regs⟩ := State.closeAt_drains (s := { s with sched := sched }) hs (closeCmd s h.toNat)
    exact ⟨_, _, run, stream, rfl, rfl, rfl, rfl, rfl, rfl, rfl, rfl, rfl, recs, others, rings, masks, cmds, regs⟩

/-! BIND_SLOT. -/

section
variable {d : Desc} {u : State} {c : Cmd} {st : Stream} (hs : u.stream? c.stream = some st)
include hs

theorem bindBody_refused (refused : bindOk st = false ∨ slotTaken u (dfld d 2 13 0) st.handle = true ∨ (st.slot.isSome = true ∧ slotBusy u st = true)) :
    bindBody d u c = u.finish c { status := stState } := by
  have stays : (!bindOk st || slotTaken u (dfld d 2 13 0) st.handle || (st.slot.isSome && slotBusy u st)) = true := by
    simpa [or_assoc] using refused
  simp only [bindBody, hs, stays, if_true]
theorem bindBody_asks (open_ : bindOk st = true) (free : slotTaken u (dfld d 2 13 0) st.handle = false)
    (quiet : st.slot.isSome = true → slotBusy u st = false) (fits : st.grammar.isSome = true → u.fitsDeadlines u.adms = true) :
    bindBody d u c = (u.keep c (.bindS st.handle)).at u.nextB (.bindS st.handle (some (dfld d 2 13 0)) c.id) := by
  have goes : (!bindOk st || slotTaken u (dfld d 2 13 0) st.handle || (st.slot.isSome && slotBusy u st)) = false := by
    simpa [open_, free] using quiet
  have in_time : (st.grammar.isSome && !u.fitsDeadlines u.adms) = false := by simpa using fits
  simp only [bindBody, hs, goes, in_time, Bool.false_eq_true, if_false]
theorem unbindBody_refused (refused : bindOk st = false ∨ slotBusy u st = true) : unbindBody d u c = u.finish c { status := stState } := by
  have stays : (!bindOk st || slotBusy u st) = true := by simpa using refused
  simp only [unbindBody, hs, stays, if_true]
theorem unbindBody_asks (open_ : bindOk st = true) (quiet : slotBusy u st = false) :
    unbindBody d u c = (u.keep c (.bindS st.handle)).at u.nextB (.bindS st.handle none c.id) := by
  have goes : (!bindOk st || slotBusy u st) = false := by simp [open_, quiet]
  simp only [unbindBody, hs, goes, Bool.false_eq_true, if_false]
end

section
variable {d : Desc} {s : State} (ok : s.accepts d = true) (op : d.opcode = 0x04)
include ok op

theorem exec_bindSlot (binds : dbit d 2 16 = false) : exec (.bindSlot d) s = .next (bindBody d (s.started d) (s.startedCmd d)) :=
  congrArg Host.Outcome.next (runDesc_accepts ok (by simp [op, binds]) _)
theorem exec_unbindSlot (unbinds : dbit d 2 16 = true) : exec (.unbindSlot d) s = .next (unbindBody d (s.started d) (s.startedCmd d)) :=
  congrArg Host.Outcome.next (runDesc_accepts ok (by simp [op, unbinds]) _)
end

/-- Settles O25: both bodies either complete REFUSED_STATE or ask for the binding's boundary (`runs_asking`). -/
theorem bindSlotAtTheBoundary : Obligations.BindSlotAtTheBoundary := by
  intro d st s u slot ok op hs
  have named : u.stream? (s.startedCmd d).stream = some st := (State.stream?_congr (started_streams s d) _).trans hs
  refine ⟨fun binds => ⟨fun refused => ?_, fun open_ free quiet fits => ?_⟩, fun unbinds => ⟨fun refused => ?_, fun open_ quiet => ?_⟩⟩
  · rw [exec_bindSlot ok op binds, bindBody_refused named refused]
    exact ⟨_, rfl, completes_started s d _, by simp [u], by simp [u]⟩
  · rw [exec_bindSlot ok op binds, bindBody_asks named open_ free quiet fits, started_nextB]
    obtain ⟨runs, sched, streams, recs, -⟩ := runs_asking (s := s) d (.bindS st.handle) (.bindS st.handle (some slot) s.nextId)
    exact ⟨_, rfl, runs, sched, streams, recs⟩
  · rw [exec_unbindSlot ok op unbinds, unbindBody_refused named refused]
    exact ⟨_, rfl, completes_started s d _, by simp [u], by simp [u]⟩
  · rw [exec_unbindSlot ok op unbinds, unbindBody_asks named open_ quiet, started_nextB]
    obtain ⟨runs, sched, streams, recs, -⟩ := runs_asking (s := s) d (.bindS st.handle) (.bindS st.handle none s.nextId)
    exact ⟨_, rfl, runs, sched, streams, recs⟩

end Sys2Proof.Machine
end

section
/-! Descriptors: those read again, those that arrive, and those that no row of the command table names (R22, R95, R100, R407). -/

namespace Sys2Proof.Machine

theorem State.ring_of_front {s t : State} (h : t.front = s.front) (k : Nat) : t.ring k = s.ring k := State.ring_congr (congrArg Front.rings h) k

/-! Descriptors of no row. -/

theorem State.pumpUnlisted_listed {s : State} {k : Nat} (listed : ∀ d ∈ (s.ring k).fetched, descListed d = true) : s.pumpUnlisted k = s := by
  have none_unlisted : (s.ring k).fetched.find? (fun d => !descListed d && s.canStart d) = none :=
    List.find?_eq_none.mpr fun d hd => by simp [listed d hd]
  unfold State.pumpUnlisted
  cases (s.ring k).fetched.length with
  | zero => rfl
  | succ f => simp only [Machine.pumpUnlisted, none_unlisted]
/-- The only fetched descriptor, of no row, starts and completes BAD_DESCRIPTOR. -/
theorem State.pumpUnlisted_only {s : State} {k : Nat} {d : Desc} (only : (s.ring k).fetched = [d]) (unlisted : descListed d = false)
    (starts : s.canStart d = true) : s.pumpUnlisted k = (s.started d).finish (s.startedCmd d) { status := stBadDesc } := by
  have found : [d].find? (fun d => !descListed d && s.canStart d) = some d := by simp [unlisted, starts]
  simp only [State.pumpUnlisted, only, List.length_singleton, Machine.pumpUnlisted, found]
  rfl
/-- A descriptor alone on its ring, with no command running, starts. -/
theorem State.canStart_alone {s : State} {d : Desc} (serving : s.serving = true) (runs : s.start.halted = false)
    (served : (s.ring d.ring.toNat).served = true) (only : (s.ring d.ring.toNat).fetched = [d]) (idle : s.cmds = []) : s.canStart d = true := by
  simp [State.canStart, orderOk, serving, runs, served, only, idle]

/-! The re-read of a stale descriptor. -/

section
variable {s : State} {k n : Nat} {e : RingEntry} {d : Desc}

/-- A ring with its fetch over, changed, and fetching on. -/
theorem State.fetchOn (s : State) (k i m : Nat) (f : Ring → Ring) :
    RingStep k s (((s.setRing k f).count i m).fetchRing k)
      ∧ ∃ is, (((s.setRing k f).count i m).fetchRing k).ring k = { f (s.ring k) with fetching := is } := by
  have step := ((s.setRing k f).count i m).fetchRing_step k
  refine ⟨((RingStep.setRing k s f).trans (RingStep.of_front (State.count_front _ i m))).trans step.toRingStep, ?_⟩
  have ring : ((s.setRing k f).count i m).ring k = f (s.ring k) := (State.setRing_ring ..).trans (if_pos rfl)
  simpa only [ring] using step.ring

/-- The ring whose re-read has been answered. -/
def State.rereadDone (s : State) (k : Nat) : State := (s.setRing k fun x => { x with fetching := [] }).count 101 1
theorem State.rereadDone_step (s : State) (k : Nat) : RingStep k s (s.rereadDone k) :=
  (RingStep.setRing k s _).trans (RingStep.of_front (State.count_front _ 101 1))
theorem State.rereadDone_ring (s : State) (k : Nat) : (s.rereadDone k).ring k = { s.ring k with fetching := [] } := by
  have set : (s.setRing k fun x => { x with fetching := [] }).ring k = { s.ring k with fetching := [] } := by rw [State.setRing_ring, if_pos rfl]
  exact set

theorem State.rereadIn_takes (right : dPhase d = (s.ring k).sqPhase) (listed : ∀ x ∈ d :: (s.ring k).fetched, descListed x = true) :
    RingStep k s (s.rereadIn k e n d)
      ∧ ∃ is, (s.rereadIn k e n d).ring k = { (s.ring k).takeDesc (ringSize e.sqSize) d with reread := none, fetching := is } := by
  obtain ⟨step, is, ring⟩ := (s.rereadDone k).fetchOn k 96 1 fun x => { x.takeDesc (ringSize e.sqSize) d with reread := none }
  rw [State.rereadDone_ring] at ring
  have taken : s.rereadIn k e n d =
      ((((s.rereadDone k).setRing k fun x => { x.takeDesc (ringSize e.sqSize) d with reread := none }).count 96 1).fetchRing k).pumpUnlisted k :=
    if_pos right
  rw [taken, State.pumpUnlisted_listed]
  · exact ⟨(s.rereadDone_step k).trans step, is, ring⟩
  · rw [ring]
    intro x hx
    exact listed x (by simpa [Ring.takeDesc, or_comm] using hx)
theorem State.rereadIn_again (wrong : dPhase d ≠ (s.ring k).sqPhase) (more : n < 3) : RingStep k s (s.rereadIn k e n d)
    ∧ (s.rereadIn k e n d).ring k = { s.ring k with fetching := [], reread := some (n + 1) } := by
  have again : s.rereadIn k e n d = (s.rereadDone k).setRing k fun x => { x with reread := some (n + 1) } :=
    (if_neg wrong).trans (if_pos (by omega))
  rw [again, State.setRing_ring, if_pos rfl, State.rereadDone_ring]
  exact ⟨(s.rereadDone_step k).trans (RingStep.setRing k _ _), rfl⟩
theorem State.rereadIn_stale (wrong : dPhase d ≠ (s.ring k).sqPhase) (fourth : 3 ≤ n) : RingStep k s (s.rereadIn k e n d)
    ∧ (s.rereadIn k e n d).ring k = { s.ring k with
        fetching := [], reread := none, stale := true,
        cqPend := (s.ring k).cqPend ++ [{ Cpl.blank with index := (s.ring k).sqHead, status := stStale, since := s.beat }] } := by
  have stale : s.rereadIn k e n d = ((((s.rereadDone k).setRing k fun x => { x with reread := none, stale := true }).count 102 1).post k
      { Cpl.blank with index := (s.ring k).sqHead, status := stStale }) := (if_neg wrong).trans (if_neg (by omega))
  have ring : (((s.rereadDone k).setRing k fun x => { x with reread := none, stale := true }).count 102 1).ring k =
      { s.ring k with fetching := [], reread := none, stale := true } := by
    have set : ((s.rereadDone k).setRing k fun x => { x with reread := none, stale := true }).ring k =
        { s.ring k with fetching := [], reread := none, stale := true } := by
      rw [State.setRing_ring, if_pos rfl, State.rereadDone_ring]
    exact set
  rw [stale, State.post_ring, if_pos rfl, ring]
  refine ⟨?_, rfl⟩
  exact (((s.rereadDone_step k).trans (RingStep.setRing k _ _)).trans (RingStep.of_front (State.count_front _ 102 1))).trans (RingStep.setRing k _ _)
end

/-- A descriptor for which no re-read is under way changes nothing. -/
theorem State.rereadDesc_idle {s : State} {d : Desc}
    (idle : (s.ring d.ring.toNat).reread = none ∨ (s.ring d.ring.toNat).fetching ≠ [d.index.toNat]) : s.rereadDesc d = s := by
  unfold State.rereadDesc
  extract_lets k r own
  split
  · rename_i e n held again
    have other : r.fetching ≠ [d.index.toNat] := idle.resolve_left (by simp [r, k] at again; simp [again])
    simp [other]
  · rfl
/-- One for which it is under way is taken in, its read being answered. -/
theorem State.rereadDesc_answers {s : State} {d : Desc} {e : RingEntry} {n : Nat} (again : (s.ring d.ring.toNat).reread = some n)
    (held : (s.ring d.ring.toNat).entry = some e) (served : (s.ring d.ring.toNat).served = true)
    (asked : (s.ring d.ring.toNat).fetching = [d.index.toNat]) :
    ∃ v : State, v.front = s.front ∧ s.rereadDesc d = v.rereadIn d.ring.toNat e n d := by
  have goes : (!(s.ring d.ring.toNat).served || decide ((s.ring d.ring.toNat).fetching ≠ [d.index.toNat])) = false := by simp [served, asked]
  let own := ROwner.desc d.ring.toNat d.index.toNat
  refine ⟨{ s with host := { s.host with
    reads := s.host.reads.filter fun x => !(x.2 == own), readQ := s.host.readQ.filter fun x => !(x.1 == own) } }, rfl, ?_⟩
  simp only [State.rereadDesc, held, again, goes, Bool.false_eq_true, if_false]
  rfl

/-! Descriptor data that arrives. -/

section
variable {s : State} {k : Nat} {e : RingEntry} {data : List Byte}

/-- The descriptor at the ring's head, as its data gives it. -/
def State.headDesc (s : State) (k : Nat) (data : List Byte) : Desc := mkDesc k (s.ring k).sqHead (data.take 64)

/-- A ring with the descriptor at its head taken, which was the one under way. -/
def Ring.tookDesc (r : Ring) (n : Nat) (d : Desc) (data : List Byte) : Ring :=
  { r.takeDesc n d with fetching := [], came := AMap.erase (AMap.set r.came r.sqHead data) r.sqHead }
theorem takeRows_right {n : Nat} {r : Ring} (asked : r.fetching = [r.sqHead]) (right : dPhase (mkDesc k r.sqHead (data.take 64)) = r.sqPhase) :
    takeRows k n 1 { r with came := AMap.set r.came r.sqHead data } = (r.tookDesc n (mkDesc k r.sqHead (data.take 64)) data, 1) := by
  simp [takeRows, asked, AMap.get?_set, right, Ring.tookDesc, Ring.takeDesc]
/-- A ring whose head descriptor is to be read again, with nothing asked for behind it. -/
def Ring.toReread (r : Ring) : Ring := { r with reread := some 0, fetching := [], came := [] }
theorem takeRows_wrong {n : Nat} {r : Ring} (asked : r.fetching = [r.sqHead]) (wrong : dPhase (mkDesc k r.sqHead (data.take 64)) ≠ r.sqPhase) :
    takeRows k n 1 { r with came := AMap.set r.came r.sqHead data } = (r.toReread, 0) := by
  simp [takeRows, asked, AMap.get?_set, wrong, Ring.toReread]

variable (held : (s.ring k).entry = some e) (unread : (s.ring k).reread = none) (asked : (s.ring k).fetching = [(s.ring k).sqHead])
include held unread asked

theorem State.descArrive_taken {r : Ring} {m : Nat}
    (taken : takeRows k (ringSize e.sqSize) 1 { s.ring k with came := AMap.set (s.ring k).came (s.ring k).sqHead data } = (r, m)) :
    s.descArrive k (s.ring k).sqHead data =
      ((if r.reread.isSome then ((s.setRing k fun _ => r).count 96 m).dropReads (ROwner.descOf k) else (s.setRing k fun _ => r).count 96 m).fetchRing
        k).pumpUnlisted k := by
  have len : (s.ring k).fetching.length = 1 := by rw [asked, List.length_singleton]
  simp only [held, unread] at taken
  simp only [State.descArrive, held, unread, len, taken]
/-- One whose phase is right is fetched, and the ring fetches on. -/
theorem State.descArrive_right (right : dPhase (s.headDesc k data) = (s.ring k).sqPhase) : ∃ v : State, RingStep k s v
    ∧ (∃ is, v.ring k = { (s.ring k).tookDesc (ringSize e.sqSize) (s.headDesc k data) data with fetching := is })
    ∧ s.descArrive k (s.ring k).sqHead data = v.pumpUnlisted k := by
  obtain ⟨step, ring⟩ := s.fetchOn k 96 1 fun _ => (s.ring k).tookDesc (ringSize e.sqSize) (s.headDesc k data) data
  refine ⟨_, step, ring, (State.descArrive_taken held unread asked (takeRows_right asked right)).trans ?_⟩
  rw [if_neg (by simp [Ring.tookDesc, Ring.takeDesc, unread])]
  rfl
/-- One whose phase is wrong is to be read again, and the ring fetches nothing behind it. -/
theorem State.descArrive_wrong (wrong : dPhase (s.headDesc k data) ≠ (s.ring k).sqPhase) : ∃ v : State, RingStep k s v
    ∧ (∃ is, v.ring k = { (s.ring k).toReread with fetching := is }) ∧ s.descArrive k (s.ring k).sqHead data = v.pumpUnlisted k := by
  have kept : (((s.setRing k fun _ => (s.ring k).toReread).count 96 0).dropReads (ROwner.descOf k)).front = (s.setRing k fun _ => (s.ring k).toReread).front :=
    (State.dropReads_front _ _).trans (State.count_front _ _ _)
  have step := State.fetchRing_step (((s.setRing k fun _ => (s.ring k).toReread).count 96 0).dropReads (ROwner.descOf k)) k
  have ring := step.ring
  rw [State.ring_of_front kept, State.setRing_ring, if_pos rfl] at ring
  refine ⟨_, ((RingStep.setRing k s _).trans (RingStep.of_front kept)).trans step.toRingStep, ring,
    (State.descArrive_taken held unread asked (takeRows_wrong asked wrong)).trans ?_⟩
  rw [if_pos (show (s.ring k).toReread.reread.isSome = true from rfl)]
end

theorem State.readFor_desc {s : State} {k i : Nat} {data : List Byte} (asked : (s.ring k).fetching = [i]) :
    s.readFor (.desc k i) data false = s.descArrive k i data := by
  simp [State.readFor, asked]
/-- Data of a ring's only descriptor under way, unpoisoned, is that of the descriptor at its head. -/
theorem exec_descData {s : State} {tag : BitVec 8} {k i : Nat} {data : List Byte} (owned : AMap.get? s.host.reads tag.toNat = some (.desc k i))
    (asked : (s.ring k).fetching = [i]) :
    ∃ v : State, v.front = s.front ∧ exec (.hostReadData tag data false) s = .next (v.descArrive k i data).nextRead := by
  refine ⟨{ s with host := { s.host with reads := AMap.erase s.host.reads tag.toNat } }, rfl, ?_⟩
  refine congrArg Host.Outcome.next (?_ : s.readData tag.toNat data false = _)
  simp only [State.readData, owned]
  rw [State.readFor_desc]
  exact asked

/-! Poison: the ring halts (R407). -/

theorem pumpFirm_rings (n : Nat) (s : State) : (pumpFirm n s).rings = s.rings := by
  induction n generalizing s with
  | zero => rfl
  | succ n ih =>
    unfold pumpFirm
    split
    · rfl
    · dsimp only
      split
      · exact (ih _).trans rfl
      · split
        · split
          · exact (ih _).trans ((State.sendOn_rings ..).trans rfl)
          · rfl
        · rfl
theorem State.firm_rings (s : State) (op : Nat) (purp : Purp) (words : List W64) (payload : List Byte) (respLen : Nat) :
    (s.firm op purp words payload respLen).rings = s.rings := by
  unfold State.firm State.pumpFirms
  split
  · rfl
  · exact pumpFirm_rings ..
theorem State.dropReads_rings (s : State) (p : ROwner → Bool) : (s.dropReads p).rings = s.rings := rfl
theorem State.dropImage_rings (s : State) (slot : Nat) : (s.dropImage slot).rings = s.rings := congrArg Seat.rings (State.dropImage_seat s slot)
theorem State.dropNewCairn_rings (s : State) (id handle : Nat) : (s.dropNewCairn id handle).rings = s.rings := by
  unfold State.dropNewCairn
  extract_lets other
  split
  · split <;> rfl
  · rfl
theorem State.dropSave_rings (s : State) (c : Cmd) : (s.dropSave c).rings = s.rings := by
  unfold State.dropSave
  split
  · refine (State.dropNewCairn_rings ..).trans ?_
    split
    · split
      · exact State.firm_rings ..
      · rfl
    · rfl
  · rfl
theorem State.unopen_rings (s : State) (h : Nat) : (s.unopen h).rings = s.rings := by
  unfold State.unopen
  split
  · split <;> rfl
  · rfl

/-- No ring's halt has changed. -/
def SameHalts (s t : State) : Prop := ∀ j, (t.ring j).halted = (s.ring j).halted

section
variable {s t u : State}

theorem SameHalts.of_rings (h : t.rings = s.rings) : SameHalts s t := fun j => congrArg Ring.halted (State.ring_congr h j)
theorem SameHalts.refl (s : State) : SameHalts s s := fun _ => rfl
theorem SameHalts.trans (a : SameHalts s t) (b : SameHalts t u) : SameHalts s u := fun j => (b j).trans (a j)
theorem SameHalts.foldl {α : Type} {f : State → α → State} (hf : ∀ s a, SameHalts s (f s a)) (l : List α) (s : State) : SameHalts s (l.foldl f s) := by
  induction l generalizing s with
  | nil => exact SameHalts.refl s
  | cons a l ih => exact (hf s a).trans (ih _)
end

theorem State.finish_sameHalts (s : State) (c : Cmd) (d : Done) : SameHalts s (s.finish c d) := by
  intro j
  rw [State.finish_ring]
  split
  · rename_i own
    rw [own]
  · rfl
theorem State.begin_sameHalts (s : State) (d : Desc) : SameHalts s (s.begin d).2 := by
  intro j
  rw [State.begin_ring]
  split
  · rename_i own
    rw [own]
  · rfl
theorem State.cmdAbsent_sameHalts (s : State) (id status : Nat) : SameHalts s (s.cmdAbsent id status) := by
  unfold State.cmdAbsent
  split
  · exact SameHalts.refl s
  · split
    · exact (State.finish_sameHalts s _ _).trans (.of_rings (State.unopen_rings ..))
    · exact (SameHalts.of_rings (State.dropImage_rings ..)).trans (State.finish_sameHalts _ _ _)
    · exact (State.finish_sameHalts s _ _).trans (.of_rings (State.dropSave_rings ..))
    · exact State.finish_sameHalts s _ _
theorem State.abort_sameHalts (s : State) (c : Cmd) (status : Nat) : SameHalts s (s.abort c status) := by
  unfold State.abort
  split
  · refine (SameHalts.of_rings ?_).trans (State.finish_sameHalts _ _ _)
    exact (State.dropReads_rings _ _).trans (State.setStream_rings ..)
  · exact State.cmdAbsent_sameHalts (s.dropEffs c.id) c.id status
theorem State.askCancel_rings (s : State) (h code flags : Nat) (event : Bool) : (s.askCancel h code flags event).rings = s.rings := by
  rw [State.askCancel_eq]

/-- The ring marked halted, and the event logged. -/
def State.markHalted (s : State) (k addr : Nat) : State :=
  (((s.setRing k fun r => { r with halted := true, fetching := [], came := [], reread := none }).dropReads (ROwner.descOf k)).count 106 1).log
    0x0041 2 48 (w64 [(k, 0)]) (w64 [(addr, 0)]) 0#64
theorem State.markHalted_halted (s : State) (k addr : Nat) : ((s.markHalted k addr).ring k).halted = true := by
  have front : (s.markHalted k addr).front = (s.setRing k fun r => { r with halted := true, fetching := [], came := [], reread := none }).front := by
    rw [State.markHalted, State.log_front, State.count_front, State.dropReads_front]
  rw [State.ring_of_front front, State.setRing_ring, if_pos rfl]
/-- What follows the mark: its commands and the descriptors fetched complete, and its streams are cancelled. -/
def State.haltWork (s : State) (k : Nat) : State :=
  let s := (s.cmds.filter fun c => c.ring == k).foldl (fun s c => s.abort c stHalted) s
  let s := (s.ring k).fetched.foldl (fun s d => (s.begin d).2.finish (s.begin d).1 { status := stHalted }) s
  (streamsOf s k).foldl (fun s st => s.askCancel st.handle vCancelled 0 true) s
theorem State.haltWork_sameHalts (s : State) (k : Nat) : SameHalts s (s.haltWork k) := by
  refine (SameHalts.foldl (fun s c => State.abort_sameHalts s c stHalted) _ s).trans
    ((SameHalts.foldl (fun s d => ?_) _ _).trans (SameHalts.foldl (fun s st => ?_) _ _))
  · exact (State.begin_sameHalts s d).trans (State.finish_sameHalts _ _ _)
  · exact SameHalts.of_rings (State.askCancel_rings ..)
theorem State.haltRing_halted (s : State) (k addr : Nat) : ((s.haltRing k addr).ring k).halted = true := by
  cases halted : (s.ring k).halted with
  | true => simp [State.haltRing, halted]
  | false =>
    have halts : s.haltRing k addr = (s.markHalted k addr).haltWork k := if_neg (by simp [halted])
    rw [halts, State.haltWork_sameHalts]
    exact State.markHalted_halted s k addr

/-- Poisoned data of a descriptor under way halts its ring. -/
theorem exec_descPoison {s : State} {tag : BitVec 8} {k i : Nat} {data : List Byte} (owned : AMap.get? s.host.reads tag.toNat = some (.desc k i))
    (asked : (s.ring k).fetching = [i]) : ∃ t, exec (.hostReadData tag data true) s = .next t ∧ (t.ring k).halted = true := by
  have halts (v : State) (asked : (v.ring k).fetching = [i]) : ∃ addr, v.readFor (.desc k i) data true = v.haltRing k addr := by
    simp [State.readFor, asked]
  obtain ⟨addr, poisoned⟩ := halts { s with host := { s.host with reads := AMap.erase s.host.reads tag.toNat } } asked
  refine ⟨s.readData tag.toNat data true, rfl, ?_⟩
  simp only [State.readData, owned, poisoned]
  rw [State.ring_of_front (State.nextRead_front _)]
  exact State.haltRing_halted _ k addr

/-! What a descriptor that is read again, or arrives, does to its ring. -/

section
variable {s v : State} {k n : Nat} {e : RingEntry} {d : Desc} {tag : BitVec 8} {data : List Byte}

theorem State.headDesc_row (full : data.length = 64) : s.headDesc k data = mkDesc k (s.ring k).sqHead data := by
  rw [State.headDesc, List.take_of_length_le full.le]
theorem State.headDesc_of_front (front : v.front = s.front) : v.headDesc k data = s.headDesc k data := by
  rw [State.headDesc, State.ring_of_front front, State.headDesc]

/-- The re-read of a descriptor: taken, read again, or stale. -/
theorem exec_reread (again : (s.ring d.ring.toNat).reread = some n) (held : (s.ring d.ring.toNat).entry = some e)
    (served : (s.ring d.ring.toNat).served = true) (asked : (s.ring d.ring.toNat).fetching = [d.index.toNat])
    (listed : ∀ x ∈ d :: (s.ring d.ring.toNat).fetched, descListed x = true) :
    ∃ t, exec (.descriptorPhaseReread d) s = .next t ∧ RingStep d.ring.toNat s t
      ∧ (dPhase d = (s.ring d.ring.toNat).sqPhase → ∃ is,
          t.ring d.ring.toNat = { (s.ring d.ring.toNat).takeDesc (ringSize e.sqSize) d with reread := none, fetching := is })
      ∧ (dPhase d ≠ (s.ring d.ring.toNat).sqPhase → n < 3 → t.ring d.ring.toNat = { s.ring d.ring.toNat with fetching := [], reread := some (n + 1) })
      ∧ (dPhase d ≠ (s.ring d.ring.toNat).sqPhase → 3 ≤ n → ∃ b, t.ring d.ring.toNat = { s.ring d.ring.toNat with
          fetching := [], reread := none, stale := true,
          cqPend := (s.ring d.ring.toNat).cqPend ++ [{ Cpl.blank with index := (s.ring d.ring.toNat).sqHead, status := stStale, since := b }] }) := by
  obtain ⟨v, front, answers⟩ := State.rereadDesc_answers again held served asked
  have ring := State.ring_of_front front d.ring.toNat
  have read : exec (.descriptorPhaseReread d) s = .next (v.rereadIn d.ring.toNat e n d) := congrArg Host.Outcome.next answers
  have kept : RingStep d.ring.toNat s v := RingStep.of_front front
  rw [← ring] at listed ⊢
  refine ⟨_, read, ?_, fun right => (State.rereadIn_takes right listed).2, fun wrong more => (State.rereadIn_again wrong more).2,
    fun wrong fourth => ⟨_, (State.rereadIn_stale wrong fourth).2⟩⟩
  by_cases right : dPhase d = (v.ring d.ring.toNat).sqPhase
  · exact kept.trans (State.rereadIn_takes right listed).1
  · by_cases more : n < 3
    · exact kept.trans (State.rereadIn_again right more).1
    · exact kept.trans (State.rereadIn_stale right (by omega)).1

variable (owned : AMap.get? s.host.reads tag.toNat = some (.desc k (s.ring k).sqHead)) (asked : (s.ring k).fetching = [(s.ring k).sqHead])
  (unread : (s.ring k).reread = none) (held : (s.ring k).entry = some e)
include owned asked unread held

/-- Data whose phase is right: the descriptor is fetched, and what no row names is looked for. -/
theorem exec_descRight (right : dPhase (s.headDesc k data) = (s.ring k).sqPhase) : ∃ v : State, RingStep k s v
    ∧ (∃ is, v.ring k = { (s.ring k).tookDesc (ringSize e.sqSize) (s.headDesc k data) data with fetching := is })
    ∧ exec (.hostReadData tag data false) s = .next (v.pumpUnlisted k).nextRead := by
  obtain ⟨u, front, read⟩ := exec_descData (data := data) owned asked
  have ring := State.ring_of_front front k
  rw [← State.headDesc_of_front front, ← ring] at right
  rw [← ring] at unread held asked
  obtain ⟨v, step, took, arrives⟩ := State.descArrive_right held unread asked right
  rw [ring, State.headDesc_of_front front] at took
  rw [ring] at arrives
  exact ⟨v, (RingStep.of_front front).trans step, took, by rw [read, arrives]⟩
/-- Data whose phase is wrong: the descriptor is to be read again. -/
theorem exec_descWrong (wrong : dPhase (s.headDesc k data) ≠ (s.ring k).sqPhase) : ∃ v : State, RingStep k s v
    ∧ (∃ is, v.ring k = { (s.ring k).toReread with fetching := is })
    ∧ exec (.hostReadData tag data false) s = .next (v.pumpUnlisted k).nextRead := by
  obtain ⟨u, front, read⟩ := exec_descData (data := data) owned asked
  have ring := State.ring_of_front front k
  rw [← State.headDesc_of_front front, ← ring] at wrong
  rw [← ring] at unread held asked
  obtain ⟨v, step, left, arrives⟩ := State.descArrive_wrong held unread asked wrong
  rw [ring] at left arrives
  exact ⟨v, (RingStep.of_front front).trans step, left, by rw [read, arrives]⟩
end

/-- A ring all of whose descriptors a row names, as the pumps and the reads that waited leave it. -/
theorem State.pumped_ringStep {s v : State} {k : Nat} (step : RingStep k s v) (listed : ∀ x ∈ (v.ring k).fetched, descListed x = true) :
    RingStep k s (v.pumpUnlisted k).nextRead ∧ (v.pumpUnlisted k).nextRead.ring k = v.ring k := by
  rw [State.pumpUnlisted_listed listed]
  exact ⟨step.trans (RingStep.of_front (State.nextRead_front v)), State.ring_of_front (State.nextRead_front v) k⟩

/-- The only descriptor of its ring, which no row names, starts and completes BAD_DESCRIPTOR at once (R22). -/
theorem State.pumpUnlisted_completes {v : State} {k : Nat} {d : Desc} (row : d.ring.toNat = k) (only : (v.ring k).fetched = [d])
    (unlisted : descListed d = false) (serving : v.serving = true) (runs : v.start.halted = false) (served : (v.ring k).served = true)
    (idle : v.cmds = []) :
    (v.pumpUnlisted k).streams = v.streams ∧ (v.pumpUnlisted k).cmds = [] ∧ ((v.pumpUnlisted k).ring k).fetched = []
      ∧ ∃ c, ((v.pumpUnlisted k).ring k).cqPend = (v.ring k).cqPend ++ [c] ∧ c.status = stBadDesc ∧ c.tag = dTag d ∧ c.index = d.index.toNat := by
  subst row
  rw [State.pumpUnlisted_only only unlisted (State.canStart_alone serving runs served only idle)]
  refine ⟨by simp, by simp [started_cmds, idle], ?_,
    { (v.startedCmd d).entry { status := stBadDesc } with since := (v.started d).beat }, ?_, rfl, rfl, rfl⟩
  · simp [State.finish_ring, started_ring, only]
  · rw [State.finish_ring, startedCmd_ring, if_pos rfl, started_ring, if_pos rfl]

/-- Settles O22: the re-read is `exec_reread`; data that arrives is `exec_descRight` or `exec_descWrong`, after which only a descriptor of no row
goes further (`pumpUnlisted_completes`); poison is `exec_descPoison`. -/
theorem descriptorsAreTakenByTheirPhase : Obligations.DescriptorsAreTakenByTheirPhase := by
  refine ⟨fun d n e s => ⟨fun idle => ?_, fun again held served asked listed => ?_⟩, ?_⟩
  · exact congrArg Host.Outcome.next (State.rereadDesc_idle idle)
  · obtain ⟨t, read, step, right, wrong, fourth⟩ := exec_reread again held served asked listed
    refine ⟨t, read, step.others, step.streams, step.cmds, fun phase => ?_, fun phase more => ?_, fun phase last => ?_⟩
    · obtain ⟨is, ring⟩ := right phase
      rw [ring]
      exact ⟨rfl, rfl, rfl, rfl, rfl⟩
    · rw [wrong phase more]
      exact ⟨rfl, rfl, rfl⟩
    · obtain ⟨b, ring⟩ := fourth phase last
      rw [ring]
      exact ⟨rfl, rfl, rfl, _, rfl, rfl, rfl, rfl, rfl⟩
  intro tag data k e s r owned asked unread held full
  let d := s.headDesc k data
  refine ⟨⟨?_, ?_⟩, ?_⟩
  · rw [← State.headDesc_row full]
    intro listed
    by_cases phase : dPhase d = r.sqPhase
    · obtain ⟨v, step, ⟨is, ring⟩, read⟩ := exec_descRight owned asked unread held phase
      have fetched : (v.ring k).fetched = r.fetched ++ [d] := by rw [ring]; rfl
      obtain ⟨kept, same⟩ := State.pumped_ringStep step (by simpa [fetched, or_comm] using listed)
      refine ⟨_, read, kept.streams, kept.cmds, kept.others, fun _ => ?_, fun wrong => absurd phase wrong⟩
      rw [same, ring]
      exact ⟨rfl, rfl⟩
    · obtain ⟨v, step, ⟨is, ring⟩, read⟩ := exec_descWrong owned asked unread held phase
      have fetched : (v.ring k).fetched = r.fetched := by rw [ring]; rfl
      obtain ⟨kept, same⟩ := State.pumped_ringStep step (by rw [fetched]; exact fun x hx => listed x (List.mem_cons_of_mem _ hx))
      refine ⟨_, read, kept.streams, kept.cmds, kept.others, fun right => absurd right phase, fun _ => ?_⟩
      rw [same, ring]
      exact ⟨rfl, rfl, rfl⟩
  · rw [← State.headDesc_row full]
    intro unlisted phase none_fetched idle serving runs served small
    obtain ⟨v, step, ⟨is, ring⟩, read⟩ := exec_descRight owned asked unread held phase
    have fetched : (v.ring k).fetched = [d] := by rw [ring]; exact congrArg (· ++ [d]) none_fetched
    have row : d.ring.toNat = k := by simpa [d, State.headDesc, mkDesc] using small
    obtain ⟨streams, cmds, empty, c, completes, what⟩ := State.pumpUnlisted_completes row fetched unlisted
      (by rw [State.serving, step.start]; exact serving) (by rw [step.start]; exact runs)
      (by rw [ring]; simpa only [Ring.served, Ring.tookDesc, Ring.takeDesc] using served) (step.cmds.trans idle)
    have front := State.nextRead_front (v.pumpUnlisted k)
    refine ⟨_, c, read, (congrArg Front.streams front).trans (streams.trans step.streams), (congrArg Front.cmds front).trans cmds, ?_, ?_, what⟩
    · rw [State.ring_of_front front, empty]
    · rw [State.ring_of_front front, completes, ring]
      rfl
  · exact exec_descPoison owned asked

end Sys2Proof.Machine
end

section
/-! Cairns resumed and retired: two operations of a command, sent one after the other (R228, R230, R231, R313, R316). -/

namespace Sys2Proof.Machine

/-! The library of maps and sorted lists. -/

theorem AMap.mem_set {α : Type} {m : AMap α} {i : Nat} {v : α} {x : Nat × α} (h : x ∈ AMap.set m i v) : x = (i, v) ∨ x ∈ m := by
  induction m with
  | nil => exact .inl (List.mem_singleton.mp h)
  | cons y m ih =>
    unfold AMap.set at h
    split at h
    · exact List.mem_cons.mp h
    · split at h
      · exact (List.mem_cons.mp h).imp_right (List.mem_cons_of_mem _)
      · rcases List.mem_cons.mp h with rfl | h
        · exact .inr List.mem_cons_self
        · exact (ih h).imp_right (List.mem_cons_of_mem _)
theorem insertBy_ne_nil {α : Type} (key : α → Nat) (x : α) (ys : List α) : insertBy key x ys ≠ [] := by
  cases ys with
  | nil => exact List.cons_ne_nil x []
  | cons y ys =>
    unfold insertBy
    split <;> exact List.cons_ne_nil _ _
theorem sortAsc_ne_nil {α : Type} {key : α → Nat} {xs : List α} (h : xs ≠ []) : sortAsc key xs ≠ [] := by
  obtain ⟨front, last, rfl⟩ := List.eq_nil_or_concat xs |>.resolve_left h
  rw [sortAsc, List.concat_eq_append, List.foldl_append]
  exact insertBy_ne_nil key last _

/-! Room for firmware operations. -/

/-- Every channel in service takes n more firmware operations, and any that a clear may depend on is among them (R313, R316). -/
structure State.HasRoom (n : Nat) (s : State) : Prop where
  empty : s.stack.firm = []
  runs : s.clk.stopped = false
  awake : s.start.halted = false
  live : s.liveChans ≠ []
  room : ∀ c ∈ s.liveChans, n + s.creditKeep ≤ (s.chan c).credit ∧ n ≤ winRoom s c .back ∧ 9 * n ≤ respRoom s c .back false
  deps : ∀ x ∈ s.stack.chans, x.1 ∈ s.liveChans ∨ ∀ o ∈ x.2.outs, o.op ≠ 7

section
variable {n op off respLen : Nat} {s : State} {purp : Purp} {words : List W64}

theorem leastBusy_live (live : s.liveChans ≠ []) : ∃ c ∈ s.liveChans, leastBusy s = some c := by
  obtain ⟨c, cs, sorted⟩ := List.exists_cons_of_ne_nil (sortAsc_ne_nil (key := fun c => (s.chan c).respOf false) live)
  exact ⟨c, mem_sortAsc (sorted ▸ List.mem_cons_self), by rw [leastBusy, sorted, List.head?_cons]⟩
theorem State.HasRoom.tileChan_live (h : s.HasRoom n) (kind : op = 7 ∨ op = 8) {c : Nat} (found : tileChan s op off = some c) : c ∈ s.liveChans := by
  obtain ⟨x, hit, rfl⟩ := Option.map_eq_some_iff.mp found
  have outstanding := List.find?_some hit
  obtain ⟨o, ho, depends⟩ := List.any_eq_true.mp outstanding
  have clear : o.op = 7 := by
    rcases kind with rfl | rfl <;> simp at depends
    exact depends.2
  exact (h.deps x (List.mem_of_find?_eq_some hit)).resolve_right fun none => none o ho clear
theorem State.HasRoom.chanFor_live (h : s.HasRoom n) (kind : op = 7 ∨ op = 8) : ∃ c ∈ s.liveChans, chanFor s .back op off = some c := by
  cases depends : tileChan s op (off % 2 ^ 40) with
  | some c => exact ⟨c, h.tileChan_live kind depends, by rw [chanFor, depends]; rfl⟩
  | none =>
    obtain ⟨c, live, least⟩ := leastBusy_live h.live
    exact ⟨c, live, by rw [chanFor, depends]; exact least⟩
theorem State.HasRoom.chanTakes (h : s.HasRoom (n + 1)) {c : Nat} (live : c ∈ s.liveChans) (bg : purp.foreground = false) (len : respLen ≤ 8) :
    Machine.chanTakes s c .back purp 1 respLen = true := by
  obtain ⟨credit, cycles, window⟩ := h.room c live
  have serves : (s.chan c).inService = true := (Bool.and_eq_true_iff.mp (List.mem_filter.mp live).2).2
  simp only [Machine.chanTakes, serves, bg, if_true, Bool.true_and, Bool.and_eq_true, decide_eq_true_eq]
  omega

/-- A state whose firmware operations that wait are those given. -/
def State.withFirm (s : State) (os : List FirmOp) : State := { s with stack := { s.stack with firm := os } }
theorem State.withFirm_self (empty : s.stack.firm = []) : s.withFirm [] = s := by rw [State.withFirm, ← empty]
theorem State.withFirm_cmd? (s : State) (os : List FirmOp) (k : Nat) : (s.withFirm os).cmd? k = s.cmd? k := rfl
theorem State.withFirm_chanFor (s : State) (os : List FirmOp) (w : Win) (op off : Nat) : chanFor (s.withFirm os) w op off = chanFor s w op off := rfl
theorem State.withFirm_chanTakes (s : State) (os : List FirmOp) (c : Nat) (w : Win) (purp : Purp) (req respLen : Nat) :
    Machine.chanTakes (s.withFirm os) c w purp req respLen = Machine.chanTakes s c w purp req respLen := rfl
/-- The only operation that waits, of a command that is there, is sent on the channel that it takes when that has room. -/
theorem pumpFirm_sends {payload : List Byte} {c k : Nat} (serves : purp.cmd? = some k) (there : (s.cmd? k).isSome = true)
    (target : chanFor s .back op (fld (words.headD 0#64) 39 0) = some c)
    (takes : Machine.chanTakes s c .back purp (1 + cdiv payload.length 64) respLen = true) :
    pumpFirm 1 (s.withFirm [⟨op, purp, words, payload, respLen⟩]) = (s.withFirm []).sendOn c .back op purp words payload respLen := by
  obtain ⟨x, present⟩ := Option.isSome_iff_exists.mp there
  have queued : (s.withFirm [⟨op, purp, words, payload, respLen⟩]).stack.firm = [⟨op, purp, words, payload, respLen⟩] := rfl
  have kept : ((purp.cmd?.map fun k => ((s.withFirm [⟨op, purp, words, payload, respLen⟩]).cmd? k).isNone).getD false) = false := by
    simp [serves, State.withFirm_cmd?, present]
  simp only [pumpFirm, queued, kept, State.withFirm_chanFor, target, State.withFirm_chanTakes, takes, Bool.false_eq_true, if_false, if_true]
  rfl

theorem State.firm_queues {payload : List Byte} (empty : s.stack.firm = []) (runs : s.clk.stopped = false) (awake : s.start.halted = false) :
    s.firm op purp words payload respLen = pumpFirm 1 (s.withFirm [⟨op, purp, words, payload, respLen⟩]) := by
  have flows : (s.withFirm [⟨op, purp, words, payload, respLen⟩]).pumpFirms = pumpFirm 1 (s.withFirm [⟨op, purp, words, payload, respLen⟩]) :=
    if_neg (show ¬ (s.clk.stopped || s.start.halted) = true by simp [runs, awake])
  rw [← flows, State.firm, empty, List.nil_append]
  rfl

/-- An operation behind none that waits is sent at once, on a channel in service. -/
theorem State.HasRoom.firm_sends (h : s.HasRoom (n + 1)) (kind : op = 7 ∨ op = 8) (bg : purp.foreground = false) (len : respLen ≤ 8)
    {k : Nat} (serves : purp.cmd? = some k) (there : (s.cmd? k).isSome = true) :
    ∃ c ∈ s.liveChans, s.firm op purp words [] respLen = s.sendOn c .back op purp words [] respLen := by
  obtain ⟨c, live, target⟩ := h.chanFor_live (off := fld (words.headD 0#64) 39 0) kind
  have takes : Machine.chanTakes s c .back purp (1 + cdiv ([] : List Byte).length 64) respLen = true := h.chanTakes live bg len
  refine ⟨c, live, ?_⟩
  calc s.firm op purp words [] respLen
      _ = pumpFirm 1 (s.withFirm [⟨op, purp, words, [], respLen⟩]) := State.firm_queues h.empty h.runs h.awake
      _ = (s.withFirm []).sendOn c .back op purp words [] respLen := pumpFirm_sends serves there target takes
      _ = s.sendOn c .back op purp words [] respLen := by rw [State.withFirm_self h.empty]
end

/-! What an operation sent leaves. -/

/-- A channel on which a background operation of one transfer has been sent. -/
def Chan.sent (x : Chan) (o : SOp) : Chan :=
  { x with credit := x.credit - 1, nextTag := (x.nextTag + 1) % 65536, outs := x.outs ++ [o], planBack := x.planBack + 1 }

theorem State.sendOn_back (s : State) (c op : Nat) (purp : Purp) (words : List W64) (respLen : Nat) :
    ∃ o : SOp, o.purp = purp ∧ o.respLen = respLen ∧ (s.sendOn c .back op purp words [] respLen).front = (s.setChan c (·.sent o)).front
      ∧ (s.sendOn c .back op purp words [] respLen).out = s.out ++ [.stReq c op o.tag s.stack.epoch 0 (beat48 o.due) words []] := by
  obtain ⟨x, picked⟩ := s.pick_eq 235
  refine ⟨⟨(s.chan c).nextTag, op, fld (words.headD 0#64) 39 0, purp, respLen, beatAdd s.beat s.stack.brt, s.beat, (s.pick 235).1, false⟩, rfl, rfl,
    ?_, ?_⟩
  · unfold State.sendOn
    simp only [reduceCtorEq, if_false]
    rw [State.emit_front, State.ev_front, State.count_front, State.count_front, picked]
    rfl
  · unfold State.sendOn
    simp only [reduceCtorEq, if_false, State.emit, State.ev_out, State.count_out, State.setChan_out, State.ev_stack, State.count_stack, picked]
    rfl

/-- What an operation sent leaves: all of the front but the stack, and of that the epoch. -/
structure StackStep (s t : State) : Prop where
  rest : ({ t with stack := s.stack } : State).front = s.front
  epoch : t.stack.epoch = s.stack.epoch
section
variable {s t u : State}

theorem StackStep.of_front (h : t.front = s.front) : StackStep s t := by
  obtain ⟨_, _, _, _, _, rfl⟩ := exists_withBack_of_front h
  exact ⟨rfl, rfl⟩
theorem StackStep.trans (a : StackStep s t) (b : StackStep t u) : StackStep s u :=
  ⟨(congrArg (fun f : Front => { f with stack := s.stack }) b.rest).trans a.rest, b.epoch.trans a.epoch⟩
theorem StackStep.setChan (s : State) (c : Nat) (f : Chan → Chan) : StackStep s (s.setChan c f) := ⟨rfl, rfl⟩
theorem StackStep.streams (h : StackStep s t) : t.streams = s.streams := congrArg Front.streams h.rest
theorem StackStep.cairns (h : StackStep s t) : t.cairns = s.cairns := congrArg Front.cairns h.rest
theorem StackStep.cmds (h : StackStep s t) : t.cmds = s.cmds := congrArg Front.cmds h.rest
theorem StackStep.rings (h : StackStep s t) : t.rings = s.rings := congrArg Front.rings h.rest
theorem StackStep.cairnOff (h : StackStep s t) (pair loc : Nat) : Machine.cairnOff t pair loc = Machine.cairnOff s pair loc := by
  have only : Machine.cairnOff t pair loc = Machine.cairnOff { s with build := t.build, regs := t.regs } pair loc := rfl
  have build : t.build = s.build := congrArg Front.build h.rest
  have regs : t.regs = s.regs := congrArg Front.regs h.rest
  rw [only, build, regs]

theorem State.HasRoom.of_front {n : Nat} (room : s.HasRoom n) (h : t.front = s.front) : t.HasRoom n := by
  obtain ⟨_, _, _, _, _, rfl⟩ := exists_withBack_of_front h
  exact ⟨room.empty, room.runs, room.awake, room.live, room.room, room.deps⟩
end

theorem Chan.sent_respOf (x : Chan) (o : SOp) (bg : o.purp.foreground = false) : (x.sent o).respOf false = x.respOf false + (1 + o.respLen) := by
  simp [Chan.sent, Chan.respOf, sumBy, List.foldl_append, bg]
/-- A channel on which an operation has been sent has room for one fewer. -/
theorem State.HasRoom.sent {s : State} {n c : Nat} {o : SOp} (h : s.HasRoom (n + 1)) (live : c ∈ s.liveChans) (bg : o.purp.foreground = false)
    (len : o.respLen ≤ 8) : (s.setChan c (·.sent o)).HasRoom n := by
  have same : (s.setChan c (·.sent o)).liveChans = s.liveChans := by
    refine List.filter_congr fun j _ => ?_
    have serves : ((s.setChan c (·.sent o)).chan j).inService = (s.chan j).inService := by
      rw [State.setChan_chan]
      split
      · rename_i own
        rw [own]
        rfl
      · rfl
    rw [serves]
    rfl
  refine ⟨h.empty, h.runs, h.awake, same ▸ h.live, ?_, ?_⟩
  · rw [same]
    intro j hj
    obtain ⟨credit, cycles, window⟩ := h.room j hj
    have keep : (s.setChan c (·.sent o)).creditKeep = s.creditKeep := rfl
    simp only [winRoom, respRoom, firstLoad, depLoad, Bool.false_eq_true, if_false] at cycles window
    simp only [keep, winRoom, respRoom, firstLoad, depLoad, State.setChan_chan, State.setChan_plan, Bool.false_eq_true, if_false]
    by_cases own : j = c
    · subst own
      rw [if_pos rfl, Chan.sent_respOf _ _ bg]
      simp only [Chan.sent]
      omega
    · rw [if_neg own]
      omega
  · intro x hx
    rcases AMap.mem_set hx with rfl | older
    · exact .inl (same ▸ live)
    · exact (h.deps x older).imp_left fun hj => same ▸ hj

/-- One firmware operation of a command that is there, with room for one more: it is sent, and the rest of the room stays. -/
theorem State.HasRoom.firm_step {s : State} {n op respLen : Nat} {purp : Purp} {words : List W64} (h : s.HasRoom (n + 1)) (kind : op = 7 ∨ op = 8)
    (bg : purp.foreground = false) (len : respLen ≤ 8) {k : Nat} (serves : purp.cmd? = some k) (there : (s.cmd? k).isSome = true) :
    (s.firm op purp words [] respLen).HasRoom n ∧ StackStep s (s.firm op purp words [] respLen)
      ∧ ∃ c tag due, (s.firm op purp words [] respLen).out = s.out ++ [.stReq c op tag s.stack.epoch 0 due words []] := by
  obtain ⟨c, live, sent⟩ := h.firm_sends (words := words) kind bg len serves there
  obtain ⟨o, hp, hl, front, out⟩ := s.sendOn_back c op purp words respLen
  rw [sent]
  exact ⟨(h.sent live (hp ▸ bg) (hl ▸ len)).of_front front, (StackStep.setChan s c (·.sent o)).trans (StackStep.of_front front), c, o.tag, _, out⟩

/-- Two in a row, the second behind the first. -/
theorem State.HasRoom.firm_twice {s : State} {op respLen : Nat} {p q : Purp} {v w : List W64} (h : s.HasRoom 2) (kind : op = 7 ∨ op = 8)
    (bg : p.foreground = false ∧ q.foreground = false) (len : respLen ≤ 8) {k : Nat} (serves : p.cmd? = some k ∧ q.cmd? = some k)
    (there : (s.cmd? k).isSome = true) :
    StackStep s ((s.firm op p v [] respLen).firm op q w [] respLen)
      ∧ ∃ a b, ((s.firm op p v [] respLen).firm op q w [] respLen).out = s.out ++ [a, b]
        ∧ (∃ c tag due, a = .stReq c op tag s.stack.epoch 0 due v []) ∧ ∃ c tag due, b = .stReq c op tag s.stack.epoch 0 due w [] := by
  obtain ⟨left, first, c, tag, due, out⟩ := h.firm_step (words := v) kind bg.1 len serves.1 there
  have still : ((s.firm op p v [] respLen).cmd? k).isSome = true := by
    rw [State.cmd?, first.cmds]
    exact there
  obtain ⟨-, second, c', tag', due', out'⟩ := left.firm_step (words := w) kind bg.2 len serves.2 still
  rw [out, first.epoch, List.append_assoc] at out'
  exact ⟨first.trans second, _, _, out', ⟨c, tag, due, rfl⟩, c', tag', due', rfl⟩

/-! The bodies of the two commands. -/

section
variable {u : State} {c : Cmd} {d : Desc} {st : Stream} {k : Cairn}

/-- A stream that has taken no input. -/
def Stream.Untouched (st : Stream) : Prop := st.pos = 0 ∧ st.ingested = false ∧ st.phase = .inputOpen ∧ st.p0 = 0
theorem Stream.untouched_iff {st : Stream} : st.Untouched ↔ (st.pos ≠ 0 || st.ingested || st.phase ≠ .inputOpen || st.p0 ≠ 0) = false := by
  simp [Stream.Untouched, and_assoc]

section
variable (hs : u.stream? c.stream = some st)
include hs
theorem resumeBody_used (used : ¬ st.Untouched) : resumeBody d u c = u.finish c { status := stState } := by
  rw [Stream.untouched_iff, Bool.not_eq_false] at used
  simp only [resumeBody, hs, used, if_true]
variable (fresh : st.Untouched)
include fresh
theorem resumeBody_absent (absent : AMap.get? u.cairns (dfld d 2 63 0) = none) : resumeBody d u c = u.finish c { status := stNotFound } := by
  simp only [resumeBody, hs, Stream.untouched_iff.mp fresh, absent, Bool.false_eq_true, if_false]
theorem resumeBody_foreign (held : AMap.get? u.cairns (dfld d 2 63 0) = some k) (other : k.tenant ≠ st.tenant) :
    resumeBody d u c = u.finish c { status := stState } := by
  simp only [resumeBody, hs, Stream.untouched_iff.mp fresh, held, Bool.false_eq_true, if_false]
  exact if_pos other
theorem resumeBody_loads (held : AMap.get? u.cairns (dfld d 2 63 0) = some k) (own : k.tenant = st.tenant) :
    resumeBody d u c = loadCairn (u.keep c (.resumeC st.handle (dfld d 2 63 0) [])) c.id k := by
  simp only [resumeBody, hs, Stream.untouched_iff.mp fresh, held, Bool.false_eq_true, if_false]
  exact if_neg (not_not_intro own)
end

theorem mayRetire {e : RingEntry} {tn : Nat} (may : e.admin = true ∨ e.tenant = tn) : (!e.admin && decide (e.tenant ≠ tn)) = false := by
  rcases may with admin | own
  · simp [admin]
  · simp [own]
section
variable {e : RingEntry} (he : (u.ring c.ring).entry = some e)
include he
theorem retireBody_barred (plain : e.admin = false) (other : e.tenant ≠ dfld d 3 11 0) : retireBody d u c = u.finish c { status := stBadTenant } := by
  have barred : (!e.admin && decide (e.tenant ≠ dfld d 3 11 0)) = true := by simp [plain, other]
  simp only [retireBody, he, barred, if_true]
variable (may : e.admin = true ∨ e.tenant = dfld d 3 11 0)
include may
theorem retireBody_absent (absent : AMap.get? u.cairns (dfld d 2 63 0) = none) : retireBody d u c = u.finish c { status := stNotFound } := by
  simp only [retireBody, he, mayRetire may, absent, Bool.false_eq_true, if_false]
variable (held : AMap.get? u.cairns (dfld d 2 63 0) = some k)
include held
theorem retireBody_foreign (other : k.tenant ≠ dfld d 3 11 0) : retireBody d u c = u.finish c { status := stBadTenant } := by
  simp only [retireBody, he, mayRetire may, held, Bool.false_eq_true, if_false]
  exact if_pos other
theorem retireBody_asks (own : k.tenant = dfld d 3 11 0) : retireBody d u c = (u.keep c (.retireC (dfld d 2 63 0) 0)).pumpRetires := by
  simp only [retireBody, he, mayRetire may, held, Bool.false_eq_true, if_false]
  exact if_neg (not_not_intro own)
end

/-- A retire goes on: it clears both locations once nothing that came before it uses them. -/
def State.pumpRetire (s : State) (c : Cmd) : State :=
  match c.k with
  | .retireC handle 0 =>
    if resuming s handle || handleBusy s c.id handle then s
    else
      match AMap.get? s.cairns handle with
      | none => s.finish c { status := stNotFound }
      | some k =>
        ((s.keep c (.retireC handle 2)).firm 7 (.retireClear c.id) [w64 [(cairnOff s k.pair 0, 0), (1, 40)]] [] 0).firm
          7 (.retireClear c.id) [w64 [(cairnOff s k.pair 1, 0), (1, 40)]] [] 0
  | _ => s
theorem State.pumpRetire_other (other : ∀ y, c.k ≠ .retireC y 0) (s : State) : s.pumpRetire c = s := by
  unfold State.pumpRetire
  split
  · exact absurd ‹_› (other _)
  · rfl
theorem State.pumpRetire_waits {x : Nat} (kind : c.k = .retireC x 0) (busy : resuming u x = true ∨ handleBusy u c.id x = true) : u.pumpRetire c = u := by
  have waits : (resuming u x || handleBusy u c.id x) = true := by simpa using busy
  simp only [State.pumpRetire, kind, waits, if_true]
theorem State.pumpRetire_clears {x : Nat} (kind : c.k = .retireC x 0) (none_resumes : resuming u x = false) (first : handleBusy u c.id x = false)
    (held : AMap.get? u.cairns x = some k) : u.pumpRetire c =
      ((u.keep c (.retireC x 2)).firm 7 (.retireClear c.id) [w64 [(cairnOff u k.pair 0, 0), (1, 40)]] [] 0).firm
        7 (.retireClear c.id) [w64 [(cairnOff u k.pair 1, 0), (1, 40)]] [] 0 := by
  simp only [State.pumpRetire, kind, none_resumes, first, held, Bool.or_self, Bool.false_eq_true, if_false]
end

/-! A retire that has just started. -/

section
variable {s : State} {d : Desc} (fresh : ∀ c ∈ s.cmds, c.id ≠ s.nextId)
include fresh
theorem startedOn_resuming (x n y : Nat) : resuming (s.startedOn d (.retireC x n)) y = resuming s y := by
  simp [resuming, startedOn_cmds fresh, State.startedAs]
theorem startedOn_handleBusy (x n y : Nat) : handleBusy (s.startedOn d (.retireC x n)) s.nextId y = handleBusy s s.nextId y := by
  simp [handleBusy, startedOn_cmds fresh, State.startedAs]
end

/-! The two commands, with room for both of their operations. -/

theorem State.HasRoom.keep {s : State} {n : Nat} (h : s.HasRoom n) (c : Cmd) (k : CmdK) : (s.keep c k).HasRoom n :=
  ⟨h.empty, h.runs, h.awake, h.live, h.room, h.deps⟩
theorem cairnOff_congr {s t : State} (regs : t.regs = s.regs) (pair loc : Nat) : cairnOff t pair loc = cairnOff s pair loc := by
  simp [cairnOff, State.region, regs]

/-- A command that runs on as k sends two operations. -/
theorem runs_firm_twice {s v : State} {d : Desc} {op respLen : Nat} {p q : Purp} {x y : List W64} {k : CmdK} (room : v.HasRoom 2)
    (cmds : v.cmds = s.cmds ++ [s.startedAs d k]) (rings : v.rings = (s.started d).rings) (kind : op = 7 ∨ op = 8)
    (bg : p.foreground = false ∧ q.foreground = false) (len : respLen ≤ 8) (serves : p.cmd? = some s.nextId ∧ q.cmd? = some s.nextId) :
    Runs s ((v.firm op p x [] respLen).firm op q y [] respLen) d k ∧ StackStep v ((v.firm op p x [] respLen).firm op q y [] respLen)
      ∧ ∃ a b, ((v.firm op p x [] respLen).firm op q y [] respLen).out = v.out ++ [a, b]
        ∧ (∃ c tag due, a = .stReq c op tag v.stack.epoch 0 due x []) ∧ ∃ c tag due, b = .stReq c op tag v.stack.epoch 0 due y [] := by
  have mine : s.startedAs d k ∈ v.cmds := cmds ▸ List.mem_append_right _ List.mem_cons_self
  have there : (v.cmd? s.nextId).isSome = true := List.find?_isSome.mpr ⟨_, mine, beq_self_eq_true s.nextId⟩
  obtain ⟨step, sent⟩ := room.firm_twice (v := x) (w := y) kind bg len serves there
  exact ⟨runs_of_mem (step.cmds.symm ▸ mine) (State.ring_congr (step.rings.trans rings) _), step, sent⟩

section
variable {s : State} {d : Desc} (room : (s.started d).HasRoom 2) (fresh : ∀ c ∈ s.cmds, c.id ≠ s.nextId)
include room fresh

/-- RESUME_CAIRN reads both locations. -/
theorem resume_loads (h x : Nat) (k : Cairn) :
    ∃ t, loadCairn (s.startedOn d (.resumeC h x [])) s.nextId k = t ∧ Runs s t d (.resumeC h x []) ∧ t.streams = s.streams ∧ t.cairns = s.cairns
      ∧ ∃ a b, t.out = s.out ++ [a, b] ∧ (∃ c tag due, a = .stReq c 8 tag s.stack.epoch 0 due [w64 [(cairnOff s k.pair 0, 0)]] [])
        ∧ ∃ c tag due, b = .stReq c 8 tag s.stack.epoch 0 due [w64 [(cairnOff s k.pair 1, 0)]] [] := by
  have off (loc : Nat) : cairnOff (s.startedOn d (.resumeC h x [])) k.pair loc = cairnOff s k.pair loc := cairnOff_congr (started_regs s d) ..
  have stack : (s.startedOn d (.resumeC h x [])).stack = s.stack := started_stack s d
  have out : (s.startedOn d (.resumeC h x [])).out = s.out := State.begin_out s d
  obtain ⟨runs, step, sent⟩ := runs_firm_twice (op := 8) (respLen := 8) (p := .cairnLoad s.nextId 0) (q := .cairnLoad s.nextId 1)
    (x := [w64 [(cairnOff s k.pair 0, 0)]]) (y := [w64 [(cairnOff s k.pair 1, 0)]]) (room.keep (s.startedCmd d) (.resumeC h x []))
    (startedOn_cmds fresh _) rfl (.inr rfl) ⟨rfl, rfl⟩ le_rfl ⟨rfl, rfl⟩
  refine ⟨_, ?_, runs, step.streams.trans (started_streams s d), step.cairns.trans (started_cairns s d), ?_⟩
  · simp only [loadCairn, off]
    rfl
  · rw [← stack, ← out]
    exact sent

/-- RETIRE_CAIRN, with nothing before it that uses its cairn, clears both locations. -/
theorem retire_clears {x : Nat} {k : Cairn} (none_resumes : resuming s x = false) (first : handleBusy s s.nextId x = false)
    (held : AMap.get? s.cairns x = some k) :
    ∃ t, (s.startedOn d (.retireC x 0)).pumpRetire (s.startedAs d (.retireC x 0)) = t ∧ Runs s t d (.retireC x 2) ∧ t.cairns = s.cairns
      ∧ ∃ a b, t.out = s.out ++ [a, b] ∧ (∃ c tag due, a = .stReq c 7 tag s.stack.epoch 0 due [w64 [(cairnOff s k.pair 0, 0), (1, 40)]] [])
        ∧ ∃ c tag due, b = .stReq c 7 tag s.stack.epoch 0 due [w64 [(cairnOff s k.pair 1, 0), (1, 40)]] [] := by
  have off (loc : Nat) : cairnOff (s.startedOn d (.retireC x 0)) k.pair loc = cairnOff s k.pair loc := cairnOff_congr (started_regs s d) ..
  let v := (s.startedOn d (.retireC x 0)).keep (s.startedAs d (.retireC x 0)) (.retireC x 2)
  have stack : v.stack = s.stack := started_stack s d
  have out : v.out = s.out := State.begin_out s d
  have cmds : v.cmds = s.cmds ++ [s.startedAs d (.retireC x 2)] := State.keep_cmds_last (startedOn_cmds fresh _) fresh _
  obtain ⟨runs, step, sent⟩ := runs_firm_twice (op := 7) (respLen := 0) (p := .retireClear s.nextId) (q := .retireClear s.nextId)
    (x := [w64 [(cairnOff s k.pair 0, 0), (1, 40)]]) (y := [w64 [(cairnOff s k.pair 1, 0), (1, 40)]])
    ((room.keep (s.startedCmd d) (.retireC x 0)).keep (s.startedAs d (.retireC x 0)) (.retireC x 2)) cmds rfl
    (.inl rfl) ⟨rfl, rfl⟩ (by omega) ⟨rfl, rfl⟩
  refine ⟨_, ?_, runs, step.cairns.trans (started_cairns s d), ?_⟩
  · have free : resuming (s.startedOn d (.retireC x 0)) x = false := (startedOn_resuming fresh x 0 x).trans none_resumes
    have next : handleBusy (s.startedOn d (.retireC x 0)) (s.startedAs d (.retireC x 0)).id x = false := (startedOn_handleBusy fresh x 0 x).trans first
    rw [State.pumpRetire_clears rfl free next (k := k) (by rw [← held]; exact congrArg (AMap.get? · x) (started_cairns s d)), off, off]
    rfl
  · rw [← stack, ← out]
    exact sent
end

section
variable {s : State} {d : Desc} (ok : s.accepts d = true)
include ok
theorem exec_resumeCairn (op : d.opcode = 0x07) : exec (.resumeCairn d) s = .next (resumeBody d (s.started d) (s.startedCmd d)) :=
  congrArg Host.Outcome.next (runDesc_accepts ok (by simp [op]) _)
theorem exec_retireCairn (op : d.opcode = 0x08) : exec (.retireCairn d) s = .next (retireBody d (s.started d) (s.startedCmd d)) :=
  congrArg Host.Outcome.next (runDesc_accepts ok (by simp [op]) _)
/-- A retire that its checks let on, where no older retire waits. -/
theorem exec_retireCairn_runs {e : RingEntry} {k : Cairn} (op : d.opcode = 0x08) (he : ((s.started d).ring d.ring.toNat).entry = some e)
    (may : e.admin = true ∨ e.tenant = dfld d 3 11 0) (held : AMap.get? s.cairns (dfld d 2 63 0) = some k) (own : k.tenant = dfld d 3 11 0)
    (older : ∀ c ∈ s.cmds, ∀ y, c.k ≠ .retireC y 0) (fresh : ∀ c ∈ s.cmds, c.id ≠ s.nextId) :
    exec (.retireCairn d) s =
      .next ((s.startedOn d (.retireC (dfld d 2 63 0) 0)).pumpRetire (s.startedAs d (.retireC (dfld d 2 63 0) 0))) := by
  rw [exec_retireCairn ok op, retireBody_asks he may (k := k) (by rw [started_cairns, held]) own]
  exact congrArg Host.Outcome.next (foldl_startedOn fresh State.pumpRetire fun u c hc => State.pumpRetire_other (older c hc) u)
end

/-- Settles O39: the bodies' cases (`resumeBody_used` and the rest, `retireBody_absent` and the rest); with room, the two operations are sent one after the other
(`resume_loads`, `retire_clears`). -/
theorem resumeAndRetireCairn : Obligations.ResumeAndRetireCairn := by
  intro d s u x room
  have roomy (h : room) : u.HasRoom 2 := by
    obtain ⟨empty, runs, awake, live, takes, no_clear⟩ := h
    exact ⟨empty, (started_clk s d).symm ▸ runs, (started_start s d).symm ▸ awake, live, takes, fun c hc => .inr (no_clear c hc)⟩
  constructor
  · intro st ok op hs fresh
    have named : u.stream? (s.startedCmd d).stream = some st := (State.stream?_congr (started_streams s d) _).trans hs
    have cairns : AMap.get? u.cairns x = AMap.get? s.cairns x := congrArg (AMap.get? · x) (started_cairns s d)
    rw [exec_resumeCairn ok op]
    refine ⟨fun refused known => ⟨_, rfl, ?_⟩, fun untouched absent => ⟨_, rfl, ?_⟩, fun k untouched held own h ids => ?_⟩
    · have stays : resumeBody d u (s.startedCmd d) = u.finish (s.startedCmd d) { status := stState } := by
        by_cases untouched : fresh
        · obtain ⟨k, held, other⟩ := refused.resolve_left (not_not_intro untouched)
          exact resumeBody_foreign named untouched (cairns.trans held) other
        · exact resumeBody_used named untouched
      rw [stays]
      exact ⟨completes_started s d _, by simp [u], by simp [u]⟩
    · rw [resumeBody_absent named untouched (cairns.trans absent)]
      exact ⟨completes_started s d _, by simp [u]⟩
    · rw [resumeBody_loads named untouched (cairns.trans held) own]
      obtain ⟨t, loads, rest⟩ := resume_loads (roomy h) ids st.handle x k
      exact ⟨t, congrArg Host.Outcome.next loads, rest⟩
  · intro e ok op he older ids tn
    refine ⟨fun plain other => ?_, fun may absent => ?_, fun k may held => ⟨fun other => ?_, fun own busy => ?_, fun own none_resumes first h => ?_⟩⟩
    · rw [exec_retireCairn ok op, retireBody_barred he plain other]
      exact ⟨_, rfl, completes_started s d _, by simp⟩
    · rw [exec_retireCairn ok op, retireBody_absent he may (by rw [started_cairns, absent])]
      exact ⟨_, rfl, completes_started s d _, by simp⟩
    · rw [exec_retireCairn ok op, retireBody_foreign he may (k := k) (by rw [started_cairns, held]) other]
      exact ⟨_, rfl, completes_started s d _, by simp⟩
    · rw [exec_retireCairn_runs ok op he may held own older ids, State.pumpRetire_waits rfl]
      · refine ⟨_, rfl, runs_of_mem ?_ rfl, started_cairns s d, State.begin_out s d⟩
        exact (startedOn_cmds ids _).symm ▸ List.mem_append_right _ List.mem_cons_self
      · exact busy.imp (startedOn_resuming ids x 0 x).trans (startedOn_handleBusy ids x 0 x).trans
    · obtain ⟨t, clears, rest⟩ := retire_clears (roomy h) ids none_resumes first held
      exact ⟨t, (exec_retireCairn_runs ok op he may held own older ids).trans (congrArg Host.Outcome.next clears), rest⟩

end Sys2Proof.Machine
end

section
/-! Records of the port that are not taken, and parts of a step open too long (R121, R126, R128, Table 4-5). -/

namespace Sys2Proof.Machine

/-! A slot fault. -/

/-- A slot fault whatever its stream's phase: counted, with the end of an output that is open scheduled (R128). -/
theorem State.slotFault_eq (s : State) (st : Stream) : s.slotFault st =
    { s.count 10 1 with sched := if st.phase = .inputOpen ∨ st.phase = .answering then s.sched ++ [⟨s.nextB, .endOutput st.handle vIncomplete, 0⟩]
        else s.sched } := by
  by_cases phase : st.phase = .inputOpen ∨ st.phase = .answering
  · rw [State.slotFault_of_open phase, if_pos phase]
    rfl
  · rw [if_neg phase]
    exact if_neg (by simpa using phase)

/-! A record that is not taken. -/

/-- A record of the port runs the checks of its kind. -/
theorem exec_portRecord {c : Instr} {k : Nat} {w : W64}
    (hc : (c, k) ∈ [(.committedToken w, 0), (.draftToken w, 1), (.acceptMarker w, 2), (.stepEnd w, 3)]) (s : State) :
    exec c s = .next (s.portRecord k w) ∧ k < 5 := by
  simp only [List.mem_cons, Prod.mk.injEq, List.not_mem_nil, or_false] at hc
  obtain ⟨rfl, rfl⟩ | ⟨rfl, rfl⟩ | ⟨rfl, rfl⟩ | ⟨rfl, rfl⟩ := hc <;> exact ⟨rfl, by decide⟩

section
variable {s : State} {st : Stream} {k : Nat} {w : W64}

theorem State.portRecord_of_shut (shut : s.portOpen = false) : s.portRecord k w = s := if_pos (by simp [shut])

/-- A step at or before the slot's last closed one, or before its open one (R126). -/
theorem State.partRecord_of_late (late : frameLate st (tkStep w) = true) : s.partRecord st k w = s.slotFault st := if_pos late
/-- A record that its slot's open part cannot take (R127, R210, R211). -/
theorem State.partRecord_of_misfit {q : StepPart} (part : st.step = some q) (seq : q.seq = tkStep w)
    (misfit : partFault q (s.maxDraft st.rc) k w = true) : s.partRecord st k w = s.slotFault st := by
  by_cases late : frameLate st (tkStep w) = true
  · exact State.partRecord_of_late late
  · refine (if_neg late).trans ?_
    simp [part, seq, misfit]

section
variable (isOpen : s.portOpen = true) (kind : tkKind w = k)
include isOpen kind

theorem State.portRecord_of_unbound (unbound : s.bound? (tkSlot w) = none) : s.portRecord k w = s.count 11 1 := by
  simp [State.portRecord, isOpen, kind, unbound]

variable (bound : s.bound? (tkSlot w) = some st)
include bound

/-- A closing stream's record is only counted (Table 4-5; the counter is log 19's). -/
theorem State.portRecord_of_closing (closing : st.phase = .closing) : s.portRecord k w = s.count 12 1 := by
  simp [State.portRecord, isOpen, kind, bound, closing]

variable (going : st.phase ≠ .closing)
include going

/-- A field that has to be 0 or is out of range is a slot fault (Table 4-3). -/
theorem State.portRecord_of_badFields (bad : badFields (s.vocabOf st) k w = true) : s.portRecord k w = s.slotFault st := by
  simp [State.portRecord, isOpen, kind, bound, going, bad]
/-- A record of sound fields is counted for its kind and goes on to its part of a step. -/
theorem State.portRecord_of_sound (small : k < 5) (sound : badFields (s.vocabOf st) k w = false) :
    s.portRecord k w = (s.count (5 + k) 1).partRecord st k w := by
  simp [State.portRecord, isOpen, kind, bound, going, sound, small]

/-- A record that meets any condition of a slot fault is one; unless its fields are at fault it has been counted for its kind (R121, R127). -/
theorem State.portRecord_of_fault (small : k < 5)
    (fault : badFields (s.vocabOf st) k w = true ∨ frameLate st (tkStep w) = true
      ∨ ∃ q, st.step = some q ∧ q.seq = tkStep w ∧ partFault q (s.maxDraft st.rc) k w = true) :
    s.portRecord k w = s.slotFault st ∨ s.portRecord k w = (s.count (5 + k) 1).slotFault st := by
  cases bad : badFields (s.vocabOf st) k w with
  | true => exact .inl (State.portRecord_of_badFields isOpen kind bound going bad)
  | false =>
    refine .inr ((State.portRecord_of_sound isOpen kind bound going small bad).trans ?_)
    obtain impossible | late | ⟨q, part, seq, misfit⟩ := fault
    · cases bad.symm.trans impossible
    · exact State.partRecord_of_late late
    · exact State.partRecord_of_misfit part seq misfit
end
end

theorem frameLate_of_closed {st : Stream} {step l : Nat} (closed : st.lastClosed = some l) (late : stepAfter step l = false) :
    frameLate st step = true := by
  simp [frameLate, closed, late]
theorem frameLate_of_part {st : Stream} {step : Nat} {q : StepPart} (part : st.step = some q) (other : q.seq ≠ step)
    (late : stepAfter step q.seq = false) : frameLate st step = true := by
  simp [frameLate, part, other, late]

/-! Parts of a step, and waits for a frame, of 4,096 beats (Table 4-5). -/

/-- A slot's part of a step that has been open for 4,096 beats closes, with a slot fault. -/
def State.closeAged (s : State) (st : Stream) (slot : Nat) : State :=
  match st.step with
  | some p => if beatLe (beatAdd p.first 4096) s.beat then (s.closePart st.handle slot p).slotFault st else s
  | none => s
/-- A record of stream h has waited for its frame for 4,096 beats. -/
def frameOverdue (h beat : Nat) (r : Rec) : Bool :=
  r.h == h && r.needFrame && !r.arrived && beatLe (beatAdd r.arriveBeat 4096) beat
/-- The records of a stream that are overdue are dropped, with a slot fault if there is one. -/
def State.dropOverdue (s : State) (st : Stream) (beat : Nat) : State :=
  if s.recs.any (frameOverdue st.handle beat) then
    ({ s with recs := s.recs.filter fun r => !frameOverdue st.handle beat r } : State).slotFault st
  else s

theorem State.stepTimeout_of_unbound {s : State} {slot : Nat} (unbound : s.bound? slot = none) : s.stepTimeout slot = s := by
  unfold State.stepTimeout
  rw [unbound]
theorem State.stepTimeout_of_bound {s : State} {slot : Nat} {st : Stream} (bound : s.bound? slot = some st) :
    s.stepTimeout slot = (s.closeAged st slot).dropOverdue st s.beat := by
  unfold State.stepTimeout
  rw [bound]
  rfl
theorem State.closeAged_of_young {s : State} {st : Stream} (young : ∀ p, st.step = some p → beatLe (beatAdd p.first 4096) s.beat = false)
    (slot : Nat) : s.closeAged st slot = s := by
  cases part : st.step with
  | none => simp [State.closeAged, part]
  | some p => simp [State.closeAged, part, young p part]
theorem State.closeAged_of_old {s : State} {st : Stream} {p : StepPart} (part : st.step = some p)
    (old : beatLe (beatAdd p.first 4096) s.beat = true) (slot : Nat) :
    s.closeAged st slot = (s.closePart st.handle slot p).slotFault st := by
  simp [State.closeAged, part, old]

/-- The marker a closed part leaves waits for no frame (R220). -/
theorem State.closePart_overdue (s : State) (g slot : Nat) (p : StepPart) (h beat : Nat) :
    (s.closePart g slot p).recs.any (frameOverdue h beat) = s.recs.any (frameOverdue h beat) := by
  have shut : (s.partShut g slot p).recs = s.recs := State.setStream_recs ..
  rw [State.closePart_eq]
  split
  · simp [shut, frameOverdue, switchRec, Rec.blank]
  · rw [shut]

/-- Settles O29: the checks that a record fails (`portRecord_of_…`) all end in `slotFault`; a timeout closes the part that is old
(`closeAged_of_old`) or leaves it (`closeAged_of_young`), and drops what is overdue. -/
theorem slotFaultsEndTheOutput : Obligations.SlotFaultsEndTheOutput := by
  refine ⟨fun w s c k hc => ?_, fun slot s idle => ?_, fun slot st s isOpen bound hs => ?_⟩
  · obtain ⟨runs, small⟩ := exec_portRecord hc s
    rw [runs]
    refine ⟨fun shut => congrArg Host.Outcome.next (State.portRecord_of_shut shut),
      fun isOpen kind unbound => congrArg Host.Outcome.next (State.portRecord_of_unbound isOpen kind unbound),
      fun st isOpen kind bound closing => congrArg Host.Outcome.next (State.portRecord_of_closing isOpen kind bound closing),
      fun st isOpen kind bound going fault => ⟨_, rfl, ?_⟩⟩
    have faults : badFields (s.vocabOf st) k w = true ∨ frameLate st (tkStep w) = true
        ∨ ∃ q, st.step = some q ∧ q.seq = tkStep w ∧ partFault q (s.maxDraft st.rc) k w = true := by
      obtain bad | ⟨l, closed, late⟩ | ⟨q, part, other, late⟩ | misfit := fault
      · exact .inl bad
      · exact .inr (.inl (frameLate_of_closed closed late))
      · exact .inr (.inl (frameLate_of_part part other late))
      · exact .inr (.inr misfit)
    obtain eq | eq := State.portRecord_of_fault isOpen kind bound going small faults <;> rw [eq, State.slotFault_eq]
    · exact ⟨rfl, rfl, rfl, rfl, State.count_counter s 10 1 10, rfl⟩
    · refine ⟨rfl, rfl, rfl, rfl, (State.count_counter _ 10 1 10).trans ?_, rfl⟩
      rw [if_pos rfl, State.count_counter, if_neg (by omega)]
  · refine congrArg Host.Outcome.next ?_
    obtain shut | unbound := idle
    · exact if_neg (by simp [shut])
    · rw [State.stepTimeout_of_unbound unbound, ite_self]
  · have runs : exec (.stepOpenTimeout slot) s = .next (s.stepTimeout slot.toNat) := congrArg Host.Outcome.next (if_pos isOpen)
    rw [runs, State.stepTimeout_of_bound bound]
    intro late
    refine ⟨fun young => ?_, fun p part old timely phase => ?_⟩
    · rw [State.closeAged_of_young young]
      refine ⟨fun timely => congrArg Host.Outcome.next (if_neg (Bool.not_eq_true _ ▸ timely)), fun overdue phase => ?_⟩
      have drops : s.dropOverdue st s.beat = ({ s with recs := s.recs.filter fun r => !late r } : State).slotFault st := if_pos overdue
      refine ⟨_, congrArg Host.Outcome.next drops, ?_⟩
      rw [State.slotFault_of_open phase]
      exact ⟨rfl, rfl, rfl, rfl, rfl⟩
    · have side := s.closePart_side st.handle slot.toNat p
      have faulted := State.slotFault_of_open phase (s.closePart st.handle slot.toNat p)
      have keeps : ((s.closePart st.handle slot.toNat p).slotFault st).dropOverdue st s.beat = (s.closePart st.handle slot.toNat p).slotFault st := by
        rw [faulted]
        exact if_neg (Bool.not_eq_true _ ▸ (s.closePart_overdue st.handle slot.toNat p st.handle s.beat).trans timely)
      rw [State.closeAged_of_old part old, keeps, faulted]
      refine ⟨_, _, rfl, State.closePart_stream? hs slot.toNat p, rfl, rfl, ?_, side.tenants, side.rings⟩
      have sameBoundary : (s.closePart st.handle slot.toNat p).nextB = s.nextB := congrArg (beatAdd · 1) (s.closePart_beat st.handle slot.toNat p)
      rw [← side.sched, ← sameBoundary]
      rfl
end Sys2Proof.Machine
end

section
/-! INGEST: its refusals, and a buffer that begins to be read (R149 to R151, R167, R173, R473). -/

namespace Sys2Proof.Machine

/-! The parts of a buffer (R473). -/

theorem ingestParts_pos {addr len : Nat} (some_bytes : 0 < len) : 0 < ingestParts addr len := by
  simp only [ingestParts, cdiv, if_neg (Nat.ne_of_gt some_bytes)]
  omega
/-- A buffer that crosses no 4 KiB boundary is read whole. -/
theorem ingestPart_whole {addr len : Nat} (one : ingestParts addr len = 1) : ingestPart addr len 0 = (addr, len) := by
  have some_bytes : len ≠ 0 := fun none => by simp [ingestParts, none] at one
  have within : addr + len ≤ (addr / 4096 + 1) * 4096 := by
    simp only [ingestParts, cdiv, if_neg some_bytes] at one
    omega
  simp [ingestPart, Nat.min_eq_left within]
@[simp] theorem askPart_front (s : State) (ring h cmd addr len k : Nat) : (askPart s ring h cmd addr len k).front = s.front := State.read_front ..
/-- A part asked for when a tag is free and no unacknowledged write overlaps it (R474, R475). -/
theorem askPart_whole_out {s : State} {ring h cmd addr len g : Nat} (one : ingestParts addr len = 1) (free : freeTag s.host.reads = some g)
    (clear : unacked s (addr / 64 * 64) (64 * cdiv (addr % 64 + len) 64) = false) :
    (askPart s ring h cmd addr len 0).out =
      s.out ++ [.hmRead (addr / 64 * 64) (cdiv (addr % 64 + len) 64) g (((s.ring ring).entry.map (·.attr)).getD 0)] := by
  simp only [askPart, ingestPart_whole one, State.read_now free clear]
  rfl

/-! Jobs whose next segment is not in. -/

/-- Tokenizing waits while bytes are still to come and hold no whole segment (R151). -/
theorem State.runJobs_unread {s : State} {h : Nat} {st : Stream} {j : Ingest} (hs : s.stream? h = some st)
    (next : st.jobs.find? (fun x => !x.ready) = some j) (unread : j.reads ≠ 0)
    (short : segPre 0 ((preToks (s.vocabOf st) st.carry (jobBytes j) false j.final).1.drop j.did) = none) (fuel : Nat) : s.runJobs fuel h = s := by
  cases fuel with
  | zero => rfl
  | succ f =>
    have all : (j.reads == 0) = false := beq_false_of_ne unread
    simp only [State.runJobs, hs, next, all, short, unread, ne_eq, not_false_eq_true, decide_true, Option.isNone_none, Bool.and_self, Bool.or_true, if_true]

/-! The body. -/

/-- The job of an INGEST that has read nothing yet. -/
def Ingest.unread (d : Desc) (cmd : Nat) : Ingest :=
  { cmd := cmd, addr := dfld d 2 56 0, len := dfld d 3 25 0, final := dbit d 3 32, got := [], reads := ingestParts (dfld d 2 56 0) (dfld d 3 25 0), did := 0,
    miss := false, ready := false, full := false, consumed := 0 }
theorem Ingest.unread_bytes (d : Desc) (cmd : Nat) : jobBytes (Ingest.unread d cmd) = [] := by
  have none_in (n : Nat) : partsFrom [] n 0 = [] := by cases n <;> rfl
  exact (congrArg (List.take _) (none_in _)).trans List.take_nil
/-- A stream with one job more. -/
def Stream.withJob (st : Stream) (j : Ingest) : Stream := { st with jobs := st.jobs ++ [j], eoi := j.final, ingested := true }
/-- A buffer's first parts asked for. -/
def State.askParts (s : State) (c : Cmd) (st : Stream) (j : Ingest) : State :=
  (List.range (min j.reads 8)).foldl (fun s k => askPart s c.ring st.handle c.id j.addr j.len k) s
theorem State.askParts_front (s : State) (c : Cmd) (st : Stream) (j : Ingest) : (s.askParts c st j).front = s.front :=
  front_foldl _ (fun s k => askPart_front s c.ring st.handle c.id j.addr j.len k) _ _

section
variable {d : Desc} {u : State} {c : Cmd} {st : Stream} (hs : u.stream? c.stream = some st)
include hs

theorem ingestBody_refused (refused : st.eoi = true ∨ st.stoppedTok = true ∨ inputTaken st = false ∨ u.isFirst = false) :
    ingestBody d u c = u.finish c { status := stState } := by
  have stays : (st.eoi || st.stoppedTok || !inputTaken st || !u.isFirst) = true := by simpa [or_assoc] using refused
  simp only [ingestBody, hs, stays, if_true]
theorem ingestBody_begins (going : st.eoi = false) (tokenizes : st.stoppedTok = false) (takes : inputTaken st = true) (first : u.isFirst = true) :
    ingestBody d u c = (((u.keep c (.ingest st.handle)).setStream st.handle fun x => x.withJob (.unread d c.id)).askParts c st
      (.unread d c.id)).runStream st.handle := by
  have goes : (st.eoi || st.stoppedTok || !inputTaken st || !u.isFirst) = false := by simp [going, tokenizes, takes, first]
  simp only [ingestBody, hs, goes, Bool.false_eq_true, if_false]
  rfl
end

theorem exec_ingest {s : State} {d : Desc} (ok : s.accepts d = true) (op : d.opcode = 0x03) :
    exec (.ingest d) s = .next (ingestBody d (s.started d) (s.startedCmd d)) :=
  congrArg Host.Outcome.next (runDesc_accepts ok (by simp [op]) _)
theorem started_isFirst (s : State) (d : Desc) : (s.started d).isFirst = s.isFirst := by simp [State.isFirst, State.selfId]
theorem startedOn_entry (s : State) (d : Desc) (k : CmdK) (j : Nat) : ((s.startedOn d k).ring j).entry = (s.ring j).entry := by
  have same : (s.startedOn d k).ring j = (s.started d).ring j := rfl
  rw [same, started_ring]
  split
  · rename_i own
    rw [own]
  · rfl

/-! An INGEST that begins. -/

/-- The state after the start of an INGEST, its job with the stream's. -/
def State.ingestJoined (s : State) (d : Desc) (st : Stream) : State :=
  (s.startedOn d (.ingest st.handle)).setStream st.handle fun x => x.withJob (.unread d s.nextId)
/-- The same with the buffer's first parts asked for. -/
def State.ingestAsked (s : State) (d : Desc) (st : Stream) : State := (s.ingestJoined d st).askParts (s.startedCmd d) st (.unread d s.nextId)
theorem State.ingestAsked_front (s : State) (d : Desc) (st : Stream) : (s.ingestAsked d st).front = (s.ingestJoined d st).front :=
  State.askParts_front ..

section
variable {s : State} {d : Desc} {st : Stream} (hs : s.stream? (dStream d) = some st)
include hs

theorem State.ingestAsked_stream : (s.ingestAsked d st).stream? (dStream d) = some (st.withJob (.unread d s.nextId)) := by
  have handle := State.stream?_handle hs
  have opened : st.phase ≠ .closed := State.stream?_open hs
  refine (State.stream?_congr (congrArg Front.streams (s.ingestAsked_front d st)) _).trans ?_
  rw [State.ingestJoined, handle]
  exact State.stream?_setStream ((State.stream?_congr (started_streams s d) _).trans hs) handle opened
/-- With no byte of the buffer in, the first segment waits: no token is produced. -/
theorem State.ingestAsked_waits (done : ∀ j ∈ st.jobs, j.ready = true) (some_bytes : 0 < dfld d 3 25 0)
    (short : segPre 0 (preToks (s.vocabOf st) st.carry [] false (dbit d 3 32)).1 = none) :
    (s.ingestAsked d st).runStream st.handle = s.ingestAsked d st := by
  have images : (s.ingestAsked d st).images = s.images :=
    (congrArg Front.images (s.ingestAsked_front d st)).trans ((State.setStream_images ..).trans (started_images s d))
  have older : st.jobs.find? (fun x => !x.ready) = none := List.find?_eq_none.mpr fun x hx => by simp [done x hx]
  rw [State.stream?_handle hs]
  refine State.runJobs_unread (State.ingestAsked_stream hs) (j := .unread d s.nextId) ?_ (Nat.ne_of_gt (ingestParts_pos some_bytes)) ?_ _
  · exact (List.find?_append ..).trans (by rw [older]; rfl)
  · rw [State.vocabOf_congr images, Ingest.unread_bytes]
    exact short
theorem State.ingestAsked_runs : Runs s (s.ingestAsked d st) d (.ingest (dStream d)) := by
  have front := s.ingestAsked_front d st
  rw [← State.stream?_handle hs]
  exact runs_congr (v := s.startedOn d (.ingest st.handle)) ((congrArg Front.cmds front).trans (State.setStream_cmds ..))
    ((congrArg Front.rings front).trans (State.setStream_rings ..)) (runs_keep _ rfl (startedCmd_mem s d))
end
/-- A buffer of one part is asked for at once, with the coherence code of its ring (R150). -/
theorem State.ingestAsked_out {s : State} {d : Desc} {st : Stream} {g : Nat} (one : ingestParts (dfld d 2 56 0) (dfld d 3 25 0) = 1)
    (free : freeTag s.host.reads = some g) (clear : unacked s (dfld d 2 56 0 / 64 * 64) (64 * cdiv (dfld d 2 56 0 % 64 + dfld d 3 25 0) 64) = false) :
    (s.ingestAsked d st).out = s.out ++ [.hmRead (dfld d 2 56 0 / 64 * 64) (cdiv (dfld d 2 56 0 % 64 + dfld d 3 25 0) 64) g
      (((s.ring d.ring.toNat).entry.map (·.attr)).getD 0)] := by
  let u := s.ingestJoined d st
  have host : u.host = s.host := (State.setStream_host ..).trans (State.begin_host s d)
  have out : u.out = s.out := (State.setStream_out ..).trans (State.begin_out s d)
  have entry : (u.ring d.ring.toNat).entry = (s.ring d.ring.toNat).entry :=
    (congrArg Ring.entry (State.ring_congr (State.setStream_rings ..) _)).trans (startedOn_entry s d _ _)
  have alone : s.ingestAsked d st = askPart u d.ring.toNat st.handle s.nextId (dfld d 2 56 0) (dfld d 3 25 0) 0 := by
    have reads : (Ingest.unread d s.nextId).reads = 1 := one
    simp only [State.ingestAsked, State.askParts, reads]
    rfl
  rw [alone, askPart_whole_out one (host ▸ free) (by rw [unacked, host]; exact clear), out, entry]

/-- Settles O26: the body's refusals (`ingestBody_refused`); else the new job's parts are asked for (`State.ingestAsked_out`), and with no byte of it in no
segment begins (`State.ingestAsked_waits`). -/
theorem ingestReadsItsBuffer : Obligations.IngestReadsItsBuffer := by
  intro d st s addr len h ok op hs
  have named : (s.started d).stream? h = some st := (State.stream?_congr (started_streams s d) h).trans hs
  rw [exec_ingest ok op]
  refine ⟨fun refused => ?_, fun going tokenizes takes first done some_bytes short => ?_⟩
  · rw [ingestBody_refused named (started_isFirst s d ▸ refused)]
    exact ⟨_, rfl, completes_started s d _, by simp, by simp [State.started]⟩
  · have begins : ingestBody d (s.started d) (s.startedCmd d) = s.ingestAsked d st :=
      (ingestBody_begins named going tokenizes takes ((started_isFirst s d).trans first)).trans (State.ingestAsked_waits hs done some_bytes short)
    have front := s.ingestAsked_front d st
    refine ⟨_, _, .unread d s.nextId, congrArg Host.Outcome.next begins, State.ingestAsked_runs hs, State.ingestAsked_stream hs, rfl, rfl,
      rfl, rfl, rfl, rfl, rfl, rfl, rfl, rfl, rfl, ?_, ?_, ?_, fun one g free clear => State.ingestAsked_out one free clear⟩
    · exact (congrArg Front.recs front).trans ((State.setStream_recs ..).trans (started_recs s d))
    · exact (congrArg Front.tenants front).trans ((State.setStream_tenants ..).trans (started_tenants s d))
    · exact (congrArg Front.sched front).trans ((State.setStream_sched ..).trans (started_sched s d))

end Sys2Proof.Machine
end

section
/-! SAVE_CAIRN: its checks, the quiet boundary, the timeout, and the record that its work tile holds (R169, R223, R225, R227, R233, R393, R394, R401). -/

namespace Sys2Proof.Machine

/-! What the checks of a save read of a state that has just started. -/

theorem started_retiring (s : State) (d : Desc) (x : Nat) : retiring (s.started d) x = retiring s x := by
  simp [retiring, started_cmds, State.startedCmd, State.begin]
theorem started_heirOf (s : State) (d : Desc) (x : Nat) : heirOf (s.started d) x = heirOf s x := by
  have older : heirOf (s.started d) x = heirOf { s with cmds := (s.started d).cmds } x := by
    simp only [heirOf, State.stream?_congr (started_streams s d)]
    rfl
  rw [older, started_cmds, heirOf, List.findSome?_append]
  exact Option.or_none
theorem started_freePairs (s : State) (d : Desc) : freePairs (s.started d) = freePairs s := by
  obtain ⟨R, C, N, M, e⟩ := started_eq s d
  rw [e]
  rfl

/-! A new entry of the directory (R223). -/

theorem State.newCairn_full (s : State) (x t : Nat) : s.newCairn x t [] = (none, s) := rfl
/-- With a free pair the entry is the tenant's, on one of them. -/
theorem State.newCairn_entry (s : State) (x t : Nat) {ps : List Nat} (some_free : ps ≠ []) :
    ∃ p ∈ ps, ∃ f, s.newCairn x t ps = (some ⟨t, p, none, none⟩, { s.withFree f with cairns := AMap.set s.cairns x ⟨t, p, none, none⟩ }) := by
  obtain ⟨f, picked⟩ := s.pick_eq ps.length
  have inside : (s.pick ps.length).1 < ps.length := s.pick_lt (List.length_pos_iff.mpr some_free)
  refine ⟨ps[(s.pick ps.length).1], List.getElem_mem inside, f, ?_⟩
  simp only [State.newCairn, List.getElem?_eq_getElem inside, picked]
  rfl

/-! The body (R223, R225, R233). -/

theorem mayNotReplace {a b : Nat} {rp : Bool} (barred : a ≠ b ∨ rp = false) : (decide (a ≠ b) || !rp) = true := by simpa using barred
theorem mayReplace {a b : Nat} {rp : Bool} (may : a = b ∧ rp = true) : (decide (a ≠ b) || !rp) = false := by simpa using may

section
variable {u : State} {c : Cmd} {d : Desc} {st : Stream} {k : Cairn} (hs : u.stream? c.stream = some st)
include hs
theorem saveBody_refused (refused : saveStatic u st = false ∨ retiring u (dfld d 2 63 0) = false
      ∧ ∃ k, AMap.get? u.cairns (dfld d 2 63 0) = some k ∧ (k.tenant ≠ st.tenant ∨ dbit d 3 0 = false)) :
    saveBody d u c = u.finish c { status := stState } := by
  by_cases fit : saveStatic u st = true
  · obtain ⟨idle, k, held, barred⟩ := refused.resolve_left (by simp [fit])
    simp only [saveBody, hs, fit, idle, held, mayNotReplace barred, Bool.not_true, Bool.false_eq_true, if_false, if_true]
  · simp only [saveBody, hs, fit, Bool.not_false, if_true]
variable (fit : saveStatic u st = true)
include fit

section
variable (behind : retiring u (dfld d 2 63 0) = true)
include behind
theorem saveBody_notHeir {y : Nat × Nat} (heir : heirOf u (dfld d 2 63 0) = some y) (barred : y.2 ≠ st.tenant ∨ dbit d 3 0 = false) :
    saveBody d u c = u.finish c { status := stState } := by
  simp only [saveBody, hs, fit, behind, heir, mayNotReplace barred, Bool.not_true, Bool.false_eq_true, if_false, if_true]
theorem saveBody_behindRetire (may : ∀ y, heirOf u (dfld d 2 63 0) = some y → y.2 = st.tenant ∧ dbit d 3 0 = true) :
    saveBody d u c = u.keep c (.saveC st.handle (dfld d 2 63 0) u.beat 0 0 (b2n (dbit d 3 0))) := by
  simp only [saveBody, hs, fit, behind, Bool.not_true, Bool.false_eq_true, if_false, if_true]
  cases heir : heirOf u (dfld d 2 63 0) with
  | none => rfl
  | some y =>
    have allowed := may y heir
    exact (if_neg (Bool.eq_false_iff.mp (mayReplace allowed))).trans (by rw [allowed.2]; rfl)
end

section
variable (idle : retiring u (dfld d 2 63 0) = false)
include idle
theorem saveBody_replaces (held : AMap.get? u.cairns (dfld d 2 63 0) = some k) (may : k.tenant = st.tenant ∧ dbit d 3 0 = true) :
    saveBody d u c = u.keep c (.saveC st.handle (dfld d 2 63 0) u.beat 0 0 1) := by
  simp only [saveBody, hs, fit, idle, held, mayReplace may, Bool.not_true, Bool.false_eq_true, if_false]
theorem saveBody_full (absent : AMap.get? u.cairns (dfld d 2 63 0) = none) (full : freePairs u = []) :
    saveBody d u c = u.finish c { status := stCapacity } := by
  simp only [saveBody, hs, fit, idle, absent, full, State.newCairn_full, Bool.not_true, Bool.false_eq_true, if_false, Option.isNone_none, if_true]
theorem saveBody_new (absent : AMap.get? u.cairns (dfld d 2 63 0) = none) (some_free : freePairs u ≠ []) :
    ∃ p ∈ freePairs u, ∃ f, saveBody d u c =
      ({ u.withFree f with cairns := AMap.set u.cairns (dfld d 2 63 0) ⟨st.tenant, p, none, none⟩ } : State).keep c
        (.saveC st.handle (dfld d 2 63 0) u.beat 0 0 1) := by
  obtain ⟨p, free, f, entry⟩ := u.newCairn_entry (dfld d 2 63 0) st.tenant some_free
  refine ⟨p, free, f, ?_⟩
  simp only [saveBody, hs, fit, idle, absent, entry, Bool.not_true, Bool.false_eq_true, if_false, Option.isNone_some]
end
end

theorem exec_saveCairn {s : State} {d : Desc} (ok : s.accepts d = true) (op : d.opcode = 0x06) :
    exec (.saveCairn d) s = .next (saveBody d (s.started d) (s.startedCmd d)) :=
  congrArg Host.Outcome.next (runDesc_accepts ok (by simp [op]) _)

/-! The quiet boundary (R225, R227, R233, R393). -/

/-- The rewrite of a tile begun: its next generation, open for writing. -/
theorem State.dynWrite_opens (s : State) (use : TileUse) (payload : List Byte) :
    ∃ n z, AMap.get? (s.dynWrite use payload).dyn n = some z ∧ z.use = some use ∧ z.writeOpen = true ∧ z.next = payload
      ∧ z.generation = ((AMap.getD s.dyn n DynTile.blank).generation + 1) % 2 ^ 32 :=
  ⟨s.dynSlot use, _, (AMap.get?_set ..).trans (if_pos rfl), rfl, rfl, rfl, rfl⟩
theorem State.keep_mem {s : State} {c : Cmd} (there : c ∈ s.cmds) (k : CmdK) : { c with k := k } ∈ (s.keep c k).cmds :=
  List.mem_map.mpr ⟨c, there, if_pos rfl⟩
/-- The location that a save writes, and its generation (R227). -/
def Cairn.dest (k : Cairn) : Nat × Nat := match k.current with | some (l, g) => (1 - l, (g + 1) % 2 ^ 32) | none => (0, 1)

section
variable {s : State} {h : Nat} {st : Stream} {c : Cmd} {x since rp : Nat} {k : Cairn}

theorem State.saveQuiet_none (none_waits : waitingSave s h = none) : s.saveQuiet h = s := by
  unfold State.saveQuiet
  rw [none_waits]
  cases s.stream? h <;> rfl
theorem State.saveTimeout_none (none_waits : waitingSave s h = none) : s.saveTimeout h = s := by
  simp only [State.saveTimeout, none_waits]
/-- A save of an entry that it may replace stages its record in a work tile. -/
theorem State.saveAt_stages (held : AMap.get? s.cairns x = some k) (own : k.tenant = st.tenant) (replaces : k.current.isSome = true → rp ≠ 0) :
    s.saveAt c st x rp = (s.dynWrite (.cairn c.id) (cairnRecord s st x k.dest.2)).keep c (.saveC st.handle x st.pos 3 k.dest.1 k.dest.2) := by
  have may : (decide (k.tenant ≠ st.tenant) || (k.current.isSome && decide (rp = 0))) = false := by simpa [own] using replaces
  simp only [State.saveAt, State.cairnFor, held, may, Bool.false_eq_true, if_false]
  rfl
variable (waits : waitingSave s h = some (c, x, since, rp))
include waits
theorem State.saveQuiet_waits (unquiet : s.clk.stopped = true ∨ handleBusy s c.id x = true ∨ ∀ st, s.stream? h = some st → quiet s st = false) :
    s.saveQuiet h = s := by
  unfold State.saveQuiet
  rw [waits]
  cases hs : s.stream? h with
  | none => rfl
  | some st =>
    refine if_neg ?_
    obtain stopped | busy | unquiet := unquiet
    · simp [stopped]
    · simp [busy]
    · simp [unquiet st hs]
theorem State.saveQuiet_takes (runs : s.clk.stopped = false) (hs : s.stream? h = some st) (settled : quiet s st = true) (first : handleBusy s c.id x = false) :
    s.saveQuiet h = s.saveAt c st x rp := by
  simp only [State.saveQuiet, hs, waits, runs, settled, first, Bool.not_false, Bool.and_self, if_true]
theorem State.saveTimeout_early (early : beatLe (beatAdd since 4000) s.beat = false) : s.saveTimeout h = s := by
  simp only [State.saveTimeout, waits, early, Bool.false_eq_true, if_false]
theorem State.saveTimeout_ends (late : beatLe (beatAdd since 4000) s.beat = true) :
    s.saveTimeout h = (s.finish c { status := stState }).dropNewCairn c.id x := by
  simp only [State.saveTimeout, waits, late, if_true]
end

section
variable {s : State} {h : W32}

theorem exec_quietBoundary_tries (ended : s.atEnd = true) (runs : s.clk.stopped = false) :
    exec (.saveCairnQuietBoundary h) s = .next (s.saveQuiet h.toNat) :=
  congrArg Host.Outcome.next (if_pos (by simp [ended, runs]))
theorem exec_quietBoundary_stays (stays : s.atEnd = true → s.clk.stopped = false → s.saveQuiet h.toNat = s) :
    exec (.saveCairnQuietBoundary h) s = .next s := by
  by_cases tries : s.atEnd = true ∧ s.clk.stopped = false
  · rw [exec_quietBoundary_tries tries.1 tries.2, stays tries.1 tries.2]
  · exact congrArg Host.Outcome.next (if_neg (by simpa using tries))
end

/-! A save that ends early (R112, R227). -/

/-- Only the directory changes. -/
theorem State.dropNewCairn_eq (s : State) (id x : Nat) : ∃ m, s.dropNewCairn id x = { s with cairns := m } := by
  unfold State.dropNewCairn
  extract_lets other
  split
  · split
    · exact ⟨_, rfl⟩
    · exact ⟨s.cairns, rfl⟩
  · exact ⟨s.cairns, rfl⟩
/-- An entry with a current record stays. -/
theorem State.dropNewCairn_current {s : State} {x : Nat} {k : Cairn} (held : AMap.get? s.cairns x = some k) (current : k.current.isSome = true) (id : Nat) :
    s.dropNewCairn id x = s := by
  obtain ⟨r, present⟩ := Option.isSome_iff_exists.mp current
  simp only [State.dropNewCairn, held, present, Option.isNone_some, Bool.false_and, Bool.false_eq_true, if_false]
/-- A completion entry queued, and the command gone. -/
theorem State.finish_dropNewCairn (s : State) (c : Cmd) (r : Done) (id x : Nat) :
    let t := (s.finish c r).dropNewCairn id x
    (∃ e, (t.ring c.ring).cqPend = (s.ring c.ring).cqPend ++ [e] ∧ e.status = r.status ∧ e.tag = c.tag)
      ∧ t.cmds = s.cmds.filter (fun y => y.id != c.id) ∧ t.streams = s.streams ∧ t.out = s.out := by
  intro t
  obtain ⟨m, dropped⟩ := State.dropNewCairn_eq (s.finish c r) id x
  have ring : t.ring c.ring = (s.finish c r).ring c.ring := State.ring_congr (congrArg State.rings dropped) _
  simp only [ring, State.finish_ring, if_true]
  refine ⟨⟨_, rfl, rfl, rfl⟩, ?_, ?_, ?_⟩
  · exact (congrArg State.cmds dropped).trans (State.finish_cmds ..)
  · exact (congrArg State.streams dropped).trans (State.finish_streams ..)
  · exact (congrArg State.out dropped).trans (State.finish_out ..)

/-! The staged record (R393 to R395, R401). -/

theorem State.cmd?_of_unique {s : State} {c : Cmd} (there : c ∈ s.cmds) (alone : ∀ y ∈ s.cmds, y.id = c.id → y = c) : s.cmd? c.id = some c := by
  cases found : s.cmd? c.id with
  | none => exact absurd (beq_self_eq_true c.id) (List.find?_eq_none.mp found c there)
  | some y => exact congrArg some (alone y (List.mem_of_find?_eq_some found) (eq_of_beq (List.find?_some (p := fun z : Cmd => z.id == c.id) found)))
/-- A save whose record is staged and not yet sent ends with no commit word to clear. -/
theorem State.abort_staged {s : State} {c : Cmd} {h x pos loc gen : Nat} (there : c ∈ s.cmds) (alone : ∀ y ∈ s.cmds, y.id = c.id → y = c)
    (kind : c.k = .saveC h x pos 3 loc gen) (status : Nat) :
    s.abort c status = ((s.dropEffs c.id).finish c { status := status }).dropNewCairn c.id x := by
  have found : (s.dropEffs c.id).cmd? c.id = some c := State.cmd?_of_unique there alone
  have ends : ∀ t : State, t.dropSave c = t.dropNewCairn c.id x := by
    intro t
    simp only [State.dropSave, kind]
    split <;> rfl
  rw [State.abort, kind]
  dsimp only
  rw [State.cmdAbsent, found]
  dsimp only
  rw [kind]
  exact ends _

section
variable {s : State} {c : Cmd} {h x pos loc gen i : Nat} {z : DynTile} {k : Cairn} (kind : c.k = .saveC h x pos 3 loc gen)
  (tile : s.tileOf (.cairn c.id) = some (i, z)) (held : AMap.get? s.cairns x = some k)
include kind tile held
theorem State.sendSave_torn (torn : tileClass (z.read i s.free) = .torn) : s.sendSave c = s := by
  simp only [State.sendSave, kind, tile, held, torn, decide_true, Bool.or_true, Bool.true_or, if_true]
variable (goes : c.paused = false) (whole : z.tornAt ≠ some s.beat)
include goes whole
theorem State.sendSave_good (good : tileClass (z.read i s.free) = .good) :
    s.sendSave c = (s.keep c (.saveC h x pos 1 loc gen)).firm 7 (.cairnSave c.id) [w64 [(cairnOff s k.pair loc, 0)]] z.payload 0 := by
  simp [State.sendSave, kind, tile, held, good, goes, whole]
theorem State.sendSave_corrupt (corrupt : tileClass (z.read i s.free) = .corrupt) : s.sendSave c = s.abort c stCorrupt := by
  simp [State.sendSave, kind, tile, held, corrupt, goes, whole]
end

/-! The record sent (R313, R316). -/

section
variable {s : State} {op off c respLen : Nat} {purp : Purp} {words : List W64} {payload : List Byte}

/-- The only operation that waits, of a command that is there, is sent at once on the channel that it takes. -/
theorem State.firm_sent {n : Nat} (empty : s.stack.firm = []) (runs : s.clk.stopped = false) (awake : s.start.halted = false) (serves : purp.cmd? = some n)
    (there : (s.cmd? n).isSome = true) (target : chanFor s .back op (fld (words.headD 0#64) 39 0) = some c)
    (takes : chanTakes s c .back purp (1 + cdiv payload.length 64) respLen = true) :
    s.firm op purp words payload respLen = s.sendOn c .back op purp words payload respLen := by
  rw [State.firm_queues empty runs awake, pumpFirm_sends serves there target takes, State.withFirm_self empty]
/-- A clear or a save depends on no operation but a clear or save of its place. -/
theorem chanFor_live (live : s.liveChans ≠ []) (alone : ∀ x ∈ s.stack.chans, ∀ o ∈ x.2.outs, o.op ≠ 7) :
    ∃ c ∈ s.liveChans, chanFor s .back 7 off = some c := by
  have independent : tileChan s 7 (off % 2 ^ 40) = none := by
    refine Option.map_eq_none_iff.mpr (List.find?_eq_none.mpr fun x hx => ?_)
    simpa using fun o ho _ => alone x hx o ho
  obtain ⟨c, own, least⟩ := leastBusy_live live
  exact ⟨c, own, by rw [chanFor, independent]; exact least⟩
/-- What a background operation takes of its channel's credit, and what goes out. -/
theorem State.sendOn_takes (s : State) (c op : Nat) (purp : Purp) (words : List W64) (payload : List Byte) (respLen : Nat) :
    let t := s.sendOn c .back op purp words payload respLen
    t.cmds = s.cmds ∧ (t.chan c).credit = (s.chan c).credit - (1 + cdiv payload.length 64)
      ∧ ∃ tag due, t.out = s.out ++ [.stReq c op tag s.stack.epoch (cdiv payload.length 64) due words payload] := by
  intro t
  obtain ⟨f, picked⟩ := s.pick_eq 235
  refine ⟨?_, ?_, (s.chan c).nextTag, beat48 (beatAdd s.beat s.stack.brt), ?_⟩
  · simp only [t, State.sendOn, reduceCtorEq, if_false, State.emit, State.ev_cmds, State.count_cmds, State.setChan_cmds, picked]
    rfl
  · simp only [t, State.sendOn, reduceCtorEq, if_false, State.emit, State.chan, State.ev_stack, State.count_stack, picked]
    exact congrArg Chan.credit (AMap.getD_set _ _ _ _ _ |>.trans (if_pos rfl))
  · simp only [t, State.sendOn, reduceCtorEq, if_false, State.emit, State.ev_out, State.count_out, State.setChan_out, State.ev_stack,
      State.count_stack, picked, Nat.add_sub_cancel_left]
    rfl
end

/-- A record of 512 bytes takes nine transfers of a channel that has room for them (R313, R315). -/
theorem State.firm_record {s : State} {n off : Nat} {payload : List Byte} (empty : s.stack.firm = []) (runs : s.clk.stopped = false)
    (awake : s.start.halted = false) (live : s.liveChans ≠ [])
    (room : ∀ n ∈ s.liveChans, 9 + s.creditKeep ≤ (s.chan n).credit ∧ 9 ≤ winRoom s n .back ∧ 1 ≤ respRoom s n .back false)
    (alone : ∀ x ∈ s.stack.chans, ∀ o ∈ x.2.outs, o.op ≠ 7) (there : (s.cmd? n).isSome = true) (full : payload.length = 512) :
    let t := s.firm 7 (.cairnSave n) [w64 [(off, 0)]] payload 0
    t.cmds = s.cmds ∧ ∃ c tag due, t.out = s.out ++ [.stReq c 7 tag s.stack.epoch 8 due [w64 [(off, 0)]] payload]
      ∧ (t.chan c).credit = (s.chan c).credit - 9 := by
  intro t
  obtain ⟨c, own, target⟩ := chanFor_live (off := fld (w64 [(off, 0)]) 39 0) live alone
  have nine : cdiv payload.length 64 = 8 := by rw [full]; rfl
  have takes : chanTakes s c .back (.cairnSave n) (1 + cdiv payload.length 64) 0 = true := by
    obtain ⟨credit, cycles, window⟩ := room c own
    have serves : (s.chan c).inService = true := (Bool.and_eq_true_iff.mp (List.mem_filter.mp own).2).2
    simp [chanTakes, serves, nine, credit, cycles, window, Purp.foreground]
  obtain ⟨cmds, credit, tag, due, out⟩ := s.sendOn_takes c 7 (.cairnSave n) [w64 [(off, 0)]] payload 0
  rw [nine] at credit out
  have sent : t = s.sendOn c .back 7 (.cairnSave n) [w64 [(off, 0)]] payload 0 := State.firm_sent empty runs awake rfl there target takes
  exact ⟨sent ▸ cmds, c, tag, due, sent ▸ out, sent ▸ credit⟩

/-- Settles O38: the body's cases (`saveBody_refused` and the rest), the boundary (`State.saveQuiet_waits`, `State.saveAt_stages`), the timeout
(`State.saveTimeout_ends`), and the staged record, sent, awaited or given up (`State.sendSave_good` and the rest). -/
theorem saveCairnWaitsForAQuietBoundary : Obligations.SaveCairnWaitsForAQuietBoundary := by
  intro d h st s u x
  refine ⟨fun ok op hs => ?_, fun none_waits => ⟨?_, ?_⟩, fun c handle since rp waits alone there => ⟨fun unquiet => ?_,
    fun k ended runs hs settled first held own replaces => ?_, fun early => ?_, fun late => ?_⟩,
    fun c x pos loc gen i z k there alone kind goes tile held whole =>
      ⟨fun torn => ?_, fun good empty runs awake live room independent full => ?_, fun corrupt => ?_⟩⟩
  · have named : u.stream? (s.startedCmd d).stream = some st := (State.stream?_congr (started_streams s d) _).trans hs
    have behind (b : Bool) (e : retiring s x = b) : retiring u (dfld d 2 63 0) = b := (started_retiring s d x).trans e
    have entry (o : Option Cairn) (e : AMap.get? s.cairns x = o) : AMap.get? u.cairns (dfld d 2 63 0) = o :=
      (congrArg (AMap.get? · x) (started_cairns s d)).trans e
    have heirs : heirOf u (dfld d 2 63 0) = heirOf s x := started_heirOf s d x
    have pairs : freePairs u = freePairs s := started_freePairs s d
    rw [exec_saveCairn ok op]
    refine ⟨fun refused => ?_, fun fit retires => ⟨fun y heir barred => ?_, fun may => ?_⟩, fun fit idle absent full => ?_,
      fun fit idle may some_free => ?_⟩
    · rw [saveBody_refused named (refused.imp_right fun ⟨idle, k, held, barred⟩ => ⟨behind _ idle, k, entry _ held, barred⟩)]
      exact ⟨_, rfl, completes_started s d _, by simp [u], by simp [u]⟩
    · rw [saveBody_notHeir named fit (behind _ retires) (heirs.trans heir) barred]
      exact ⟨_, rfl, completes_started s d _, by simp [u], by simp [u]⟩
    · rw [saveBody_behindRetire named fit (behind _ retires) (heirs ▸ may), started_beat]
      exact ⟨_, rfl, runs_keep _ rfl (startedCmd_mem s d), started_cairns s d, started_streams s d, State.begin_out s d⟩
    · rw [saveBody_full named fit (behind _ idle) (entry _ absent) (pairs.trans full)]
      exact ⟨_, rfl, completes_started s d _, by simp [u]⟩
    · cases held : AMap.get? s.cairns x with
      | some k =>
        rw [saveBody_replaces named fit (behind _ idle) (entry _ held) (may k held), started_beat]
        exact ⟨_, k, rfl, runs_keep _ rfl (startedCmd_mem s d), started_streams s d, State.begin_out s d, entry _ held, (may k held).1,
          fun y _ => congrArg (AMap.get? · y) (started_cairns s d), fun _ => started_cairns s d, nofun⟩
      | none =>
        obtain ⟨p, free, f, body⟩ := saveBody_new named fit (behind _ idle) (entry _ held) (pairs ▸ some_free held)
        rw [body, started_beat]
        refine ⟨_, _, rfl, runs_keep _ rfl (startedCmd_mem s d), started_streams s d, State.begin_out s d, (AMap.get?_set ..).trans (if_pos rfl), rfl,
          fun y other => ?_, fun present => absurd rfl present, fun _ => ⟨pairs ▸ free, rfl, rfl⟩⟩
        exact (AMap.get?_set ..).trans ((if_neg other).trans (congrArg (AMap.get? · y) (started_cairns s d)))
  · exact exec_quietBoundary_stays fun _ _ => State.saveQuiet_none none_waits
  · exact congrArg Host.Outcome.next (State.saveTimeout_none none_waits)
  · refine exec_quietBoundary_stays fun ended runs => State.saveQuiet_waits waits ?_
    obtain off | stopped | busy | ⟨hs, unsettled⟩ := unquiet
    · exact absurd ended (by simp [off])
    · exact .inl stopped
    · exact .inr (.inl busy)
    · exact .inr (.inr fun y hy => Option.some.inj (hs.symm.trans hy) ▸ unsettled)
  · have stages : exec (.saveCairnQuietBoundary h) s =
        .next ((s.dynWrite (.cairn c.id) (cairnRecord s st handle k.dest.2)).keep c (.saveC st.handle handle st.pos 3 k.dest.1 k.dest.2)) :=
      (exec_quietBoundary_tries ended runs).trans (congrArg Host.Outcome.next
        ((State.saveQuiet_takes waits runs hs settled first).trans (State.saveAt_stages held own replaces)))
    exact ⟨_, stages, rfl, rfl, ⟨_, State.keep_mem (s := s.dynWrite _ _) there _, rfl, rfl⟩, rfl, rfl, s.dynWrite_opens _ _⟩
  · exact congrArg Host.Outcome.next (State.saveTimeout_early waits early)
  · obtain ⟨⟨e, queued, status, tag⟩, cmds, streams, -⟩ := s.finish_dropNewCairn c { status := stState } c.id handle
    refine ⟨_, e, congrArg Host.Outcome.next (State.saveTimeout_ends waits late), queued, status, tag, cmds, streams, fun k held current => ?_⟩
    rw [State.dropNewCairn_current ((congrArg (AMap.get? · handle) (State.finish_cairns ..)).trans held) current, State.finish_cairns]
  · exact State.sendSave_torn kind tile held torn
  · rw [State.sendSave_good kind tile held goes whole good]
    have mine := State.keep_mem there (.saveC h.toNat x pos 1 loc gen)
    obtain ⟨cmds, n, tag, due, out, credit⟩ := State.firm_record (s := s.keep c (.saveC h.toNat x pos 1 loc gen)) (n := c.id)
      (off := cairnOff s k.pair loc) empty runs awake live room independent (List.find?_isSome.mpr ⟨_, mine, beq_self_eq_true c.id⟩) full
    exact ⟨⟨{ c with k := .saveC h.toNat x pos 1 loc gen }, cmds.symm ▸ mine, rfl, rfl⟩, n, tag, due, out, credit⟩
  · rw [State.sendSave_corrupt kind tile held goes whole corrupt, State.abort_staged there alone kind]
    obtain ⟨⟨e, queued, status, tag⟩, cmds, -, out⟩ := (s.dropEffs c.id).finish_dropNewCairn c { status := stCorrupt } c.id x
    exact ⟨out, e, queued, status, tag, cmds⟩

end Sys2Proof.Machine
end

section
/-! Responses in time with status OK, and what each does for what asked for it (R200, R227, R228, R288, R296, R303, R376, R399, R402, R443). -/

namespace Sys2Proof.Machine

/-! A response that arrives in time. -/

/-- A response with status OK to the operation at the head of its channel, in time, its round trip covered by B_rt, and its command not paused. -/
structure InTime (s : State) (r : Rsp) (o : SOp) (rest : List SOp) : Prop where
  complete : s.complete = true
  head : (s.chan r.chan.toNat).outs = o :: rest
  tag : o.tag = r.tag.toNat
  op : o.op = r.op.toNat
  ok : r.status = 0#4
  transfers : respTransfers o r = r.respLen.toNat
  epoch : r.epoch.toNat = s.stack.epoch
  awaited : o.dead = false
  due : beatLt o.due s.beat = false
  cycle : o.due = s.beat → r.cycle.toNat ≤ 199
  covered : overBrt s (roundTrip s o r) = false
  runs : ∀ i x, o.purp.cmd? = some i → s.cmd? i = some x → x.paused = false

/-- What a response's way to its operation leaves: all but the clock's cycle, the channels and their measure, and the management state; of these
the beat, the epoch, B_rt, and every counter but those of late responses and of trace records dropped (59, 120). -/
structure Arrival (s t : State) : Prop where
  rest : ({ t with clk := s.clk, stack := s.stack, mgmt := s.mgmt } : State) = s
  beat : t.beat = s.beat
  epoch : t.stack.epoch = s.stack.epoch
  brt : t.stack.brt = s.stack.brt
  counters : ∀ j, j ≠ 59 → j ≠ 120 → AMap.getD t.mgmt.counters j 0 = AMap.getD s.mgmt.counters j 0

theorem State.ev_counter {j : Nat} (other : j ≠ 120) (s : State) (engine event stream : Nat) (detail : List (Nat × Nat)) :
    AMap.getD (s.ev engine event stream detail).mgmt.counters j 0 = AMap.getD s.mgmt.counters j 0 := by
  unfold State.ev State.trace
  split
  · split
    · rfl
    · exact (State.count_counter ..).trans (if_neg other)
  · rfl
/-- A trace record is a matter of the management state. -/
theorem State.ev_mgmt (s : State) (engine event stream : Nat) (detail : List (Nat × Nat)) :
    ({ s.ev engine event stream detail with mgmt := s.mgmt } : State) = s := by
  unfold State.ev State.trace
  split
  · split <;> rfl
  · rfl

section
variable {s t u : State}

theorem Arrival.trans (a : Arrival s t) (b : Arrival t u) : Arrival s u where
  rest := (congrArg (fun x : State => { x with clk := s.clk, stack := s.stack, mgmt := s.mgmt }) b.rest).trans a.rest
  beat := b.beat.trans a.beat
  epoch := b.epoch.trans a.epoch
  brt := b.brt.trans a.brt
  counters j late dropped := (b.counters j late dropped).trans (a.counters j late dropped)
theorem Arrival.refl (s : State) : Arrival s s := ⟨rfl, rfl, rfl, rfl, fun _ _ _ => rfl⟩
theorem Arrival.reach (s : State) (cycle : Nat) : Arrival s (s.reach cycle) := ⟨rfl, rfl, rfl, rfl, fun _ _ _ => rfl⟩
theorem Arrival.setChan (s : State) (c : Nat) (f : Chan → Chan) : Arrival s (s.setChan c f) := ⟨rfl, rfl, rfl, rfl, fun _ _ _ => rfl⟩
theorem Arrival.ev (s : State) (engine event stream : Nat) (detail : List (Nat × Nat)) : Arrival s (s.ev engine event stream detail) where
  rest := (congrArg (fun x : State => { x with clk := s.clk, stack := s.stack }) (s.ev_mgmt engine event stream detail))
  beat := congrArg (·.beat.toNat) (State.ev_clk ..)
  epoch := congrArg StackS.epoch (State.ev_stack ..)
  brt := congrArg StackS.brt (State.ev_stack ..)
  counters _ _ dropped := State.ev_counter dropped ..
/-- A round trip that B_rt covers is only measured (R69). -/
theorem Arrival.measure {o : SOp} {rt : Nat} (covered : overBrt s rt = false) (chan : Nat) : Arrival s (s.measure chan o rt) := by
  have same : s.measure chan o rt = { s with stack := { s.stack with maxCycles := max s.stack.maxCycles (min rt 65535) } } := by
    unfold State.measure
    split
    · rfl
    · exact if_neg (Bool.eq_false_iff.mp covered)
  rw [same]
  exact ⟨rfl, rfl, rfl, rfl, fun _ _ _ => rfl⟩
theorem Arrival.lateCount (s : State) (late : Bool) : Arrival s (if late then s.count 59 1 else s) := by
  split
  · exact ⟨rfl, rfl, rfl, rfl, fun _ other _ => (State.count_counter ..).trans (if_neg other)⟩
  · exact Arrival.refl s
theorem Arrival.overBrt (a : Arrival s t) (rt : Nat) : Machine.overBrt t rt = Machine.overBrt s rt := by
  rw [Machine.overBrt, Machine.overBrt, a.brt]
theorem Arrival.cmds (a : Arrival s t) : t.cmds = s.cmds := (congrArg State.cmds a.rest :)
theorem Arrival.rings (a : Arrival s t) : t.rings = s.rings := (congrArg State.rings a.rest :)
theorem Arrival.streams (a : Arrival s t) : t.streams = s.streams := (congrArg State.streams a.rest :)
theorem Arrival.recs (a : Arrival s t) : t.recs = s.recs := (congrArg State.recs a.rest :)
theorem Arrival.masks (a : Arrival s t) : t.masks = s.masks := (congrArg State.masks a.rest :)
theorem Arrival.images (a : Arrival s t) : t.images = s.images := (congrArg State.images a.rest :)
theorem Arrival.cairns (a : Arrival s t) : t.cairns = s.cairns := (congrArg State.cairns a.rest :)
theorem Arrival.sched (a : Arrival s t) : t.sched = s.sched := (congrArg State.sched a.rest :)
theorem Arrival.sameStreams (a : Arrival s t) : SameStreams s t := ⟨a.streams, a.recs, a.masks, (congrArg State.opens a.rest :)⟩
theorem Arrival.cmd? (a : Arrival s t) (i : Nat) : t.cmd? i = s.cmd? i := congrArg (List.find? _) a.cmds
theorem Arrival.rec? (a : Arrival s t) (i : Nat) : t.rec? i = s.rec? i := congrArg (List.find? _) a.recs
theorem Arrival.img? (a : Arrival s t) (k : Nat) : t.img? k = s.img? k := congrArg (AMap.get? · k) a.images
theorem Arrival.stream? (a : Arrival s t) (h : Nat) : t.stream? h = s.stream? h := State.stream?_congr a.streams h
theorem Arrival.vocabOf (a : Arrival s t) (st : Stream) : t.vocabOf st = s.vocabOf st := by simp only [State.vocabOf, a.img?]
theorem Arrival.gatherCount (a : Arrival s t) (rid mi first : Nat) : Machine.gatherCount t rid mi first = Machine.gatherCount s rid mi first := by
  simp only [Machine.gatherCount, a.rec?, a.img?]
end

section
variable {s : State} {r : Rsp} {o : SOp} {rest : List SOp} (h : InTime s r o rest)
include h

/-- It fits the operation at the head of its channel (R314). -/
theorem InTime.fits : ¬ (decide (o.tag ≠ r.tag.toNat) || decide (o.op ≠ r.op.toNat) || decide (5 < r.status.toNat)
    || decide (respTransfers o r ≠ r.respLen.toNat)) = true := by
  simp [h.tag, h.op, h.transfers, h.ok]
theorem InTime.notLate : (beatLt o.due s.beat || (o.due == s.beat && decide (199 < r.cycle.toNat))) = false := by
  have := h.cycle
  simp [h.due]
  omega
/-- It reaches what its operation serves (R326 to R328). -/
theorem InTime.delivers (serves : o.purp ≠ .pingFault) :
    ∃ u, s.takeRsp r = u.deliver o r (roundTrip s o r) ∧ Arrival s u := by
  obtain ⟨t, taken⟩ : ∃ t, s.takeRsp r = t := ⟨_, rfl⟩
  rw [taken]
  unfold State.takeRsp at taken
  extract_lets c at taken
  simp -zeta only [c, h.head] at taken
  rw [if_neg h.fits] at taken
  extract_lets v rt late gone w m p q at taken
  have hv : Arrival s v := (Arrival.reach ..).trans (Arrival.setChan ..)
  have hw : Arrival s w := hv.trans (Arrival.ev ..)
  have hm : Arrival s m := hw.trans (Arrival.measure ((hw.overBrt _).trans h.covered) _)
  have hp : p = m := if_neg serves
  have hq : Arrival s q := hm.trans (hp ▸ Arrival.lateCount p _)
  have inTime : late = false := h.notLate
  have epoch : ¬ r.epoch.toNat ≠ q.stack.epoch := not_not_intro (h.epoch.trans hq.epoch.symm)
  have runs : ((o.purp.cmd?.bind q.cmd?).map (·.paused)).getD false = false := by
    cases command : o.purp.cmd? with
    | none => rfl
    | some i =>
      cases there : s.cmd? i with
      | none => simp [hq.cmd?, there]
      | some x => simp [hq.cmd?, there, h.runs i x command there]
  rw [if_neg epoch, if_neg (Bool.eq_false_iff.mp h.awaited), inTime, Bool.false_and, if_neg Bool.false_ne_true, if_neg (not_not_intro h.ok), State.result,
    runs, if_neg Bool.false_ne_true, if_pos rfl] at taken
  exact ⟨q, taken.symm, hq⟩
/-- The response of an opcode, once the start is complete, is delivered in a state that differs from this one as an `Arrival` does. -/
theorem InTime.answers {k : Nat} (op : o.op = k) (serves : o.purp ≠ .pingFault) :
    ∃ u, s.rspOf k r = u.deliver o r (roundTrip s o r) ∧ Arrival s u := by
  have taken : s.rspOf k r = s.takeRsp r := if_pos (by simp [h.complete, ← op, h.op])
  rw [taken]
  exact h.delivers serves
end

/-! Records: a staged segment, and the scores of a walk or a gather (R288, R296, R303). -/

section
variable {s : State} {rid mi : Nat} {x : Rec} (found : s.rec? rid = some x)
include found

theorem State.rec?_setRec_of_some {f : Rec → Rec} (hf : ∀ x, (f x).id = x.id) : (s.setRec rid f).rec? rid = some (f x) := by
  rw [State.rec?_setRec hf, if_pos rfl, found]
  rfl
theorem State.stageIn_rec? : ∃ y, (s.stageIn rid mi).rec? rid = some y ∧ y.sealed = x.sealed
    ∧ y.models = x.models.map fun m => if m.mi = mi ∧ m.st = 1 then { m with stagesLeft := m.stagesLeft - 1 } else m :=
  ⟨_, State.rec?_setRec_of_some found (by intro; rfl), rfl, by simp⟩
/-- A model that a part of its round has reached; with its last part the result is present. -/
def ModelR.withPart (m : ModelR) (key : Nat) (xs : List W32) (nan : Bool) : ModelR :=
  { m with parts := AMap.set m.parts key xs, nan := m.nan || nan, stagesLeft := m.stagesLeft - 1, st := if m.stagesLeft ≤ 1 then 4 else 2 }
theorem State.partIn_rec? (key : Nat) (xs : List W32) (nan : Bool) : ∃ y, (s.partIn rid mi key xs nan).rec? rid = some y
    ∧ ∀ m ∈ x.models, m.mi = mi → m.st = 2 → m.withPart key xs nan ∈ y.models := by
  refine ⟨_, State.rec?_setRec_of_some found (by intro; rfl), fun m hm own asked => ?_⟩
  exact List.mem_map.mpr ⟨m, hm, if_pos (by simp [own, asked])⟩
end
/-! A combined mask (R89, R200). -/

theorem State.setMask_find? {f : MaskJ → MaskJ} (hf : ∀ x, (f x).id = x.id) {s : State} {i : Nat} {m : MaskJ}
    (found : s.masks.find? (fun m => m.id == i) = some m) : (s.setMask i f).masks.find? (fun m => m.id == i) = some (f m) := by
  have same : ((fun m : MaskJ => m.id == i) ∘ fun m => if m.id = i then f m else m) = fun m => m.id == i := by
    funext m
    simp only [Function.comp_apply]
    split
    · rw [hf]
    · rfl
  rw [State.setMask, List.find?_map, same, found]
  exact congrArg some (if_pos (by simpa using List.find?_some found))
theorem State.maskFlag_masks (s : State) (m : MaskJ) (f : Nat) : (s.maskFlag m f).masks = s.masks := by
  unfold State.maskFlag
  split
  · rfl
  · split <;> simp

section
variable {s : State} {mid : Nat} {m : MaskJ} {st : Stream} {bs : List Byte}

/-- The mask that waits is found by its id where no other one has it. -/
theorem mask_found (waits : s.masks.find? (fun m => m.id == mid && m.waiting) = some m) (only : ∀ x ∈ s.masks, x.id = mid → x = m) :
    s.masks.find? (fun m => m.id == mid) = some m := by
  have own := List.find?_some waits
  cases found : s.masks.find? fun m => m.id == mid with
  | none => exact absurd (Bool.and_eq_true_iff.mp own).1 (List.find?_eq_none.mp found m (List.mem_of_find?_eq_some waits))
  | some x => rw [only x (List.mem_of_find?_eq_some found) (by simpa using List.find?_some found)]
variable (waits : s.masks.find? (fun m => m.id == mid && m.waiting) = some m) (named : s.stream? m.h = some st)
include waits named
theorem State.maskIn_composes {x : Mask} (canonical : canonicalMask (s.vocabOf st).nTokens bs = some x) (some_token : x.empty = false) :
    s.maskIn mid bs = s.setMask mid fun y => { y with mask := x, waiting := false, composed := true } := by
  simp [State.maskIn, waits, named, canonical, some_token]
theorem State.maskIn_fails (malformed : canonicalMask (s.vocabOf st).nTokens bs = none) : s.maskIn mid bs = s.maskReplaced mid fTimeout := by
  simp only [State.maskIn, waits, named, malformed]
end
theorem State.maskReplaced_find? {s : State} {mid : Nat} {m : MaskJ} (found : s.masks.find? (fun m => m.id == mid) = some m) (f : Nat) :
    (s.maskReplaced mid f).masks.find? (fun m => m.id == mid) =
      some { m with mask := Mask.none m.mask.n, cause := 2, waiting := false, composed := true } := by
  simp only [State.maskReplaced, found, State.maskFlag_masks]
  exact State.setMask_find? (by intro; rfl) found

/-! A tile for its place (R402, R403). -/

/-- The tile is under repair. -/
theorem State.askRepair_asks (s : State) (slot key : Nat) : (slot, key) ∈ (s.askRepair slot key).stack.repairs
    ∧ (s.askRepair slot key).sched = s.sched ∧ (s.askRepair slot key).recs = s.recs := by
  unfold State.askRepair
  split
  next asked => exact ⟨by simpa using asked, rfl, rfl⟩
  next => exact ⟨by simp, by simp, by simp⟩
theorem State.failWaiters_indet {s : State} {slot key : Nat} {x : Rec} (hx : x ∈ s.recs) (waits : (slot, key) ∈ x.waitTile) :
    ∃ y ∈ (s.failWaiters slot key).recs, y.id = x.id ∧ vIndet ∈ y.results := by
  refine ⟨_, List.mem_map_of_mem hx, ?_⟩
  rw [if_pos (by simpa using waits)]
  exact ⟨rfl, by simp⟩

/-- The entry that a command's completion queues. -/
theorem State.finish_entry (s : State) (c : Cmd) (d : Done) :
    ((s.finish c d).ring c.ring).cqPend = (s.ring c.ring).cqPend ++ [{ c.entry d with since := s.beat }] := by
  rw [State.finish_ring, if_pos rfl]

/-! Loads and cairns (R227, R228, R443). -/

section
variable {s : State} {id : Nat} {c : Cmd} (there : s.cmd? id = some c)
include there

theorem State.cmd?_id : c.id = id := by simpa using List.find?_some there
/-- The last tile of a load whose parts are committed. -/
theorem State.loadStep_completes {slot next acked : Nat} {i : Img} (kind : c.k = .loadI slot next acked 0) (runs : c.paused = false)
    (held : s.img? slot = some i) (whole : i.bytes.length / 4096 ≤ acked + 1) :
    s.loadStep id 1 0 = (s.setImg slot fun i => { i with status := 0, committed := true }).finish c { status := stOK, resA := i.hdr.imageId } := by
  simp [State.loadStep, there, kind, held, runs, whole]
/-- The record of a save is the current one. -/
theorem State.cairnCleared_completes {h handle pos n loc gen : Nat} (kind : c.k = .saveC h handle pos n loc gen) :
    s.cairnCleared id = ({ s with cairns := AMap.modify s.cairns handle fun k =>
      if loc = 0 then { k with gen0 := some gen, gen1 := none } else { k with gen0 := none, gen1 := some gen } } : State).finish c { status := stOK, pos := pos } := by
  simp only [State.cairnCleared, there, kind]
/-- The first location of a resume. -/
theorem State.cairnLoaded_first {h handle : Nat} (kind : c.k = .resumeC h handle []) (loc : Nat) (bs : List Byte) :
    s.cairnLoaded id loc bs = s.keep c (.resumeC h handle [(loc, bs)]) := by
  simp [State.cairnLoaded, there, kind, AMap.set]
end

theorem SameStreams.trans {s t u : State} (a : SameStreams s t) (b : SameStreams t u) : SameStreams s u := by
  obtain ⟨streams, recs, masks, opens⟩ := a
  obtain ⟨streams', recs', masks', opens'⟩ := b
  exact ⟨streams'.trans streams, recs'.trans recs, masks'.trans masks, opens'.trans opens⟩

/-! The sweep of the stack's windows (R376, R399). -/

/-- What the sweep's own steps leave: all of the front but the stack and the sweep's place, and the count of corrected rows (92). -/
structure SweepKeeps (s t : State) : Prop where
  rest : ({ t with stack := s.stack, integ := s.integ } : State).front = s.front
  corrected : AMap.getD t.mgmt.counters 92 0 = AMap.getD s.mgmt.counters 92 0

section
variable {s t u : State}

theorem SweepKeeps.refl (s : State) : SweepKeeps s s := ⟨rfl, rfl⟩
theorem SweepKeeps.trans (a : SweepKeeps s t) (b : SweepKeeps t u) : SweepKeeps s u where
  rest := (congrArg (fun f : Front => { f with stack := s.stack, integ := s.integ }) b.rest).trans a.rest
  corrected := b.corrected.trans a.corrected
theorem SweepKeeps.sameStreams (k : SweepKeeps s t) : SameStreams s t :=
  ⟨(congrArg Front.streams k.rest :), (congrArg Front.recs k.rest :), (congrArg Front.masks k.rest :), (congrArg Front.opens k.rest :)⟩
theorem SweepKeeps.images (k : SweepKeeps s t) : t.images = s.images := (congrArg Front.images k.rest :)
theorem SweepKeeps.reloadMaster (s : State) (slot : Nat) : SweepKeeps s (s.reloadMaster slot) := by
  unfold State.reloadMaster
  split <;> exact ⟨rfl, rfl⟩
theorem SweepKeeps.sweepStep (s : State) : SweepKeeps s s.sweepStep := by
  unfold State.sweepStep
  dsimp only
  split
  · exact ⟨rfl, rfl⟩
  · split <;> exact ⟨rfl, rfl⟩
end

theorem State.sendOn_back_counter {j op : Nat} (issued : j ≠ 47 + op) (masks : j ≠ 41) (dropped : j ≠ 120) (s : State) (c : Nat) (purp : Purp) (words : List W64)
    (payload : List Byte) (respLen : Nat) :
    AMap.getD (s.sendOn c .back op purp words payload respLen).mgmt.counters j 0 = AMap.getD s.mgmt.counters j 0 := by
  obtain ⟨x, picked⟩ := s.pick_eq 235
  unfold State.sendOn
  simp only [reduceCtorEq, if_false, picked]
  refine (State.ev_counter dropped ..).trans ?_
  rw [State.count_counter, if_neg masks, State.count_counter, if_neg issued]
  rfl
/-- The window offset that an operation's first word holds. -/
theorem fld_offset (off : Nat) : fld (w64 [(off, 0)]) 39 0 = off % 2 ^ 40 := by
  simp [fld, w64, pack]
/-- A background read of a cairn's record is sent where a channel has room for it (R315, R316). -/
theorem State.issue_ofRoom {s : State} {off : Nat} {purp : Purp} (bg : purp.foreground = false) (room : bgRoom s 1 8 off = true) :
    ∃ c, (s.issue .back 8 purp [w64 [(off, 0)]] [] 8).2 = s.sendOn c .back 8 purp [w64 [(off, 0)]] [] 8 := by
  have target : chanFor s .back 8 (fld (w64 [(off, 0)]) 39 0) = chanFor s .back 8 off := by
    simp only [chanFor, fld_offset, Nat.mod_mod]
  unfold bgRoom canIssue at room
  split at room
  next c takes =>
    have same : chanTakes s c .back purp (1 + cdiv ([] : List Byte).length 64) 8 = true := by
      rw [← room, chanTakes, chanTakes, bg]
      rfl
    refine ⟨c, ?_⟩
    simp only [State.issue, List.headD_cons, target, takes, State.issueOn, same, if_true]
  next => exact absurd room Bool.false_ne_true
theorem SweepKeeps.foldl {α : Type} {f : State → α → State} (step : ∀ u x, SweepKeeps u (f u x)) (l : List α) (s : State) : SweepKeeps s (l.foldl f s) := by
  induction l generalizing s with
  | nil => exact SweepKeeps.refl s
  | cons x l ih => exact (step s x).trans (ih _)
/-- The sweep of region 1 sends reads of the cairns' records among its rows. -/
theorem SweepKeeps.checkCairns (s : State) : SweepKeeps s s.checkCairns := by
  refine SweepKeeps.foldl (fun u x => ?_) _ s
  split
  next loc gen _ =>
    extract_lets off
    split
    next reads =>
      obtain ⟨c, sent⟩ := State.issue_ofRoom (purp := .cairnCheck x.1 loc) rfl (Bool.and_eq_true_iff.mp reads).2
      rw [sent]
      obtain ⟨_, -, -, front, -⟩ := u.sendOn_back c 8 (.cairnCheck x.1 loc) [w64 [(cairnOff u x.2.pair loc, 0)]] 8
      exact ⟨congrArg (fun f : Front => { f with stack := u.stack, integ := u.integ }) front,
        State.sendOn_back_counter (by decide) (by decide) (by decide) ..⟩
    next => exact SweepKeeps.refl u
  next => exact SweepKeeps.refl u
/-- Rows swept: the corrected ones are counted, and the sweep goes on. -/
theorem State.deliver_scrub {o : SOp} {region : Nat} (serves : o.purp = .scrub region) (s : State) (r : Rsp) (rt : Nat) :
    SweepKeeps (s.count 92 (fld r.w1 15 0)) (s.deliver o r rt) := by
  unfold State.deliver
  simp -zeta only [serves]
  extract_lets counted row found
  have hf : SweepKeeps counted found := by
    unfold found
    split
    · exact SweepKeeps.refl _
    · split
      · split
        · exact SweepKeeps.reloadMaster ..
        · exact SweepKeeps.refl _
      · exact SweepKeeps.refl _
  refine (hf.trans ?_).trans (SweepKeeps.sweepStep _)
  split
  · exact SweepKeeps.checkCairns _
  · exact SweepKeeps.refl _

/-- Settles O53: the response is delivered (`InTime.answers`), and what each operation serves has its own lemma (`State.stageIn_rec?`,
`State.partIn_rec?`, `State.maskIn_composes` and the rest). -/
theorem responsesReachWhatAskedForThem : Obligations.ResponsesReachWhatAskedForThem := by
  intro r o rest s ch complete head tag op ok transfers epoch awaited due cycle covered runs
  have h : InTime s r o rest := ⟨complete, head, tag, op, ok, transfers, epoch, awaited, due, cycle, covered, runs⟩
  refine ⟨fun rid mi seg x kind serves found => ?_, fun rid mi x kind serves found => ?_, fun rid mi first x kind serves found => ?_,
    fun mid m st kind serves waits only named => ?_, fun slot key i kind serves held => ?_, fun tile g gen st kind serves named => ?_,
    fun id c slot next acked i kind serves there loads held whole => ?_, fun id c g handle pos n loc gen k kind serves there saves held => ?_,
    fun id c g handle loc kind serves there resumes => ?_, fun region kind serves => ?_, fun kind serves => ?_⟩
  all_goals
    obtain ⟨u, answers, a⟩ := h.answers kind (by simp [serves])
    simp only [State.deliver, serves] at answers
  · obtain ⟨y, there, same, models⟩ := State.stageIn_rec? (mi := mi) ((a.rec? rid).trans found)
    exact ⟨_, y, congrArg Host.Outcome.next answers, there, models, same, a.rings⟩
  · obtain ⟨y, there, parts⟩ := State.partIn_rec? (mi := mi) ((a.rec? rid).trans found) 0 (payload32 r.payload 16) (bit r.w1 0)
    exact ⟨_, y, congrArg Host.Outcome.next answers, there, fun m hm own asked => ⟨_, parts m hm own asked, own, by simp [ModelR.withPart], rfl, rfl⟩, a.rings⟩
  · rw [a.gatherCount] at answers
    obtain ⟨y, there, parts⟩ := State.partIn_rec? (mi := mi) ((a.rec? rid).trans found) first (payload32 r.payload (gatherCount s rid mi first)) false
    exact ⟨_, y, congrArg Host.Outcome.next answers, there, fun m hm own asked => ⟨_, parts m hm own asked, own, by simp [ModelR.withPart], rfl⟩, a.rings⟩
  · have asked : u.masks.find? (fun m => m.id == mid && m.waiting) = some m := a.masks ▸ waits
    have alone : u.masks.find? (fun m => m.id == mid) = some m := a.masks ▸ mask_found waits only
    have stream : u.stream? m.h = some st := (a.stream? _).trans named
    refine ⟨fun x canonical some_token => ?_, fun malformed => ?_⟩
    · rw [State.maskIn_composes asked stream (a.vocabOf st ▸ canonical) some_token] at answers
      exact ⟨_, _, congrArg Host.Outcome.next answers, State.setMask_find? (by intro; rfl) alone, rfl, rfl, rfl, rfl, a.recs⟩
    · rw [State.maskIn_fails asked stream (a.vocabOf st ▸ malformed)] at answers
      exact ⟨_, _, congrArg Host.Outcome.next answers, State.maskReplaced_find? alone _, rfl, rfl, rfl, rfl⟩
  · simp only [State.tileIn, (a.img? slot).trans held] at answers
    refine ⟨fun good => ?_, fun bad => ?_⟩
    · rw [if_pos good, a.beat] at answers
      exact ⟨_, congrArg Host.Outcome.next answers, congrArg (· ++ _) a.sched, a.images, a.recs⟩
    · rw [if_neg (Bool.eq_false_iff.mp bad)] at answers
      obtain ⟨asked, sched, recs⟩ := (u.failWaiters slot key).askRepair_asks slot key
      refine ⟨_, congrArg Host.Outcome.next answers, sched.trans a.sched, asked, fun x hx waits => ?_⟩
      rw [recs]
      exact State.failWaiters_indet (a.recs ▸ hx) waits
  · have stream : u.stream? g = some st := (a.stream? _).trans named
    obtain ⟨-, handle, phase⟩ := State.stream?_eq_some.mp stream
    exact ⟨_, congrArg Host.Outcome.next answers, State.stream?_setStream stream handle phase, (State.setStream_images ..).trans a.images⟩
  · have running : c.paused = false := h.runs id c (by rw [serves]; rfl) there
    have held' : u.img? slot = some i := (a.img? slot).trans held
    rw [State.loadStep_completes ((a.cmd? id).trans there) loads running held' whole] at answers
    refine ⟨_, { c.entry { status := stOK, resA := i.hdr.imageId } with since := u.beat }, congrArg Host.Outcome.next answers, ?_,
      (State.finish_entry ..).trans ?_, rfl, rfl, rfl, ?_⟩
    · rw [State.img?, State.finish_images]
      exact (AMap.get?_modify ..).trans (by rw [if_pos rfl, show AMap.get? u.images slot = some i from held']; rfl)
    · exact congrArg (·.cqPend ++ _) (State.ring_congr a.rings c.ring)
    · rw [State.finish_cmds]
      exact congrArg (List.filter _) a.cmds
  · rw [State.cairnCleared_completes ((a.cmd? id).trans there) saves] at answers
    refine ⟨_, { c.entry { status := stOK, pos := pos } with since := u.beat }, congrArg Host.Outcome.next answers, ?_,
      (State.finish_entry ..).trans ?_, rfl, rfl, rfl⟩
    · rw [State.finish_cairns]
      exact (AMap.get?_modify ..).trans (by rw [if_pos rfl, a.cairns, held]; rfl)
    · exact congrArg (·.cqPend ++ _) (State.ring_congr a.rings c.ring)
  · rw [State.cairnLoaded_first ((a.cmd? id).trans there) resumes] at answers
    have mine : c ∈ u.cmds := a.cmds ▸ List.mem_of_find?_eq_some there
    exact ⟨_, congrArg Host.Outcome.next answers, ⟨_, State.keep_mem mine _, (State.cmd?_id there :), rfl⟩, a.streams, a.rings, a.cairns⟩
  · have keeps := State.deliver_scrub serves u r (roundTrip s o r)
    simp only [State.deliver, serves] at keeps
    refine ⟨_, congrArg Host.Outcome.next answers, ?_, a.sameStreams.trans keeps.sameStreams, keeps.images.trans a.images⟩
    rw [keeps.corrected, State.count_counter, if_pos rfl, a.counters 92 (by decide) (by decide)]
  · refine ⟨_, congrArg Host.Outcome.next answers, ?_, a.sameStreams, a.images, a.brt.ge⟩
    rw [← a.beat]
    exact (AMap.get?_set ..).trans (if_pos rfl)

end Sys2Proof.Machine
end

section
/-! MATCH_UPDATE: what invalidate, write and validate ask of a bank, and the tiles of the masters written (R246, R255, R256). -/

namespace Sys2Proof.Machine

/-! Sorted lists hold what the unsorted ones do. -/

theorem insertBy_perm {α : Type} (key : α → Nat) (x : α) (ys : List α) : (insertBy key x ys).Perm (x :: ys) := by
  induction ys with
  | nil => exact List.Perm.refl _
  | cons y ys ih =>
    unfold insertBy
    split
    · exact List.Perm.refl _
    · exact (ih.cons y).trans (List.Perm.swap x y ys)
theorem sortAsc_perm {α : Type} (key : α → Nat) (xs : List α) : (sortAsc key xs).Perm xs := by
  have onto (xs acc : List α) : (xs.foldl (fun acc x => insertBy key x acc) acc).Perm (xs ++ acc) := by
    induction xs generalizing acc with
    | nil => exact List.Perm.refl _
    | cons x xs ih => exact (ih _).trans (((insertBy_perm key x acc).append_left xs).trans List.perm_middle)
  have sorted := onto xs []
  rw [List.append_nil] at sorted
  exact sorted

/-! Firmware operations in a row leave all but the stack's channels and the operations that wait. -/

/-- What firmware operations leave: all of the front but the stack, and of that the epoch and the runs of the images region. -/
structure FirmKeeps (s t : State) : Prop extends StackStep s t where
  imgRuns : t.stack.imgRuns = s.stack.imgRuns

section
variable {s t u : State}

theorem StackStep.sched (h : StackStep s t) : t.sched = s.sched := congrArg Front.sched h.rest
theorem StackStep.banks (h : StackStep s t) : t.banks = s.banks := congrArg Front.banks h.rest
theorem StackStep.images (h : StackStep s t) : t.images = s.images := congrArg Front.images h.rest

theorem FirmKeeps.refl (s : State) : FirmKeeps s s := ⟨⟨rfl, rfl⟩, rfl⟩
theorem FirmKeeps.trans (a : FirmKeeps s t) (b : FirmKeeps t u) : FirmKeeps s u :=
  ⟨a.toStackStep.trans b.toStackStep, b.imgRuns.trans a.imgRuns⟩
theorem FirmKeeps.withFirm (s : State) (os : List FirmOp) : FirmKeeps s (s.withFirm os) := ⟨⟨rfl, rfl⟩, rfl⟩
theorem FirmKeeps.of_front (h : t.front = s.front) : FirmKeeps s t :=
  ⟨StackStep.of_front h, congrArg (fun f : Front => f.stack.imgRuns) h⟩
/-- A channel on which a background operation of some transfers has been sent. -/
def Chan.takes (x : Chan) (o : SOp) (req : Nat) : Chan :=
  { x with credit := x.credit - req, nextTag := (x.nextTag + 1) % 65536, outs := x.outs ++ [o], planBack := x.planBack + req }
/-- A background operation sent is on its channel, and all else of the front is as before. -/
theorem State.sendOn_back_front (s : State) (c op : Nat) (purp : Purp) (words : List W64) (payload : List Byte) (respLen : Nat) :
    ∃ o, (s.sendOn c .back op purp words payload respLen).front = (s.setChan c (·.takes o (1 + cdiv payload.length 64))).front := by
  obtain ⟨x, picked⟩ := s.pick_eq 235
  refine ⟨⟨(s.chan c).nextTag, op, fld (words.headD 0#64) 39 0, purp, respLen, beatAdd s.beat s.stack.brt, s.beat, (s.pick 235).1, false⟩, ?_⟩
  unfold State.sendOn
  simp only [reduceCtorEq, if_false]
  rw [State.emit_front, State.ev_front, State.count_front, State.count_front, picked]
  rfl
theorem FirmKeeps.sendOn (s : State) (c op : Nat) (purp : Purp) (words : List W64) (payload : List Byte) (respLen : Nat) :
    FirmKeeps s (s.sendOn c .back op purp words payload respLen) := by
  obtain ⟨o, front⟩ := s.sendOn_back_front c op purp words payload respLen
  have chan : FirmKeeps s (s.setChan c (·.takes o (1 + cdiv payload.length 64))) := ⟨⟨rfl, rfl⟩, rfl⟩
  exact chan.trans (.of_front front)
theorem FirmKeeps.pumpFirm (n : Nat) (s : State) : FirmKeeps s (pumpFirm n s) := by
  induction n generalizing s with
  | zero => exact .refl s
  | succ n ih =>
    unfold Machine.pumpFirm
    split
    · exact .refl s
    · rename_i rest _
      have took := FirmKeeps.withFirm s rest
      dsimp only
      split
      · exact took.trans (ih _)
      · split
        · split
          · exact took.trans (FirmKeeps.trans (.sendOn ..) (ih _))
          · exact .refl s
        · exact .refl s
theorem FirmKeeps.firm (s : State) (op : Nat) (purp : Purp) (words : List W64) (payload : List Byte) (respLen : Nat) :
    FirmKeeps s (s.firm op purp words payload respLen) := by
  unfold State.firm State.pumpFirms
  split
  · exact .withFirm s _
  · exact (FirmKeeps.withFirm s _).trans (.pumpFirm ..)
theorem FirmKeeps.masterWrites (m : AMap Img) (cmd : Nat) (tiles : List (Nat × Nat)) (s : State) : FirmKeeps s (masterWrites s m cmd tiles) := by
  unfold Machine.masterWrites
  induction tiles generalizing s with
  | nil => exact .refl s
  | cons t tiles ih => exact (FirmKeeps.firm ..).trans (ih _)
end

/-! The three updates. -/

section
variable {d : Desc} {s : State} (ok : s.accepts d = true) (op : d.opcode = 0x20)
include ok op

theorem exec_matchUpdateInvalidate (action : dfld d 2 1 0 = 0) :
    exec (.matchUpdateInvalidate d) s = .next (invalidateBody d (s.started d) (s.startedCmd d)) :=
  congrArg Host.Outcome.next (runDesc_accepts ok (by simp [op, action]) _)
theorem exec_matchUpdateWrite (recs : List Byte) (action : dfld d 2 1 0 = 1) :
    exec (.matchUpdateWrite d recs) s = .next (writeBody d recs (s.started d) (s.startedCmd d)) :=
  congrArg Host.Outcome.next (runDesc_accepts ok (by simp [op, action]) _)
theorem exec_matchUpdateValidate (action : dfld d 2 1 0 = 2) :
    exec (.matchUpdateValidate d) s = .next (validateBody d (s.started d) (s.startedCmd d)) :=
  congrArg Host.Outcome.next (runDesc_accepts ok (by simp [op, action]) _)
end

/-- The entries that a write loads: each record in its unit, not valid yet, with an entry tag from the first one on. -/
def writtenEntries (tag : Nat) (us : List Nat) (es : List EntryRec) : List BEntry :=
  ((List.range us.length).zip (us.zip es)).map fun x => BEntry.put x.2.1 x.2.2 false (tag + x.1) 0
section
variable {tag : Nat} {us : List Nat} {es : List EntryRec} (each : es.length = us.length)
include each
theorem writtenEntries_recs : (writtenEntries tag us es).map (·.rec_) = es := by
  have pairs : ((List.range us.length).zip (us.zip es)).map Prod.snd = us.zip es := List.map_snd_zip (by simp [each])
  calc (writtenEntries tag us es).map (·.rec_)
      _ = (((List.range us.length).zip (us.zip es)).map Prod.snd).map Prod.snd := by simp [writtenEntries, BEntry.put]
      _ = es := by rw [pairs, List.map_snd_zip (by omega)]
theorem writtenEntries_units : (writtenEntries tag us es).map (·.unit) = us := by
  have pairs : ((List.range us.length).zip (us.zip es)).map Prod.snd = us.zip es := List.map_snd_zip (by simp [each])
  calc (writtenEntries tag us es).map (·.unit)
      _ = (((List.range us.length).zip (us.zip es)).map Prod.snd).map Prod.fst := by simp [writtenEntries, BEntry.put]
      _ = us := by rw [pairs, List.map_fst_zip (by omega)]
end
theorem writtenEntries_unset {tag : Nat} {us : List Nat} {es : List EntryRec} {e : BEntry} (h : e ∈ writtenEntries tag us es) :
    e.valid = false ∧ e.written = true := by
  obtain ⟨x, -, rfl⟩ := List.mem_map.mp h
  exact ⟨rfl, rfl⟩

@[simp] theorem targetUnits_length (w first n : Nat) : (targetUnits w first n).length = n := by simp [targetUnits]
@[simp] theorem parseEntries_length (w n : Nat) (bs : List Byte) : (parseEntries w n bs).length = n := by simp [parseEntries]

section
variable {d : Desc} {u : State} {c : Cmd} {b : Bank} (soon : bankSoon u (dfld d 2 7 3) = b)
include soon

/-- Invalidate by its checks (R246). -/
theorem invalidateBody_eq : invalidateBody d u c =
    if !rangeOk b.width (dfld d 2 18 8) (dfld d 2 30 20 + 1) then u.finish c { status := stBadDesc }
    else if !updateOk u (dfld d 2 7 3) b (targetUnits b.width (dfld d 2 18 8) (dfld d 2 30 20 + 1)) then u.finish c { status := stState }
    else (u.finish c { status := stOK }).at u.nextB (.invalidate (dfld d 2 7 3) (targetUnits b.width (dfld d 2 18 8) (dfld d 2 30 20 + 1))) := by
  subst soon
  rfl

variable (fits : rangeOk b.width (dfld d 2 18 8) (dfld d 2 30 20 + 1) = true)
include fits

theorem validateBody_fits : validateBody d u c = u.validateGo c (dfld d 2 7 3) (targetUnits b.width (dfld d 2 18 8) (dfld d 2 30 20 + 1)) := by
  subst soon
  exact if_neg (by simp [fits])

/-- A write whose records are whole, by its checks (R244, R255). -/
theorem writeBody_whole {recs : List Byte} (whole : (dfld d 2 30 20 + 1) * (16 + 32 * b.width) ≤ recs.length)
    {us : List Nat} (targets : targetUnits b.width (dfld d 2 18 8) (dfld d 2 30 20 + 1) = us)
    {es : List EntryRec} (parsed : parseEntries b.width (dfld d 2 30 20 + 1) recs = es) : writeBody d recs u c =
    if !es.all (fun r => entryOk b.width r && !fillClash u (dfld d 2 7 3) b.width r) then u.finish c { status := stBadDesc }
    else if inShift b us || !(entriesAt b us).all (fun e => !e.valid) || !es.all (fun r => setLive u (dfld d 2 7 3) r.set) then
      u.finish c { status := stState }
    else ({ u.finish c { status := stOK } with nextId := u.nextId + (dfld d 2 30 20 + 1) } : State).at u.nextB
      (.writeE (dfld d 2 7 3) (writtenEntries u.nextId us es)) := by
  subst soon targets parsed
  refine (if_neg (by simp [fits])).trans ((if_neg (Nat.not_lt.mpr whole)).trans ?_)
  simp only [writtenEntries, targetUnits_length]
end

/-! Validate. -/

/-- Entries given their places keep all else of them. -/
theorem placedEntries_written (u : State) (k : Nat) (es : List BEntry) : (placedEntries u k es).map (·.written) = (sortAsc (·.unit) es).map (·.written) := by
  have onto (es acc : List BEntry) : (es.foldl (fun ps e => ps ++ [{ e with place := masterPlace u k (ps.map (·.place)) e.rec_ }]) acc).map (·.written)
      = acc.map (·.written) ++ es.map (·.written) := by
    induction es generalizing acc with
    | nil => simp
    | cons e es ih => rw [List.foldl_cons, ih]; simp
  exact onto _ []
theorem placedEntries_length (u : State) (k : Nat) (es : List BEntry) : (placedEntries u k es).length = es.length := by
  have same := congrArg List.length (placedEntries_written u k es)
  rw [List.length_map, List.length_map] at same
  exact same.trans (sortAsc_perm ..).length_eq
theorem placedEntries_allWritten (u : State) (k : Nat) (es : List BEntry) : (placedEntries u k es).all (·.written) = es.all (·.written) := by
  have sorted : (sortAsc (·.unit) es).all (·.written) = es.all (·.written) := (sortAsc_perm ..).all_eq
  have same := congrArg (List.all · id) (placedEntries_written u k es)
  rw [List.all_map, List.all_map] at same
  exact same.trans sorted

section
variable {u : State} {c : Cmd} {k : Nat} {us : List Nat} {b : Bank} (soon : bankSoon u k = b)
include soon

theorem State.validateGo_refused (refused : updateOk u k b us = false ∨ (entriesAt b us).length < us.length ∨ ∃ e ∈ entriesAt b us, e.written = false) :
    u.validateGo c k us = u.finish c { status := stState } := by
  subst soon
  refine if_pos ?_
  rw [placedEntries_length, placedEntries_allWritten]
  simpa [or_assoc] using refused

variable (may : updateOk u k b us = true) (there : us.length ≤ (entriesAt b us).length) (written : ∀ e ∈ entriesAt b us, e.written = true)
include may there written

/-- A validate that its checks let on, by the room of the images region (R246). -/
theorem State.validateGo_goes {ps : List BEntry} (placed : placedEntries u k (entriesAt b us) = ps) : u.validateGo c k us =
    match growRuns u (withEntries u k ps) with
    | none => u.finish c { status := stState }
    | some (runs, moved) =>
      Machine.masterWrites
        { u.keep c (.validate k us (masterTiles u (withEntries u k ps) moved k ps).length ps) with stack := { u.stack with imgRuns := runs } }
        (withEntries u k ps) c.id (masterTiles u (withEntries u k ps) moved k ps) := by
  subst soon placed
  refine (if_neg ?_).trans rfl
  rw [placedEntries_length, placedEntries_allWritten]
  simpa [may, there] using written
end

/-- A validate under way on the command that has just started: its masters' tiles are to be written. -/
theorem validateGo_runs {s : State} {d : Desc} {k : Nat} {us : List Nat} {ps : List BEntry} (m : AMap Img) (runs : AMap (Nat × Nat)) (tiles : List (Nat × Nat)) :
    let v : State := { (s.started d).keep (s.startedCmd d) (.validate k us tiles.length ps) with stack := { (s.started d).stack with imgRuns := runs } }
    let t := masterWrites v m (s.startedCmd d).id tiles
    Runs s t d (.validate k us tiles.length ps) ∧ t.sched = s.sched ∧ t.banks = s.banks ∧ t.images = s.images ∧ t.stack.imgRuns = runs := by
  intro v t
  have keeps : FirmKeeps v t := .masterWrites ..
  have started : Runs s v d (.validate k us tiles.length ps) := runs_congr rfl rfl (runs_keep _ rfl (startedCmd_mem s d))
  exact ⟨runs_congr keeps.cmds keeps.rings started, keeps.sched.trans (started_sched s d), keeps.banks.trans (started_banks s d),
    keeps.images.trans (started_images s d), keeps.imgRuns⟩

/-- The last master tile of a validate whose entries are as they were (R246, R255). -/
theorem State.masterStep_last {s : State} {c : Cmd} {k : Nat} {us : List Nat} {es : List BEntry} (there : s.cmd? c.id = some c)
    (kind : c.k = .validate k us 1 es) (same : sameEntries (entriesAt (bankSoon s k) us) es = true) : s.masterStep c.id =
      ((({ s with images := withEntries s k es } : State).finish c { status := stOK }).at s.nextB (.writeE k es)).at s.nextB (.validate k us) := by
  simp only [State.masterStep, there, kind, same, Nat.lt_irrefl, if_false, Bool.not_true, Bool.false_eq_true]

/-- Settles O43: the bodies' checks (`invalidateBody_eq`, `writeBody_whole`, `State.validateGo_refused`, `State.validateGo_goes`), the tiles that a
validate sends (`validateGo_runs`), and the last of them (`State.masterStep_last`). -/
theorem matchUpdateWaitsForItsBoundary : Obligations.MatchUpdateWaitsForItsBoundary := by
  intro d recs s u k b n us fits ok op
  have soon : bankSoon u k = b := started_bankSoon s d k
  have sched (c : Cmd) (r : Done) : (u.finish c r).sched = s.sched := (State.finish_sched ..).trans (started_sched s d)
  have banks (c : Cmd) (r : Done) : (u.finish c r).banks = s.banks := (State.finish_banks ..).trans (started_banks s d)
  have images (c : Cmd) (r : Done) : (u.finish c r).images = s.images := (State.finish_images ..).trans (started_images s d)
  have asks (c : Cmd) (r : Done) (e : Eff) : ((u.finish c r).at u.nextB e).sched = s.sched ++ [⟨s.nextB, e, 0⟩] := by
    rw [State.at, sched, started_nextB]
  have passes {b : Bool} (h : b = true) : ¬ (!b) = true := by simp [h]
  refine ⟨fun action => ?_, fun action inside whole => ?_, fun action inside => ?_, fun c us es there kind same => ?_⟩
  · rw [exec_matchUpdateInvalidate ok op action, invalidateBody_eq soon]
    refine ⟨fun out => ?_, fun inside refused => ?_, fun inside may => ?_⟩
    · exact ⟨_, congrArg Host.Outcome.next (if_pos (congrArg not out)), completes_started .., sched ..⟩
    · exact ⟨_, congrArg Host.Outcome.next ((if_neg (passes inside)).trans (if_pos (congrArg not refused))), completes_started .., sched ..⟩
    · exact ⟨_, congrArg Host.Outcome.next ((if_neg (passes inside)).trans (if_neg (passes may))), completes_started .., asks .., banks ..⟩
  · rw [exec_matchUpdateWrite ok op recs action, writeBody_whole soon inside whole (us := us) rfl rfl]
    intro es
    have each : es.length = us.length := (parseEntries_length ..).trans (targetUnits_length ..).symm
    refine ⟨fun malformed => ?_, fun formed => ⟨fun refused => ?_, fun still unset live => ?_⟩⟩
    · exact ⟨_, congrArg Host.Outcome.next (if_pos (congrArg not malformed)), completes_started .., sched ..⟩
    · exact ⟨_, congrArg Host.Outcome.next ((if_neg (passes formed)).trans (if_pos (by simpa [or_assoc] using refused))), completes_started .., sched ..⟩
    · have may : ¬ (inShift b us || !(entriesAt b us).all (fun e => !e.valid) || !es.all (fun r => setLive u k r.set)) = true := by
        simpa [still] using ⟨unset, live⟩
      exact ⟨_, _, congrArg Host.Outcome.next ((if_neg (passes formed)).trans (if_neg may)), completes_started s d _, asks .., banks ..,
        writtenEntries_recs each, writtenEntries_units each, fun e => writtenEntries_unset⟩
  · rw [exec_matchUpdateValidate ok op action, validateBody_fits soon inside]
    have count : us.length = n := targetUnits_length ..
    intro es
    refine ⟨fun refused => ?_, fun may enough written => ?_⟩
    · rw [State.validateGo_refused soon (count.symm ▸ refused)]
      exact ⟨_, rfl, completes_started .., sched .., images ..⟩
    · intro ps m
      rw [State.validateGo_goes soon may (count.symm ▸ enough) written (ps := ps) rfl]
      refine ⟨fun full => ?_, fun runs moved room => ?_⟩
      · rw [show growRuns _ _ = none from full]
        exact ⟨_, rfl, completes_started .., images .., banks .., sched ..⟩
      · rw [show growRuns _ _ = some (runs, moved) from room]
        exact ⟨_, rfl, validateGo_runs m runs _⟩
  · rw [State.masterStep_last there kind same]
    exact ⟨by simp, by simp [State.at], { c.entry { status := stOK } with since := s.beat }, State.finish_entry .., rfl, rfl⟩

end Sys2Proof.Machine
end

section
/-! MATCH_SHIFT with its moves, and MATCH_SEARCH (R248, R249, R253, R256, R257, R259). -/

namespace Sys2Proof.Machine

theorem State.bank_congr {s t : State} (h : t.banks = s.banks) (k : Nat) : t.bank k = s.bank k := by rw [State.bank, State.bank, h]
@[simp] theorem State.setBank_bank (s : State) (k : Nat) (f : Bank → Bank) (j : Nat) : (s.setBank k f).bank j = if j = k then f (s.bank k) else s.bank j := by
  simp [State.setBank, State.bank]
@[simp] theorem started_bank (s : State) (d : Desc) (k : Nat) : (s.started d).bank k = s.bank k := State.bank_congr (started_banks s d) k
@[simp] theorem started_nBanks (s : State) (d : Desc) : (s.started d).nBanks = s.nBanks := by simp [State.nBanks]

/-! A shift begins. -/

section
variable {d : Desc} {s : State} (ok : s.accepts d = true)
include ok
theorem exec_matchShift (op : d.opcode = 0x21) : exec (.matchShift d) s = .next (shiftBody d (s.started d) (s.startedCmd d)) :=
  congrArg Host.Outcome.next (runDesc_accepts ok (by simp [op]) _)
theorem exec_matchSearch (op : d.opcode = 0x22) (key : List Byte) : exec (.matchSearch d key) s = .next (searchBody d key (s.started d) (s.startedCmd d)) :=
  congrArg Host.Outcome.next (runDesc_accepts ok (by simp [op]) _)
end

/-- A shift whose range lies within the bank, by the state of its free entry (R256). -/
theorem shiftBody_inside {d : Desc} {u : State} {c : Cmd} {b : Bank} {first n free : Nat} {up : Bool} (soon : bankSoon u (dfld d 2 7 3) = b)
    (at_ : dfld d 2 18 8 = first) (count : dfld d 2 30 20 + 1 = n) (dir : (!dbit d 2 32) = up)
    (place : (if up then first + b.width * n else first - b.width) = free)
    (fits : rangeOk b.width first (if up then n + 1 else n) = true) (below : up = false → b.width ≤ first) : shiftBody d u c =
    if b.shift.isSome || (entriesAt b [free]).any (·.valid) then u.finish c { status := stState }
    else ((u.keep c (.shift (dfld d 2 7 3))).setBank (dfld d 2 7 3) fun x => { x with shift := some ⟨first, n, up, 0, false, c.id⟩ }).at u.nextB
      (.shiftMove (dfld d 2 7 3)) := by
  subst soon at_ count dir place
  refine (if_neg ?_).trans rfl
  rw [fits]
  simpa using below

/-! A shift moves on. -/

/-- A bank after one boundary of a shift of it: the entry is copied, or the original is invalidated (R256). -/
def Bank.shifted (h : Shift) (b : Bank) : Bank :=
  if h.copied then { b.invalidate [(h.move b.width).1] with shift := if h.done + 1 = h.count then none else some { h with done := h.done + 1, copied := false } }
  else { b with
    entries := b.entries.filter (fun e => e.unit != (h.move b.width).2) ++ (entriesAt b [(h.move b.width).1]).map fun e => { e with unit := (h.move b.width).2 },
    shift := some { h with copied := true } }

section
variable (h : Shift) (b : Bank)
@[simp] theorem Bank.shifted_width : (b.shifted h).width = b.width := by
  unfold Bank.shifted
  split <;> rfl
variable {h}
theorem Bank.shifted_copies (first : h.copied = false) : b.shifted h = { b with
    entries := b.entries.filter (fun e => e.unit != (h.move b.width).2) ++ (entriesAt b [(h.move b.width).1]).map fun e => { e with unit := (h.move b.width).2 },
    shift := some { h with copied := true } } := if_neg (by simp [first])
theorem Bank.shifted_invalidates (second : h.copied = true) : b.shifted h =
    { b.invalidate [(h.move b.width).1] with shift := if h.done + 1 = h.count then none else some { h with done := h.done + 1, copied := false } } :=
  if_pos second

variable {b} {e : BEntry}
theorem Bank.mem_invalidate_other {u : Nat} (other : e.unit ≠ u) : e ∈ (b.invalidate [u]).entries ↔ e ∈ b.entries := by
  simp only [Bank.invalidate, List.contains_eq_mem, List.mem_singleton, decide_eq_true_eq]
  refine List.mem_map.trans ⟨fun ⟨x, hx, same⟩ => ?_, fun he => ⟨e, he, if_neg other⟩⟩
  split at same
  · exact absurd (same ▸ ‹x.unit = u›) other
  · exact same ▸ hx
theorem Bank.mem_invalidate_own {u : Nat} (he : e ∈ (b.invalidate [u]).entries) (own : e.unit = u) : e.valid = false := by
  obtain ⟨x, -, rfl⟩ := List.mem_map.mp he
  split
  · rfl
  · rename_i other
    rw [if_neg other] at own
    simp [own] at other
/-- The entries of the other units are as they were. -/
theorem Bank.mem_shifted_other (src : e.unit ≠ (h.move b.width).1) (dst : e.unit ≠ (h.move b.width).2) : e ∈ (b.shifted h).entries ↔ e ∈ b.entries := by
  cases copied : h.copied with
  | true => rw [Bank.shifted_invalidates b copied]; exact Bank.mem_invalidate_other src
  | false =>
    rw [Bank.shifted_copies b copied]
    refine List.mem_append.trans ⟨fun he => ?_, fun he => .inl (List.mem_filter.mpr ⟨he, by simpa using dst⟩)⟩
    rcases he with kept | copy
    · exact (List.mem_filter.mp kept).1
    · obtain ⟨x, -, rfl⟩ := List.mem_map.mp copy
      exact absurd rfl dst
/-- The original and its copy are both there between the two boundaries of a move (R256). -/
theorem Bank.mem_shifted_copied (first : h.copied = false) (apart : (h.move b.width).1 ≠ (h.move b.width).2) (he : e ∈ b.entries)
    (own : e.unit = (h.move b.width).1) : e ∈ (b.shifted h).entries ∧ { e with unit := (h.move b.width).2 } ∈ (b.shifted h).entries := by
  rw [Bank.shifted_copies b first]
  refine ⟨List.mem_append_left _ (List.mem_filter.mpr ⟨he, by simpa [own] using apart⟩), List.mem_append_right _ (List.mem_map.mpr ⟨e, ?_, rfl⟩)⟩
  exact List.mem_filter.mpr ⟨he, by simp [own]⟩
end

theorem AMap.set_set {α : Type} (m : AMap α) (i : Nat) (v w : α) : AMap.set (AMap.set m i v) i w = AMap.set m i w := by
  induction m with
  | nil => simp [AMap.set]
  | cons x m ih =>
    obtain ⟨k, x⟩ := x
    by_cases before : i < k
    · simp [AMap.set, before]
    · by_cases own : i = k
      · simp [AMap.set, own]
      · simp [AMap.set, before, own, ih]
theorem State.setBank_setBank (s : State) (k : Nat) (f g : Bank → Bank) : (s.setBank k f).setBank k g = s.setBank k fun b => g (f b) := by
  simp [State.setBank, State.bank, AMap.set_set]

section
variable {s : State} {k : Nat} {h : Shift} (runs : (s.bank k).shift = some h)
include runs

/-- One boundary of a running shift, by what is left of it. -/
theorem State.shiftNow_eq : s.shiftNow k =
    if h.copied then
      if h.done + 1 = h.count then (s.setBank k (·.shifted h)).finishId h.cmd { status := stOK }
      else (s.setBank k (·.shifted h)).at (beatAdd s.beat 2) (.shiftMove k)
    else (s.setBank k (·.shifted h)).at (beatAdd s.nextB 1) (.shiftMove k) := by
  have own (f : Bank → Bank) (same : f (s.bank k) = (s.bank k).shifted h) : s.setBank k f = s.setBank k (·.shifted h) := by
    simp only [State.setBank, same]
  cases copied : h.copied with
  | true =>
    simp only [State.shiftNow, runs, copied, State.setBank_setBank, Bool.not_true, Bool.false_eq_true, if_false, if_true]
    by_cases last : h.done + 1 = h.count
    · rw [if_pos last, if_pos last, own _ (by rw [Bank.shifted_invalidates _ copied, if_pos last])]
    · rw [if_neg last, if_neg last, own _ (by rw [Bank.shifted_invalidates _ copied, if_neg last])]
      rfl
  | false =>
    simp only [State.shiftNow, runs, copied, Bool.not_false, Bool.false_eq_true, if_false, if_true]
    rw [own _ (Bank.shifted_copies _ copied).symm]

/-- The banks after a boundary of a shift, and what it leaves. -/
theorem State.shiftNow_keeps : (∀ j, (s.shiftNow k).bank j = if j = k then (s.bank k).shifted h else s.bank j)
    ∧ (s.shiftNow k).streams = s.streams ∧ (s.shiftNow k).images = s.images ∧ (s.shiftNow k).tenants = s.tenants := by
  have ends (u : State) (id : Nat) (r : Done) : (u.finishId id r).banks = u.banks ∧ (u.finishId id r).streams = u.streams
      ∧ (u.finishId id r).images = u.images ∧ (u.finishId id r).tenants = u.tenants := by
    unfold State.finishId
    split <;> simp
  have banks (j : Nat) : (s.setBank k (·.shifted h)).bank j = if j = k then (s.bank k).shifted h else s.bank j := State.setBank_bank ..
  rw [State.shiftNow_eq runs]
  split
  · split
    · obtain ⟨same, rest⟩ := ends (s.setBank k (·.shifted h)) h.cmd { status := stOK }
      exact ⟨fun j => (State.bank_congr same j).trans (banks j), rest⟩
    · exact ⟨banks, rfl, rfl, rfl⟩
  · exact ⟨banks, rfl, rfl, rfl⟩

/-- The last original invalidated, the command completes (R256). -/
theorem State.shiftNow_ends (second : h.copied = true) (last : h.done + 1 = h.count) {c : Cmd} (there : s.cmd? h.cmd = some c) :
    ∃ e, ((s.shiftNow k).ring c.ring).cqPend = (s.ring c.ring).cqPend ++ [e] ∧ e.status = stOK ∧ e.tag = c.tag := by
  have id : c.id = h.cmd := State.cmd?_id there
  rw [State.shiftNow_eq runs, if_pos second, if_pos last, ← id]
  exact State.finishId_queues (s := s.setBank k _) (id ▸ there) _
end

theorem exec_matchShiftMove_idle {bank : BitVec 5} {s : State} (idle : s.dueNow (.shiftMove bank.toNat) = false) : exec (.matchShiftMove bank) s = .next s := by
  show Host.Outcome.next _ = _
  rw [State.takeEff_of_idle idle]
theorem exec_matchShiftMove_due {bank : BitVec 5} {s : State} (due : s.dueNow (.shiftMove bank.toNat) = true) :
    ∃ sched, exec (.matchShiftMove bank) s = .next (({ s with sched := sched } : State).shiftNow bank.toNat) := by
  obtain ⟨y, sched, taken⟩ := State.takeEff_of_due due
  refine ⟨sched, ?_⟩
  show Host.Outcome.next _ = _
  rw [taken]

/-! Searches. -/

/-- What a search finds false is put down for the sweep's rewrite, and the entries stay (R257). -/
structure PutDown (found : List Nat) (s t : State) : Prop where
  entries : ∀ k, (t.bank k).entries = (s.bank k).entries ∧ (t.bank k).width = (s.bank k).width
  kept : ∀ k, ∀ u ∈ (s.bank k).rewrite, u ∈ (t.bank k).rewrite
  rest : ({ t with banks := s.banks, integ := s.integ } : State).front = s.front
  down : ∀ u ∈ found, u % 2048 ∈ (t.bank (u / 2048)).rewrite
/-- An entry put down for the sweep's rewrite. -/
def Bank.putDown (b : Bank) (u : Nat) : Bank := if b.rewrite.contains u then b else { b with rewrite := b.rewrite ++ [u] }
/-- A false match counted and put down. -/
def State.putDown (s : State) (u : Nat) : State := ((s.count 88 1).count (128 + 8 * (u / 4096) + 6) 1).setBank (u / 2048) (·.putDown (u % 2048))
theorem Bank.putDown_keeps (b : Bank) (u : Nat) : (b.putDown u).entries = b.entries ∧ (b.putDown u).width = b.width
    ∧ (∀ v ∈ b.rewrite, v ∈ (b.putDown u).rewrite) ∧ u ∈ (b.putDown u).rewrite := by
  unfold Bank.putDown
  split
  · exact ⟨rfl, rfl, fun _ => id, by simpa using ‹b.rewrite.contains u = true›⟩
  · exact ⟨rfl, rfl, fun _ => List.mem_append_left _, List.mem_append_right _ List.mem_cons_self⟩
theorem State.putDown_bank (s : State) (u k : Nat) :
    (s.putDown u).bank k = if k = u / 2048 then (s.bank (u / 2048)).putDown (u % 2048) else s.bank k := by
  have counted (j : Nat) : ((s.count 88 1).count (128 + 8 * (u / 4096) + 6) 1).bank j = s.bank j := State.bank_congr (by simp) j
  rw [State.putDown, State.setBank_bank, counted, counted]
theorem State.putDown_front (s : State) (u : Nat) : ({ s.putDown u with banks := s.banks, integ := s.integ } : State).front = s.front := by
  have counted : ((s.count 88 1).count (128 + 8 * (u / 4096) + 6) 1).front = s.front := by rw [State.count_front, State.count_front]
  exact congrArg (fun f : Front => { f with banks := s.banks, integ := s.integ }) counted
theorem PutDown.one (s : State) (u : Nat) : PutDown [u] s (s.putDown u) := by
  obtain ⟨entries, width, kept, down⟩ := (s.bank (u / 2048)).putDown_keeps (u % 2048)
  refine ⟨fun k => ?_, fun k => ?_, s.putDown_front u, fun v hv => ?_⟩
  · rw [State.putDown_bank]
    split
    · rename_i own
      exact own.symm ▸ ⟨entries, width⟩
    · exact ⟨rfl, rfl⟩
  · rw [State.putDown_bank]
    split
    · rename_i own
      exact own.symm ▸ kept
    · exact fun _ => id
  · rw [List.mem_singleton.mp hv, State.putDown_bank, if_pos rfl]
    exact down
theorem PutDown.trans {a b : List Nat} {s t u : State} (x : PutDown a s t) (y : PutDown b t u) : PutDown (a ++ b) s u where
  entries k := ⟨(y.entries k).1.trans (x.entries k).1, (y.entries k).2.trans (x.entries k).2⟩
  kept k v hv := y.kept k v (x.kept k v hv)
  rest := (congrArg (fun f : Front => { f with banks := s.banks, integ := s.integ }) y.rest).trans x.rest
  down v hv := (List.mem_append.mp hv).elim (fun h => y.kept _ _ (x.down v h)) (y.down v)
theorem PutDown.foldl (found : List Nat) (s : State) : PutDown found s (found.foldl State.putDown s) := by
  induction found generalizing s with
  | nil => exact ⟨fun _ => ⟨rfl, rfl⟩, fun _ _ => id, rfl, nofun⟩
  | cons u found ih => exact (PutDown.one s u).trans (ih _)

theorem State.searchFinds_putDown (s : State) (bad lost : List Nat) : PutDown bad s (s.searchFinds bad lost) := by
  obtain ⟨entries, kept, rest, down⟩ := PutDown.foldl bad s
  exact ⟨entries, kept, rest, down⟩

/-- Distinct matches are those of the images. -/
theorem distinctHits_congr {s t : State} (images : t.images = s.images) (key : Nat) (hs taken : List Hit) :
    distinctHits t key hs taken = distinctHits s key hs taken := by
  have owner (h : Hit) : dualOwner t h = dualOwner s h := by simp only [dualOwner, setOwner, images]
  induction hs generalizing taken with
  | nil => rfl
  | cons h hs ih => simp only [distinctHits, owner, ih]

/-- The matches of a search in the banks it names, in order (R248, R253). -/
def namedHits (s : State) (d : Desc) (w sets x : Nat) : List Hit :=
  sortAsc hitKey (((List.range s.nBanks).filter fun k => (dfld d 2 31 0).testBit k && (s.bank k).width == w).flatMap fun k =>
    bankHits k sets x (s.bank k).entries)
/-- A search's counts made and its false matches put down (R257, R405). -/
def State.searched (s : State) (x : Nat) (hits : List Hit) : State :=
  s.searchFinds ((hits.filter fun h => falseMatch x h.2).map (·.1)) ((hits.filter fun h => h.2.shadowBad).map (·.1))
theorem State.searched_putDown (s : State) (x : Nat) (hits : List Hit) :
    PutDown ((hits.filter fun h => falseMatch x h.2).map (·.1)) s (s.searched x hits) := s.searchFinds_putDown _ _
theorem State.searched_images (s : State) (x : Nat) (hits : List Hit) : (s.searched x hits).images = s.images :=
  congrArg Front.images (s.searched_putDown x hits).rest
/-- What a search answers with the match of its number, among the distinct ones (R253). -/
def matchDone (hs : List Hit) (n : Nat) (h : Hit) : Done :=
  { status := stOK, resA := h.1, resB := pack [(b2n (2 ≤ hs.length), 0), (h.2.rec_.priority, 1), (if n + 1 < hs.length then n + 1 else 0, 16)] }

section
variable {d : Desc} {key : List Byte} {u : State} {c : Cmd} {w sets x : Nat} (whole : keyBytes key ≤ key.length)
include whole

theorem searchBody_malformed (read : searchKey key = (w, sets, x, false)) : searchBody d key u c = u.finish c { status := stBadDesc } := by
  simp only [searchBody, read, Nat.not_lt.mpr whole, if_false, Bool.not_false, Bool.or_true, if_true]

variable {hits hs : List Hit} (read : searchKey key = (w, sets, x, true)) (some_width : w ≠ 0) (found : namedHits u d w sets x = hits)
  (distinct : distinctHits u x hits [] = hs)
include read some_width found distinct

/-- A search by the match of its number (R249, R253, R259). -/
theorem searchBody_formed : searchBody d key u c =
    match hs[dfld d 4 15 0]? with
    | some (k, e) =>
      if hits.any fun h => h.2.shadowBad then (u.searched x hits).finish c { status := stNotFound }
      else (u.searched x hits).finish c (matchDone hs (dfld d 4 15 0) (k, e))
    | none => (u.searched x hits).finish c { status := stNotFound } := by
  have after : distinctHits (u.searched x hits) x hits [] = hs := (distinctHits_congr (u.searched_images x hits) ..).trans distinct
  subst found after
  simp only [searchBody, read, Nat.not_lt.mpr whole, some_width, if_false, Bool.not_true, Bool.or_false, decide_false, Bool.false_eq_true]
  rfl
theorem searchBody_notFound (absent : hs.length ≤ dfld d 4 15 0 ∨ ∃ h ∈ hits, h.2.shadowBad = true) :
    searchBody d key u c = (u.searched x hits).finish c { status := stNotFound } := by
  rw [searchBody_formed whole read some_width found distinct]
  split
  · rename_i there
    obtain ⟨inside, -⟩ := List.getElem?_eq_some_iff.mp there
    exact if_pos (List.any_eq_true.mpr (absent.resolve_left (Nat.not_le.mpr inside)))
  · rfl
theorem searchBody_found {h : Hit} (there : hs[dfld d 4 15 0]? = some h) (sound : ∀ h ∈ hits, h.2.shadowBad = false) :
    searchBody d key u c = (u.searched x hits).finish c (matchDone hs (dfld d 4 15 0) h) := by
  rw [searchBody_formed whole read some_width found distinct, there]
  exact if_neg (by simpa using fun a b => sound (a, b))
end

/-- A started search completes, and keeps all that it read but for the rewrites it asks for (R253, R257). -/
theorem searched_started (s : State) (d : Desc) (x : Nat) (hits : List Hit) (r : Done) :
    let t := ((s.started d).searched x hits).finish (s.startedCmd d) r
    Completes s t d r
      ∧ ((∀ k, (t.bank k).entries = (s.bank k).entries ∧ (t.bank k).width = (s.bank k).width)
        ∧ (∀ h ∈ hits, falseMatch x h.2 = true → h.1 % 2048 ∈ (t.bank (h.1 / 2048)).rewrite)
        ∧ ((∀ h ∈ hits, falseMatch x h.2 = false) → t.banks = s.banks))
      ∧ SameStreams s t ∧ t.images = s.images ∧ SameTenants s t ∧ SameStack s t := by
  intro t
  have downs := (s.started d).searched_putDown x hits
  have front := downs.rest
  have bank (k : Nat) : t.bank k = ((s.started d).searched x hits).bank k := State.bank_congr (State.finish_banks ..) k
  refine ⟨completes_of_started r (congrArg Front.cmds front) (congrArg Front.rings front), ⟨fun k => ?_, fun h hh false_ => ?_, fun agree => ?_⟩,
    SameStreams.finish _ _ ?_, ?_, SameTenants.finish _ _ ?_, SameStack.finish _ _ ?_⟩
  · rw [bank, ← started_bank s d]
    exact downs.entries k
  · rw [bank]
    exact downs.down h.1 (List.mem_map.mpr ⟨h, List.mem_filter.mpr ⟨hh, false_⟩, rfl⟩)
  · have empty : hits.filter (fun h => falseMatch x h.2) = [] := List.filter_eq_nil_iff.mpr fun h hh => by simp [agree h hh]
    refine (State.finish_banks ..).trans (Eq.trans ?_ (started_banks s d))
    rw [State.searched, empty]
    rfl
  · exact (sameStreams_started s d).trans ⟨(congrArg Front.streams front :), (congrArg Front.recs front :), (congrArg Front.masks front :),
      (congrArg Front.opens front :)⟩
  · exact (State.finish_images ..).trans ((State.searched_images ..).trans (started_images s d))
  · exact (congrArg Front.tenants front).trans (started_tenants s d)
  · exact (congrArg Front.stack front).trans (started_stack s d)

/-- Settles O44: a shift begins by its checks (`shiftBody_inside`) and each boundary takes its bank one move on (`State.shiftNow_keeps`, `Bank.shifted`);
a search answers by the match of its number (`searchBody_notFound`, `searchBody_found`) and keeps the store (`searched_started`). -/
theorem shiftsAndSearchesOfTheStore : Obligations.ShiftsAndSearchesOfTheStore := by
  refine ⟨fun d bank s => ⟨?_, ?_⟩, ?_⟩
  · intro k b first n up free ok op fits below
    rw [exec_matchShift ok op, shiftBody_inside (b := b) (first := first) (n := n) (up := up) (free := free) (started_bankSoon s d k) rfl rfl rfl rfl fits below]
    refine ⟨fun busy => ?_, fun idle unset => ?_⟩
    · rw [if_pos (by simpa using busy)]
      exact ⟨_, rfl, completes_started .., by simp⟩
    · rw [if_neg (by rw [idle]; simpa using unset), started_nextB]
      have banks (j : Nat) := (s.startedOn d (.shift k)).setBank_bank k (fun x => { x with shift := some ⟨first, n, up, 0, false, s.nextId⟩ }) j
      have same (j : Nat) : (s.startedOn d (.shift k)).bank j = s.bank j := started_bank s d j
      refine ⟨_, rfl, runs_congr rfl rfl (runs_keep _ rfl (startedCmd_mem s d)), ?_, ?_, fun j other => ?_, ?_⟩
      · exact congrArg Bank.shift ((banks k).trans (if_pos rfl))
      · have entries := congrArg Bank.entries (same k)
        exact (congrArg Bank.entries ((banks k).trans (if_pos rfl))).trans entries
      · exact ((banks j).trans (if_neg other)).trans (same j)
      · exact congrArg (· ++ _) (started_sched s d)
  · intro k b
    refine ⟨exec_matchShiftMove_idle, fun h due runs => ?_⟩
    intro src dst
    obtain ⟨sched, run⟩ := exec_matchShiftMove_due due
    obtain ⟨banks, streams, images, tenants⟩ := State.shiftNow_keeps (s := { s with sched := sched }) (k := k) runs
    have own : (({ s with sched := sched } : State).shiftNow k).bank k = b.shifted h := (banks k).trans (if_pos rfl)
    refine ⟨_, run, fun j other => (banks j).trans (if_neg other), ?_⟩
    rw [own]
    refine ⟨b.shifted_width h, fun e => Bank.mem_shifted_other, fun first => ⟨?_, fun apart e => Bank.mem_shifted_copied first apart⟩,
      fun second => ⟨fun e => ?_, ?_⟩, fun second last c there => ?_, streams, images, tenants⟩
    · rw [Bank.shifted_copies b first]
    · rw [Bank.shifted_invalidates b second]
      exact Bank.mem_invalidate_own
    · rw [Bank.shifted_invalidates b second]
    · exact State.shiftNow_ends (s := { s with sched := sched }) runs second last there
  · intro d key w sets x s ks hits hs kept n ok op whole
    have found : namedHits (s.started d) d w sets x = hits := by simp only [namedHits, started_nBanks, started_bank]; rfl
    have distinct : distinctHits (s.started d) x hits [] = hs := distinctHits_congr (started_images s d) ..
    rw [exec_matchSearch ok op]
    refine ⟨fun read => ?_, fun read some_width => ⟨fun absent => ?_, fun k e there sound => ?_⟩⟩
    · rw [searchBody_malformed whole read]
      exact ⟨_, rfl, completes_started .., by simp⟩
    · rw [searchBody_notFound whole read some_width found distinct absent]
      obtain ⟨completes, keeps, -⟩ := searched_started s d x hits { status := stNotFound }
      exact ⟨_, rfl, completes, keeps⟩
    · rw [searchBody_found whole read some_width found distinct there sound]
      exact ⟨_, rfl, searched_started ..⟩

end Sys2Proof.Machine
end

section
/-! Leases: what the anchor grants in beat 2,000 of a period, and what a member adopts (R360 to R362). -/

namespace Sys2Proof.Machine

/-! The shares of an amount. -/

theorem sumBy_eq_sum {α : Type} (f : α → Nat) (xs : List α) : sumBy f xs = (xs.map f).sum := by
  rw [sumBy, List.sum_eq_foldl, List.foldl_map]
/-- Quotients rounded down, an amount each and a part by use, add up to no more than their sum's. -/
theorem sum_map_add_mul_div_le {α : Type} (a c d : Nat) (u : α → Nat) (xs : List α) :
    (xs.map fun x => a + c * u x / d).sum ≤ xs.length * a + c * (xs.map u).sum / d := by
  induction xs with
  | nil => exact Nat.zero_le _
  | cons x xs ih =>
    have parts := Nat.div_add_div_le_add_div (x := c * u x) (y := c * (xs.map u).sum) (z := d)
    simp only [List.map_cons, List.sum_cons, List.length_cons, Nat.add_mul, Nat.one_mul, Nat.mul_add]
    omega
/-- The shares of an amount are never more than the amount (R360). -/
theorem sumBy_leaseShare_le (g : Nat) (u : Nat → Nat) (ms : List Nat) :
    sumBy (fun m => leaseShare g ms.length (u m) (sumBy u ms)) ms ≤ g := by
  simp only [sumBy_eq_sum, leaseShare]
  by_cases unused : (ms.map u).sum = 0
  · simp only [if_pos unused, List.map_const', List.sum_replicate, smul_eq_mul]
    exact Nat.mul_div_le g ms.length
  · have even : ms.length * (g / (8 * ms.length)) ≤ g / 8 := by
      rw [← Nat.div_div_eq_div_mul]
      exact Nat.mul_div_le (g / 8) ms.length
    have used : 7 * g * (ms.map u).sum / (8 * (ms.map u).sum) = 7 * g / 8 :=
      Nat.mul_div_mul_right (7 * g) 8 (Nat.pos_of_ne_zero unused)
    have all := sum_map_add_mul_div_le (g / (8 * ms.length)) (7 * g) (8 * (ms.map u).sum) u ms
    simp only [if_neg unused]
    omega

/-! A grant on its way. -/

/-- What sending a grant leaves: the beat, the tenants, the governor, and the range but for the grants and the records that wait. -/
def State.grantSide (s : State) : Nat × GovS × AMap Tenant × RangeS :=
  (s.beat, s.gov, s.tenants, { s.range with outstanding := [], granted := 0, grants := [], grantsSince := [], backlog := [] })
theorem State.grantTo_grantSide (s : State) (m t : Nat) (g : Grant) : (s.grantTo m t g).grantSide = s.grantSide := by
  unfold State.grantTo State.relay State.relayAs
  dsimp only
  split_ifs <;> rfl
theorem State.grantTo_outstanding (s : State) (m t : Nat) (g : Grant) :
    (s.grantTo m t g).range.outstanding = s.range.outstanding ++ [(m, t, g.period, g.g)] := by
  unfold State.grantTo State.relay State.relayAs
  dsimp only
  split_ifs <;> rfl
theorem foldl_grantTo (t : Nat) (g : Nat → Grant) (ms : List Nat) (s : State) :
    (ms.foldl (fun s m => s.grantTo m t (g m)) s).grantSide = s.grantSide
    ∧ (ms.foldl (fun s m => s.grantTo m t (g m)) s).range.outstanding = s.range.outstanding ++ ms.map fun m => (m, t, (g m).period, (g m).g) := by
  induction ms generalizing s with
  | nil => exact ⟨rfl, (List.append_nil _).symm⟩
  | cons m ms ih =>
    obtain ⟨side, sent⟩ := ih (s.grantTo m t (g m))
    exact ⟨side.trans (s.grantTo_grantSide ..), by simp [sent, s.grantTo_outstanding]⟩

/-! The grants of a tenant. -/

/-- A tenant at the anchor with its period's refill (R347, R360). -/
def State.anchorRefill (s : State) (t : Nat) : Tenant := ({ s.tenant t with k := (s.anchorOf t).1 } : Tenant).refill s.gov.burst
/-- A member's share of an amount of a tenant's (R360). -/
def State.shareOf (s : State) (t amount m : Nat) : Nat :=
  leaseShare amount (AMap.keys s.range.members).length (usedBy s m t) (sumBy (fun m => usedBy s m t) (AMap.keys s.range.members))
/-- A member's grant of a tenant, of the counts that its refill brings (R360). -/
def State.grantOf (s : State) (t m : Nat) : Grant :=
  let y := s.anchorRefill t
  let p := s.beat / 4000 + 1
  ⟨t, p, s.shareOf t y.k.toNat m, s.shareOf t y.c m, s.shareOf t y.x m, BitVec.ofNat 64 (s.start.offset.toNat + s.beatsNs (p * 4000))⟩
/-- The counts of a tenant that leave the anchor: none while a split is in force (R362). -/
def State.leased (s : State) (t : Nat) : Nat :=
  if s.range.split then 0 else sumBy (s.shareOf t (s.anchorRefill t).k.toNat) (AMap.keys s.range.members)
/-- The leases of a tenant that leave the anchor. -/
def State.leasesSent (s : State) (t : Nat) : List (Nat × Nat × Nat × Nat) :=
  if s.range.split then [] else (AMap.keys s.range.members).map fun m => (m, t, s.beat / 4000 + 1, s.shareOf t (s.anchorRefill t).k.toNat m)
/-- A tenant refilled at the anchor: the settings in force from now on, and its counts less what leaves. -/
def State.anchorRefilled (s : State) (t : Nat) : State :=
  let y := s.anchorRefill t
  (s.setTenant t fun z => { z with c := y.c, b := y.b, e := y.e, pend := y.pend }).setAnchor t (y.k - (s.leased t : Nat), y.x, 0)

theorem State.grantTenant_disabled {s : State} {t : Nat} (off : (s.tenant t).enabled = false) : s.grantTenant t = s :=
  if_pos (by rw [off]; rfl)
theorem State.grantTenant_enabled {s : State} {t : Nat} (on : (s.tenant t).enabled = true) :
    (s.grantTenant t).grantSide = (s.anchorRefilled t).grantSide
    ∧ (s.grantTenant t).range.outstanding = s.range.outstanding ++ s.leasesSent t := by
  have off : ¬ (!(s.tenant t).enabled) = true := by simp [on]
  unfold State.anchorRefilled State.leased State.leasesSent
  by_cases split : s.range.split = true
  · rw [show s.grantTenant t = _ from (if_neg off).trans (if_pos split), if_pos split, if_pos split]
    simp only [Nat.cast_zero, Int.sub_zero]
    exact ⟨rfl, (List.append_nil _).symm⟩
  · rw [show s.grantTenant t = _ from (if_neg off).trans (if_neg split), if_neg split, if_neg split]
    exact foldl_grantTo t (s.grantOf t) ..

/-! The grants of every tenant. -/

/-- What the grants of a tenant read and no tenant's grants change. -/
def State.grantTerms (s : State) : Nat × GovS × Bool × AMap Member × List (Nat × Nat × Nat) × Nat :=
  (s.beat, s.gov, s.range.split, s.range.members, s.range.used, s.range.leasePeriod)
/-- What the anchor holds of a tenant: its settings, its counts, and its grants on their way. -/
def State.anchorBooks (s : State) (n : Nat) : Tenant × (Int × Nat × Nat) × List (Nat × Nat × Nat × Nat) :=
  (s.tenant n, s.anchorOf n, s.range.outstanding.filter fun z => z.2.1 == n)

theorem grantTerms_of_side {s t : State} (h : t.grantSide = s.grantSide) : t.grantTerms = s.grantTerms :=
  congrArg (fun x : Nat × GovS × AMap Tenant × RangeS => (x.1, x.2.1, x.2.2.2.split, x.2.2.2.members, x.2.2.2.used, x.2.2.2.leasePeriod)) h
theorem tenant_of_side {s t : State} (h : t.grantSide = s.grantSide) (n : Nat) : t.tenant n = s.tenant n :=
  State.tenant_congr (congrArg (fun x : Nat × GovS × AMap Tenant × RangeS => x.2.2.1) h) n
theorem anchorOf_of_side {s t : State} (h : t.grantSide = s.grantSide) (n : Nat) : t.anchorOf n = s.anchorOf n :=
  congrArg (fun x : Nat × GovS × AMap Tenant × RangeS => AMap.getD x.2.2.2.anchor n (0, 0, 0)) h

theorem State.anchorRefilled_tenant_other (s : State) {t n : Nat} (other : n ≠ t) : (s.anchorRefilled t).tenant n = s.tenant n :=
  (AMap.getD_set s.tenants t _ n Tenant.dflt).trans (if_neg other)
theorem State.anchorRefilled_anchorOf (s : State) (t n : Nat) : (s.anchorRefilled t).anchorOf n =
    if n = t then ((s.anchorRefill t).k - (s.leased t : Nat), (s.anchorRefill t).x, 0) else s.anchorOf n :=
  AMap.getD_set ..
theorem State.leasesSent_tenant {s : State} {t : Nat} : ∀ z ∈ s.leasesSent t, z.2.1 = t := by
  unfold State.leasesSent
  split
  · simp
  · simp

theorem State.grantTenant_terms (s : State) (t : Nat) : (s.grantTenant t).grantTerms = s.grantTerms := by
  cases on : (s.tenant t).enabled
  · rw [State.grantTenant_disabled on]
  · exact (grantTerms_of_side (State.grantTenant_enabled on).1).trans rfl
theorem State.grantTenant_other (s : State) {t n : Nat} (other : n ≠ t) : (s.grantTenant t).anchorBooks n = s.anchorBooks n := by
  cases on : (s.tenant t).enabled
  · rw [State.grantTenant_disabled on]
  · obtain ⟨side, sent⟩ := State.grantTenant_enabled on
    have none : (s.leasesSent t).filter (fun z => z.2.1 == n) = [] :=
      List.filter_eq_nil_iff.mpr fun z hz => by simp [State.leasesSent_tenant z hz, other.symm]
    simp only [State.anchorBooks, tenant_of_side side, anchorOf_of_side side, sent, s.anchorRefilled_tenant_other other, s.anchorRefilled_anchorOf,
      if_neg other, List.filter_append, none, List.append_nil]
/-- The anchor's own count, and the grants on their way, of an enabled tenant. -/
theorem State.grantTenant_own {s : State} {t : Nat} (on : (s.tenant t).enabled = true) :
    (s.grantTenant t).anchorOf t = ((s.anchorRefill t).k - (s.leased t : Nat), (s.anchorRefill t).x, 0)
    ∧ (s.grantTenant t).range.outstanding.filter (fun z => z.2.1 == t) = s.range.outstanding.filter (fun z => z.2.1 == t) ++ s.leasesSent t := by
  obtain ⟨side, sent⟩ := State.grantTenant_enabled on
  have all : (s.leasesSent t).filter (fun z => z.2.1 == t) = s.leasesSent t :=
    List.filter_eq_self.mpr fun z hz => beq_iff_eq.mpr (State.leasesSent_tenant z hz)
  exact ⟨(anchorOf_of_side side t).trans ((s.anchorRefilled_anchorOf t t).trans (if_pos rfl)), by rw [sent, List.filter_append, all]⟩

theorem foldl_grantTenant_terms (ts : List Nat) (s : State) : (ts.foldl State.grantTenant s).grantTerms = s.grantTerms := by
  induction ts generalizing s with
  | nil => rfl
  | cons t ts ih => exact (ih _).trans (s.grantTenant_terms t)
theorem foldl_grantTenant_other {n : Nat} {ts : List Nat} (other : n ∉ ts) (s : State) :
    (ts.foldl State.grantTenant s).anchorBooks n = s.anchorBooks n := by
  induction ts generalizing s with
  | nil => rfl
  | cons t ts ih =>
    obtain ⟨here, later⟩ := not_or.mp (mt List.mem_cons.mpr other)
    exact (ih later _).trans (s.grantTenant_other here)
/-- Each of several tenants is granted once, from the books that the others' grants leave alone. -/
theorem foldl_grantTenant_once {n : Nat} {ts : List Nat} (once : ts.Nodup) (mem : n ∈ ts) (s : State) :
    ∃ u : State, u.grantTerms = s.grantTerms ∧ u.anchorBooks n = s.anchorBooks n
      ∧ (ts.foldl State.grantTenant s).anchorBooks n = (u.grantTenant n).anchorBooks n := by
  obtain ⟨before, after, rfl⟩ := List.append_of_mem mem
  obtain ⟨notAfter, notBefore⟩ : n ∉ after ∧ n ∉ before := by
    obtain ⟨other, -⟩ := List.nodup_cons.mp (List.nodup_middle.mp once)
    exact (not_or.mp (mt List.mem_append.mpr other)).symm
  refine ⟨before.foldl State.grantTenant s, foldl_grantTenant_terms .., foldl_grantTenant_other notBefore s, ?_⟩
  rw [List.foldl_append, List.foldl_cons]
  exact foldl_grantTenant_other notAfter _
/-- Nothing leaves the anchor while a split is in force (R362). -/
theorem foldl_grantTenant_split (ts : List Nat) {s : State} (split : s.range.split = true) :
    (ts.foldl State.grantTenant s).range.outstanding = s.range.outstanding := by
  induction ts generalizing s with
  | nil => rfl
  | cons t ts ih =>
    have still : (s.grantTenant t).range.split = true := (congrArg (fun x => x.2.2.1) (s.grantTenant_terms t)).trans split
    refine (ih still).trans ?_
    cases on : (s.tenant t).enabled
    · rw [State.grantTenant_disabled on]
    · rw [(State.grantTenant_enabled on).2, State.leasesSent, if_pos split, List.append_nil]

theorem State.anchorRefill_congr {s u : State} {n : Nat} (terms : u.grantTerms = s.grantTerms) (books : u.anchorBooks n = s.anchorBooks n) :
    u.anchorRefill n = s.anchorRefill n := by
  simp only [State.grantTerms, State.anchorBooks, Prod.mk.injEq] at terms books
  simp only [State.anchorRefill, terms, books]
theorem State.shareOf_congr {s u : State} (terms : u.grantTerms = s.grantTerms) (t amount : Nat) : u.shareOf t amount = s.shareOf t amount := by
  simp only [State.grantTerms, Prod.mk.injEq] at terms
  funext m
  simp only [State.shareOf, usedBy, terms]
theorem State.leasesSent_congr {s u : State} {n : Nat} (terms : u.grantTerms = s.grantTerms) (books : u.anchorBooks n = s.anchorBooks n) :
    u.leasesSent n = s.leasesSent n ∧ u.leased n = s.leased n := by
  have refill := State.anchorRefill_congr terms books
  have share := State.shareOf_congr terms
  simp only [State.grantTerms, Prod.mk.injEq] at terms
  simp only [State.leasesSent, State.leased, refill, share, terms, and_self]
/-- The grants of a period begin. -/
def State.grantsBegun (s : State) : State := { s with range := { s.range with leasePeriod := s.beat / 4000 + 1 } }
theorem State.leaseGrant_eq (s : State) : s.leaseGrant = (AMap.keys s.tenants).foldl State.grantTenant s.grantsBegun := rfl
/-- The anchor's grants of an enabled tenant: its counts are refilled, and its leases leave (R360, R362). -/
theorem State.leaseGrant_books {s : State} {n : Nat} (once : (AMap.keys s.tenants).Nodup) (mem : n ∈ AMap.keys s.tenants)
    (on : (s.tenant n).enabled = true) :
    s.leaseGrant.anchorOf n = ((s.anchorRefill n).k - (s.leased n : Nat), (s.anchorRefill n).x, 0)
    ∧ s.leaseGrant.range.outstanding.filter (fun z => z.2.1 == n) = s.range.outstanding.filter (fun z => z.2.1 == n) ++ s.leasesSent n := by
  obtain ⟨u, terms, books, ends⟩ := foldl_grantTenant_once once mem s.grantsBegun
  have start : u.anchorRefill n = s.anchorRefill n := State.anchorRefill_congr (s := s.grantsBegun) terms books
  obtain ⟨sent, left⟩ := State.leasesSent_congr terms books
  simp only [State.anchorBooks, Prod.mk.injEq] at ends books
  obtain ⟨-, endsCounts, endsSent⟩ := ends
  obtain ⟨tenant, -, waits⟩ := books
  obtain ⟨counts, outstanding⟩ := State.grantTenant_own (s := u) (t := n) (by rw [tenant]; exact on)
  refine ⟨endsCounts.trans (counts.trans ?_), endsSent.trans (outstanding.trans ?_)⟩
  · rw [start, left]
    rfl
  · rw [waits, sent]
    rfl

/-! Adoption (R361). -/

/-- A report changes the range and the counters alone, and neither the grants that wait nor when one was adopted. -/
def ReportKeeps (s t : State) : Prop :=
  ∃ R M, t = { s with range := R, mgmt := M } ∧ R.grants = s.range.grants ∧ R.adopted = s.range.adopted
theorem reportKeeps_if {c : Prop} [Decidable c] {s a b : State} (ha : ReportKeeps s a) (hb : ReportKeeps s b) : ReportKeeps s (if c then a else b) := by
  split <;> assumption
theorem State.relay_keeps (s : State) (peer kind : Nat) (ws : List W64) : ReportKeeps s (s.relay peer kind ws) :=
  reportKeeps_if ⟨_, _, rfl, rfl, rfl⟩ ⟨_, _, rfl, rfl, rfl⟩
theorem State.takeReport_keeps (s : State) (m t period charged : Nat) (rem : Int) (count : Nat) :
    ReportKeeps s (s.takeReport m t period charged rem count) :=
  reportKeeps_if ⟨_, _, rfl, rfl, rfl⟩ ⟨_, _, rfl, rfl, rfl⟩
theorem State.report_keeps (s : State) (t : Nat) : ReportKeeps s (s.report t) :=
  reportKeeps_if (State.takeReport_keeps ..) (State.relay_keeps ..)
/-- Nothing is adopted while no grant's time has come. -/
theorem State.adoptDue_none {s : State} {now : Nat} (none : s.range.grants.filter (fun g => decide (g.time.toNat ≤ now)) = []) :
    s.adoptDue now = s :=
  if_pos (by rw [none]; rfl)
/-- The grants whose time has come are taken out. -/
def State.grantsTaken (s : State) (now : Nat) : State :=
  { s with range := { s.range with grants := s.range.grants.filter (fun g => !decide (g.time.toNat ≤ now)), adopted := s.beat } }
theorem State.adoptDue_one {s : State} {now : Nat} {g : Grant} (one : s.range.grants.filter (fun g => decide (g.time.toNat ≤ now)) = [g]) :
    s.adoptDue now = (s.grantsTaken now).adoptLease g := by
  unfold State.adoptDue
  simp only [one]
  rfl

/-! The two commands. -/

theorem execLeaseGrant_eq (s : State) : exec .leaseGrant s = .next (if s.live && grantDue s then s.leaseGrant else s) := rfl
theorem execLeaseAdoption_eq (s : State) :
    exec .leaseAdoption s = .next (if s.live && s.atEnd && s.range.joined then s.adoptDue s.nextTime.toNat else s) := rfl

/-- Settles O58: the shares by their sums, the grants tenant by tenant, and the adoption of the one grant that is due. -/
theorem leasesLeaveTheAnchor : Obligations.LeasesLeaveTheAnchor := by
  refine ⟨sumBy_leaseShare_le, fun s => ⟨fun idle => ?_, fun live due => ⟨s.leaseGrant, ?_, ?_, ?_⟩, fun idle => ?_, fun g live atEnd joined one => ?_⟩⟩
  · rw [execLeaseGrant_eq]
    obtain h | h := idle <;> simp [h]
  · simp [execLeaseGrant_eq, live, due]
  · exact congrArg (fun x => x.2.2.2.2.2) (foldl_grantTenant_terms (AMap.keys s.tenants) s.grantsBegun)
  · intro n x once there on ms y share
    have tenant : s.tenant n = x := by rw [State.tenant, AMap.getD, there]; rfl
    have refill : s.anchorRefill n = y := by rw [State.anchorRefill, tenant]
    obtain ⟨counts, sent⟩ := State.leaseGrant_books once (List.mem_map_of_mem (f := (·.1)) (AMap.mem_of_get? there)) (by rw [tenant]; exact on)
    rw [refill] at counts
    refine ⟨fun split => ⟨?_, ?_⟩, fun whole => ⟨?_, ?_, ?_⟩⟩
    · rw [counts, State.leased, if_pos split, Nat.cast_zero, Int.sub_zero]
    · exact foldl_grantTenant_split _ split
    · rw [counts, State.leased, if_neg (by simp [whole]), refill]
      rfl
    · rw [counts]
    · rw [sent, State.leasesSent, if_neg (by simp [whole]), refill]
      rfl
  · rw [execLeaseAdoption_eq]
    obtain h | h | h | h := idle
    · simp [h]
    · simp [h]
    · simp [h]
    · rw [State.adoptDue_none h, ite_self]
  · obtain ⟨R, M, reported, grants, adopted⟩ := State.report_keeps (s.grantsTaken s.nextTime.toNat) g.tenant
    refine ⟨s.adoptDue s.nextTime.toNat, by simp [execLeaseAdoption_eq, live, atEnd, joined], ?_⟩
    rw [State.adoptDue_one one, State.adoptLease, reported]
    refine ⟨?_, fun m other => ?_, adopted, grants, ⟨rfl, rfl, rfl, rfl⟩, rfl⟩
    · exact (State.setTenant_tenant ..).trans (if_pos rfl)
    · exact (State.setTenant_tenant ..).trans (if_neg other)

end Sys2Proof.Machine
end

section
/-! Refills, draws and ledger snapshots (R347, R348, R353, R364). -/

namespace Sys2Proof.Machine

/-! The snapshots of the persistent window: placing rows moves them, and copies those of a segment that is compacted; none is lost (R442). -/

/-- The snapshots there are, but for where they stand, and the number of the next entry. -/
structure SnapsKept (s t : State) : Prop where
  entrySeq : t.persist.entrySeq = s.persist.entrySeq
  stays : ∀ m ∈ s.persist.snaps, ∃ n ∈ t.persist.snaps, n.beat = m.beat ∧ n.seq = m.seq ∧ n.rows = m.rows ∧ n.committed = m.committed
  comes : ∀ n ∈ t.persist.snaps, ∃ m ∈ s.persist.snaps, n.seq = m.seq ∧ n.rows = m.rows

theorem SnapsKept.trans {s t u : State} (a : SnapsKept s t) (b : SnapsKept t u) : SnapsKept s u where
  entrySeq := b.entrySeq.trans a.entrySeq
  stays m hm := by
    obtain ⟨n, hn, beat, seq, rows, committed⟩ := a.stays m hm
    obtain ⟨o, ho, beat', seq', rows', committed'⟩ := b.stays n hn
    exact ⟨o, ho, beat'.trans beat, seq'.trans seq, rows'.trans rows, committed'.trans committed⟩
  comes o ho := by
    obtain ⟨n, hn, seq', rows'⟩ := b.comes o ho
    obtain ⟨m, hm, seq, rows⟩ := a.comes n hn
    exact ⟨m, hm, seq'.trans seq, rows'.trans rows⟩
theorem snapsKept_of_eq {s t : State} (entrySeq : t.persist.entrySeq = s.persist.entrySeq) (snaps : t.persist.snaps = s.persist.snaps) : SnapsKept s t where
  entrySeq := entrySeq
  stays m hm := ⟨m, snaps ▸ hm, rfl, rfl, rfl, rfl⟩
  comes n hn := ⟨n, snaps ▸ hn, rfl, rfl⟩
theorem SnapsKept.refl (s : State) : SnapsKept s s := snapsKept_of_eq rfl rfl
theorem snapsKept_of_persist {s t : State} (h : t.persist = s.persist) : SnapsKept s t := snapsKept_of_eq (by rw [h]) (by rw [h])
theorem SnapsKept.persist {s u t : State} (h : SnapsKept s u) (e : t.persist = u.persist) : SnapsKept s t := h.trans (snapsKept_of_persist e)
theorem snapsKept_if {c : Prop} [Decidable c] {s a b : State} (ha : SnapsKept s a) (hb : SnapsKept s b) : SnapsKept s (if c then a else b) := by
  split <;> assumption
theorem snapsKept_foldl {α : Type} {s : State} {f : State → α → State} (l : List α)
    (h : ∀ u, SnapsKept s u → ∀ a ∈ l, SnapsKept s (f u a)) (u : State) (hu : SnapsKept s u) : SnapsKept s (l.foldl f u) := by
  induction l generalizing u with
  | nil => exact hu
  | cons a l ih => exact ih (fun u hu b hb => h u hu b (List.mem_cons_of_mem a hb)) _ (h u hu a List.mem_cons_self)

theorem pumpPackets_persist (n j : Nat) (s : State) : (pumpPackets n j s).persist = s.persist := by
  induction n generalizing s with
  | zero => rfl
  | succ n ih =>
    unfold pumpPackets
    split
    · rfl
    · split
      · exact (ih _).trans rfl
      · rfl
theorem State.write'_persist (s : State) (owner : WOwner) (attr : Nat) (data : List (Nat × List Byte)) (commit : Option (Nat × List Byte)) :
    (s.write' owner attr data commit).persist = s.persist :=
  (pumpPackets_persist ..).trans rfl
theorem State.pick_persist (s : State) (n : Nat) : (s.pick n).2.persist = s.persist := by
  unfold State.pick
  split <;> rfl

/-! Rows put in their place. -/

theorem PersistS.placed_entrySeq (p : PersistS) (what key seg a : Nat) : (p.placed what key seg a).entrySeq = p.entrySeq := by
  unfold PersistS.placed
  split <;> rfl
/-- The snapshots are mapped one by one, and only their place may change. -/
theorem PersistS.placed_snaps (p : PersistS) (what key seg a : Nat) : ∃ f : Snap → Snap,
    (p.placed what key seg a).snaps = p.snaps.map f
      ∧ ∀ n, (f n).beat = n.beat ∧ (f n).seq = n.seq ∧ (f n).rows = n.rows ∧ (f n).committed = n.committed := by
  unfold PersistS.placed
  split
  · exact ⟨id, (List.map_id _).symm, fun _ => ⟨rfl, rfl, rfl, rfl⟩⟩
  · exact ⟨id, (List.map_id _).symm, fun _ => ⟨rfl, rfl, rfl, rfl⟩⟩
  · exact ⟨id, (List.map_id _).symm, fun _ => ⟨rfl, rfl, rfl, rfl⟩⟩
  · refine ⟨_, rfl, fun n => ?_⟩
    split <;> exact ⟨rfl, rfl, rfl, rfl⟩
theorem snapsKept_placed (s : State) (what key seg a : Nat) : SnapsKept s { s with persist := s.persist.placed what key seg a } := by
  obtain ⟨f, snaps, same⟩ := s.persist.placed_snaps what key seg a
  refine ⟨s.persist.placed_entrySeq .., fun m hm => ⟨f m, ?_, same m⟩, fun n hn => ?_⟩
  · exact snaps ▸ List.mem_map_of_mem hm
  · obtain ⟨m, hm, rfl⟩ := List.mem_map.mp (snaps ▸ hn)
    obtain ⟨-, seq, rows, -⟩ := same m
    exact ⟨m, hm, seq, rows⟩
theorem snapsKept_putRows (s : State) (what key : Nat) (bs : List Byte) : SnapsKept s (putRows s what key bs) := by
  unfold putRows
  generalize (if hasRoom s (roleOf what) (bs.length / 64) then openOf s (roleOf what) else none) = o
  cases o with
  | none => exact snapsKept_of_eq rfl rfl
  | some i =>
    refine .persist ?_ (State.write'_persist ..)
    exact (snapsKept_of_eq rfl rfl : SnapsKept s (s.setSeg i _)).trans (snapsKept_placed ..)

/-! Segments taken, freed and compacted. -/

theorem snapsKept_freeSeg (s : State) (i : Nat) : SnapsKept s (freeSeg s i) := by
  refine .persist ?_ (State.write'_persist ..)
  exact snapsKept_of_eq rfl rfl
theorem snapsKept_takeSeg (s : State) (role : Nat) : SnapsKept s (takeSeg s role) := by
  unfold takeSeg
  split
  · exact .refl s
  · refine .persist ?_ (State.write'_persist ..)
    split <;> exact snapsKept_of_eq rfl rfl
theorem snapsKept_copyRows (s : State) (what key : Nat) (bs : List Byte) : SnapsKept s (copyRows s what key bs) :=
  .trans (snapsKept_if (.refl s) (snapsKept_takeSeg s 2)) (snapsKept_putRows ..)
/-- A copy of a snapshot there was is added to the others. -/
theorem SnapsKept.copied {s u : State} (hu : SnapsKept s u) {n : Snap} (hn : n ∈ s.persist.snaps) (m : Snap) (same : m.seq = n.seq ∧ m.rows = n.rows) :
    SnapsKept s { u with persist := { u.persist with snaps := u.persist.snaps ++ [m] } } where
  entrySeq := hu.entrySeq
  stays x hx := by
    obtain ⟨y, hy, keeps⟩ := hu.stays x hx
    exact ⟨y, List.mem_append_left _ hy, keeps⟩
  comes x hx := by
    rcases List.mem_append.mp hx with old | new
    · exact hu.comes x old
    · exact ⟨n, hn, List.mem_singleton.mp new ▸ same⟩
theorem snapsKept_copyOut (s : State) (i : Nat) : SnapsKept s (copyOut s i) := by
  unfold copyOut
  dsimp only
  refine .trans (.trans ?_ (snapsKept_foldl _ (fun u hu a _ => ?_) _ (.refl _))) (snapsKept_foldl _ (fun u hu n hn => ?_) _ (.refl _))
  · refine snapsKept_foldl _ (fun u hu p _ => ?_) _ (.refl s)
    refine .trans (hu.trans ?_) (snapsKept_copyRows ..)
    exact snapsKept_of_eq rfl rfl
  · refine .trans (hu.trans ?_) (snapsKept_copyRows ..)
    exact snapsKept_of_eq rfl rfl
  · refine .trans ?_ (snapsKept_copyRows ..)
    exact hu.copied (List.mem_of_mem_filter hn) _ ⟨rfl, rfl⟩
theorem snapsKept_compactMore (s : State) (i : Nat) : SnapsKept s (compactMore s i) :=
  snapsKept_if (.refl s) ((snapsKept_copyOut s i).trans (snapsKept_if (snapsKept_freeSeg ..) (.refl _)))
theorem snapsKept_setSeg (s : State) (i : Nat) (f : Seg → Seg) : SnapsKept s (s.setSeg i f) := snapsKept_of_eq rfl rfl
theorem snapsKept_compact (s : State) (i : Nat) : SnapsKept s (compact s i) := by
  refine .trans (.trans ?_ (snapsKept_setSeg ..)) (snapsKept_compactMore ..)
  exact snapsKept_if (snapsKept_of_eq rfl rfl) (.refl s)
theorem snapsKept_openSeg (s : State) (role : Nat) : SnapsKept s (openSeg s role) := by
  have compacted : ∀ u, SnapsKept s u → SnapsKept s
      (if (freeSegs u).length + (u.persist.segs.filter fun x => x.2.freeing != 0).length < 2 then
        match oldestSeg u 2 with | some i => compact u i | none => u
      else u) := fun u hu => by
    split
    · cases oldestSeg u 2 with
      | none => exact hu
      | some i => exact hu.trans (snapsKept_compact u i)
    · exact hu
  refine .trans (compacted _ (snapsKept_if ?_ (.refl s))) (snapsKept_takeSeg ..)
  cases oldestSeg s 1 with
  | none => exact .refl s
  | some i => exact snapsKept_freeSeg s i
theorem snapsKept_placeRows (s : State) (what key : Nat) (bs : List Byte) : SnapsKept s (s.placeRows what key bs) :=
  .trans (snapsKept_if (.refl s) (snapsKept_openSeg ..)) (snapsKept_putRows ..)
/-- A log record leaves the snapshots (R445). -/
theorem snapsKept_log (s : State) (code severity engine : Nat) (d0 d1 d2 : W64) : SnapsKept s (s.log code severity engine d0 d1 d2) := by
  unfold State.log
  dsimp only
  split
  · refine .trans (.persist ?_ (State.pick_persist ..)) (snapsKept_placeRows ..)
    exact snapsKept_of_eq rfl rfl
  · refine .persist (.persist (u := State.placeRows _ 1 _ _) ?_ rfl) (State.write'_persist ..)
    refine .trans (.persist ?_ (State.pick_persist ..)) (snapsKept_placeRows ..)
    exact snapsKept_of_eq rfl rfl
theorem snapsKept_floorMiss (s : State) (k : Nat) : SnapsKept s (s.floorMiss k) := by
  refine .trans (snapsKept_of_persist ?_) (snapsKept_log ..)
  simp only [State.raise_persist, State.count_persist]
  split <;> rfl

/-! The refill of a tenant (R347, R364). -/

/-- A tenant with its new settings in force. -/
def Tenant.renewed (x : Tenant) : Tenant :=
  match x.pend with
  | some (c, b, e) => { x with c := c, b := b, e := e, pend := none }
  | none => x
theorem Tenant.renewed_of_pend {x : Tenant} {c b e : Nat} (h : x.pend = some (c, b, e)) : x.renewed = { x with c := c, b := b, e := e, pend := none } := by
  simp only [Tenant.renewed, h]
theorem Tenant.renewed_of_none {x : Tenant} (h : x.pend = none) : x.renewed = x := by
  simp only [Tenant.renewed, h]
/-- New settings bring nothing else with them. -/
theorem Tenant.renewed_keeps (x : Tenant) : x.renewed.enabled = x.enabled ∧ x.renewed.pend = none ∧ x.renewed.ban = x.ban
    ∧ x.renewed.k = x.k ∧ x.renewed.x = x.x ∧ x.renewed.u = x.u := by
  cases h : x.pend with
  | none => simp only [x.renewed_of_none h, h, and_self]
  | some y => simp only [Tenant.renewed_of_pend h, and_self]
theorem Tenant.refill_enabled {x : Tenant} (k : Nat) (on : x.enabled = true) : x.refill k =
    { x.renewed with k := satK (min (x.renewed.k + x.renewed.c) ((x.renewed.c + burstScaled x.renewed.b k : Nat) : Int)), x := x.renewed.e, u := 0 } :=
  if_pos (x.renewed_keeps.1.trans on)
theorem Tenant.refill_disabled {x : Tenant} (k : Nat) (off : x.enabled = false) : x.refill k = x.renewed :=
  if_neg (ne_true_of_eq_false (x.renewed_keeps.1.trans off))

/-- Outside a range every tenant is refilled (R347). -/
theorem State.refillNow_alone {s : State} (alone : s.range.joined = false) : s.refillNow =
    { s with gov := { s.gov with refillDone := s.nextB }, tenants := s.tenants.map fun x => (x.1, x.2.refill (scaleNow s)) } :=
  if_neg (by simp [alone])

/-- What a refill does to a tenant (R347). -/
theorem Tenant.refill_effect (x : Tenant) (k : Nat) : let y := x.refill k
    y.enabled = x.enabled ∧ y.pend = none ∧ y.ban = x.ban ∧ (x.pend = none → y.c = x.c ∧ y.b = x.b ∧ y.e = x.e)
    ∧ (∀ c b e, x.pend = some (c, b, e) → y.c = c ∧ y.b = b ∧ y.e = e)
    ∧ (x.enabled = true → y.k = satK (min (x.k + y.c) ((y.c + burstScaled y.b k : Nat) : Int)) ∧ y.x = y.e ∧ y.u = 0)
    ∧ (x.enabled = false → y.k = x.k ∧ y.x = x.x ∧ y.u = x.u) := by
  obtain ⟨enabled, pend, ban, counts⟩ := x.renewed_keeps
  have settings : (x.refill k).enabled = x.renewed.enabled ∧ (x.refill k).pend = x.renewed.pend ∧ (x.refill k).ban = x.renewed.ban
      ∧ (x.refill k).c = x.renewed.c ∧ (x.refill k).b = x.renewed.b ∧ (x.refill k).e = x.renewed.e := by
    cases on : x.enabled
    · simp only [x.refill_disabled k on, and_self]
    · simp only [x.refill_enabled k on, and_self]
  obtain ⟨enabled', pend', ban', c', b', e'⟩ := settings
  refine ⟨enabled'.trans enabled, pend'.trans pend, ban'.trans ban, fun none => ?_, fun c b e some => ?_, fun on => ?_, fun off => ?_⟩
  · simp only [c', b', e', x.renewed_of_none none, and_self]
  · simp only [c', b', e', x.renewed_of_pend some, and_self]
  · simp only [x.refill_enabled k on, counts, and_self]
  · simp only [x.refill_disabled k off, counts, and_self]

/-! Draws (R348). -/

section
variable {t : Tenant} {c : Nat}
theorem drawFrom_committed (k : 0 < t.k) (u : t.u < c) : drawFrom t c = (0, { t with k := t.k - 1, u := t.u + 1 }) := (if_pos k).trans (if_pos u)
theorem drawFrom_burst (k : 0 < t.k) (u : c ≤ t.u) : drawFrom t c = (1, { t with k := t.k - 1 }) := (if_pos k).trans (if_neg (Nat.not_lt.mpr u))
theorem drawFrom_bestEffort (k : t.k ≤ 0) (x : 0 < t.x) : drawFrom t c = (2, { t with x := t.x - 1 }) := (if_neg (Int.not_lt.mpr k)).trans (if_pos x)
theorem drawFrom_none (k : t.k ≤ 0) (x : t.x = 0) : drawFrom t c = (3, t) :=
  (if_neg (Int.not_lt.mpr k)).trans (if_neg (by simp [x]))
end
/-- Outside a range a tenant's own committed tokens are in force. -/
theorem State.draw_alone {s : State} (n : Nat) (alone : s.range.joined = false) :
    s.draw n = ((drawFrom (s.tenant n) (s.tenant n).c).1, s.setTenant n fun _ => (drawFrom (s.tenant n) (s.tenant n).c).2) := by
  rw [State.draw, State.commitC, if_neg (by simp [alone])]

/-! The ledger snapshot (R353, R443). -/

/-- The snapshot of a boundary. -/
def State.snapOfNow (s : State) : Snap := ⟨s.nextB, s.nextTime, s.tenants.map fun x => snapOf s x.1 x.2, s.persist.entrySeq, 64, 0, false⟩
/-- A snapshot that is not yet placed. -/
def State.snapAdded (s : State) : State := { s with
  gov := { s.gov with snapDone := s.nextB }
  persist := { s.persist with entrySeq := s.persist.entrySeq + 1, snaps := s.persist.snaps ++ [s.snapOfNow] } }
/-- A boundary whose snapshot is skipped. -/
def State.snapSkipped (s : State) : State := { s with gov := { s.gov with snapDone := s.nextB } }
theorem State.snapWrite_eq (s : State) : s.snapWrite = s.snapAdded.placeRows 4 s.persist.entrySeq (snapRows s.snapOfNow) := rfl
theorem State.snapNow_refilled {s : State} (done : refillDue s = false) : s.snapNow =
    if snapRoom s then s.snapWrite else s.snapSkipped.floorMiss 7 := by
  simp only [State.snapNow, State.snapSkipped, done, Bool.false_eq_true, if_false]
/-- What lies outside the front leaves the governor, the tenants and the streams. -/
theorem ledgerSide_of_front {s t : State} (h : t.front = s.front) : t.gov = s.gov ∧ t.tenants = s.tenants ∧ SameStreams s t :=
  ⟨congrArg Front.gov h, congrArg Front.tenants h, congrArg Front.streams h, congrArg Front.recs h, congrArg Front.masks h, congrArg Front.opens h⟩
/-- A missed floor changes the integrity state, and otherwise only what the front leaves out (R376). -/
theorem State.floorMiss_ledgerSide (s : State) (k : Nat) :
    (s.floorMiss k).gov = s.gov ∧ (s.floorMiss k).tenants = s.tenants ∧ SameStreams s (s.floorMiss k) := by
  have front : ∃ I, (s.floorMiss k).front = ({ s with integ := I } : State).front := by
    unfold State.floorMiss
    simp only [State.log_front, State.raise_front, State.count_front, front_ite]
    split <;> exact ⟨_, rfl⟩
  obtain ⟨I, front⟩ := front
  obtain ⟨gov, tenants, streams⟩ := ledgerSide_of_front front
  exact ⟨gov, tenants, .trans ⟨rfl, rfl, rfl, rfl⟩ streams⟩
/-- A snapshot that finds no room is skipped: the others stand as they were, and the ledger is not written (R443). -/
theorem State.snapNow_full {s : State} (refilled : refillDue s = false) (full : snapRoom s = false) :
    SnapsKept s s.snapNow ∧ s.snapNow.gov.snapDone = s.nextB ∧ s.snapNow.tenants = s.tenants ∧ SameStreams s s.snapNow := by
  rw [State.snapNow_refilled refilled, if_neg (by simp [full])]
  obtain ⟨gov, tenants, streams⟩ := s.snapSkipped.floorMiss_ledgerSide 7
  exact ⟨.trans (t := s.snapSkipped) (snapsKept_of_eq rfl rfl) (snapsKept_floorMiss s.snapSkipped 7), congrArg GovS.snapDone gov, tenants,
    .trans ⟨rfl, rfl, rfl, rfl⟩ streams⟩
/-- A snapshot that finds room is added to the others and placed (R353). -/
theorem State.snapNow_room {s : State} (refilled : refillDue s = false) (room : snapRoom s = true) :
    SnapsKept s.snapAdded s.snapNow ∧ s.snapNow.gov.snapDone = s.nextB ∧ s.snapNow.tenants = s.tenants ∧ SameStreams s s.snapNow := by
  rw [State.snapNow_refilled refilled, if_pos room, State.snapWrite_eq]
  obtain ⟨gov, tenants, streams⟩ := ledgerSide_of_front (s.snapAdded.placeRows_front 4 s.persist.entrySeq (snapRows s.snapOfNow))
  exact ⟨snapsKept_placeRows .., congrArg GovS.snapDone gov, tenants, .trans ⟨rfl, rfl, rfl, rfl⟩ streams⟩

/-! The two commands. -/

theorem execRefillBoundary_eq (s : State) :
    exec .refillBoundary s = .next (if s.live && s.atEnd && refillDue s then s.refillNow else s) := rfl
theorem execLedgerSnapshot_eq (s : State) :
    exec .ledgerSnapshot s = .next (if s.live && s.atEnd && snapDue s then s.snapNow else s) := rfl

/-- Settles O51: a refill tenant by tenant, the cases of a draw, and a snapshot that placing rows and logging never lose. -/
theorem refillsDrawsAndSnapshots : Obligations.RefillsDrawsAndSnapshots := by
  refine fun s => ⟨fun idle => ?_, fun live atEnd due alone => ⟨s.refillNow, ?_, ?_⟩, fun n alone => ?_, fun idle => ?_,
    fun live atEnd due refilled full => ⟨s.snapNow, ?_, ?_⟩, fun live atEnd due refilled room => ⟨s.snapNow, ?_⟩⟩
  · rw [execRefillBoundary_eq]
    obtain h | h | h := idle <;> simp [h]
  · simp [execRefillBoundary_eq, live, atEnd, due]
  · rw [State.refillNow_alone alone]
    refine ⟨fun n x there => ⟨x.refill (scaleNow s), ?_, x.refill_effect (scaleNow s)⟩, rfl, ⟨rfl, rfl, rfl, rfl⟩, rfl, rfl⟩
    exact (AMap.get?_map _ (fun _ y => y.refill (scaleNow s)) (fun _ _ => rfl) _ n).trans (by rw [there]; rfl)
  · rw [State.draw_alone n alone]
    refine ⟨fun k u => ?_, fun k u => ?_, fun k x => ?_, fun k x => ?_⟩
    · rw [drawFrom_committed k u]
    · rw [drawFrom_burst k u]
    · rw [drawFrom_bestEffort k x]
    · rw [drawFrom_none k x]
  · rw [execLedgerSnapshot_eq]
    obtain h | h | h := idle <;> simp [h]
  · simp [execLedgerSnapshot_eq, live, atEnd, due]
  · obtain ⟨⟨entrySeq, -, comes⟩, rest⟩ := State.snapNow_full refilled full
    exact ⟨comes, entrySeq, rest⟩
  · obtain ⟨⟨entrySeq, stays, -⟩, rest⟩ := State.snapNow_room refilled room
    obtain ⟨n, there, beat, seq, rows, committed⟩ := stays s.snapOfNow (List.mem_append_right _ List.mem_cons_self)
    exact ⟨n, by simp [execLedgerSnapshot_eq, live, atEnd, due], there, beat, seq, committed, entrySeq, rows, rest⟩

end Sys2Proof.Machine
end

section
/-! What the block puts out is never taken back: writes, the persistent window and the log only add to the outputs (R388, R440 to R447). -/

namespace Sys2Proof.Machine

/-- The outputs there were, and perhaps more behind them. -/
def OutGrows (s t : State) : Prop := s.out <+: t.out

theorem outGrows_of_eq {s t : State} (h : t.out = s.out) : OutGrows s t := by
  rw [OutGrows, h]
theorem OutGrows.refl (s : State) : OutGrows s s := outGrows_of_eq rfl
theorem OutGrows.trans {s t u : State} (a : OutGrows s t) (b : OutGrows t u) : OutGrows s u := List.IsPrefix.trans a b
theorem outGrows_emit (s : State) (o : Out) : OutGrows s (s.emit o) := ⟨_, rfl⟩
theorem outGrows_if {c : Prop} [Decidable c] {s a b : State} (ha : OutGrows s a) (hb : OutGrows s b) : OutGrows s (if c then a else b) := by
  split <;> assumption
theorem outGrows_foldl {α : Type} {f : State → α → State} (h : ∀ u a, OutGrows u (f u a)) (l : List α) (s : State) : OutGrows s (l.foldl f s) := by
  induction l generalizing s with
  | nil => exact .refl s
  | cons a l ih => exact (h s a).trans (ih _)

/-! Writes. -/

theorem outGrows_pumpPackets (n j : Nat) (s : State) : OutGrows s (pumpPackets n j s) := by
  induction n generalizing s with
  | zero => exact .refl s
  | succ n ih =>
    unfold pumpPackets
    split
    · exact .refl s
    · split
      · refine .trans ?_ (ih _)
        exact ⟨_, rfl⟩
      · exact .refl s
theorem outGrows_write' (s : State) (owner : WOwner) (attr : Nat) (data : List (Nat × List Byte)) (commit : Option (Nat × List Byte)) :
    OutGrows s (s.write' owner attr data commit) := by
  refine .trans ?_ (outGrows_pumpPackets ..)
  exact outGrows_of_eq rfl

/-! The persistent window. -/

theorem outGrows_putRows (s : State) (what key : Nat) (bs : List Byte) : OutGrows s (putRows s what key bs) := by
  unfold putRows
  split
  · refine .trans ?_ (outGrows_write' ..)
    exact outGrows_of_eq rfl
  · exact outGrows_of_eq rfl
theorem outGrows_freeSeg (s : State) (i : Nat) : OutGrows s (freeSeg s i) := by
  refine .trans ?_ (outGrows_write' ..)
  exact outGrows_of_eq rfl
theorem outGrows_takeSeg (s : State) (role : Nat) : OutGrows s (takeSeg s role) := by
  unfold takeSeg
  split
  · exact .refl s
  · refine .trans ?_ (outGrows_write' ..)
    exact outGrows_of_eq rfl
theorem outGrows_copyRows (s : State) (what key : Nat) (bs : List Byte) : OutGrows s (copyRows s what key bs) :=
  .trans (outGrows_if (.refl s) (outGrows_takeSeg s 2)) (outGrows_putRows ..)
theorem outGrows_copyOut (s : State) (i : Nat) : OutGrows s (copyOut s i) := by
  unfold copyOut
  dsimp only
  refine .trans (.trans (outGrows_foldl (fun u p => ?_) _ s) (outGrows_foldl (fun u a => ?_) _ _)) (outGrows_foldl (fun u n => ?_) _ _)
  all_goals
    refine .trans ?_ (outGrows_copyRows ..)
    exact outGrows_of_eq rfl
theorem outGrows_compactMore (s : State) (i : Nat) : OutGrows s (compactMore s i) :=
  outGrows_if (.refl s) ((outGrows_copyOut s i).trans (outGrows_if (outGrows_freeSeg ..) (.refl _)))
theorem outGrows_setSeg (s : State) (i : Nat) (f : Seg → Seg) : OutGrows s (s.setSeg i f) := outGrows_of_eq rfl
theorem outGrows_compact (s : State) (i : Nat) : OutGrows s (compact s i) := by
  refine .trans (.trans ?_ (outGrows_setSeg ..)) (outGrows_compactMore ..)
  exact outGrows_if (outGrows_of_eq rfl) (.refl s)
/-- With too few segments free, the oldest store one is compacted. -/
theorem outGrows_compactOldest (s : State) (c : Prop) [Decidable c] :
    OutGrows s (if c then match oldestSeg s 2 with | some i => compact s i | none => s else s) := by
  refine outGrows_if ?_ (.refl s)
  cases oldestSeg s 2 with
  | none => exact .refl s
  | some i => exact outGrows_compact s i
theorem outGrows_openSeg (s : State) (role : Nat) : OutGrows s (openSeg s role) := by
  unfold openSeg
  dsimp only
  refine .trans (.trans (outGrows_if ?_ (.refl s)) (outGrows_compactOldest ..)) (outGrows_takeSeg ..)
  cases oldestSeg s 1 with
  | none => exact .refl s
  | some i => exact outGrows_freeSeg s i
theorem outGrows_placeRows (s : State) (what key : Nat) (bs : List Byte) : OutGrows s (s.placeRows what key bs) :=
  .trans (outGrows_if (.refl s) (outGrows_openSeg ..)) (outGrows_putRows ..)

/-! The log. -/

theorem State.pick_out (s : State) (n : Nat) : (s.pick n).2.out = s.out := by
  unfold State.pick
  split <;> rfl
theorem outGrows_log (s : State) (code severity engine : Nat) (d0 d1 d2 : W64) : OutGrows s (s.log code severity engine d0 d1 d2) := by
  unfold State.log
  dsimp only
  split
  · refine .trans ?_ (outGrows_placeRows ..)
    exact .trans (outGrows_of_eq rfl) (outGrows_of_eq (State.pick_out ..))
  · refine .trans ?_ (outGrows_write' ..)
    refine .trans (t := State.placeRows _ 1 _ _) (.trans ?_ (outGrows_placeRows ..)) (outGrows_of_eq rfl)
    exact .trans (outGrows_of_eq rfl) (outGrows_of_eq (State.pick_out ..))

/-! Hang analysis (R462 to R464). -/

theorem outGrows_edgeLogs (s : State) (n : Nat) (ws : List W64) : OutGrows s (edgeLogs s n ws) := by
  induction n generalizing s ws with
  | zero => exact .refl s
  | succ n ih => exact outGrows_if (.refl s) (.trans (outGrows_log ..) (ih _ _))
theorem outGrows_writeGraph (s : State) (hung : Nat) (roots : List Nat) : OutGrows s (s.writeGraph hung roots).2 :=
  .trans (.trans (outGrows_log ..) (outGrows_edgeLogs ..)) (.trans (outGrows_log ..) (outGrows_of_eq (State.count_out ..)))
theorem outGrows_examineQueues (s : State) : OutGrows s s.examineQueues := by
  unfold State.examineQueues
  dsimp only
  refine .trans ?_ (outGrows_foldl (fun u x => ?_) _ _)
  · exact outGrows_of_eq rfl
  · exact .trans (outGrows_of_eq ((State.count_out ..).trans (State.raise_out ..))) (outGrows_writeGraph ..)
theorem edgeLogs_front (s : State) (n : Nat) (ws : List W64) : (edgeLogs s n ws).front = s.front := by
  induction n generalizing s ws with
  | zero => rfl
  | succ n ih =>
    unfold edgeLogs
    rw [front_ite, ih, State.log_front, ite_self]
theorem State.writeGraph_front (s : State) (hung : Nat) (roots : List Nat) : (s.writeGraph hung roots).2.front = s.front := by
  simp only [State.writeGraph, State.count_front, State.log_front, edgeLogs_front]
/-- Hang analysis writes the log and the management state (R462). -/
theorem State.examineQueues_front (s : State) : s.examineQueues.front = s.front := by
  unfold State.examineQueues
  dsimp only
  rw [front_foldl _ fun u x => by rw [State.writeGraph_front, State.count_front, State.raise_front]]
  rfl

end Sys2Proof.Machine
end

section
/-! A governor period: its settings, its allowance, its step, and what it reports (R365 to R374). -/

namespace Sys2Proof.Machine

/-- The state with a governor state of its own. -/
def State.setGov (s : State) (g : GovS) : State := { s with gov := g }
theorem setGov_front {s t : State} (same : t.front = s.front) (g : GovS) : (t.setGov g).front = (s.setGov g).front :=
  congrArg (fun x : Front => { x with gov := g }) same

/-! The allowance (R373). -/

theorem State.boundItem_front (s : State) (f level i : Nat) : (s.boundItem f level i).2.front = s.front := by
  unfold State.boundItem
  dsimp only
  split
  · rfl
  · rw [front_ite, State.log_front, ite_self]
/-- An item without an expert bound is its scaled ceiling. -/
theorem State.boundItem_unbounded {s : State} (unbounded : s.gov.bounds = []) (f level i : Nat) :
    s.boundItem f level i = (scaled (allowCeil s i) f i level, s) := by
  simp only [State.boundItem, unbounded]
  rfl
/-- A governor state with the items of an allowance: lane and walker cycles, searches, the two stack windows, host bytes. -/
def GovS.allows (g : GovS) (lane walk assoc stFirst stDep host : Nat) : GovS :=
  { g with lane := lane, walk := walk, assoc := assoc, stFirst := stFirst, stDep := stDep, host := host }
theorem setGov_allows_front {s t : State} (same : t.front = s.front) (lane walk assoc stFirst stDep host : Nat) :
    (t.setGov (t.gov.allows lane walk assoc stFirst stDep host)).front = (s.setGov (s.gov.allows lane walk assoc stFirst stDep host)).front := by
  rw [setGov_front same, show t.gov = s.gov from congrArg Front.gov same]
theorem State.setAllowance_front (s : State) (f level : Nat) : ∃ lane walk assoc stFirst stDep host,
    (s.setAllowance f level).front = (s.setGov (s.gov.allows lane walk assoc stFirst stDep host)).front := by
  unfold State.setAllowance
  dsimp only
  exact ⟨_, _, _, _, _, _, setGov_allows_front (by simp only [State.boundItem_front]) ..⟩
theorem State.setAllowance_unbounded {s : State} (unbounded : s.gov.bounds = []) (f level : Nat) :
    s.setAllowance f level = s.setGov (s.gov.allows (scaled (184 * 64 * s.cells) f 0 level) (scaled (184 * s.cells) f 1 level)
      (scaled 235 f 2 level) (scaled 184 f 3 level) (scaled 35 f 3 level) (scaled 30080 f 4 level)) := by
  have plain : AMap.has s.gov.bounds 3 = false := by rw [unbounded]; rfl
  simp only [State.setAllowance, State.boundItem_unbounded unbounded, plain, Bool.not_false, Bool.true_or, if_true]
  rfl

/-! The step (R374). -/

/-- The governor takes at most one step up or down, of the four there are. -/
structure OneStep (m n : Nat) : Prop where
  up : n ≤ m + 1
  down : m ≤ n + 1
  most : m ≤ 4 → n ≤ 4
theorem State.govStep_front (s : State) : ∃ steps burst, OneStep s.gov.steps steps
    ∧ s.govStep.front = (s.setGov { s.gov with steps := steps, burst := burst }).front := by
  unfold State.govStep
  dsimp only
  split
  · split
    · exact ⟨s.gov.steps + 1, _, ⟨by omega, by omega, by omega⟩, State.count_front ..⟩
    · split
      · exact ⟨s.gov.steps, _, ⟨by omega, by omega, id⟩, State.count_front ..⟩
      · exact ⟨s.gov.steps, s.gov.burst, ⟨by omega, by omega, id⟩, rfl⟩
  · split
    · exact ⟨3, s.gov.burst, ⟨by omega, by omega, by omega⟩, rfl⟩
    · split
      · exact ⟨_, _, ⟨by split <;> omega, by split <;> omega, by split <;> omega⟩, rfl⟩
      · exact ⟨s.gov.steps - 1, s.gov.burst, ⟨by omega, by omega, by omega⟩, rfl⟩
theorem State.govStep_est (s : State) : s.govStep.gov.est = s.gov.est := by
  obtain ⟨steps, burst, -, front⟩ := s.govStep_front
  obtain ⟨gov, -, -⟩ := ledgerSide_of_front front
  rw [gov]
  rfl

/-! What a period reports (R367, R462, R487). -/

/-- The mark of a logged stall of the port is cleared. -/
def State.unstalled (s : State) : State := { s with port := { s.port with stallLogged := false } }
theorem unstalled_front {s t : State} (same : t.front = s.front) : t.unstalled.front = s.unstalled.front :=
  congrArg (fun x : Front => { x with port := { x.port with stallLogged := false } }) same
theorem unstalled_frame {s t : State} {g : GovS} (same : t.front = (s.setGov g).unstalled.front) :
    t.gov = g ∧ t.streams = s.streams ∧ t.recs = s.recs ∧ t.tenants = s.tenants ∧ t.rings = s.rings :=
  ⟨congrArg Front.gov same, congrArg Front.streams same, congrArg Front.recs same, congrArg Front.tenants same, congrArg Front.rings same⟩
theorem State.presentTemps_front (s : State) (ts : List (Int × Bool)) : (s.presentTemps ts).front = s.front :=
  front_foldl _ (fun u _ => u.emit_front _) _ s
/-- The outputs of a period boundary, its trace record, and the queues examined. -/
def State.periodShown (s : State) (ts : List (Int × Bool)) (level f : Nat) : State :=
  let s := (s.presentTemps ts).emit (.power s.gov.est level)
  let s := s.ev 39 0x0E 0 [(level, 0), (f, 2), (s.gov.steps, 9)]
  let s := s.unstalled
  if s.start.halted then s else s.examineQueues
theorem State.periodShown_front (s : State) (ts : List (Int × Bool)) (level f : Nat) :
    (s.periodShown ts level f).front = s.unstalled.front := by
  have shown : ∀ u : State, (if u.start.halted then u else u.examineQueues).front = u.front := fun u => by
    rw [front_ite, State.examineQueues_front, ite_self]
  exact (shown _).trans (unstalled_front ((State.ev_front ..).trans ((State.emit_front ..).trans (s.presentTemps_front ts))))
theorem State.periodShown_power (s : State) (ts : List (Int × Bool)) (level f : Nat) :
    Out.power s.gov.est level ∈ (s.periodShown ts level f).out := by
  have grows : ∀ u : State, OutGrows u (if u.start.halted then u else u.examineQueues) := fun u =>
    outGrows_if (.refl u) (outGrows_examineQueues u)
  refine (grows _).subset ?_
  exact (State.ev_out ..).symm ▸ List.mem_append_right _ List.mem_cons_self

/-! The period boundary (R365). -/

section
variable (s : State) (x : GovIn)
/-- The level of the period that a boundary begins. -/
def State.periodLevel : Nat := nextLevel s ((List.range s.sensors).map (periodTemp s)) x.throttle.toNat
/-- Its power factor. -/
def State.periodFactor : Nat := powerFactor s (powerTarget s x.budgetMw.toNat x.estMw).1
/-- The settings of a period before its allowance and its step: the readings of the last one are over. -/
def State.periodGov : GovS :=
  let ts := (List.range s.sensors).map (periodTemp s)
  { s.gov with
    level := s.periodLevel x, factor := s.periodFactor x, levelReq := x.throttle.toNat, railBad := s.gov.railOut
    moduleLimit := (powerTarget s x.budgetMw.toNat x.estMw).2, est := min 65535 (x.estMw / 10), rail := min 65535 (railPower s / 1000)
    sampled := (x.budgetMw.toNat, x.throttle.toNat, x.estMw)
    temps := ((List.range ts.length).zip ts).foldl (fun (m : AMap (Nat × Bool)) (y : Nat × (Int × Bool)) =>
      AMap.set m y.1 ((BitVec.ofInt 10 y.2.1).toNat, y.2.2)) s.gov.temps
    droops := 0, peaks := [], railSum := 0, railBeats := 0, railOut := false, periodSeen := true, donePeriod := periodB s, burstWas := s.gov.burst }
/-- What is logged and counted of the period that is over. -/
def State.periodOver : State := if s.railLog.gov.level = s.periodLevel x then s.railLog else s.railLog.count 77 1
theorem State.railLog_front : s.railLog.front = s.front := by
  unfold State.railLog
  rw [front_ite, State.log_front, ite_self]
theorem State.periodOver_front : (s.periodOver x).front = s.front := by
  unfold State.periodOver
  rw [front_ite, State.count_front, ite_self, State.railLog_front]
/-- The block with the settings and the allowance of the period. -/
def State.periodAllowed : State := ((s.periodOver x).setGov (s.periodGov x)).setAllowance (s.periodFactor x) (s.periodLevel x)
theorem State.periodAllowed_front : ∃ lane walk assoc stFirst stDep host,
    (s.periodAllowed x).front = (s.setGov ((s.periodGov x).allows lane walk assoc stFirst stDep host)).front := by
  obtain ⟨lane, walk, assoc, stFirst, stDep, host, front⟩ :=
    ((s.periodOver x).setGov (s.periodGov x)).setAllowance_front (s.periodFactor x) (s.periodLevel x)
  exact ⟨lane, walk, assoc, stFirst, stDep, host, front.trans (setGov_front (s.periodOver_front x) _)⟩
theorem State.periodAllowed_unbounded (unbounded : s.gov.bounds = []) : (s.periodAllowed x).gov =
    (s.periodGov x).allows (scaled (184 * 64 * s.cells) (s.periodFactor x) 0 (s.periodLevel x))
      (scaled (184 * s.cells) (s.periodFactor x) 1 (s.periodLevel x)) (scaled 235 (s.periodFactor x) 2 (s.periodLevel x))
      (scaled 184 (s.periodFactor x) 3 (s.periodLevel x)) (scaled 35 (s.periodFactor x) 3 (s.periodLevel x))
      (scaled 30080 (s.periodFactor x) 4 (s.periodLevel x)) := by
  have build : (s.periodOver x).build = s.build := congrArg Front.build (s.periodOver_front x)
  have cells : ((s.periodOver x).setGov (s.periodGov x)).cells = s.cells := by
    rw [State.cells, State.cells, State.ridges, State.ridges, ← build]
    rfl
  rw [State.periodAllowed, State.setAllowance_unbounded (s := (s.periodOver x).setGov (s.periodGov x)) unbounded, cells]
  rfl
theorem State.periodNow_eq : s.periodNow x =
    (s.periodAllowed x).govStep.periodShown ((List.range s.sensors).map (periodTemp s)) (s.periodLevel x) (s.periodFactor x) := by
  have gov : (s.periodOver x).gov = s.gov := congrArg Front.gov (s.periodOver_front x)
  have counted : (if s.railLog.gov.level = s.periodLevel x then s.railLog else s.railLog.count 77 1) = s.periodOver x := rfl
  unfold State.periodNow State.periodShown State.unstalled State.periodAllowed State.setGov State.periodGov State.periodFactor
  rw [← gov]
  dsimp only
  rw [← State.periodLevel, counted]
/-- A period boundary sets the settings and the allowance, takes one step, and leaves the rest of the front but the port's mark. -/
theorem State.periodNow_front : ∃ steps burst, OneStep s.gov.steps steps ∧ (s.periodNow x).front =
    (s.setGov { (s.periodAllowed x).gov with steps := steps, burst := burst }).unstalled.front := by
  obtain ⟨steps, burst, one, stepped⟩ := (s.periodAllowed x).govStep_front
  obtain ⟨_, _, _, _, _, _, front⟩ := s.periodAllowed_front x
  obtain ⟨gov, -, -⟩ := ledgerSide_of_front front
  have before : (s.periodAllowed x).gov.steps = s.gov.steps := by rw [gov]; rfl
  refine ⟨steps, burst, before ▸ one, ?_⟩
  rw [State.periodNow_eq, State.periodShown_front]
  exact unstalled_front (stepped.trans (setGov_front front _))
/-- The estimate and the level are put out (R487). -/
theorem State.periodNow_power : Out.power (min 65535 (x.estMw / 10)) (s.periodLevel x) ∈ (s.periodNow x).out := by
  obtain ⟨_, _, _, _, _, _, front⟩ := s.periodAllowed_front x
  obtain ⟨gov, -, -⟩ := ledgerSide_of_front front
  have est : (s.periodAllowed x).govStep.gov.est = min 65535 (x.estMw / 10) := by
    rw [State.govStep_est, gov]
    rfl
  rw [State.periodNow_eq, ← est]
  exact State.periodShown_power ..
end

/-! The two commands. -/

/-- Before its first period the block is due the one of beat 0; after it, beat 0 has none (log 9). -/
theorem periodB_of_first {s : State} (due : periodDue s = true) (first : s.beat = 0) : periodB s = 0 := by
  cases seen : s.gov.periodSeen with
  | false => simp [periodB, first, seen]
  | true => simp [periodDue, periodB, seen, first, State.nextB, beatAdd] at due
theorem execGovernorPeriod_eq (x : GovIn) (s : State) : exec (.governorPeriod x) s =
    .next (if s.live && periodDue s && (s.atEnd || periodB s = 0 && s.beat = 0) then s.periodNow x else s) := rfl
theorem execDroopEvent_eq (ridge : BitVec 4) (s : State) : exec (.droopEvent ridge) s =
    .next (if s.live then (s.setGov { s.gov with droops := s.gov.droops + 1 }).count 76 1 else s) := rfl

/-- Settles O50: the settings (`State.periodGov`) and the allowance (`State.periodAllowed_unbounded`) are those of the state at the boundary,
the step is one (`State.govStep_front`), and the power port's output stays (`State.periodNow_power`). -/
theorem governorSetsThePeriod : Obligations.GovernorSetsThePeriod := by
  refine fun x ridge s => ⟨fun idle => ?_, fun live due reached => ⟨s.periodNow x, ?_, ?_⟩, fun dead => ?_, fun live => ?_⟩
  · rw [execGovernorPeriod_eq]
    obtain h | h | ⟨h, h'⟩ := idle
    · simp [h]
    · simp [h]
    · simp [h, h']
  · rw [execGovernorPeriod_eq]
    obtain h | h := reached
    · simp [live, due, h]
    · simp [live, due, h, periodB_of_first due h]
  · obtain ⟨steps, burst, ⟨up, down, most⟩, front⟩ := s.periodNow_front x
    obtain ⟨lane, walk, assoc, stFirst, stDep, host, allowed⟩ := s.periodAllowed_front x
    obtain ⟨allows, -, -⟩ := ledgerSide_of_front allowed
    obtain ⟨gov, rest⟩ := unstalled_frame front
    rw [gov, allows]
    dsimp only [State.unstalled, State.setGov, GovS.allows, State.periodGov]
    refine ⟨rfl, rfl, rfl, rfl, rfl, rfl, rfl, rfl, rfl, fun unbounded => ?_, up, down, most, s.periodNow_power x, rest⟩
    have values := allows.symm.trans (s.periodAllowed_unbounded x unbounded)
    exact ⟨congrArg GovS.lane values, congrArg GovS.walk values, congrArg GovS.assoc values, congrArg GovS.stFirst values,
      congrArg GovS.stDep values, congrArg GovS.host values⟩
  · simp [execDroopEvent_eq, dead]
  · rw [execDroopEvent_eq, if_pos live]
    refine ⟨_, rfl, rfl, ?_, ⟨rfl, rfl, rfl, rfl⟩, rfl⟩
    exact State.count_counter (s.setGov { s.gov with droops := s.gov.droops + 1 }) 76 1 76

end Sys2Proof.Machine
end

section
/-! SUPPORT. A wear rotation among cells that are equally idle: it takes the cell with the least activity, and R377 does not ask that this cell has
less of it than the one whose tiles move. -/

namespace Sys2Proof.Machine

/-- A started block at the end of beat 2^20 - 1, with one tile on cell 0 and no lane activity on any cell. -/
def idleCells : State :=
  { State.reset with
    start := { StartS.reset 0 0 false false with phase := .complete }
    clk := { ClockS.reset with beat := 2 ^ 20 - 1, phase := 3 }
    images := [(5, { (default : Img) with cells := [(0, 0)] })] }

theorem idleCells_activity (c : Nat) : activityOf idleCells c = 0 := rfl
/-- The tile of cell 0 begins a move. -/
theorem idleCells_moves : ∀ t, exec .wearRotation idleCells = .next t → ∃ m, t.integ.moving = some m := by
  intro t ran
  obtain rfl : idleCells.wearRotate = t := Host.Outcome.next.inj ran
  exact Option.isSome_iff_exists.mp rfl

/-- Refutes O47: the statement has every move go to a cell with strictly less activity. In `idleCells` all have none, and the rotation moves
cell 0's tile to the least active of the others, as R377 has it. -/
theorem not_timedRecordsFloorsAndBackground : ¬ Obligations.TimedRecordsFloorsAndBackground := by
  intro holds
  obtain ⟨-, -, -, rotates⟩ := holds.2 idleCells
  obtain ⟨t, ran, -, -, -, -, -, moved, -⟩ := rotates ⟨rfl, rfl, by decide⟩ rfl rfl rfl
  obtain ⟨m, moving⟩ := idleCells_moves t ran
  obtain ⟨-, -, -, less, -⟩ := moved m moving
  rw [idleCells_activity, idleCells_activity] at less
  exact Nat.lt_irrefl 0 less

end Sys2Proof.Machine
end

section
/-! SUPPORT. A row that the management core writes into a dynamic tile whose payload is empty: no row has been written, and `padTo` leaves an empty
list empty, so the row lands at the payload's start whatever its number. -/

namespace Sys2Proof.Machine

theorem padTo_nil {α : Type} {m : Nat} (pos : 0 < m) (d : α) : padTo m d [] = [] := by
  have none : cdiv 0 m = 0 := Nat.div_eq_of_lt (by omega)
  simp [padTo, none]
theorem putRow_of_empty {t : DynTile} (empty : t.payload = []) (row : Nat) (bs : List Byte) : (t.putRow row bs).payload = bs := by
  simp [DynTile.putRow, empty, padTo_nil]
/-- A row behind the last byte. -/
theorem rowOf_behind {bs : List Byte} {i : Nat} (short : bs.length ≤ 64 * i) : rowOf bs i = [] := by
  simp [rowOf, sliceB, List.drop_eq_nil_of_le short]

/-- A block out of reset, its management core running, with one dynamic tile that has never been written. -/
def unwrittenTile : State := { State.reset with dyn := [(0, DynTile.blank)] }
/-- A row of 64 bytes. -/
def zeroRow : List Byte := List.replicate 64 0#8

theorem zeroRow_length : zeroRow.length = 64 := List.length_replicate ..
/-- Written as row 1, the bytes become row 0 of the tile. -/
theorem unwrittenTile_row : ∀ t y, exec (.mgmtTrap [] (.window 0#32 0 1 zeroRow) []) unwrittenTile = .next t → AMap.get? t.dyn 0 = some y →
    rowOf y.payload 1 = [] := by
  intro t y ran held
  obtain rfl : unwrittenTile.windowRow 0 1 zeroRow = t := Host.Outcome.next.inj ran
  obtain rfl : DynTile.blank.putRow 1 zeroRow = y := Option.some.inj held
  rw [putRow_of_empty rfl]
  exact rowOf_behind zeroRow_length.le

/-- Refutes O55: in `unwrittenTile` the core writes row 1 of a tile with an empty payload. The statement has the row read back, but the tile's
payload is not padded to its 4,096 bytes (`padTo_nil`), so the bytes lie in row 0 and row 1 is empty. -/
theorem not_recoveryRereadsReloadsAndTraps : ¬ Obligations.RecoveryRereadsReloadsAndTraps := by
  intro holds
  obtain ⟨-, core, -⟩ := holds
  obtain ⟨-, -, -, runs⟩ := core (.barrier false) (.barrier false) [] [] 0#32 unwrittenTile
  obtain ⟨-, -, -, -, -, -, -, -, window⟩ := runs rfl
  obtain ⟨t, y, ran, held, written, -⟩ := window 0 1 DynTile.blank zeroRow zeroRow_length (by decide) (by decide) rfl
  have short := congrArg List.length (written.symm.trans (unwrittenTile_row t y ran held))
  exact absurd short (by decide)

end Sys2Proof.Machine
end

section
/-! SUPPORT for O56. Relay records are put down in the backlog and nothing else changes; the release phase writes them where the lane has room. -/

namespace Sys2Proof.Machine

/-- The state with more records put down for a release phase. -/
def State.queued (s : State) (xs : List RelayOut) : State := { s with range := { s.range with backlog := s.range.backlog ++ xs } }
/-- A record of this member for a peer, as it is put down. -/
def State.relayOut (s : State) (peer kind : Nat) (ws : List W64) : RelayOut :=
  { peer := peer, kind := kind, sender := s.selfId, words := ws, formation := s.range.formation, since := s.beat, inbox := peerInbox s peer }

theorem State.queued_nil (s : State) : s.queued [] = s := by simp only [State.queued, List.append_nil]
theorem State.queued_queued (s : State) (xs ys : List RelayOut) : (s.queued xs).queued ys = s.queued (xs ++ ys) := by
  simp only [State.queued, List.append_assoc]
/-- A record is put down unless its peer is split from and its lane is full. -/
theorem State.relay_queued {s : State} {peer : Nat} (taken : peer ∉ s.range.splitFrom ∨ laneRoom s peer = true) (kind : Nat) (ws : List W64) :
    s.relay peer kind ws = s.queued [s.relayOut peer kind ws] := by
  refine if_neg ?_
  obtain whole | room := taken
  · simp [whole]
  · simp [room]
/-- A record is put down, or lost. -/
theorem State.relay_queues (s : State) (peer kind : Nat) (ws : List W64) :
    ∃ xs, s.relay peer kind ws = s.queued xs ∧ ∀ x ∈ xs, x.kind = kind := by
  unfold State.relay State.relayAs
  dsimp only
  split
  · exact ⟨[], s.queued_nil.symm, by simp⟩
  · exact ⟨[_], rfl, by simp⟩
/-- Records of one kind, one for each of several peers. -/
theorem State.foldl_relay_queues (kind : Nat) (ws : List W64) (ps : List Nat) (s : State) :
    ∃ xs, ps.foldl (fun s p => s.relay p kind ws) s = s.queued xs ∧ ∀ x ∈ xs, x.kind = kind := by
  induction ps generalizing s with
  | nil => exact ⟨[], s.queued_nil.symm, by simp⟩
  | cons p ps ih =>
    obtain ⟨xs, one, kinds⟩ := s.relay_queues p kind ws
    obtain ⟨ys, all, kinds'⟩ := ih (s.queued xs)
    refine ⟨xs ++ ys, ?_, fun x hx => (List.mem_append.mp hx).elim (kinds x) (kinds' x)⟩
    rw [List.foldl_cons, one, all, State.queued_queued]
theorem State.relayAll_queues (s : State) (kind : Nat) (ws : List W64) : ∃ xs, s.relayAll kind ws = s.queued xs :=
  (State.foldl_relay_queues kind ws _ s).imp fun _ h => h.1
/-- Of several peers each that takes a record has one in the backlog. -/
theorem State.foldl_relay_mem {kind p : Nat} (ws : List W64) {ps : List Nat} (mem : p ∈ ps) (s : State)
    (taken : p ∉ s.range.splitFrom ∨ laneRoom s p = true) :
    ∃ x ∈ (ps.foldl (fun s p => s.relay p kind ws) s).range.backlog, x.peer = p ∧ x.kind = kind ∧ x.sender = s.selfId := by
  induction ps generalizing s with
  | nil => simp at mem
  | cons q ps ih =>
    rw [List.foldl_cons]
    obtain rfl | later := List.mem_cons.mp mem
    · obtain ⟨ys, rest, -⟩ := State.foldl_relay_queues kind ws ps (s.queued [s.relayOut p kind ws])
      rw [State.relay_queued taken, rest]
      exact ⟨s.relayOut p kind ws, by simp [State.queued], rfl, rfl, rfl⟩
    · obtain ⟨xs, one, -⟩ := s.relay_queues q kind ws
      rw [one]
      exact ih later (s.queued xs) taken

/-! The release phase's writing of one record (R56, R423). -/

/-- Writing a record to its lane changes the lane's tail and the beat of the last record, of what a range holds. -/
theorem State.relayWrite_range (s : State) (r : RelayOut) : (s.relayWrite r).range = { s.range with
    send := AMap.set s.range.send r.peer ((AMap.getD s.range.send r.peer (0, 0)).1 + 1, (AMap.getD s.range.send r.peer (0, 0)).2)
    sentTo := AMap.set s.range.sentTo r.peer s.beat } := by
  simp [State.relayWrite]

section
variable {s : State} {x : RelayOut} (one : s.range.backlog = [x])
include one

theorem State.pumpRelay_writes (room : laneRoom s x.peer = true) :
    s.pumpRelay = ({ s with range := { s.range with backlog := [] } } : State).relayWrite x := by
  simp [State.pumpRelay, one, room]
theorem State.pumpRelay_waits (full : laneRoom s x.peer = false) : s.pumpRelay = s := by
  simp [State.pumpRelay, one, full]
end

end Sys2Proof.Machine
end

section
/-! SUPPORT for O56. RANGE_JOIN, RANGE_LEAVE and RANGE_STATUS on a command that has just started, the tail's timeout, and the boundary of a join. -/

namespace Sys2Proof.Machine

@[simp] theorem started_openStreams (s : State) (d : Desc) : (s.started d).openStreams = s.openStreams := by
  simp [State.openStreams]
@[simp] theorem started_host (s : State) (d : Desc) : (s.started d).host = s.host := State.begin_host s d

/-! Formation (R422, R425). -/

/-- A member that may begin formation: in no range, none forming or left, its timeout and its range's size in order. -/
def mayForm (d : Desc) (u : State) : Prop :=
  u.range.joined = false ∧ u.forming? = none ∧ u.range.leaving = false ∧ 64 ≤ dfld d 4 31 0 ∧ fld u.regs.rangeMember 14 8 ≠ 0
/-- The range as formation begins. -/
def RangeS.begun (r : RangeS) (d : Desc) (cmd : Nat) : RangeS :=
  { r with forming := some cmd, role := dfld d 2 1 0, succInbox := dfld d 3 56 0, timeout := dfld d 4 31 0, probes := 0 }

section
variable {d : Desc} {u : State} {c : Cmd}

theorem rangeJoinBody_refused (barred : ¬ mayForm d u) : rangeJoinBody d u c = u.finish c { status := stState } := by
  refine if_pos ?_
  by_contra passes
  simp only [Bool.or_eq_true, decide_eq_true_eq, not_or, Bool.not_eq_true, Option.isSome_eq_false_iff, Option.isNone_iff_eq_none, not_lt] at passes
  obtain ⟨⟨⟨⟨joined, forming⟩, leaving⟩, timeout⟩, size⟩ := passes
  exact barred ⟨joined, forming, leaving, timeout, size⟩
/-- Without early JOINs, formation begins and waits: a tail for the members' JOINs, another member for its PROBEs to go out. -/
theorem rangeJoinBody_begins (may : mayForm d u) (none_early : u.range.members = [])
    (more : dfld d 2 1 0 ≠ 2 ∨ u.range.members.length + 1 < fld u.regs.rangeMember 14 8) :
    rangeJoinBody d u c = { u.keep c (.join u.beat) with range := u.range.begun d c.id } := by
  obtain ⟨joined, forming, leaving, timeout, size⟩ := may
  have passes : ¬ (u.range.joined || u.forming?.isSome || u.range.leaving || dfld d 4 31 0 < 64 || fld u.regs.rangeMember 14 8 = 0) = true := by
    simp [joined, forming, leaving, size, Nat.not_lt.mpr timeout]
  refine (if_neg passes).trans ?_
  by_cases tail : dfld d 2 1 0 = 2
  · have few : ¬ fld u.regs.rangeMember 14 8 ≤ u.range.members.length + 1 := Nat.not_le.mpr (more.resolve_left (absurd tail))
    refine (if_pos tail).trans (if_neg ?_)
    simp only [Bool.and_eq_true, decide_eq_true_eq]
    exact fun h => few h.2
  · refine (if_neg tail).trans ?_
    rw [none_early]
    exact congrArg (fun ms => ({ u.keep c (.join u.beat) with range := { u.range.begun d c.id with members := ms } } : State)) none_early.symm
end

/-- Formation given up: what it gathered is gone, and so is the join that was to come. -/
def State.unformed (s : State) : State :=
  { s with
    range := { s.range with forming := none, members := [], hops := [], probes := 0, joinBox := [], role := 0 }
    sched := s.sched.filter fun e => match e.eff with | .joinRange _ _ => false | _ => true }
/-- A tail that gives up tells every member that it has a JOIN of, and its RANGE_JOIN completes. -/
theorem State.formFailed_tail {s : State} {c : Cmd} (tail : s.range.role = 2) (forming : s.forming? = some c) (status : Nat) :
    ∃ xs, s.formFailed status = (s.queued xs).unformed.finish c { status := status } := by
  obtain ⟨xs, told⟩ := s.relayAll_queues 12 []
  refine ⟨xs, ?_⟩
  have still : (s.queued xs).forming? = some c := forming
  simp only [State.formFailed, tail, if_true, told, still]
  rfl

/-- What the boundary of a join gives a member, before its RANGE_JOIN completes: the range, and no lease (R361, R425, R426). -/
structure JoinsRange (s u : State) (f dr : Nat) : Prop where
  joined : u.range.joined = true
  forming : u.range.forming = none
  formation : u.range.formation = f
  lastFormation : u.range.lastFormation = f
  delay : u.range.dRange = dr
  since : u.range.formedBeat = s.beat
  whole : u.range.split = false
  roster : u.range.members.map (·.1) = s.range.members.map (·.1)
  leases : ∀ n x, AMap.get? u.tenants n = some x → x.k = 0 ∧ x.x = 0 ∧ x.u = 0
  streams : SameStreams s u

theorem JoinsRange.finish {s u : State} {f dr : Nat} (h : JoinsRange s u f dr) (c : Cmd) (r : Done) : JoinsRange s (u.finish c r) f dr := by
  obtain ⟨joined, forming, formation, last, delay, since, whole, roster, leases, streams⟩ := h
  rw [← State.finish_range u c r] at joined forming formation last delay since whole roster
  rw [← State.finish_tenants u c r] at leases
  exact ⟨joined, forming, formation, last, delay, since, whole, roster, leases, streams.finish c r⟩

/-- The counts of a tenant without a lease. -/
def Tenant.unleased (x : Tenant) : Tenant := { x with k := 0, x := 0, u := 0, leaseC := 0, leaseG := 0, leaseP := 0, leaseX := 0 }
theorem get?_unleased {m : AMap Tenant} {n : Nat} {x : Tenant} (h : AMap.get? (m.map fun y => (y.1, y.2.unleased)) n = some x) :
    x.k = 0 ∧ x.x = 0 ∧ x.u = 0 := by
  rw [AMap.get?_map _ (fun _ => Tenant.unleased) fun _ _ => rfl] at h
  obtain ⟨y, -, rfl⟩ := Option.map_eq_some_iff.mp h
  exact ⟨rfl, rfl, rfl⟩
/-- The boundary of a join, and the completion of the RANGE_JOIN where one runs. -/
theorem State.joinRange_joins (s : State) (f dr : Nat) : ∃ u, JoinsRange s u f dr ∧ u.rings = s.rings
    ∧ s.joinRange f dr = s.forming?.elim u fun c => u.finish c { status := stOK, resA := dr } := by
  have split : ∀ (o : Option Cmd) (u : State), (match o with | some c => u.finish c { status := stOK, resA := dr } | none => u)
      = o.elim u fun c => u.finish c { status := stOK, resA := dr } := fun o _ => by cases o <;> rfl
  unfold State.joinRange
  dsimp only
  refine ⟨_, ?_, ?_, split s.forming? _⟩
  · refine ⟨rfl, rfl, rfl, rfl, rfl, rfl, rfl, ?_, fun n x h => get?_unleased (m := s.tenants) h, rfl, rfl, rfl, rfl⟩
    simp
  · rfl

end Sys2Proof.Machine
end

section
/-! SUPPORT for O37 and O56. The packets of a write: one is issued while its job has any and a tag is free, and no other job changes (R388, R474). -/

namespace Sys2Proof.Machine

/-- Job j's next packet of bytes at an address goes out under a tag. -/
def State.issuePacket (s : State) (j t : Nat) (w : WJob) (a : Nat) (bs : List Byte) (rest : List (Nat × List Byte)) : State :=
  ({ s with host := { s.host with
    writes := AMap.set s.host.writes t j, packets := AMap.set s.host.packets t (a, bs.length)
    jobs := AMap.set s.host.jobs j { w with todo := rest, unacked := w.unacked + 1 } } } : State).emit (.hmWrite a t w.attr bs)

section
variable {s : State} {j : Nat} {w : WJob}

theorem pumpPackets_issues {a t : Nat} {bs : List Byte} {rest : List (Nat × List Byte)} (held : AMap.get? s.host.jobs j = some w)
    (todo : w.todo = (a, bs) :: rest) (tag : freeTag s.host.writes = some t) (n : Nat) :
    pumpPackets (n + 1) j s = pumpPackets n j (s.issuePacket j t w a bs rest) := by
  simp only [pumpPackets, held, todo, tag, State.issuePacket]
theorem pumpPackets_absent (gone : AMap.get? s.host.jobs j = none) (n : Nat) : pumpPackets n j s = s := by
  cases n with
  | zero => rfl
  | succ n => simp only [pumpPackets, gone]
theorem pumpPackets_done (held : AMap.get? s.host.jobs j = some w) (done : w.todo = []) (n : Nat) : pumpPackets n j s = s := by
  cases n with
  | zero => rfl
  | succ n => simp only [pumpPackets, held, done]
theorem pumpPackets_tagless (none_free : freeTag s.host.writes = none) (n : Nat) : pumpPackets n j s = s := by
  cases n with
  | zero => rfl
  | succ n =>
    unfold pumpPackets
    split
    next => rfl
    next w _ => cases w.todo <;> simp only [none_free]
/-- What holds of a state, and of every state after a packet went out, holds after all that go out. -/
theorem pumpPackets_induct {P : State → Prop}
    (step : ∀ (s : State) (w : WJob) a bs rest t, AMap.get? s.host.jobs j = some w → w.todo = (a, bs) :: rest → P s →
      P (s.issuePacket j t w a bs rest))
    (n : Nat) (start : P s) : P (pumpPackets n j s) := by
  induction n generalizing s with
  | zero => exact start
  | succ n ih =>
    cases held : AMap.get? s.host.jobs j with
    | none => rwa [pumpPackets_absent held]
    | some w =>
      cases todo : w.todo with
      | nil => rwa [pumpPackets_done held todo]
      | cons x rest =>
        cases tag : freeTag s.host.writes with
        | none => rwa [pumpPackets_tagless tag]
        | some t =>
          rw [pumpPackets_issues held todo tag]
          exact ih (step s w x.1 x.2 rest t held todo start)
end

/-- A job stays with its owner while packets go out. -/
theorem pumpPackets_owner {s : State} {i : Nat} {o : WOwner} (n j : Nat) (held : ∃ w, AMap.get? s.host.jobs i = some w ∧ w.owner = o) :
    ∃ w, AMap.get? (pumpPackets n j s).host.jobs i = some w ∧ w.owner = o := by
  refine pumpPackets_induct (P := fun s => ∃ w, AMap.get? s.host.jobs i = some w ∧ w.owner = o) (fun s w a bs rest t this _ held => ?_) n held
  show ∃ v, AMap.get? (AMap.set s.host.jobs j _) i = some v ∧ v.owner = o
  rw [AMap.get?_set]
  split
  next same =>
    subst same
    obtain ⟨v, there, owner⟩ := held
    obtain rfl : w = v := Option.some.inj (this.symm.trans there)
    exact ⟨_, rfl, owner⟩
  next => exact held
/-- A write that is begun has its job, under the next number. -/
theorem State.write'_owner (s : State) (o : WOwner) (attr : Nat) (data : List (Nat × List Byte)) (commit : Option (Nat × List Byte)) :
    ∃ w, AMap.get? (s.write' o attr data commit).host.jobs s.host.nextJob = some w ∧ w.owner = o :=
  pumpPackets_owner _ _ ⟨_, by rw [AMap.get?_set, if_pos rfl], rfl⟩

end Sys2Proof.Machine
end

section
/-! SUPPORT for O56. RANGE_LEAVE and RANGE_STATUS (R390, R431, R432). -/

namespace Sys2Proof.Machine

/-- A member that is to leave at a boundary. -/
def State.leavingAt (s : State) (b : Nat) : State := ({ s with range := { s.range with leaving := true } } : State).at b .leaveRange
theorem State.askLeave_leaves {s : State} (idle : s.openStreams = []) (unformed : s.forming? = none) (stays : s.range.leaving = false) (b : Nat) :
    s.askLeave b = s.leavingAt b := by
  have none_open : (s.leavingAt b).openStreams = [] := idle
  simp only [State.leavingAt] at none_open
  simp [State.askLeave, unformed, stays, none_open, State.leavingAt]

section
variable {d : Desc} {u : State} {c : Cmd}

theorem rangeLeaveBody_refused (joined : u.range.joined = true) (busy : u.openStreams ≠ []) :
    rangeLeaveBody d u c = u.finish c { status := stState } :=
  if_pos (by simp [joined, busy])
/-- Outside a range, and with none forming, there is nothing to leave. -/
theorem rangeLeaveBody_outside (outside : u.range.joined = false) (unformed : u.forming? = none) :
    rangeLeaveBody d u c = u.finish c { status := stOK } := by
  simp [rangeLeaveBody, outside, unformed]
theorem rangeLeaveBody_leaves (joined : u.range.joined = true) (idle : u.openStreams = []) (unformed : u.forming? = none)
    (stays : u.range.leaving = false) : ∃ xs, rangeLeaveBody d u c
      = ((u.queued xs).leavingAt (if u.clk.phase ≤ 2 then u.nextB else beatAdd u.nextB 1)).finish c { status := stOK } := by
  obtain ⟨xs, told⟩ := u.relayAll_queues 12 []
  refine ⟨xs, ?_⟩
  have leaves := State.askLeave_leaves (s := u.queued xs) idle unformed stays
  simp only [rangeLeaveBody, joined, idle, told, leaves, List.isEmpty_nil, Bool.not_true, Bool.and_false, Bool.true_or, if_true, if_false,
    Bool.false_eq_true]
end

end Sys2Proof.Machine
end

section
/-! SUPPORT for O56. The timers of a member: returned slots, heartbeats, and a split (R423, R429). -/

namespace Sys2Proof.Machine

/-- A lane has slots to return: 32 records, or 64 beats since the oldest, to a sender whose inbox is known. -/
def slotsDue (s : State) (l : Nat) : Prop :=
  let at_ := AMap.getD s.range.lanes l (0, 0, 0)
  at_.2.1 ≠ 0 ∧ peerInbox s l ≠ 0 ∧ (32 ≤ at_.2.1 ∨ beatLt s.beat (beatAdd at_.2.2 64) = false)
/-- The state with a lane's slots counted as returned. -/
def State.slotsReturned (s : State) (l : Nat) : State :=
  { s with range := { s.range with lanes := AMap.set s.range.lanes l ((AMap.getD s.range.lanes l (0, 0, 0)).1, 0, 0) } }

/-- The test that `State.ackSend` makes. -/
theorem slotsDue_iff (s : State) (l : Nat) : slotsDue s l ↔ ¬ ((AMap.getD s.range.lanes l (0, 0, 0)).2.1 = 0 || peerInbox s l = 0
    || ((AMap.getD s.range.lanes l (0, 0, 0)).2.1 < 32 && beatLt s.beat (beatAdd (AMap.getD s.range.lanes l (0, 0, 0)).2.2 64))) = true := by
  simp only [slotsDue, Bool.or_eq_true, Bool.and_eq_true, decide_eq_true_eq, not_or, not_and_or, Nat.not_lt, Bool.not_eq_true, and_assoc, ne_eq]
theorem State.ackSend_waits {s : State} {l : Nat} (early : ¬ slotsDue s l) : s.ackSend l = s :=
  if_pos (by_contra fun h => early ((slotsDue_iff s l).mpr h))
/-- The slots are returned with an ACK to the sender. -/
theorem State.ackSend_returns {s : State} {l : Nat} (due : slotsDue s l) (taken : l ∉ s.range.splitFrom ∨ laneRoom s l = true) :
    s.ackSend l = (s.slotsReturned l).queued [s.relayOut l 8 [w64 [((AMap.getD s.range.lanes l (0, 0, 0)).1 % 65536, 0)]]] :=
  (if_neg ((slotsDue_iff s l).mp due)).trans (State.relay_queued (s := s.slotsReturned l) taken 8 _)

theorem RelayOut.marked_peer (r : RelayOut) : r.marked.peer = r.peer := by
  unfold RelayOut.marked
  dsimp only
  split
  · rfl
  · split <;> rfl
/-- What a split from a peer leaves of the records put down: those for other peers, and the kept ones for this one, marked. -/
def splitRecords (peer : Nat) (xs : List RelayOut) : List RelayOut :=
  xs.filterMap fun r => if r.peer ≠ peer then some r else if relayKept r.kind then some r.marked else none

section
variable {peer : Nat} {xs : List RelayOut}

/-- A record for the peer is a kept one, marked. -/
theorem of_mem_splitRecords {x : RelayOut} (mem : x ∈ splitRecords peer xs) (own : x.peer = peer) :
    ∃ y ∈ xs, y.peer = peer ∧ relayKept y.kind = true ∧ x = y.marked := by
  obtain ⟨y, hy, kept⟩ := List.mem_filterMap.mp mem
  split at kept
  next other =>
    cases kept
    exact absurd own other
  next same =>
    split at kept
    next waits => exact ⟨y, hy, not_not.mp same, waits, (Option.some.inj kept).symm⟩
    next => cases kept
theorem mem_splitRecords {y : RelayOut} (mem : y ∈ xs) (own : y.peer = peer) (kept : relayKept y.kind = true) : y.marked ∈ splitRecords peer xs :=
  List.mem_filterMap.mpr ⟨y, mem, by simp [own, kept]⟩
end

/-- A split from a peer, in what it changes and what it leaves. -/
theorem State.splitFrom_splits (s : State) (peer kind : Nat) :
    (s.splitFrom peer kind).range.split = true ∧ (s.splitFrom peer kind).range.splitFrom = s.range.splitFrom ++ [peer]
    ∧ (s.splitFrom peer kind).range.backlog = splitRecords peer s.range.backlog ∧ (s.splitFrom peer kind).host.irqStatus = s.host.irqStatus ||| 8
    ∧ (s.splitFrom peer kind).range.members = s.range.members ∧ SameStreams s (s.splitFrom peer kind)
    ∧ (s.splitFrom peer kind).rings = s.rings := by
  simp [State.splitFrom, splitRecords, SameStreams, State.raise]

theorem relayTimeout_idle {s : State} {peer : BitVec 6}
    (h : s.range.joined = false ∨ s.clk.stopped = true ∨ peer.toNat ∈ s.range.splitFrom ∨ splitShows s peer.toNat = none) :
    exec (.relayTimeout peer) s = .next s := by
  show execRelayTimeout peer s = .next s
  obtain out | stopped | known | silent := h
  · simp [execRelayTimeout, out]
  · simp [execRelayTimeout, stopped]
  · simp [execRelayTimeout, known]
  · simp [execRelayTimeout, silent]
theorem relayTimeout_splits {s : State} {peer : BitVec 6} {k : Nat} (joined : s.range.joined = true) (runs : s.clk.stopped = false)
    (whole : peer.toNat ∉ s.range.splitFrom) (silent : splitShows s peer.toNat = some k) :
    exec (.relayTimeout peer) s = .next (s.splitFrom peer.toNat k) := by
  show execRelayTimeout peer s = .next _
  simp [execRelayTimeout, joined, runs, whole, silent]

theorem heartbeatSend_idle {s : State}
    (h : s.range.joined = false ∨ s.clk.stopped = true ∨ s.heartPeers.filter (heartDue s) = []) : exec .heartbeatSend s = .next s := by
  show execHeartbeatSend s = .next s
  obtain out | stopped | heard := h
  · simp [execHeartbeatSend, out]
  · simp [execHeartbeatSend, stopped]
  · simp [execHeartbeatSend, heard]
theorem heartbeatSend_sends {s : State} (joined : s.range.joined = true) (runs : s.clk.stopped = false) :
    exec .heartbeatSend s = .next ((s.heartPeers.filter (heartDue s)).foldl (fun s p => s.relay p 9 []) s) := by
  show execHeartbeatSend s = .next _
  simp [execHeartbeatSend, joined, runs]

theorem relayAckSend_idle {s : State} {lane : BitVec 6} (h : s.live = false ∨ ¬ slotsDue s lane.toNat) :
    exec (.relayAckSend lane) s = .next s := by
  refine congrArg Host.Outcome.next (?_ : (if s.live = true then s.ackSend lane.toNat else s) = s)
  obtain stopped | early := h
  · simp [stopped]
  · rw [State.ackSend_waits early, ite_self]
theorem relayAckSend_sends {s : State} {lane : BitVec 6} (live : s.live = true) : exec (.relayAckSend lane) s = .next (s.ackSend lane.toNat) :=
  congrArg Host.Outcome.next (if_pos live)

section
variable {s : State}

theorem rangeJoinTimeout_idle (h : s.forming? = none ∨ s.range.role ≠ 2 ∨ s.clk.stopped = true ∨ joining s = true) :
    exec .rangeJoinTimeout s = .next s := by
  show execRangeJoinTimeout s = .next s
  obtain unformed | other | stopped | coming := h
  · simp [execRangeJoinTimeout, unformed]
  all_goals
    unfold execRangeJoinTimeout
    split
    next => simp [*]
    next => rfl
variable {c : Cmd} (forming : s.forming? = some c) (tail : s.range.role = 2) (runs : s.clk.stopped = false) (waits : joining s = false)
include forming tail runs waits

theorem rangeJoinTimeout_eq : exec .rangeJoinTimeout s
    = .next (if beatLe (beatAdd c.since s.range.timeout) s.beat = true then s.formFailed stIncomplete else s) := by
  show execRangeJoinTimeout s = _
  simp [execRangeJoinTimeout, forming, tail, runs, waits]
end

end Sys2Proof.Machine
end

section
/-! OBLIGATION O56. -/

namespace Sys2Proof.Machine

section
variable {d : Desc} {s : State} (accepted : s.accepts d = true)
include accepted

section
variable (op : d.opcode = 0x40)
include op

theorem rangeJoin_runs : exec (.rangeJoin d) s = .next (rangeJoinBody d (s.started d) (s.startedCmd d)) :=
  congrArg Host.Outcome.next (runDesc_accepts accepted (by simp [op]) _)
theorem rangeJoin_refused (barred : ¬ mayForm d (s.started d)) :
    ∃ t, exec (.rangeJoin d) s = .next t ∧ Completes s t d { status := stState } ∧ t.range = s.range := by
  refine ⟨_, rangeJoin_runs accepted op, ?_⟩
  rw [rangeJoinBody_refused barred]
  exact ⟨completes_started s d _, by simp⟩
theorem rangeJoin_begins (may : mayForm d (s.started d)) (more : dfld d 2 1 0 ≠ 2 ∨ s.range.members.length + 1 < fld s.regs.rangeMember 14 8)
    (none_early : s.range.members = []) : ∃ t, exec (.rangeJoin d) s = .next t ∧ Runs s t d (.join s.beat)
      ∧ t.range = s.range.begun d s.nextId ∧ SameStreams s t := by
  refine ⟨_, rangeJoin_runs accepted op, ?_⟩
  rw [rangeJoinBody_begins may (by simpa using none_early) (by simpa using more), started_beat, started_range]
  exact ⟨runs_congr rfl rfl (runs_keep _ rfl (startedCmd_mem s d)), rfl, sameStreams_started s d⟩
end

section
variable (op : d.opcode = 0x41)
include op

theorem rangeLeave_runs : exec (.rangeLeave d) s = .next (rangeLeaveBody d (s.started d) (s.startedCmd d)) :=
  congrArg Host.Outcome.next (runDesc_accepts accepted (by simp [op]) _)
theorem rangeLeave_refused (joined : s.range.joined = true) (busy : s.openStreams ≠ []) :
    ∃ t, exec (.rangeLeave d) s = .next t ∧ Completes s t d { status := stState } ∧ t.range = s.range ∧ t.sched = s.sched := by
  refine ⟨_, rangeLeave_runs accepted op, ?_⟩
  rw [rangeLeaveBody_refused (by simpa using joined) (by simpa using busy)]
  exact ⟨completes_started s d _, by simp, by simp⟩
theorem rangeLeave_outside (outside : s.range.joined = false) (unformed : (s.started d).forming? = none) :
    ∃ t, exec (.rangeLeave d) s = .next t ∧ Completes s t d { status := stOK } ∧ t.range = s.range ∧ t.sched = s.sched := by
  refine ⟨_, rangeLeave_runs accepted op, ?_⟩
  rw [rangeLeaveBody_outside (by simpa using outside) unformed]
  exact ⟨completes_started s d _, by simp, by simp⟩
theorem rangeLeave_leaves (joined : s.range.joined = true) (idle : s.openStreams = []) (unformed : (s.started d).forming? = none)
    (stays : s.range.leaving = false) : ∃ t, exec (.rangeLeave d) s = .next t ∧ Completes s t d { status := stOK }
      ∧ t.range.leaving = true ∧ t.range.joined = true
      ∧ t.sched = s.sched ++ [⟨if s.clk.phase ≤ 2 then s.nextB else beatAdd s.nextB 1, .leaveRange, 0⟩] := by
  have member : (s.started d).range.joined = true := by simpa using joined
  obtain ⟨xs, leaves⟩ := rangeLeaveBody_leaves (d := d) (u := s.started d) (c := s.startedCmd d) member (by simpa using idle) unformed
    (by simpa using stays)
  refine ⟨_, rangeLeave_runs accepted op, ?_⟩
  rw [leaves]
  refine ⟨completes_of_started _ rfl rfl, by simp [State.leavingAt, State.at], ?_, ?_⟩
  · simpa [State.leavingAt, State.at, State.queued] using joined
  · simp [State.leavingAt, State.at, State.queued]
end

theorem rangeStatus_runs (op : d.opcode = 0x42) : ∃ t w, exec (.rangeStatus d) s = .next t ∧ Runs s t d (.status (dfld d 2 56 0) false)
    ∧ AMap.get? t.host.jobs s.host.nextJob = some w ∧ w.owner = .rangeStatus s.nextId ∧ t.range = s.range ∧ SameStreams s t := by
  let u := (s.started d).write' (.rangeStatus s.nextId) ((s.started d).hpAttr 8) [(dfld d 2 56 0 + 1088, w64Bytes 0#64)] none
  obtain ⟨w, there, owner⟩ := (s.started d).write'_owner (.rangeStatus s.nextId) ((s.started d).hpAttr 8)
    [(dfld d 2 56 0 + 1088, w64Bytes 0#64)] none
  rw [started_host] at there
  refine ⟨u.keep (s.startedCmd d) (.status (dfld d 2 56 0) false), w, congrArg Host.Outcome.next (runDesc_accepts accepted (by simp [op]) _), ?_,
    there, owner, ?_, ?_⟩
  · refine runs_keep _ (State.ring_congr (by simp [u]) _) ?_
    simpa [u] using startedCmd_mem s d
  · exact (State.write'_range ..).trans (by simp)
  · simp [SameStreams, u, State.keep, State.setCmd]
end

theorem JoinsRange.elim {s u : State} {f dr : Nat} (h : JoinsRange s u f dr) (o : Option Cmd) (r : Done) :
    JoinsRange s (o.elim u fun c => u.finish c r) f dr := by
  cases o with
  | none => exact h
  | some c => exact h.finish c r

/-- The tail gives up formation, and its RANGE_JOIN completes. -/
theorem formFailed_completes {s : State} {c : Cmd} (tail : s.range.role = 2) (forming : s.forming? = some c) : ∃ t e,
    s.formFailed stIncomplete = t ∧ t.range.forming = none ∧ t.range.members = [] ∧ t.range.joined = s.range.joined
    ∧ (t.ring c.ring).cqPend = (s.ring c.ring).cqPend ++ [e] ∧ e.status = stIncomplete ∧ e.tag = c.tag
    ∧ t.cmds = s.cmds.filter (fun x => x.id != c.id) := by
  obtain ⟨xs, gives_up⟩ := State.formFailed_tail tail forming stIncomplete
  refine ⟨_, _, gives_up, ?_, ?_, ?_, State.finish_entry _ _ _, rfl, rfl, State.finish_cmds _ _ _⟩
  all_goals
    rw [State.finish_range]
    rfl
theorem joinRange_member (s : State) (f dr : Nat) :
    JoinsRange s (s.joinRange f dr) f dr ∧ ∀ c, s.forming? = some c →
      ∃ e, ((s.joinRange f dr).ring c.ring).cqPend = (s.ring c.ring).cqPend ++ [e] ∧ e.status = stOK ∧ e.resA = dr ∧ e.tag = c.tag := by
  obtain ⟨u, joins, rings, joined⟩ := s.joinRange_joins f dr
  rw [joined]
  refine ⟨joins.elim _ _, fun c forming => ?_⟩
  rw [forming]
  rw [← State.ring_congr rings]
  exact ⟨_, State.finish_entry u c _, rfl, rfl, rfl⟩

/-- The heartbeats of a member: each due peer that takes a record gets one, and nothing else is put down. -/
theorem heartbeatSend_queues {s : State} (joined : s.range.joined = true) (runs : s.clk.stopped = false) : ∃ t, exec .heartbeatSend s = .next t
    ∧ (∀ p ∈ s.heartPeers, heartDue s p = true → (p ∉ s.range.splitFrom ∨ laneRoom s p = true) →
        ∃ x ∈ t.range.backlog, x.peer = p ∧ x.kind = 9 ∧ x.sender = s.selfId)
    ∧ ∃ xs, t = s.queued xs ∧ ∀ x ∈ xs, x.kind = 9 := by
  obtain ⟨xs, sent, kinds⟩ := State.foldl_relay_queues 9 [] (s.heartPeers.filter (heartDue s)) s
  exact ⟨_, heartbeatSend_sends joined runs,
    fun p peer due taken => State.foldl_relay_mem [] (List.mem_filter.mpr ⟨peer, due⟩) s taken, xs, sent, kinds⟩

/-- Settles O56: the three commands and the formation's end on one side, the timers of a member on the other. -/
theorem rangeCommandsAndTimers : Obligations.RangeCommandsAndTimers := by
  refine ⟨fun d s => ⟨fun accepted op => ⟨fun barred => ?_, fun may more early => ?_⟩, fun accepted op => ⟨rangeLeave_refused accepted op,
    rangeLeave_outside accepted op, rangeLeave_leaves accepted op⟩, rangeStatus_runs, rangeJoinTimeout_idle,
    fun c forming tail runs waits => ⟨fun early => ?_, fun late => ?_⟩, fun f dr => ?_⟩,
    fun lane peer s => ⟨relayAckSend_idle, fun live due taken => ?_, fun x one => ⟨fun room => ?_, State.pumpRelay_waits one⟩,
      heartbeatSend_idle, fun joined runs => ?_, relayTimeout_idle, fun k joined runs whole silent => ?_⟩⟩
  · exact rangeJoin_refused accepted op fun may => barred (by simpa [mayForm] using may)
  · obtain ⟨t, ran, goes_on, range, same⟩ := rangeJoin_begins accepted op (by simpa [mayForm] using may) more early
    exact ⟨t, ran, goes_on, congrArg RangeS.forming range, congrArg RangeS.role range, congrArg RangeS.succInbox range,
      congrArg RangeS.timeout range, congrArg RangeS.probes range, (congrArg RangeS.joined range).trans may.1, same⟩
  · rw [rangeJoinTimeout_eq forming tail runs waits, early]
    rfl
  · obtain ⟨t, e, gives_up, rest⟩ := formFailed_completes tail forming
    exact ⟨t, e, by rw [rangeJoinTimeout_eq forming tail runs waits, if_pos late, gives_up], rest⟩
  · obtain ⟨⟨joined, forming, formation, last, delay, since, whole, roster, leases, streams⟩, completes⟩ := joinRange_member s f dr
    exact ⟨joined, forming, formation, last, delay, since, whole, roster, leases, streams, completes⟩
  · exact ⟨_, _, (relayAckSend_sends live).trans (congrArg _ (State.ackSend_returns due taken)), (AMap.get?_set ..).trans (if_pos rfl),
      rfl, rfl, rfl, rfl, rfl, ⟨rfl, rfl, rfl, rfl⟩, rfl⟩
  · rw [State.pumpRelay_writes one room, State.relayWrite_range]
    exact ⟨rfl, (AMap.get?_set ..).trans (if_pos rfl), (AMap.get?_set ..).trans (if_pos rfl)⟩
  · obtain ⟨t, ran, beats, xs, rfl, kinds⟩ := heartbeatSend_queues joined runs
    refine ⟨_, ran, beats, fun x => List.mem_append_left xs, fun x mem => ?_, rfl, ⟨rfl, rfl, rfl, rfl⟩, rfl⟩
    exact (List.mem_append.mp mem).imp_right (kinds x)
  · obtain ⟨split, from_, backlog, cause, members, streams, rings⟩ := s.splitFrom_splits peer.toNat k
    refine ⟨_, relayTimeout_splits joined runs whole silent, split, from_, ?_, ?_, cause, members, streams, rings⟩
    · exact fun x mem own => of_mem_splitRecords (backlog ▸ mem) own
    · exact fun y mem own kept => backlog ▸ mem_splitRecords mem own kept

end Sys2Proof.Machine
end

section
/-! SUPPORT for O37. The steps of an acknowledgement on a block with one host write under way (R388, R475, R476). -/

namespace Sys2Proof.Machine

/-- A packet's tag and place given back. -/
def State.packetAcked (s : State) (tag : Nat) : State :=
  { s with host := { s.host with writes := AMap.erase s.host.writes tag, packets := AMap.erase s.host.packets tag } }
/-- The state with other jobs. -/
def State.withJobs (s : State) (jobs : AMap WJob) : State := { s with host := { s.host with jobs := jobs } }

section
variable {s : State} {tag j : Nat} {w : WJob}

theorem State.writeAck_unknown (unknown : AMap.get? s.host.writes tag = none) (bad : Bool) : s.writeAck tag bad = s := by
  simp only [State.writeAck, unknown]
theorem State.writeAck_good (own : AMap.get? s.host.writes tag = some j) (held : AMap.get? s.host.jobs j = some w) : s.writeAck tag false
    = (pumpAll ((s.packetAcked tag).withJobs (AMap.set s.host.jobs j { w with unacked := w.unacked - 1 })).jobsGo).nextRead := by
  simp only [State.writeAck, own, held, Bool.false_eq_true, if_false]
  rfl
theorem State.writeAck_bad (own : AMap.get? s.host.writes tag = some j) (held : AMap.get? s.host.jobs j = some w) : s.writeAck tag true
    = (pumpAll ((((s.packetAcked tag).withJobs (AMap.erase s.host.jobs j)).cutJobs j).jobFailed w (Config.unlistedCause 8)).jobsGo).nextRead := by
  simp only [State.writeAck, own, held, if_true]
  rfl
end

section
variable {s : State} {j : Nat} {w : WJob}

theorem State.nextRead_none (idle : s.host.readQ = []) : s.nextRead = s := by
  have same : ({ s with host := { s.host with readQ := [] } } : State) = s := by rw [← idle]
  rw [State.nextRead, same, idle, List.foldl_nil]
theorem pumpAll_none (none_left : s.host.jobs = []) : pumpAll s = s := by
  simp only [pumpAll, none_left, AMap.keys, List.map_nil, List.foldl_nil]

variable (one : s.host.jobs = [(j, w)])
include one

theorem get?_of_one : AMap.get? s.host.jobs j = some w := by
  simp [one, AMap.get?]
theorem pumpAll_one : pumpAll s = pumpPackets 256 j s := by
  simp only [pumpAll, one, AMap.keys, List.map_cons, List.map_nil, List.foldl_cons, List.foldl_nil]
theorem jobsGo_one : s.jobsGo = s.jobStep j := by
  simp only [State.jobsGo, one, AMap.keys, List.map_cons, List.map_nil, List.foldl_cons, List.foldl_nil]
end

/-! What becomes of a job whose packets are all acknowledged (R388). -/

section
variable {s : State} {j : Nat} {w : WJob}

/-- A job with packets to go or under way stays as it is. -/
theorem State.jobStep_busy (held : AMap.get? s.host.jobs j = some w) (busy : w.todo ≠ [] ∨ w.unacked ≠ 0) : s.jobStep j = s := by
  have waits : (!w.todo.isEmpty || w.unacked ≠ 0) = true := by simpa [List.isEmpty_iff] using busy
  simp only [State.jobStep, held, waits, if_true]
theorem State.jobStep_absent (gone : AMap.get? s.host.jobs j = none) : s.jobStep j = s := by
  simp only [State.jobStep, gone]

variable (held : AMap.get? s.host.jobs j = some w) (empty : w.todo = []) (quiet : w.unacked = 0) (alone : w.after = [])
include held empty quiet alone

theorem State.jobStep_commits {c : Nat × List Byte} (commit : w.commit = some c) : s.jobStep j = pumpPackets 256 j
    (s.withJobs (AMap.set s.host.jobs j { w with todo := [c], commit := none, committing := true })) := by
  simp only [State.jobStep, held, empty, quiet, alone, commit]
  rfl
theorem State.jobStep_ends (last : w.commit = none) : s.jobStep j = (s.withJobs (AMap.erase s.host.jobs j)).jobDone w := by
  simp only [State.jobStep, held, empty, quiet, alone, last, List.any_nil, Bool.and_false]
  rfl
end

end Sys2Proof.Machine
end

section
/-! SUPPORT for O37. The three acknowledgements that no packet fails. -/

namespace Sys2Proof.Machine

/-- A single job's next packet goes out under tag 0 when no other is under way, and with it the job has no more to send. -/
theorem pumpPackets_last {s : State} {j : Nat} {w : WJob} {c : Nat × List Byte} (one : s.host.jobs = [(j, w)]) (todo : w.todo = [c])
    (idle : s.host.writes = []) (n : Nat) : pumpPackets (n + 1) j s = s.issuePacket j 0 w c.1 c.2 [] := by
  have tag : freeTag s.host.writes = some 0 := by
    rw [idle]
    rfl
  have sent : AMap.get? (s.issuePacket j 0 w c.1 c.2 []).host.jobs j = some { w with todo := [], unacked := w.unacked + 1 } :=
    (AMap.get?_set ..).trans (if_pos rfl)
  rw [pumpPackets_issues (get?_of_one one) todo tag, pumpPackets_done sent rfl]

theorem AMap.set_singleton {α : Type} (j : Nat) (v w : α) : AMap.set [(j, v)] j w = [(j, w)] := by
  simp [AMap.set]
theorem AMap.erase_singleton {α : Type} (j : Nat) (v : α) : AMap.erase [(j, v)] j = [] := by
  simp [AMap.erase]

section
variable {s : State} {tag j : Nat} {w : WJob} (own : s.host.writes = [(tag, j)]) (one : s.host.jobs = [(j, w)])
  (empty : w.todo = []) (single : w.unacked = 1) (alone : w.after = [])

/-- The block once a packet is acknowledged that was a job's only one under way. -/
def State.quietJob (s : State) (tag j : Nat) (w : WJob) : State := (s.packetAcked tag).withJobs [(j, { w with unacked := 0 })]

/-- A job that has come to its commit word, with nothing of it under way. -/
def WJob.committingTo (w : WJob) (c : Nat × List Byte) : WJob := { w with unacked := 0, todo := [c], commit := none, committing := true }

include own

theorem packetAcked_writes : (s.packetAcked tag).host.writes = [] :=
  (congrArg (AMap.erase · tag) own).trans (AMap.erase_singleton tag j)

include one single

theorem State.writeAck_one : s.writeAck tag false = (pumpAll ((s.quietJob tag j w).jobStep j)).nextRead := by
  rw [State.writeAck_good (by simp [own, AMap.get?]) (get?_of_one one), one, AMap.set_singleton, single]
  exact congrArg (fun u => (pumpAll u).nextRead) (jobsGo_one rfl)

include empty alone

/-- The last data packet is acknowledged: the commit word goes out (R388). -/
theorem State.writeAck_commits {c : Nat × List Byte} (commit : w.commit = some c) (idle : s.host.readQ = []) : s.writeAck tag false
    = ((s.packetAcked tag).withJobs [(j, w.committingTo c)]).issuePacket j 0 (w.committingTo c) c.1 c.2 [] := by
  have commits : (s.quietJob tag j w).jobStep j = pumpPackets 256 j ((s.packetAcked tag).withJobs [(j, w.committingTo c)]) :=
    (State.jobStep_commits (w := { w with unacked := 0 }) (get?_of_one rfl) empty rfl alone commit).trans
      (congrArg (fun js => pumpPackets 256 j ((s.packetAcked tag).withJobs js)) (AMap.set_singleton j _ _))
  rw [State.writeAck_one own one single, commits,
    pumpPackets_last (s := (s.packetAcked tag).withJobs [(j, w.committingTo c)]) (c := c) rfl rfl (packetAcked_writes own)]
  have sent : ((((s.packetAcked tag).withJobs [(j, w.committingTo c)]).issuePacket j 0 (w.committingTo c) c.1 c.2 []).host.jobs)
    = [(j, { w.committingTo c with todo := [], unacked := 1 })] := AMap.set_singleton j _ _
  rw [pumpAll_one sent, pumpPackets_done (get?_of_one sent) rfl]
  exact State.nextRead_none idle
/-- A job without a commit word to come ends with the acknowledgement of its last packet. -/
theorem State.writeAck_ends (last : w.commit = none) : s.writeAck tag false
    = (pumpAll (((s.packetAcked tag).withJobs []).jobDone { w with unacked := 0 })).nextRead := by
  have ends : (s.quietJob tag j w).jobStep j = _ := State.jobStep_ends (w := { w with unacked := 0 }) (get?_of_one rfl) empty rfl alone last
  rw [State.writeAck_one own one single, ends]
  exact congrArg (fun js => (pumpAll (((s.packetAcked tag).withJobs js).jobDone { w with unacked := 0 })).nextRead) (AMap.erase_singleton j _)
end

end Sys2Proof.Machine
end

section
/-! SUPPORT for O37. Writes begun while a ring halts take new numbers and are not over when the acknowledgement's jobs go on: the job that failed
does not come back (R388, R478). -/

namespace Sys2Proof.Machine

/-- Every job has a number from n on, with packets to go or under way. -/
structure BusyFrom (n : Nat) (s : State) : Prop where
  next : n ≤ s.host.nextJob
  jobs : ∀ i w, AMap.get? s.host.jobs i = some w → n ≤ i ∧ (w.todo ≠ [] ∨ w.unacked ≠ 0)
/-- The jobs are as before, and so is the number of the next one. -/
def SameJobs (s t : State) : Prop := t.host.jobs = s.host.jobs ∧ t.host.nextJob = s.host.nextJob

section
variable {s t u : State}

theorem SameJobs.refl (s : State) : SameJobs s s := ⟨rfl, rfl⟩
theorem SameJobs.trans (a : SameJobs s t) (b : SameJobs t u) : SameJobs s u := ⟨b.1.trans a.1, b.2.trans a.2⟩
theorem SameJobs.of_host (h : t.host = s.host) : SameJobs s t := ⟨congrArg HostS.jobs h, congrArg HostS.nextJob h⟩
theorem SameJobs.foldl {α : Type} {f : State → α → State} (h : ∀ s a, SameJobs s (f s a)) (l : List α) (s : State) :
    SameJobs s (l.foldl f s) := by
  induction l generalizing s with
  | nil => exact SameJobs.refl s
  | cons a l ih => exact (h s a).trans (ih _)
theorem BusyFrom.congr {n : Nat} (h : BusyFrom n s) (same : SameJobs s t) : BusyFrom n t := by
  obtain ⟨jobs, next⟩ := same
  exact ⟨next ▸ h.next, jobs ▸ h.jobs⟩
end

section
variable {n : Nat} {s : State}

theorem BusyFrom.ite {c : Prop} [Decidable c] {a b : State} (ha : BusyFrom n a) (hb : BusyFrom n b) : BusyFrom n (if c then a else b) := by
  split <;> assumption
theorem BusyFrom.foldl {α : Type} {f : State → α → State} (h : ∀ u a, BusyFrom n u → BusyFrom n (f u a)) (l : List α)
    (start : BusyFrom n s) : BusyFrom n (l.foldl f s) := by
  induction l generalizing s with
  | nil => exact start
  | cons a l ih => exact ih (h s a start)
end

theorem State.pick_host (s : State) (n : Nat) : (s.pick n).2.host = s.host := by
  unfold State.pick
  split <;> rfl

/-! Writes. -/

section
variable {n : Nat} {s : State} (h : BusyFrom n s)
include h

/-- A job put down with a number from n on, with packets to go or under way. -/
theorem BusyFrom.put {j : Nat} {w : WJob} {t : State} (new : n ≤ j) (busy : w.todo ≠ [] ∨ w.unacked ≠ 0)
    (jobs : t.host.jobs = AMap.set s.host.jobs j w) (next : s.host.nextJob ≤ t.host.nextJob) : BusyFrom n t := by
  refine ⟨h.next.trans next, fun i v there => ?_⟩
  rw [jobs, AMap.get?_set] at there
  split at there
  next same =>
    cases there
    exact ⟨same ▸ new, busy⟩
  next => exact h.jobs i v there
theorem BusyFrom.pumpPackets (m j : Nat) : BusyFrom n (pumpPackets m j s) := by
  refine pumpPackets_induct (P := BusyFrom n) (fun s w a bs rest t held _ h => ?_) m h
  exact h.put (h.jobs j w held).1 (.inr (Nat.succ_ne_zero _)) rfl le_rfl
/-- A structure with a commit word, its write begun. -/
theorem BusyFrom.write' (o : WOwner) (attr : Nat) (data : List (Nat × List Byte)) (c : Nat × List Byte) :
    BusyFrom n (s.write' o attr data (some c)) := by
  refine BusyFrom.pumpPackets (h.put h.next (.inl ?_) rfl (Nat.le_succ _)) _ _
  cases cut : data.flatMap fun d => cuts d.1 d.2 <;> simp
end

/-! The persistent window and the log. -/

section
variable {n : Nat} {s : State} (h : BusyFrom n s)
include h

theorem BusyFrom.putRows (what key : Nat) (bs : List Byte) : BusyFrom n (putRows s what key bs) := by
  unfold Machine.putRows
  split
  · refine BusyFrom.write' ?_ ..
    exact h.congr ⟨rfl, rfl⟩
  · exact h.congr ⟨rfl, rfl⟩
theorem BusyFrom.freeSeg (i : Nat) : BusyFrom n (freeSeg s i) := by
  refine BusyFrom.write' ?_ ..
  exact h.congr ⟨rfl, rfl⟩
theorem BusyFrom.takeSeg (role : Nat) : BusyFrom n (takeSeg s role) := by
  unfold Machine.takeSeg
  split
  · exact h
  · refine BusyFrom.write' ?_ ..
    exact h.congr ⟨rfl, rfl⟩
theorem BusyFrom.copyRows (what key : Nat) (bs : List Byte) : BusyFrom n (copyRows s what key bs) :=
  (BusyFrom.ite h (h.takeSeg 2)).putRows ..
theorem BusyFrom.copyOut (i : Nat) : BusyFrom n (copyOut s i) := by
  unfold Machine.copyOut
  dsimp only
  refine .foldl (fun u x hu => ?_) _ (.foldl (fun u x hu => ?_) _ (.foldl (fun u x hu => ?_) _ h))
  all_goals
    refine BusyFrom.copyRows ?_ ..
    exact hu.congr ⟨rfl, rfl⟩
theorem BusyFrom.compactMore (i : Nat) : BusyFrom n (compactMore s i) :=
  .ite h (.ite ((h.copyOut i).freeSeg i) (h.copyOut i))
theorem BusyFrom.compact (i : Nat) : BusyFrom n (compact s i) := by
  have closed : BusyFrom n (if s.persist.openStore = some i then { s with persist := { s.persist with openStore := none } } else s) :=
    .ite (h.congr (.of_host rfl)) h
  refine BusyFrom.compactMore (closed.congr ?_) i
  exact .of_host rfl
/-- With too few segments free, the oldest store one is compacted. -/
theorem BusyFrom.compactOldest (c : Prop) [Decidable c] :
    BusyFrom n (if c then match oldestSeg s 2 with | some i => Machine.compact s i | none => s else s) := by
  refine .ite ?_ h
  cases oldestSeg s 2 with
  | none => exact h
  | some i => exact h.compact i
theorem BusyFrom.openSeg (role : Nat) : BusyFrom n (openSeg s role) := by
  unfold Machine.openSeg
  dsimp only
  refine BusyFrom.takeSeg (BusyFrom.compactOldest (BusyFrom.ite ?_ h) _) role
  cases oldestSeg s 1 with
  | none => exact h
  | some i => exact h.freeSeg i
theorem BusyFrom.placeRows (what key : Nat) (bs : List Byte) : BusyFrom n (s.placeRows what key bs) :=
  (BusyFrom.ite h (h.openSeg _)).putRows ..
theorem BusyFrom.log (code severity engine : Nat) (d0 d1 d2 : W64) : BusyFrom n (s.log code severity engine d0 d1 d2) := by
  have placed (t : State) (same : SameJobs s t) (key : Nat) (bs : List Byte) : BusyFrom n ((t.pick 235).2.placeRows 1 key bs) :=
    ((h.congr same).congr (.of_host (State.pick_host t 235))).placeRows 1 key bs
  unfold State.log
  dsimp only
  split
  · refine placed _ ?_ _ _
    exact ⟨rfl, rfl⟩
  · refine BusyFrom.write' ?_ ..
    refine BusyFrom.congr (s := State.placeRows _ 1 _ _) (placed _ ?_ _ _) (.of_host rfl)
    exact ⟨rfl, rfl⟩
end

/-! What a halt does behind its log record begins no write. -/

section
variable {s : State}

theorem sendOn_host (s : State) (c : Nat) (w : Win) (op : Nat) (purp : Purp) (words : List W64) (payload : List Byte) (respLen : Nat) :
    (s.sendOn c w op purp words payload respLen).host = s.host := by
  cases w <;> simp [State.sendOn, State.pick_host]
theorem pumpFirm_host (n : Nat) (s : State) : (pumpFirm n s).host = s.host := by
  induction n generalizing s with
  | zero => rfl
  | succ n ih =>
    unfold pumpFirm
    split
    · rfl
    · dsimp only
      split
      · exact ih _
      · split
        · split
          · exact (ih _).trans (sendOn_host ..)
          · rfl
        · rfl
theorem State.firm_host (s : State) (op : Nat) (purp : Purp) (words : List W64) (payload : List Byte) (respLen : Nat) :
    (s.firm op purp words payload respLen).host = s.host := by
  unfold State.firm State.pumpFirms
  split
  · rfl
  · exact (pumpFirm_host ..).trans rfl
theorem dropPlaced_sameJobs (s : State) (i : Img) : SameJobs s (s.dropPlaced i) :=
  .foldl (fun u x => .of_host (by unfold State.bankAt; split <;> rfl)) i.placed s
theorem dropImage_sameJobs (s : State) (slot : Nat) : SameJobs s (s.dropImage slot) := by
  unfold State.dropImage
  refine .trans (?_ : SameJobs s (match s.img? slot with | some i => s.dropPlaced i | none => s)) ⟨rfl, rfl⟩
  split
  · exact dropPlaced_sameJobs ..
  · exact .refl s
theorem dropNewCairn_sameJobs (s : State) (id handle : Nat) : SameJobs s (s.dropNewCairn id handle) := by
  unfold State.dropNewCairn
  dsimp only
  split
  · split <;> exact ⟨rfl, rfl⟩
  · exact .refl s
theorem dropSave_sameJobs (s : State) (c : Cmd) : SameJobs s (s.dropSave c) := by
  unfold State.dropSave
  split
  · refine .trans ?_ (dropNewCairn_sameJobs ..)
    split
    · split
      · exact .of_host (State.firm_host ..)
      · exact .refl s
    · exact .refl s
  · exact .refl s
theorem unopen_sameJobs (s : State) (h : Nat) : SameJobs s (s.unopen h) := by
  unfold State.unopen
  split
  · split <;> exact ⟨rfl, rfl⟩
  · exact .refl s
theorem finish_sameJobs (s : State) (c : Cmd) (d : Done) : SameJobs s (s.finish c d) := .of_host (State.finish_host ..)
theorem cmdAbsent_sameJobs (s : State) (id status : Nat) : SameJobs s (s.cmdAbsent id status) := by
  unfold State.cmdAbsent
  split
  · exact .refl s
  · split
    · exact (finish_sameJobs ..).trans (unopen_sameJobs ..)
    · exact (dropImage_sameJobs ..).trans (finish_sameJobs ..)
    · exact (finish_sameJobs ..).trans (dropSave_sameJobs ..)
    · exact finish_sameJobs ..
theorem abort_sameJobs (s : State) (c : Cmd) (status : Nat) : SameJobs s (s.abort c status) := by
  unfold State.abort
  split
  next h _ =>
    refine .trans ?_ (finish_sameJobs ..)
    exact (SameJobs.of_host (State.setStream_host s h _)).trans ⟨rfl, rfl⟩
  next => exact cmdAbsent_sameJobs (s.dropEffs c.id) c.id status
theorem haltWork_sameJobs (s : State) (k : Nat) : SameJobs s (s.haltWork k) := by
  refine (SameJobs.foldl (fun s c => abort_sameJobs s c stHalted) _ s).trans
    ((SameJobs.foldl (fun s d => ?_) _ _).trans (SameJobs.foldl (fun s st => ?_) _ _))
  · exact (SameJobs.of_host (State.begin_host ..)).trans (finish_sameJobs ..)
  · rw [State.askCancel_eq]
    exact ⟨rfl, rfl⟩
end

theorem BusyFrom.haltRing {n : Nat} {s : State} (h : BusyFrom n s) (k addr : Nat) : BusyFrom n (s.haltRing k addr) := by
  cases halted : (s.ring k).halted with
  | true => simpa [State.haltRing, halted] using h
  | false =>
    have halts : s.haltRing k addr = (s.markHalted k addr).haltWork k := if_neg (by simp [halted])
    rw [halts]
    refine BusyFrom.congr (BusyFrom.log ?_ ..) (haltWork_sameJobs ..)
    exact h.congr ⟨rfl, rfl⟩

/-! The acknowledgement's jobs go on, and no busy one ends. -/

section
variable {n : Nat} {s : State} (h : BusyFrom n s)
include h

theorem BusyFrom.jobsGo : s.jobsGo = s := by
  refine List.foldlRecOn (motive := (· = s)) _ _ rfl fun u same j _ => ?_
  subst same
  cases held : AMap.get? u.host.jobs j with
  | none => exact State.jobStep_absent held
  | some w => exact State.jobStep_busy held (h.jobs j w held).2
theorem BusyFrom.pumpAll : BusyFrom n (pumpAll s) :=
  .foldl (fun _ j hu => hu.pumpPackets 256 j) _ h
theorem BusyFrom.nextRead : BusyFrom n s.nextRead := by
  refine .foldl (fun u x hu => ?_) _ (h.congr ⟨rfl, rfl⟩)
  unfold State.read
  split <;> exact hu.congr ⟨rfl, rfl⟩
/-- A job of an older number is not there. -/
theorem BusyFrom.absent {j : Nat} (old : j < n) : AMap.get? s.host.jobs j = none := by
  by_contra there
  obtain ⟨w, held⟩ := Option.ne_none_iff_exists'.mp there
  exact absurd (h.jobs j w held).1 (Nat.not_le.mpr old)
end

end Sys2Proof.Machine
end

section
/-! OBLIGATION O37. -/

namespace Sys2Proof.Machine

/-! A failed packet (R478). -/

section
variable {s : State} {tag j k : Nat} {w : WJob} (own : s.host.writes = [(tag, j)]) (one : s.host.jobs = [(j, w)])
  {irq : Bool} {n : Nat} (cpl : w.owner = .cpl k irq n) (old : j < s.host.nextJob)
include own one cpl old

/-- The only job's packet fails: its ring halts, and no structure gets a commit word. -/
theorem State.writeAck_fails : ((s.writeAck tag true).ring k).halted = true ∧ AMap.get? (s.writeAck tag true).host.jobs j = none := by
  let u := ((s.packetAcked tag).withJobs (AMap.erase s.host.jobs j)).cutJobs j
  have none_left : u.host.jobs = [] := by
    simp [u, State.cutJobs, State.withJobs, one, AMap.erase_singleton]
  have fails : u.jobFailed w (Config.unlistedCause 8) = u.haltRing k (Config.unlistedCause 8) := by
    simp only [State.jobFailed, cpl]
  have start : BusyFrom s.host.nextJob u := ⟨le_rfl, fun i v there => by simp [none_left, AMap.get?] at there⟩
  have busy := start.haltRing k (Config.unlistedCause 8)
  rw [State.writeAck_bad (by simp [own, AMap.get?]) (get?_of_one one), fails, busy.jobsGo]
  refine ⟨?_, busy.pumpAll.nextRead.absent old⟩
  rw [State.ring_of_front (State.nextRead_front _), State.ring_of_front (pumpAll_front _)]
  exact State.haltRing_halted u k _
end

section
variable {s : State} {tag j k : Nat} {w : WJob} (own : s.host.writes = [(tag, j)]) (one : s.host.jobs = [(j, w)])
  (empty : w.todo = []) (single : w.unacked = 1) (alone : w.after = [])
include own one empty single alone

/-- The acknowledgement of a completion entry's commit word: the entry counts as done on its ring. -/
theorem State.writeAck_entryDone {n : Nat} (cpl : w.owner = .cpl k false n) (last : w.commit = none) (idle : s.host.readQ = []) :
    s.writeAck tag false = ((s.packetAcked tag).withJobs []).setRing k fun r => { r with cqDone := r.cqDone + 1 } := by
  have done : ((s.packetAcked tag).withJobs []).jobDone { w with unacked := 0 }
      = ((s.packetAcked tag).withJobs []).setRing k fun r => { r with cqDone := r.cqDone + 1 } := by
    simp only [State.jobDone, cpl]
  rw [State.writeAck_ends own one empty single alone last, done, pumpAll_none rfl]
  exact State.nextRead_none idle
/-- With the acknowledgement of a trace record goes a read that waited for it (R475). -/
theorem State.writeAck_readGoes {p : Nat × Nat} {o : ROwner} {a n at_ g : Nat} (place : s.host.packets = [(tag, p)]) (trace : w.owner = .trace)
    (last : w.commit = none) (waits : s.host.readQ = [(o, a, n, at_)]) (free : freeTag s.host.reads = some g) :
    s.writeAck tag false = (({ (s.packetAcked tag).withJobs [] with
      host := { ((s.packetAcked tag).withJobs []).host with readQ := [], reads := AMap.set s.host.reads g o } } : State).emit (.hmRead a n g at_)) := by
  have done : ((s.packetAcked tag).withJobs []).jobDone { w with unacked := 0 } = (s.packetAcked tag).withJobs [] := by
    simp only [State.jobDone, trace]
  have clear : (s.packetAcked tag).host.packets = [] := (congrArg (AMap.erase · tag) place).trans (AMap.erase_singleton tag p)
  rw [State.writeAck_ends own one empty single alone last, done, pumpAll_none rfl, State.nextRead]
  have queue : ((s.packetAcked tag).withJobs []).host.readQ = [(o, a, n, at_)] := waits
  rw [queue, List.foldl_cons, List.foldl_nil]
  refine State.read_now free ?_
  exact congrArg (List.any · _) clear
end

/-! Interrupt messages (R108, R480). -/

/-- Bytes that stay in their 4 KiB are one packet. -/
theorem cuts_fitting {a : Nat} {bs : List Byte} (some_bytes : bs ≠ []) (fits : bs.length ≤ 4096 - a % 4096) : cuts a bs = [(a, bs)] := by
  have rest : bs.drop (4096 - a % 4096) = [] := List.drop_eq_nil_of_le fits
  have first : bs.take (4096 - a % 4096) = bs := List.take_of_length_le fits
  simp [cuts, cutWrite, some_bytes, rest, first]
/-- A message of one packet goes out at once under a free tag. -/
theorem State.write'_message {s : State} {a g : Nat} {bs : List Byte} (v attr : Nat) (packet : cuts a bs = [(a, bs)])
    (free : freeTag s.host.writes = some g) : (s.write' (.irqMsg v) attr [(a, bs)] none).out = s.out ++ [.hmWrite a g attr bs] := by
  let w : WJob := ⟨s.host.nextJob, .irqMsg v, attr, [(a, bs)], 0, none, false, [], []⟩
  let u : State := { s with host := { s.host with nextJob := s.host.nextJob + 1, jobs := AMap.set s.host.jobs s.host.nextJob w } }
  have begun : s.write' (.irqMsg v) attr [(a, bs)] none = pumpPackets 256 s.host.nextJob u := by
    simp only [State.write', State.write, List.flatMap_cons, List.flatMap_nil, List.append_nil, packet]
    rfl
  have held : AMap.get? u.host.jobs s.host.nextJob = some w := (AMap.get?_set ..).trans (if_pos rfl)
  have sent : AMap.get? (u.issuePacket s.host.nextJob g w a bs []).host.jobs s.host.nextJob = some { w with todo := [], unacked := w.unacked + 1 } :=
    (AMap.get?_set ..).trans (if_pos rfl)
  rw [begun, pumpPackets_issues held rfl free, pumpPackets_done sent rfl]
  rfl
theorem natToBytes_length (k n : Nat) : (natToBytes k n).length = k := by
  induction k generalizing n with
  | zero => rfl
  | succ k ih => simp [natToBytes, ih]

/-- A vector's last message is past its holdoff. -/
def vectorReady (s : State) (v : Nat) : Bool :=
  match AMap.get? s.host.irqLast v with | some b => beatLe (beatAdd b (holdoffOf s v)) s.beat | none => true
/-- The vector pending no more, its message counted from this beat. -/
def State.vectorSent (s : State) (v : Nat) : State :=
  { s with host := { s.host with irqPend := s.host.irqPend.filter (fun x => x != v), irqLast := AMap.set s.host.irqLast v s.beat } }
/-- The address of a vector's messages. -/
def vectorAddr (s : State) (v : Nat) : Nat := (AMap.getD s.regs.vecLo v 0#32).toNat + fld (AMap.getD s.regs.vecHi v 0#32) 24 0 * 2 ^ 32

section
variable {s : State} {v : Nat}

theorem vectorReady_iff (s : State) (v : Nat) :
    vectorReady s v = true ↔ ∀ b, AMap.get? s.host.irqLast v = some b → beatLe (beatAdd b (holdoffOf s v)) s.beat = true := by
  unfold vectorReady
  cases AMap.get? s.host.irqLast v <;> simp
theorem State.irqSend_eq (s : State) (v : Nat) : s.irqSend v =
    if !s.host.irqPend.contains v || !bit (AMap.getD s.regs.vecHi v 0#32) 31 || !vectorReady s v then s
    else (s.vectorSent v).write' (.irqMsg v) (s.hpAttr 16) [(vectorAddr s v, natToBytes 4 (AMap.getD s.regs.vecData v 0#32).toNat)] none := rfl
theorem State.irqSend_waits (h : v ∉ s.host.irqPend ∨ bit (AMap.getD s.regs.vecHi v 0#32) 31 = false ∨ ¬ vectorReady s v = true) :
    s.irqSend v = s := by
  rw [State.irqSend_eq, if_pos]
  simpa [or_assoc] using h
theorem State.irqSend_sends (pending : v ∈ s.host.irqPend) (enabled : bit (AMap.getD s.regs.vecHi v 0#32) 31 = true)
    (ready : vectorReady s v = true) : s.irqSend v
      = (s.vectorSent v).write' (.irqMsg v) (s.hpAttr 16) [(vectorAddr s v, natToBytes 4 (AMap.getD s.regs.vecData v 0#32).toNat)] none := by
  rw [State.irqSend_eq, if_neg]
  simp [pending, enabled, ready]
/-- A message to an aligned address is one packet. -/
theorem cuts_message (aligned : (AMap.getD s.regs.vecLo v 0#32).toNat % 4 = 0) (n : Nat) :
    cuts (vectorAddr s v) (natToBytes 4 n) = [(vectorAddr s v, natToBytes 4 n)] := by
  refine cuts_fitting (List.ne_nil_of_length_pos (by simp [natToBytes_length])) ?_
  rw [natToBytes_length, vectorAddr]
  omega
end

/-- Settles O37: the acknowledgements by the form of the one write under way, then credit and messages. -/
theorem hostWritesCreditAndInterrupts : Obligations.HostWritesCreditAndInterrupts := by
  refine ⟨fun tag bad j k w s => ⟨fun unknown => congrArg Host.Outcome.next (State.writeAck_unknown unknown bad),
    fun own one cpl empty single alone old idle => ⟨fun _ _ c commit => ?_, fun _ _ last => ?_, fun _ => ?_⟩,
    fun o a n at_ p g own place one trace empty single alone last waits free => ?_⟩, fun n s => rfl,
    fun v s => ⟨fun h => congrArg Host.Outcome.next (State.irqSend_waits (by rwa [vectorReady_iff])), fun pending enabled ready => ?_⟩⟩
  · refine ⟨_, congrArg Host.Outcome.next (State.writeAck_commits own one empty single alone commit idle), rfl, ?_, rfl,
      (AMap.get?_set ..).trans (if_pos rfl), AMap.set_singleton j _ _⟩
    exact congrArg (AMap.set · 0 j) (packetAcked_writes own)
  · refine ⟨_, congrArg Host.Outcome.next (State.writeAck_entryDone own one empty single alone cpl last idle), rfl,
      packetAcked_writes own, rfl, ?_, fun i other => ?_⟩
    · rw [State.setRing_ring, if_pos rfl]
      rfl
    · rw [State.setRing_ring, if_neg other]
      rfl
  · obtain ⟨halted, gone⟩ := State.writeAck_fails own one cpl old
    exact ⟨_, rfl, halted, gone⟩
  · exact ⟨_, congrArg Host.Outcome.next (State.writeAck_readGoes own one empty single alone place trace last waits free), rfl, rfl,
      (congrArg (AMap.erase · tag.toNat) place).trans (AMap.erase_singleton _ p), (AMap.get?_set ..).trans (if_pos rfl), rfl, rfl⟩
  · refine ⟨_, congrArg Host.Outcome.next (State.irqSend_sends pending enabled ((vectorReady_iff s _).mpr ready)), ?_, ?_, ?_,
      fun g aligned free => ?_, ?_, ?_, ?_, ?_⟩
    · simp [State.vectorSent]
    · simpa [State.vectorSent] using fun x there other => ⟨there, other⟩
    · simp [State.vectorSent]
    · exact State.write'_message _ _ (cuts_message aligned _) free
    all_goals simp [State.vectorSent]

end Sys2Proof.Machine
end

section
/-! The queue and the fuses over every step (R450, R451, R491): no command puts a command in, and fuses are programmed forward only. -/

namespace Sys2Proof.Machine

/-! The order in which fuses are programmed, with the key states legal throughout. -/

/-- From one fuse state to a later one: counts and key states rise, hashes of slots in use stay, and legal key states stay legal. -/
def FuseS.Advances (f g : FuseS) : Prop := f.before g ∧ (f.statesLegal = true → g.statesLegal = true)

theorem FuseS.Advances.refl (f : FuseS) : f.Advances f := ⟨f.before_refl, id⟩
theorem FuseS.Advances.of_eq {f g : FuseS} (h : g = f) : f.Advances g := h ▸ .refl f
theorem FuseS.Advances.trans {f g h : FuseS} (a : f.Advances g) (b : g.Advances h) : f.Advances h :=
  ⟨FuseS.before_trans a.1 b.1, b.2 ∘ a.2⟩

/-- An entry of a list set to a value no lower than it was. -/
theorem getD_le_getD_set {l : List Nat} {i v : Nat} (up : l.getD i 0 ≤ v) (k : Nat) : l.getD k 0 ≤ (l.set i v).getD k 0 := by
  simp only [List.getD_eq_getElem?_getD, List.getElem?_set] at up ⊢
  by_cases same : i = k
  · subst same
    by_cases inside : i < l.length
    · simpa [inside] using up
    · simp [inside]
  · simp [same]

/-- The hash of an empty slot programmed. -/
theorem FuseS.hashSet_advances {f : FuseS} {i : Nat} (unused : f.keyState.getD i 0 = 0) (v : Nat) :
    f.Advances { f with keyHash := f.keyHash.set i v } := by
  refine ⟨⟨fun _ => le_rfl, fun _ => le_rfl, fun n used => ?_⟩, id⟩
  have other : i ≠ n := fun e => used (e ▸ unused)
  simp [List.getD_eq_getElem?_getD, List.getElem?_set_ne other]
/-- A key state programmed to a higher legal one. -/
theorem FuseS.stateSet_advances {f : FuseS} {i v : Nat} (up : f.keyState.getD i 0 ≤ v) (legal : v = 1 ∨ v = 3) :
    f.Advances { f with keyState := f.keyState.set i v } := by
  refine ⟨⟨fun _ => le_rfl, getD_le_getD_set up, fun _ _ => rfl⟩, fun states => ?_⟩
  simp only [FuseS.statesLegal, List.all_eq_true] at states ⊢
  intro x hx
  obtain old | rfl := List.mem_or_eq_of_mem_set hx
  · exact states x old
  · obtain rfl | rfl := legal <;> rfl
/-- A rollback count programmed to a higher one. -/
theorem FuseS.rollbackSet_advances {f : FuseS} {i v : Nat} (up : f.rollback.getD i 0 ≤ v) : f.Advances { f with rollback := f.rollback.set i v } :=
  ⟨⟨getD_le_getD_set up, fun _ => le_rfl, fun _ _ => rfl⟩, id⟩

/-- FUSE_PROG, by the range its target lies in (R491). -/
theorem FuseS.prog_advances (f : FuseS) (target value : Nat) : f.Advances (f.prog target value) := by
  unfold FuseS.prog
  dsimp only
  split
  · split
    · exact hashSet_advances ‹_› value
    · exact .refl f
  · split
    · split
      · rename_i c
        simp only [Bool.or_eq_true, Bool.and_eq_true, decide_eq_true_eq] at c
        exact stateSet_advances (by omega) (by omega)
      · exact .refl f
    · split
      · split
        · rename_i c
          simp only [Bool.and_eq_true, decide_eq_true_eq] at c
          exact rollbackSet_advances c.1.le
        · exact .refl f
      · exact .refl f

/-! What every command keeps. -/

/-- The queue is as it was, and the fuses are as they were or further on. -/
def State.Ahead (s t : State) : Prop := t.pending = s.pending ∧ s.fuses.Advances t.fuses

theorem State.Ahead.refl (s : State) : s.Ahead s := ⟨rfl, .refl _⟩
theorem State.Ahead.trans {s t u : State} (a : s.Ahead t) (b : t.Ahead u) : s.Ahead u := ⟨b.1.trans a.1, a.2.trans b.2⟩
theorem State.Ahead.of_still {s t : State} (h : t.still = s.still) : s.Ahead t := ⟨congrArg Still.pending h, .of_eq (congrArg Still.fuses h)⟩
theorem State.Ahead.before_still {s t u : State} (a : s.Ahead t) (h : u.still = t.still) : s.Ahead u := a.trans (.of_still h)
theorem State.Ahead.after_still {s t u : State} (h : t.still = s.still) (a : t.Ahead u) : s.Ahead u := .trans (.of_still h) a
theorem State.Ahead.ite {c : Prop} [Decidable c] {s a b : State} (ha : s.Ahead a) (hb : s.Ahead b) : s.Ahead (if c then a else b) := by
  split <;> assumption

theorem State.Ahead.foldl {α : Type} {f : State → α → State} (h : ∀ u a, State.Ahead u (f u a)) (l : List α) (s : State) :
    s.Ahead (l.foldl f s) := by
  induction l generalizing s with
  | nil => exact .refl s
  | cons a l ih => exact (h s a).trans (ih _)

/-- An activation programs the count of its image's kind, where that is higher (R451). -/
theorem State.raiseRollback_ahead (s : State) (h : ImgHdr) : s.Ahead (s.raiseRollback h) := by
  unfold State.raiseRollback
  split
  · rename_i c
    rw [raises, Bool.and_eq_true, decide_eq_true_eq] at c
    have programmed : s.Ahead { s with fuses := { s.fuses with rollback := s.fuses.rollback.set (h.kind - 1) h.rbVersion } } :=
      ⟨rfl, FuseS.rollbackSet_advances c.2.le⟩
    exact programmed.before_still (State.log_still ..)
  · exact .refl s
theorem State.programNow_ahead (s : State) (slot : Nat) : s.Ahead (s.programNow slot) := by
  unfold State.programNow
  split
  · split
    · exact .of_still (Eq.trans rfl (State.refuseLate_still ..))
    · exact State.raiseRollback_ahead ..
  · exact .refl s
theorem State.applyEff_ahead (s : State) (e : Eff) : s.Ahead (s.applyEff e) := by
  by_cases programs : ∃ k, e = .program k
  · obtain ⟨k, rfl⟩ := programs
    exact State.programNow_ahead s k
  · exact .of_still (State.applyEff_still s e fun k same => programs ⟨k, same⟩)
theorem State.oneDue_ahead (s : State) (e : Eff) : s.Ahead (s.oneDue e) := by
  unfold State.oneDue
  split
  · exact .of_still (State.takeCancel_still ..)
  · split
    · rename_i taken
      exact .after_still (State.takeEff_still _ _ _ taken) (State.applyEff_ahead ..)
    · exact .refl s
theorem applyDue_ahead (n : Nat) (s : State) : s.Ahead (applyDue n s) := by
  induction n generalizing s with
  | zero => exact .refl s
  | succ n ih =>
    unfold applyDue
    split
    · exact (State.oneDue_ahead ..).trans (ih _)
    · exact .refl s
theorem State.endBeat_ahead (s : State) : s.Ahead s.endBeat := by
  rw [State.endBeat_eq]
  exact (State.Ahead.after_still s.endWork_still (applyDue_ahead ..)).before_still (State.afterDue_still _)

/-- Counts that were due are programmed where a stop takes hold instead of a beat (R433). -/
theorem State.settle_ahead (s : State) : s.Ahead s.settle := by
  unfold State.settle
  refine .foldl (fun u e => ?_) _ s
  split
  · exact State.programNow_ahead ..
  · exact .refl u
theorem State.stopAtEnd_ahead (s : State) : s.Ahead (s.runTo 4).settle.stopNow :=
  (State.Ahead.after_still (State.runTo_still s 4) (State.settle_ahead _)).before_still (State.stopNow_still _)
theorem State.boundary_ahead (s : State) (x : BeatIn) : s.Ahead (s.boundary x) := by
  unfold State.boundary
  refine .ite (.refl s) (.ite s.stopAtEnd_ahead ?_)
  exact (State.Ahead.after_still (State.runTo_still s 4) (State.endBeat_ahead _)).before_still
    ((State.openBeat_still ..).trans (State.nextBeat_still ..))

theorem State.regWrite_ahead (s : State) (off : Nat) (v : W32) : s.Ahead (s.regWrite off v) := by
  unfold State.regWrite
  split
  case h_1 => exact .of_still (State.askRingReset_still ..)
  all_goals exact ⟨rfl, .refl _⟩
/-- A reset clears neither, and its start steps write neither (R496). -/
theorem steps13_cleared_ahead (s : State) (por cold : Bool) (b : BootIn) (c : Bool) : s.Ahead ((s.cleared por cold).steps13 b c) :=
  State.Ahead.before_still (t := s.cleared por cold) ⟨rfl, .refl _⟩ (State.steps13_still _ b c)
theorem State.warmReset_ahead (s : State) (b : BootIn) : s.Ahead (s.warmReset b) := by
  unfold State.warmReset
  exact .ite ⟨rfl, .refl _⟩ (steps13_cleared_ahead ..)

/-- Every command, by what it is made of: most go through operations that write neither the queue nor the fuses (`still`); a register write, the
resets and the test port's instructions write other parts of the state; a boundary may program a count, and FUSE_PROG a fuse. -/
theorem exec_ahead (c : Instr) (s t : State) (h : exec c s = .next t) : s.Ahead t := by
  cases c with
  | registerWrite off v => cases h; exact State.regWrite_ahead ..
  | powerOnReset b => cases h; exact steps13_cleared_ahead ..
  | warmReset b => cases h; exact State.warmReset_ahead ..
  | beatBoundary x => cases h; exact State.boundary_ahead ..
  | blockStop => cases h; exact .ite s.stopAtEnd_ahead (.refl s)
  | ringResetEffect ring => cases h; exact .of_still (takeEff_match_still s _ (·.resetRingNow ring.toNat) (fun x => by simp))
  | streamCloseBoundary n => cases h; exact .of_still (takeEff_match_still s _ (·.closeNow n.toNat) (fun x => by simp))
  | imageActivationBoundary slot => cases h; exact .of_still (takeEff_match_still s _ (·.activateNow slot.toNat) (fun x => by simp))
  | matchShiftMove bank => cases h; exact .of_still (takeEff_match_still s _ (·.shiftNow bank.toNat) (fun x => by simp))
  | tileReloadInstall slot tile => cases h; exact .of_still (takeEff_match_still s _ (·.tileNow slot.toNat tile) (fun x => by simp))
  | mgmtTrap before o after => cases h; exact .of_still (still_foldl _ State.coreOp_still _ s)
  | rangeJoinTimeout =>
    cases h
    cases s.forming? with
    | none => exact .refl s
    | some c => exact .of_still (still_if (by simp) rfl)
  | relayTimeout peer =>
    cases h
    refine .ite ?_ (.refl s)
    cases splitShows s peer.toNat with
    | none => exact .refl s
    | some k => exact .of_still (State.splitFrom_still s peer.toNat k)
  | commandDeferred ring index =>
    cases h
    split
    · exact .of_still (by simp)
    · exact .refl s
  | bypass bits | idcode | testReset => cases h; exact ⟨rfl, .refl _⟩
  | mbist pins groups failed | mbistResult pins | scan pins | fuseRead pins target => cases h; exact .ite ⟨rfl, .refl _⟩ ⟨rfl, .refl _⟩
  | fuseProg pins value target => cases h; exact .ite ⟨rfl, FuseS.prog_advances ..⟩ ⟨rfl, .refl _⟩
  | _ =>
    cases h
    exact .of_still (by simp)

/-! The step. -/

theorem step_of_empty {s : State} (h : s.pending = []) : step s = .next s := by
  unfold step
  rw [h]
theorem step_of_front {s : State} {c : Instr} {rest : List Instr} (h : s.pending = c :: rest) : step s = exec c { s with pending := rest } := by
  unfold step
  rw [h]
/-- A step leaves the queue without its front, and the fuses no further back. -/
theorem step_ahead {s t : State} (h : step s = .next t) : t.pending = s.pending.tail ∧ s.fuses.Advances t.fuses := by
  cases queue : s.pending with
  | nil =>
    rw [step_of_empty queue] at h
    cases h
    exact ⟨queue, .refl _⟩
  | cons c rest =>
    rw [step_of_front queue] at h
    exact exec_ahead c { s with pending := rest } t h

/-- Settles O60: every command leaves the fuses or programs them forward (`exec_ahead`). -/
theorem fusesOnlyAdvance : Obligations.FusesOnlyAdvance := by
  intro s t legal h
  obtain ⟨-, before, keeps⟩ := step_ahead h
  exact ⟨before, keeps legal⟩

/-- Settles O2: the step takes the front of the queue, and no command writes the queue (`exec_ahead`). -/
theorem queueFirstInFirstOut : Obligations.QueueFirstInFirstOut := fun _ _ h => (step_ahead h).1

/-- Settles O1. -/
theorem frontCommandRuns : Obligations.FrontCommandRuns := fun _ _ _ => step_of_front rfl

/-- Settles O3: each row of the dispatch answers a next state. -/
theorem everyCommandAnswers : Obligations.EveryCommandAnswers := by
  intro c s
  cases c <;> exact ⟨_, rfl⟩

end Sys2Proof.Machine
end

section
/-! The registers that hold a value right after reset, and the size registers (R496, R498). -/

namespace Sys2Proof.Machine

/-- The size registers in terms of the number of ridges (Tables 0-2 and 17-4). -/
theorem regRead_sizes (s : State) : s.regRead 0x0010 = w32 [(s.ridges, 0), (s.ridges / 4, 8), (s.ridges / 2, 16), (s.ridges + 8, 24)]
    ∧ s.regRead 0x0014 = w32 [(16 * s.ridges, 0)] ∧ s.regRead 0x0018 = w32 [(64 * (16 * s.ridges), 0)]
    ∧ s.regRead 0x001C = w32 [(256 * (16 * s.ridges), 0)] ∧ s.regRead 0x0020 = w32 [(4096 * s.ridges, 0)]
    ∧ s.regRead 0x0024 = w32 [(2 * s.ridges, 0), (2048, 16)] ∧ s.regRead 0x0028 = w32 [(1024 * s.ridges, 0)] :=
  ⟨rfl, rfl, rfl, rfl, rfl, rfl, rfl⟩

/-- Settles O9: each size is a multiple or a part of the number of ridges, which the configuration gives. -/
theorem sizeRegistersFollowConfiguration : Obligations.SizeRegistersFollowConfiguration := by
  intro s f
  obtain ⟨ridges, cells, scells, lanes, weights, banks, streams⟩ := regRead_sizes s
  rw [ridges, cells, scells, lanes, weights, banks, streams]
  dsimp only [f, State.ridges]
  cases s.build.cfg with
  | c4 => decide
  | c8 => decide
  | c16 => decide

/-- Settles O8: the reset state's registers, by evaluation. -/
theorem resetRegisterValues : Obligations.ResetRegisterValues := by
  unfold Obligations.ResetRegisterValues
  decide

end Sys2Proof.Machine
end

section
/-! The resets: what a reset clears, and start steps 1 to 3 with what they find (R408, R412, R420, R421, R496). -/

namespace Sys2Proof.Machine

/-! A step that fails. -/

section
variable (s : State)

/-- In steps 1 and 2 the core cannot run: it is halted with MGMT_HALT and the fatal interrupt (R408, R421). -/
theorem State.failStart_core {step : Nat} (early : step ≤ 2) : s.failStart step = { s with
    start := { s.start with phase := .failed, failedStep := step, failCount := min 3 (s.start.failCount + 1), halted := true }
    integ := { s.integ with faults := s.integ.faults ||| 16 }
    host := { s.host with irqStatus := s.host.irqStatus ||| 1 } } := by
  have logs : (decide (step ≤ 3) || decide (step = 7)) = true := by simp; omega
  have safe : (decide (s.start.failCount ≥ 2) && decide (step ≥ 3)) = false := by simp; omega
  unfold State.failStart
  simp only [logs, safe, early]
  rfl
/-- A failed self-test is counted, and the third failure in a row enters safe mode (R421). -/
theorem State.failStart_selfTest : s.failStart 3 = { s with
    start := { s.start with
      phase := if 2 ≤ s.start.failCount then .safeMode else .failed, failedStep := 3, failCount := min 3 (s.start.failCount + 1), halted := false }
    host := { s.host with irqStatus := s.host.irqStatus ||| 1 } } := by
  by_cases third : 2 ≤ s.start.failCount <;> simp [State.failStart, third, State.raise]
end

/-! Steps 1 to 3. -/

/-- The cells that the self-test of a cold start finds faulty (Table 14-1). -/
def State.cellsFound (s : State) (b : BootIn) (cold : Bool) : List Nat := if cold then (b.badCells.filter fun c => c < s.cells).eraseDups else []
/-- The state with the fuses read and the cells found out of rotation. -/
def State.scanned (s : State) (b : BootIn) (cold : Bool) : State :=
  let bad := s.cellsFound b cold
  { s with start := { s.start with fuseCopy := s.fuses },
           integ := { s.integ with cellsOut := bad, faults := if bad.isEmpty then s.integ.faults else s.integ.faults ||| 128 } }

section
variable {s : State} {b : BootIn} {cold : Bool}

theorem State.steps13_noFuses (fuse : b.fuseOk = false) : s.steps13 b cold = s.failStart 1 := by
  simp [State.steps13, fuse]
theorem State.steps13_noRom (fuse : b.fuseOk = true) (rom : b.romOk = false) :
    s.steps13 b cold = ({ s with start := { s.start with fuseCopy := s.fuses } } : State).failStart 2 := by
  simp [State.steps13, fuse, rom]
section
variable (fuse : b.fuseOk = true) (rom : b.romOk = true)
include fuse rom
theorem State.steps13_tested : s.steps13 b cold = if cold && (b.otherBad || 16 < (s.cellsFound b cold).length) then (s.scanned b cold).failStart 3
    else { s.scanned b cold with start := { (s.scanned b cold).start with phase := .awaiting } } := by
  simp only [State.steps13, fuse, rom, Bool.not_true, Bool.false_eq_true, if_false]
  rfl
theorem State.steps13_bad (isCold : cold = true) (bad : b.otherBad = true ∨ 16 < (s.cellsFound b cold).length) :
    s.steps13 b cold = (s.scanned b cold).failStart 3 := by
  rw [State.steps13_tested fuse rom, if_pos (by simpa [isCold] using bad)]
theorem State.steps13_good (good : cold = false ∨ b.otherBad = false ∧ (s.cellsFound b cold).length ≤ 16) :
    s.steps13 b cold = { s.scanned b cold with start := { (s.scanned b cold).start with phase := .awaiting } } := by
  rw [State.steps13_tested fuse rom, if_neg ?_]
  obtain warm | ⟨clean, few⟩ := good
  · simp [warm]
  · simp [clean, few]
end

/-- Whether the self-test fails or not, the fuses are read and the cells found. -/
theorem State.steps13_scans (fuse : b.fuseOk = true) (rom : b.romOk = true) :
    (s.steps13 b cold).start.fuseCopy = s.fuses ∧ (s.steps13 b cold).integ.cellsOut = s.cellsFound b cold := by
  rw [State.steps13_tested fuse rom]
  split
  · rw [State.failStart_selfTest]
    exact ⟨rfl, rfl⟩
  · exact ⟨rfl, rfl⟩

/-- The start steps write the start registers, the integrity status and the interrupt status; whether the start is warm, and the epoch saved, are
not theirs to write. -/
theorem State.steps13_frame (s : State) (b : BootIn) (cold : Bool) : ∃ x i h, s.steps13 b cold = { s with start := x, integ := i, host := h }
    ∧ x.savedEpoch = s.start.savedEpoch ∧ x.warm = s.start.warm := by
  cases fuse : b.fuseOk with
  | false =>
    rw [State.steps13_noFuses fuse, State.failStart_core s (by decide)]
    exact ⟨_, _, _, rfl, rfl, rfl⟩
  | true =>
    cases rom : b.romOk with
    | false =>
      rw [State.steps13_noRom fuse rom, State.failStart_core _ (by decide)]
      exact ⟨_, _, _, rfl, rfl, rfl⟩
    | true =>
      rw [State.steps13_tested fuse rom]
      split
      · rw [State.failStart_selfTest]
        exact ⟨_, _, _, rfl, rfl, rfl⟩
      · exact ⟨_, _, _, rfl, rfl, rfl⟩
end

/-- Settles O4: the start steps on the cleared state. -/
theorem powerOnResetRunsSteps1To3 : Obligations.PowerOnResetRunsSteps1To3 := by
  intro b s
  obtain ⟨x, i, h, frame, epoch, warm⟩ := (s.cleared true true).steps13_frame b true
  refine ⟨_, rfl, ?_, ?_, ?_, ?_, ?_, ?_, fun fuse => ?_, fun fuse rom => ?_, fun fuse rom => ⟨?_, ?_, fun bad => ?_, fun clean few => ?_⟩⟩
  · rw [frame]; rfl
  · rw [frame]; rfl
  · rw [frame]; exact epoch
  · rw [frame]; exact warm
  · rw [frame]; exact ⟨rfl, rfl, rfl, rfl, rfl, rfl, rfl, rfl, rfl, rfl⟩
  · rw [frame]; exact ⟨rfl, rfl, rfl, rfl, rfl⟩
  · rw [State.steps13_noFuses fuse, State.failStart_core _ (by decide)]
    refine ⟨rfl, rfl, rfl, rfl, ?_, ?_⟩
    · exact Nat.zero_or 16
    · exact Nat.zero_or 1
  · rw [State.steps13_noRom fuse rom, State.failStart_core _ (by decide)]
    refine ⟨rfl, rfl, rfl, rfl, ?_, ?_⟩
    · exact Nat.zero_or 16
    · exact Nat.zero_or 1
  · exact (State.steps13_scans fuse rom).1
  · exact (State.steps13_scans fuse rom).2
  · rw [(State.steps13_scans fuse rom).2] at bad
    rw [State.steps13_bad fuse rom rfl bad, State.failStart_selfTest]
    exact ⟨rfl, rfl, rfl, rfl, Nat.zero_or 1⟩
  · rw [(State.steps13_scans fuse rom).2] at few
    rw [State.steps13_good fuse rom (.inr ⟨clean, few⟩)]
    exact ⟨rfl, rfl, rfl⟩

/-! The warm reset (R421, R490). -/

theorem State.warmReset_safe {s : State} (b : BootIn) (safe : s.start.phase = .safeMode) (warm : s.start.coldNext = false) :
    s.warmReset b = { s.cleared false false with start := { (s.cleared false false).start with phase := .safeMode, failCount := 3, warm := false } } := by
  simp [State.warmReset, safe, warm]
theorem State.warmReset_starts {s : State} (b : BootIn) (starts : s.start.phase ≠ .safeMode ∨ s.start.coldNext = true) :
    s.warmReset b = (s.cleared false s.start.coldNext).steps13 b s.start.coldNext := by
  refine if_neg ?_
  obtain other | cold := starts
  · simp [other]
  · simp [cold]
/-- Outside the start registers, the integrity status and the interrupt status, a warm reset leaves the cleared state, and SAVED_EPOCH is kept. -/
theorem State.warmReset_frame (s : State) (b : BootIn) : ∃ c x i h, s.warmReset b = { s.cleared false c with start := x, integ := i, host := h }
    ∧ x.savedEpoch = s.start.savedEpoch := by
  by_cases safe : s.start.phase = .safeMode ∧ s.start.coldNext = false
  · exact ⟨_, _, _, _, State.warmReset_safe b safe.1 safe.2, rfl⟩
  · have starts : s.start.phase ≠ .safeMode ∨ s.start.coldNext = true := by
      rw [← Bool.not_eq_false]
      exact not_and_or.mp safe
    obtain ⟨x, i, h, frame, epoch, -⟩ := (s.cleared false s.start.coldNext).steps13_frame b s.start.coldNext
    exact ⟨_, x, i, h, (State.warmReset_starts b starts).trans frame, epoch⟩

/-- Settles O5: in safe mode no start step runs; otherwise the start steps on the cleared state, which keeps the count of failures. -/
theorem warmResetKeepsFailCount : Obligations.WarmResetKeepsFailCount := by
  intro b s
  obtain ⟨c, x, i, h, frame, epoch⟩ := s.warmReset_frame b
  refine ⟨s.warmReset b, rfl, ?_, ?_, ?_, ?_, ?_, fun safe warm => ?_, fun starts => ?_⟩
  · rw [frame]; rfl
  · rw [frame]; rfl
  · rw [frame]; exact epoch
  · rw [frame]; exact ⟨rfl, rfl, rfl, rfl, rfl⟩
  · rw [frame]; exact ⟨rfl, rfl, rfl, rfl, rfl⟩
  · rw [State.warmReset_safe b safe warm]
    exact ⟨rfl, rfl, rfl⟩
  · rw [State.warmReset_starts b starts]
    refine ⟨?_, fun fuse => ?_, fun fuse rom => ?_, fun fuse rom warm => ?_, fun fuse rom cold bad => ?_⟩
    · obtain ⟨x, i, h, frame, -, kept⟩ := (s.cleared false s.start.coldNext).steps13_frame b s.start.coldNext
      rw [frame]
      exact kept
    · rw [State.steps13_noFuses fuse, State.failStart_core _ (by decide)]
      exact ⟨rfl, rfl, rfl, rfl⟩
    · rw [State.steps13_noRom fuse rom, State.failStart_core _ (by decide)]
      exact ⟨rfl, rfl, rfl, rfl⟩
    · rw [State.steps13_good fuse rom (.inl warm)]
      exact ⟨rfl, rfl, rfl⟩
    · rw [State.steps13_bad fuse rom cold (.inl bad), State.failStart_selfTest]
      exact ⟨rfl, rfl, rfl, rfl⟩

end Sys2Proof.Machine
end

section
/-! The test access port: what its instructions put out, and the fuses it programs and reads (R490, R491, Tables 16-20 and 16-21). -/

namespace Sys2Proof.Machine

/-- The bits behind the captured 0 leave one place later. -/
theorem boolsNat_cons_false (bs : List Bool) : boolsNat (false :: bs) = 2 * boolsNat bs := Nat.zero_add _
/-- Fields packed at their places, the low one first. -/
theorem pack_two (a b i j : Nat) : pack [(a, i), (b, j)] = a * 2 ^ i + b * 2 ^ j := by simp [pack]
theorem pack_four (a b c d i j k l : Nat) : pack [(a, i), (b, j), (c, k), (d, l)] = a * 2 ^ i + b * 2 ^ j + c * 2 ^ k + d * 2 ^ l := by
  simp [pack]
/-- The identification code, field by field (Table 16-21). -/
theorem idcode_eq (s : State) : idcode s = 1 + 2 * s.build.mfr.toNat + 2 ^ 12 * 0x1A20 + 2 ^ 28 * 2 := by
  rw [idcode, pack_four]
  omega
/-- An MBIST result, its two halves. -/
theorem pack_halves (a b : Nat) : pack [(a, 0), (b, 16)] = a + 2 ^ 16 * b := by
  rw [pack_two]
  omega

theorem actsNow_iff (p : TestPins) : actsNow p = true ↔ p.testMode = true ∧ p.resetAsserted = true := by simp [actsNow]

/-! A fuse target read after it was asked to be programmed (R491). -/

theorem getD_set_self {l : List Nat} {i : Nat} (inside : i < l.length) (v : Nat) : (l.set i v).getD i 0 = v := by
  simp [List.getD_eq_getElem?_getD, inside]

section
variable (f : FuseS) (value : Nat) {target : Nat}

/-- The hash of a slot in use is not programmed. -/
theorem FuseS.prog_usedHash (hash : target < 4) (used : f.keyState.getD target 0 ≠ 0) : f.prog target value = f := by
  rw [FuseS.prog, if_pos hash, if_neg used]
theorem FuseS.prog_hash (hash : target < 4) (unused : f.keyState.getD target 0 = 0) (inside : target < f.keyHash.length) :
    (f.prog target value).value target = value := by
  rw [FuseS.prog, if_pos hash, if_pos unused, FuseS.value, if_pos hash]
  exact getD_set_self inside value
theorem FuseS.prog_state (low : 4 ≤ target) (high : target < 8) (inside : target - 4 < f.keyState.length) :
    (f.prog target value).value target = if f.value target = 0 ∧ value % 4 = 1 ∨ f.value target = 1 ∧ value % 4 = 3 then value % 4
      else f.value target := by
  have reads (g : FuseS) : g.value target = g.keyState.getD (target - 4) 0 := by
    rw [FuseS.value, if_neg (by omega), if_pos high]
  simp only [reads, FuseS.prog, if_neg (show ¬ target < 4 by omega), if_pos high, Bool.or_eq_true, Bool.and_eq_true, decide_eq_true_eq]
  split
  · exact getD_set_self inside _
  · rfl
theorem FuseS.prog_rollback (low : 0x11 ≤ target) (high : target ≤ 0x1A) (inside : target - 0x11 < f.rollback.length) :
    (f.prog target value).value target = if f.value target < value % 128 ∧ value % 128 ≤ 64 then value % 128 else f.value target := by
  have reads (g : FuseS) : g.value target = g.rollback.getD (target - 0x11) 0 := by
    rw [FuseS.value, if_neg (by omega), if_neg (by omega), if_pos (by simp [low, high])]
  simp only [reads, FuseS.prog, if_neg (show ¬ target < 4 by omega), if_neg (show ¬ target < 8 by omega), low, high, decide_true, Bool.and_true,
    if_true, Bool.and_eq_true, decide_eq_true_eq]
  split
  · exact getD_set_self inside _
  · rfl
end

/-! The instructions. -/

/-- An instruction that needs pins acts as BYPASS without them (R490). -/
theorem private_asBypass {pins : TestPins} {groups failed : BitVec 16} {value : BitVec 256} {target : BitVec 8} (s : State)
    (off : ¬ (pins.testMode = true ∧ pins.resetAsserted = true)) {c : Instr} {k : Nat}
    (named : (c, k) ∈ [(.mbist pins groups failed, 0x10), (.mbistResult pins, 0x11), (.scan pins, 0x20), (.fuseProg pins value target, 0x30),
      (.fuseRead pins target, 0x31)]) : exec c s = .next (s.asBypass k) := by
  rw [← actsNow_iff] at off
  simp only [List.mem_cons, Prod.mk.injEq, List.not_mem_nil, or_false] at named
  rcases named with ⟨rfl, rfl⟩ | ⟨rfl, rfl⟩ | ⟨rfl, rfl⟩ | ⟨rfl, rfl⟩ | ⟨rfl, rfl⟩
  all_goals exact congrArg Host.Outcome.next (if_neg off)

section
variable {pins : TestPins} (s : State) (on : pins.testMode = true ∧ pins.resetAsserted = true)
include on

theorem exec_mbist (groups failed : BitVec 16) : exec (.mbist pins groups failed) s = .next
    (s.setTest fun t => { t with ir := 0x10, groupsDone := groups, groupsFailed := failed &&& groups }).forceCold :=
  congrArg Host.Outcome.next (if_pos ((actsNow_iff pins).mpr on))
theorem exec_mbistResult : exec (.mbistResult pins) s = .next
    ((s.setTest fun t => { t with ir := 0x11 }).emit (.tdo 32 (pack [(s.test.groupsDone.toNat, 0), (s.test.groupsFailed.toNat, 16)]))) :=
  congrArg Host.Outcome.next (if_pos ((actsNow_iff pins).mpr on))
theorem exec_scan : exec (.scan pins) s = .next (s.setTest fun t => { t with ir := 0x20 }).forceCold :=
  congrArg Host.Outcome.next (if_pos ((actsNow_iff pins).mpr on))
theorem exec_fuseProg (value : BitVec 256) (target : BitVec 8) : exec (.fuseProg pins value target) s = .next
    { (s.setTest fun t => { t with ir := 0x30, fuseTarget := target }) with fuses := s.fuses.prog target.toNat value.toNat } :=
  congrArg Host.Outcome.next (if_pos ((actsNow_iff pins).mpr on))
theorem exec_fuseRead (target : BitVec 8) : exec (.fuseRead pins target) s = .next
    ((s.setTest fun t => { t with ir := 0x31, fuseTarget := target }).emit (.tdo 264 (pack [(s.fuses.value target.toNat, 0), (target.toNat, 256)]))) :=
  congrArg Host.Outcome.next (if_pos ((actsNow_iff pins).mpr on))
end

/-- Settles O59: each instruction's arm with its pins or without, and the fuse target read back by its range. -/
theorem testPortInstructions : Obligations.TestPortInstructions := by
  intro pins bits groups failed value target s acts
  refine ⟨?_, ?_, rfl, fun c k named off => private_asBypass s off named, fun on => ⟨?_, ?_, ?_, ?_, ?_⟩⟩
  · exact congrArg (fun n => Host.Outcome.next ((s.setTest fun t => { t with ir := 0xFF }).emit (.tdo (bits.length + 1) n))) (boolsNat_cons_false bits)
  · exact congrArg (fun n => Host.Outcome.next ((s.setTest fun t => { t with ir := 0x01 }).emit (.tdo 32 n))) (idcode_eq s)
  · exact ⟨_, exec_mbist s on groups failed, rfl, rfl, rfl, rfl, rfl⟩
  · rw [exec_mbistResult s on, pack_halves]
    rfl
  · exact ⟨_, exec_scan s on, rfl, rfl, rfl, rfl⟩
  · exact ⟨_, exec_fuseProg s on value target, rfl, rfl, rfl, rfl, FuseS.prog_hash _ _, FuseS.prog_usedHash _ _,
      FuseS.prog_state _ _, FuseS.prog_rollback _ _⟩
  · exact ⟨_, exec_fuseRead s on target, rfl, rfl, rfl, rfl⟩

end Sys2Proof.Machine
end

section
/-! TRACE_CTL, COUNTER_CTL, LOG_FLUSH and HANG_REPORT (R445, R455, R460, R463, R464). -/

namespace Sys2Proof.Machine

/-! Writes and the persistent window leave the management state. -/

theorem mgmt_foldl {α : Type} {f : State → α → State} (h : ∀ s a, (f s a).mgmt = s.mgmt) (l : List α) (s : State) : (l.foldl f s).mgmt = s.mgmt := by
  induction l generalizing s with
  | nil => rfl
  | cons a l ih => exact (ih _).trans (h s a)
theorem mgmt_if {c : Prop} [Decidable c] {s a b : State} (ha : a.mgmt = s.mgmt) (hb : b.mgmt = s.mgmt) : (if c then a else b).mgmt = s.mgmt := by
  split <;> assumption
theorem pumpPackets_mgmt (n j : Nat) (s : State) : (pumpPackets n j s).mgmt = s.mgmt := by
  induction n generalizing s with
  | zero => rfl
  | succ n ih =>
    unfold pumpPackets
    split
    · rfl
    · split
      · exact (ih _).trans rfl
      · rfl
theorem State.write'_mgmt (s : State) (owner : WOwner) (attr : Nat) (data : List (Nat × List Byte)) (commit : Option (Nat × List Byte)) :
    (s.write' owner attr data commit).mgmt = s.mgmt :=
  (pumpPackets_mgmt ..).trans rfl
theorem State.pick_mgmt (s : State) (n : Nat) : (s.pick n).2.mgmt = s.mgmt := by
  unfold State.pick
  split <;> rfl
theorem putRows_mgmt (s : State) (what key : Nat) (bs : List Byte) : (putRows s what key bs).mgmt = s.mgmt := by
  unfold putRows
  split
  · exact (State.write'_mgmt ..).trans rfl
  · rfl
theorem freeSeg_mgmt (s : State) (i : Nat) : (freeSeg s i).mgmt = s.mgmt := (State.write'_mgmt ..).trans rfl
theorem takeSeg_mgmt (s : State) (role : Nat) : (takeSeg s role).mgmt = s.mgmt := by
  unfold takeSeg
  split
  · rfl
  · exact (State.write'_mgmt ..).trans rfl
theorem copyRows_mgmt (s : State) (what key : Nat) (bs : List Byte) : (copyRows s what key bs).mgmt = s.mgmt :=
  (putRows_mgmt ..).trans (mgmt_if rfl (takeSeg_mgmt ..))
theorem copyOut_mgmt (s : State) (i : Nat) : (copyOut s i).mgmt = s.mgmt := by
  unfold copyOut
  dsimp only
  refine (mgmt_foldl (fun u n => ?_) _ _).trans ((mgmt_foldl (fun u a => ?_) _ _).trans (mgmt_foldl (fun u p => ?_) _ _))
  all_goals exact (copyRows_mgmt ..).trans rfl
theorem compactMore_mgmt (s : State) (i : Nat) : (compactMore s i).mgmt = s.mgmt :=
  mgmt_if rfl ((mgmt_if (freeSeg_mgmt ..) rfl).trans (copyOut_mgmt s i))
theorem compact_mgmt (s : State) (i : Nat) : (compact s i).mgmt = s.mgmt :=
  (compactMore_mgmt ..).trans (mgmt_if (c := s.persist.openStore = some i) rfl rfl)
theorem openSeg_mgmt (s : State) (role : Nat) : (openSeg s role).mgmt = s.mgmt := by
  unfold openSeg
  dsimp only
  refine (takeSeg_mgmt ..).trans ((mgmt_if ?_ rfl).trans (mgmt_if ?_ rfl))
  · split
    · exact compact_mgmt ..
    · rfl
  · split
    · exact freeSeg_mgmt ..
    · rfl
theorem State.placeRows_mgmt (s : State) (what key : Nat) (bs : List Byte) : (s.placeRows what key bs).mgmt = s.mgmt :=
  (putRows_mgmt ..).trans (mgmt_if rfl (openSeg_mgmt ..))

/-! What a record, a count and a completion leave of the management state. -/

/-- A log record takes the next number. -/
theorem State.log_logSeq (s : State) (code severity engine : Nat) (d0 d1 d2 : W64) :
    (s.log code severity engine d0 d1 d2).mgmt.logSeq = (s.mgmt.logSeq + 1) % 2 ^ 32 := by
  rw [State.log]
  generalize 2 ^ 32 = numbers
  dsimp only
  have placed (u : State) (bs : List Byte) : ((u.pick 235).2.placeRows 1 s.mgmt.logSeq bs).mgmt.logSeq = u.mgmt.logSeq :=
    congrArg MgmtS.logSeq ((State.placeRows_mgmt ..).trans (State.pick_mgmt ..))
  split
  · exact placed ..
  · rw [State.write'_mgmt]
    split
    · exact placed ..
    · exact placed ..

theorem State.count_logSeq (s : State) (i n : Nat) : (s.count i n).mgmt.logSeq = s.mgmt.logSeq := rfl
/-- The log's next number and whether trace and counter samples are on. -/
def MgmtS.marks (m : MgmtS) : Nat × Bool × Bool := (m.logSeq, m.traceOn, m.cntOn)

theorem State.trace_marks (s : State) (engine event tag layerId opId policy stream : Nat) (detail : W64) :
    (s.trace engine event tag layerId opId policy stream detail).mgmt.marks = s.mgmt.marks := by
  unfold State.trace
  split
  · split <;> rfl
  · rfl
theorem countRefusal_marks (s : State) (st : Nat) : (countRefusal s st).mgmt.marks = s.mgmt.marks := by
  unfold countRefusal
  split
  · rfl
  · split <;> rfl
theorem State.finish_marks (s : State) (c : Cmd) (r : Done) : (s.finish c r).mgmt.marks = s.mgmt.marks :=
  (State.trace_marks ..).trans (countRefusal_marks ..)
theorem State.finish_logSeq (s : State) (c : Cmd) (r : Done) : (s.finish c r).mgmt.logSeq = s.mgmt.logSeq := congrArg (·.1) (State.finish_marks s c r)
theorem started_marks (s : State) (d : Desc) : (s.started d).mgmt.marks = s.mgmt.marks := State.trace_marks ..
theorem started_logSeq (s : State) (d : Desc) : (s.started d).mgmt.logSeq = s.mgmt.logSeq := congrArg (·.1) (started_marks s d)
theorem finish_started_marks (s : State) (d : Desc) (r : Done) : ((s.started d).finish (s.startedCmd d) r).mgmt.marks = s.mgmt.marks :=
  (State.finish_marks ..).trans (started_marks s d)
theorem started_unflushed (s : State) (d : Desc) (n : Nat) : unflushed (s.started d) n = unflushed s n :=
  congrArg (fun p : PersistS => p.logs.any fun l => !l.committed && l.seq < n) (State.begin_persist s d)

/-! The wait-for graph in the log. -/

/-- The records of the edges are one for each three words. -/
theorem edgeLogs_logSeq (s : State) (f : Nat) (ws : List W64) (room : ws.length < f) :
    (edgeLogs s f ws).mgmt.logSeq ≡ s.mgmt.logSeq + cdiv ws.length 3 [MOD 2 ^ 32] := by
  induction f generalizing s ws with
  | zero => exact absurd room (Nat.not_lt_zero _)
  | succ f ih =>
    unfold edgeLogs
    cases ws with
    | nil => exact .rfl
    | cons w ws =>
      have fewer : ((w :: ws).drop 3).length < f := by simp only [List.length_drop, List.length_cons] at *; omega
      have count : 1 + cdiv ((w :: ws).drop 3).length 3 = cdiv (w :: ws).length 3 := by
        simp only [List.length_drop, List.length_cons, cdiv]
        omega
      rw [if_neg (by simp), ← count, ← Nat.add_assoc]
      refine (ih _ _ fewer).trans (Nat.ModEq.add_right _ ?_)
      rw [State.log_logSeq]
      exact Nat.mod_modEq ..
/-- A head, the records of the edges and a foot. -/
theorem State.writeGraph_logSeq (s : State) (hung : Nat) (roots : List Nat) :
    (s.writeGraph hung roots).2.mgmt.logSeq = (s.mgmt.logSeq + 2 + cdiv (s.writeGraph hung roots).1 3) % 2 ^ 32 := by
  have logs (u : State) (ws : List W64) (head : u.mgmt.logSeq = (s.mgmt.logSeq + 1) % 2 ^ 32) :
      (edgeLogs u (ws.length + 1) ws).mgmt.logSeq + 1 ≡ s.mgmt.logSeq + 2 + cdiv ws.length 3 [MOD 2 ^ 32] := by
    have started : u.mgmt.logSeq ≡ s.mgmt.logSeq + 1 [MOD 2 ^ 32] := head ▸ Nat.mod_modEq ..
    have all := ((edgeLogs_logSeq u _ ws (Nat.lt_succ_self _)).trans (started.add_right _)).add_right 1
    rwa [show s.mgmt.logSeq + 1 + cdiv ws.length 3 + 1 = s.mgmt.logSeq + 2 + cdiv ws.length 3 by omega] at all
  rw [State.writeGraph, State.count_logSeq, State.log_logSeq, ← List.length_map (f := edgeWord s (waitEdges s))]
  exact logs _ _ (State.log_logSeq ..)
/-- As many edges as there are, at most 4,096. -/
theorem State.writeGraph_number (s : State) (hung : Nat) (roots : List Nat) :
    (s.writeGraph hung roots).1 = min 4096 (bfsEdges (waitEdges s) ((waitEdges s).length + 1) roots roots).length := by
  rw [State.writeGraph]
  exact List.length_take ..
/-- The part that logging leaves has the streams, the stores and the rest in it. -/
theorem frames_of_front {s u : State} (h : u.front = s.front) :
    SameStreams s u ∧ SameStores s u ∧ SameTenants s u ∧ SameStack s u ∧ SameControl s u := by
  simp only [State.front, Front.mk.injEq] at h
  simp only [SameStreams, SameStores, SameTenants, SameStack, SameControl, h, and_self]

/-! The commands. -/

section
variable {d : Desc} {s : State} (ok : s.accepts d = true)
include ok

theorem exec_traceCtl (op : d.opcode = 0x30) : exec (.traceCtl d) s = .next (traceBody d (s.started d) (s.startedCmd d)) :=
  congrArg Host.Outcome.next (runDesc_accepts ok (by simp [op]) _)
theorem exec_counterCtl (op : d.opcode = 0x31) : exec (.counterCtl d) s = .next (counterBody d (s.started d) (s.startedCmd d)) :=
  congrArg Host.Outcome.next (runDesc_accepts ok (by simp [op]) _)
theorem exec_logFlush (op : d.opcode = 0x32) : exec (.logFlush d) s = .next (flushBody d (s.started d) (s.startedCmd d)) :=
  congrArg Host.Outcome.next (runDesc_accepts ok (by simp [op]) _)
theorem exec_hangReport (op : d.opcode = 0x3A) : exec (.hangReport d) s = .next (hangBody d (s.started d) (s.startedCmd d)) :=
  congrArg Host.Outcome.next (runDesc_accepts ok (by simp [op]) _)
end

theorem SameStores.trans {s t u : State} (a : SameStores s t) (b : SameStores t u) : SameStores s u := by
  simp only [SameStores] at a b ⊢
  simp only [b, a, and_self]
theorem SameControl.trans {s t u : State} (a : SameControl s t) (b : SameControl t u) : SameControl s u := by
  simp only [SameControl] at a b ⊢
  simp only [b, a, and_self]
/-- A completion, from a state the start's but for records and traces, keeps the frames. -/
theorem frames_finish {s u : State} {d : Desc} (h : u.front = (s.started d).front) (c : Cmd) (r : Done) :
    SameStreams s (u.finish c r) ∧ SameStores s (u.finish c r) ∧ SameTenants s (u.finish c r) ∧ SameStack s (u.finish c r)
      ∧ SameControl s (u.finish c r) := by
  obtain ⟨streams, stores, tenants, stack, control⟩ := frames_of_front h
  exact ⟨((sameStreams_started s d).trans streams).finish c r, ((sameStores_started s d).trans stores).finish c r,
    SameTenants.finish c r (tenants.trans (sameTenants_started s d)), SameStack.finish c r (stack.trans (sameStack_started s d)),
    SameControl.finish c r ((sameControl_started s d).trans control)⟩

/-- LOG_FLUSH waits for the records not committed, if there are any. -/
theorem flushBody_started (s : State) (d : Desc) :
    flushBody d (s.started d) (s.startedCmd d) = if unflushed s s.mgmt.logSeq then (s.started d).keep (s.startedCmd d) (.flush s.mgmt.logSeq)
      else (s.started d).finish (s.startedCmd d) { status := stOK } := by
  unfold flushBody
  rw [started_logSeq, started_unflushed]

/-- HANG_REPORT completes with the number of edges the graph has in the log. -/
theorem hangBody_eq (d : Desc) (s : State) (c : Cmd) :
    hangBody d s c = (s.writeGraph (anyNode (Config.unlistedCause 5)) ((waitEdges s).map (·.1)).eraseDups).2.finish c
      { status := stOK, resA := (s.writeGraph (anyNode (Config.unlistedCause 5)) ((waitEdges s).map (·.1)).eraseDups).1 } := by
  rw [hangBody]
/-- A completion, from a state the start's but for records and traces, keeps the log's next number too. -/
theorem completes_of_front {s u : State} {d : Desc} {m : Nat} (front : u.front = (s.started d).front) (seq : u.mgmt.logSeq = m) (r : Done) :
    Completes s (u.finish (s.startedCmd d) r) d r ∧ (u.finish (s.startedCmd d) r).mgmt.logSeq = m
      ∧ SameStreams s (u.finish (s.startedCmd d) r) ∧ SameStores s (u.finish (s.startedCmd d) r) ∧ SameTenants s (u.finish (s.startedCmd d) r)
      ∧ SameStack s (u.finish (s.startedCmd d) r) ∧ SameControl s (u.finish (s.startedCmd d) r) :=
  ⟨completes_of_started _ (congrArg Front.cmds front) (congrArg Front.rings front), (State.finish_logSeq ..).trans seq, frames_finish front _ _⟩

/-- Settles O46: the first two schedule their effect, LOG_FLUSH asks for the records not committed, and HANG_REPORT logs a head, the edges three
to a record, and a foot. -/
theorem traceCountersLogAndHangReport : Obligations.TraceCountersLogAndHangReport := by
  intro d s u ok
  refine ⟨fun op => ?_, fun op => ?_, fun op => ⟨fun done => ?_, fun open_ => ?_⟩, fun op => ?_⟩
  · refine ⟨_, exec_traceCtl ok op, completes_started .., ?_, congrArg (·.2.1) (finish_started_marks s d _), frames_finish rfl _ _⟩
    simp [traceBody, State.at, State.nextB, State.beat]
  · refine ⟨_, exec_counterCtl ok op, completes_started .., ?_, congrArg (·.2.2) (finish_started_marks s d _), frames_finish rfl _ _⟩
    simp [counterBody, State.at, State.nextB, State.beat]
  · refine ⟨_, exec_logFlush ok op, ?_⟩
    rw [flushBody_started, done, if_neg (by simp)]
    exact ⟨completes_started .., (State.finish_persist ..).trans (State.begin_persist ..)⟩
  · refine ⟨_, exec_logFlush ok op, ?_⟩
    rw [flushBody_started, open_, if_pos rfl]
    exact ⟨runs_keep _ rfl (startedCmd_mem s d), State.begin_persist ..⟩
  · intro es roots n
    refine ⟨_, exec_hangReport ok op, ?_⟩
    have number : (u.writeGraph (anyNode (Config.unlistedCause 5)) roots).1 = n := State.writeGraph_number ..
    rw [hangBody_eq, number]
    refine completes_of_front (State.writeGraph_front ..) ?_ _
    rw [State.writeGraph_logSeq, number, started_logSeq]

end Sys2Proof.Machine
end

section
/-! STOP, RESUME and the boundaries of a stop (R433, R434, R435, R489). -/

namespace Sys2Proof.Machine

/-! The commands. -/

section
variable {d : Desc} {s : State} (ok : s.accepts d = true)
include ok

theorem exec_stop (op : d.opcode = 0x38) : exec (.stop d) s = .next (stopBody d (s.started d) (s.startedCmd d)) :=
  congrArg Host.Outcome.next (runDesc_accepts ok (by simp [op]) _)
theorem exec_resume (op : d.opcode = 0x39) : exec (.resume d) s = .next (resumeStopBody d (s.started d) (s.startedCmd d)) :=
  congrArg Host.Outcome.next (runDesc_accepts ok (by simp [op]) _)
end

theorem started_resumeB (s : State) (d : Desc) : (s.started d).resumeB = s.resumeB := by
  simp [State.resumeB, State.atEnd, State.nextB, State.beat]
/-- STOP completes with the coming boundary and holds from there on. -/
theorem stopBody_started (s : State) (d : Desc) : stopBody d (s.started d) (s.startedCmd d) =
    ({ s.started d with clk := { s.clk with stopCmd := true } } : State).finish (s.startedCmd d) { status := stOK, resB := beat48 s.nextB } := by
  rw [stopBody, started_nextB, started_clk]
/-- RESUME of a stopped block completes with the beat it resumes with. -/
theorem resumeStopBody_stopped {s : State} (stopped : s.clk.stopped = true) (d : Desc) : resumeStopBody d (s.started d) (s.startedCmd d) =
    ({ s.started d with clk := { s.clk with stopCmd := false } } : State).finish (s.startedCmd d) { status := stOK, resB := beat48 s.resumeB } := by
  rw [resumeStopBody, started_clk, if_pos stopped, started_resumeB]
theorem resumeStopBody_running {s : State} (running : s.clk.stopped = false) (d : Desc) : resumeStopBody d (s.started d) (s.startedCmd d) =
    (s.started d).finish (s.startedCmd d) { status := stOK } := by
  rw [resumeStopBody, started_clk, if_neg (by simp [running])]

/-! The boundary of a stop. -/

theorem State.refuseLate_tenants (s : State) (cmd status : Nat) : (s.refuseLate cmd status).2.tenants = s.tenants := by
  unfold State.refuseLate
  dsimp only
  split <;> simp
theorem State.raiseRollback_tenants (s : State) (h : ImgHdr) : (s.raiseRollback h).tenants = s.tenants := by
  unfold State.raiseRollback
  split <;> simp
theorem State.programNow_tenants (s : State) (slot : Nat) : (s.programNow slot).tenants = s.tenants := by
  unfold State.programNow
  split
  · split
    · exact State.refuseLate_tenants ..
    · exact State.raiseRollback_tenants ..
  · rfl
theorem State.settle_tenants (s : State) : s.settle.tenants = s.tenants := by
  refine tenants_foldl _ (fun s e => ?_) _ _
  split
  · exact (State.programNow_tenants ..).trans rfl
  · rfl
theorem State.stopNow_tenants (s : State) : s.stopNow.tenants = s.tenants := by
  obtain ⟨r, e⟩ := s.stopNow_range
  rw [e]
  exact congrArg Front.tenants s.stopNoted_front
theorem State.stopNow_masks (s : State) : s.stopNow.masks = s.masks := by
  obtain ⟨r, e⟩ := s.stopNow_range
  rw [e]
  exact congrArg Front.masks s.stopNoted_front
theorem State.stopNow_opens (s : State) : s.stopNow.opens = s.opens := by
  obtain ⟨r, e⟩ := s.stopNow_range
  rw [e]
  exact congrArg Front.opens s.stopNoted_front
theorem State.stopNow_rings (s : State) : s.stopNow.rings = s.rings := by
  obtain ⟨r, e⟩ := s.stopNow_range
  rw [e]
  exact congrArg Front.rings s.stopNoted_front
theorem State.stopNow_out (s : State) : Out.stopPin true ∈ s.stopNow.out := by
  obtain ⟨r, e⟩ := s.stopNow_range
  rw [e]
  exact List.mem_append_right _ List.mem_cons_self
theorem State.stopNow_pauses (s : State) : ∀ c ∈ s.stopNow.cmds, c.paused = true := by
  intro c h
  rw [State.stopNow_cmds, List.mem_map] at h
  obtain ⟨b, -, rfl⟩ := h
  rfl

/-- What the boundary of a stop does to a running block with a reason to stop. -/
theorem exec_blockStop_of_due {s : State} (live : s.live = true) (asked : s.stopAsked = true) : exec .blockStop s = .next (s.runTo 4).settle.stopNow := by
  simp only [State.live, Bool.and_eq_true] at live
  exact congrArg Host.Outcome.next (if_pos (by simp [State.stopDue, live, asked]))
theorem exec_blockStop_of_none {s : State} (h : s.live = false ∨ s.stopAsked = false) : exec .blockStop s = .next s := by
  refine congrArg Host.Outcome.next (if_neg ?_)
  rw [show s.stopDue = (s.live && s.stopAsked) from rfl]
  rcases h with h | h <;> simp [h]

/-! The boundary of a resume. -/

/-- What loads under way leave: streams, records and tenants; outputs are added, and no command is paused that was not. -/
structure LoadKeeps (s t : State) : Prop where
  streams : t.streams = s.streams
  recs : t.recs = s.recs
  tenants : t.tenants = s.tenants
  out : OutGrows s t
  runs : (∀ c ∈ s.cmds, c.paused = false) → ∀ c ∈ t.cmds, c.paused = false

section
variable {s t u : State}

theorem LoadKeeps.refl (s : State) : LoadKeeps s s := ⟨rfl, rfl, rfl, .refl s, id⟩
theorem LoadKeeps.trans (a : LoadKeeps s t) (b : LoadKeeps t u) : LoadKeeps s u where
  streams := b.streams.trans a.streams
  recs := b.recs.trans a.recs
  tenants := b.tenants.trans a.tenants
  out := a.out.trans b.out
  runs := b.runs ∘ a.runs
theorem LoadKeeps.foldl {α : Type} {f : State → α → State} (h : ∀ u a, LoadKeeps u (f u a)) (l : List α) (s : State) : LoadKeeps s (l.foldl f s) := by
  induction l generalizing s with
  | nil => exact .refl s
  | cons a l ih => exact (h s a).trans (ih _)
theorem LoadKeeps.of_cmds (cmds : t.cmds = s.cmds) (streams : t.streams = s.streams) (recs : t.recs = s.recs) (tenants : t.tenants = s.tenants)
    (out : OutGrows s t) : LoadKeeps s t :=
  ⟨streams, recs, tenants, out, fun h => cmds ▸ h⟩
end

theorem LoadKeeps.keep (s : State) (c : Cmd) (k : CmdK) : LoadKeeps s (s.keep c k) := by
  refine ⟨rfl, rfl, rfl, .refl s, fun h x hx => ?_⟩
  simp only [State.keep, State.setCmd, List.mem_map] at hx
  obtain ⟨b, hb, rfl⟩ := hx
  have := h b hb
  split <;> exact this
theorem LoadKeeps.setImg (s : State) (slot : Nat) (f : Img → Img) : LoadKeeps s (s.setImg slot f) := .of_cmds rfl rfl rfl rfl (.refl s)
theorem LoadKeeps.finish (s : State) (c : Cmd) (d : Done) : LoadKeeps s (s.finish c d) := by
  refine ⟨State.finish_streams .., State.finish_recs .., State.finish_tenants .., outGrows_of_eq (State.finish_out ..), fun h x hx => ?_⟩
  rw [State.finish_cmds] at hx
  exact h x (List.mem_of_mem_filter hx)
theorem outGrows_sendOn (s : State) (c : Nat) (w : Win) (op : Nat) (purp : Purp) (words : List W64) (payload : List Byte) (respLen : Nat) :
    OutGrows s (s.sendOn c w op purp words payload respLen) := by
  unfold State.sendOn
  cases w
  all_goals
    dsimp only
    refine .trans (outGrows_of_eq ?_) (outGrows_emit ..)
    simp only [State.ev_out, State.count_out, State.setChan_out, State.pick_out, reduceCtorEq, if_false, if_true]
theorem State.sendOn_cmds (s : State) (c : Nat) (w : Win) (op : Nat) (purp : Purp) (words : List W64) (payload : List Byte) (respLen : Nat) :
    (s.sendOn c w op purp words payload respLen).cmds = s.cmds := by
  unfold State.sendOn
  cases w <;> simp
theorem LoadKeeps.sendOn (s : State) (c : Nat) (w : Win) (op : Nat) (purp : Purp) (words : List W64) (payload : List Byte) (respLen : Nat) :
    LoadKeeps s (s.sendOn c w op purp words payload respLen) :=
  .of_cmds (State.sendOn_cmds ..) (State.streams_of_work (State.sendOn_work ..)) (State.recs_of_work (State.sendOn_work ..)) (State.sendOn_tenants ..)
    (outGrows_sendOn ..)
theorem LoadKeeps.noIssue (s : State) (engine chan op : Nat) : LoadKeeps s (s.noIssue engine chan op) :=
  .of_cmds (by simp [State.noIssue]) (by simp [State.noIssue]) (by simp [State.noIssue]) (State.noIssue_tenants ..)
    (.trans (t := s.count 60 1) (outGrows_of_eq rfl) (outGrows_log ..))
theorem LoadKeeps.issue (s : State) (w : Win) (op : Nat) (purp : Purp) (words : List W64) (payload : List Byte) (respLen : Nat) :
    LoadKeeps s (s.issue w op purp words payload respLen).2 := by
  unfold State.issue State.issueOn
  split
  · split
    · exact .sendOn ..
    · exact .noIssue ..
  · exact .noIssue ..
theorem LoadKeeps.pumpLoad (n cmd : Nat) (s : State) : LoadKeeps s (pumpLoad n cmd s) := by
  induction n generalizing s with
  | zero => exact .refl s
  | succ n ih =>
    unfold Machine.pumpLoad
    split
    · exact .refl s
    · split
      · split
        · exact .refl s
        · split
          · exact .refl s
          · exact ((LoadKeeps.keep ..).trans (.issue ..)).trans (ih _)
      · exact .refl s
theorem LoadKeeps.loadStep (s : State) (cmd tiles parts : Nat) : LoadKeeps s (s.loadStep cmd tiles parts) := by
  unfold State.loadStep
  split
  · exact .refl s
  · split
    · dsimp only
      split
      · exact .refl s
      · split
        · exact .keep ..
        · split
          · exact (LoadKeeps.setImg ..).trans (.finish ..)
          · exact (LoadKeeps.keep ..).trans (.pumpLoad ..)
    · exact .refl s
theorem LoadKeeps.pumpLoads (s : State) : LoadKeeps s s.pumpLoads := by
  unfold State.pumpLoads
  split
  · exact .refl s
  · exact .foldl (fun u c => .loadStep ..) _ s

/-- The block at the beat it resumes with, the commands going on and the resume on record (R433, R435, Table 3-11). -/
def State.resumeNoted (s : State) : State :=
  let u := ({ s with clk := { s.clk with stopped := false } } : State).pauseAll false
  (u.stopRecord 1 u.resumeB).emit (.stopPin false)
theorem State.resumeNoted_front (s : State) :
    s.resumeNoted.front = (({ s with clk := { s.clk with stopped := false } } : State).pauseAll false).front := by
  simp [State.resumeNoted, State.stopRecord]
theorem State.takeHeld_none {s : State} (h : s.stack.held = []) : s.takeHeld = s := by
  unfold State.takeHeld
  rw [h, List.foldl_nil]
  exact congrArg (fun l => ({ s with stack := { s.stack with held := l } } : State)) h.symm
theorem State.resumeNow_eq (s : State) : ∃ ws, s.resumeNow =
    (if s.resumeNoted.range.joined then s.resumeNoted.relayAll 11 ws else s.resumeNoted).takeHeld.pumpLoads := by
  rw [State.resumeNow]
  exact ⟨_, rfl⟩
theorem State.resumeNoted_held (s : State) : s.resumeNoted.stack.held = s.stack.held := by
  rw [← front_stack, State.resumeNoted_front]
  rfl
theorem State.takeHeld_toldRange {s : State} (h : s.stack.held = []) (kind : Nat) (ws : List W64) :
    ∃ r, (if s.range.joined then s.relayAll kind ws else s).takeHeld = { s with range := r } := by
  obtain ⟨r, e⟩ := s.relayAll_if_range kind ws
  exact ⟨r, e ▸ State.takeHeld_none (s := { s with range := r }) h⟩
/-- Without results that waited, the loads go on behind the record of the resume, told to the other members of the range. -/
theorem State.resumeNow_range {s : State} (h : s.stack.held = []) : ∃ r, s.resumeNow = ({ s.resumeNoted with range := r } : State).pumpLoads := by
  obtain ⟨ws, now⟩ := s.resumeNow_eq
  obtain ⟨r, told⟩ := State.takeHeld_toldRange (s.resumeNoted_held.trans h) 11 ws
  exact ⟨r, now.trans (congrArg State.pumpLoads told)⟩

/-- Settles O48: the commands set or clear their reason; the boundary of a stop is the rest of the beat and then `stopNow`, that of a resume
`resumeNoted` and the loads under way. -/
theorem stopAndResume : Obligations.StopAndResume := by
  intro d s
  refine ⟨fun ok op => ?_, fun ok op => ⟨fun stopped => ?_, fun running => ?_⟩, rfl, rfl, exec_blockStop_of_none, fun live asked early => ?_,
    fun live asked ended clean => ?_, fun h => ?_, fun stopped free none => ?_⟩
  · refine ⟨_, exec_stop ok op, ?_⟩
    rw [stopBody_started]
    exact ⟨completes_of_started _ rfl rfl, State.finish_clk .., SameStreams.finish _ _ (sameStreams_started s d),
      SameStores.finish _ _ (sameStores_started s d), SameTenants.finish _ _ (sameTenants_started s d), SameStack.finish _ _ (sameStack_started s d),
      (State.finish_sched ..).trans (started_sched s d)⟩
  · refine ⟨_, exec_resume ok op, ?_⟩
    rw [resumeStopBody_stopped stopped]
    exact ⟨completes_of_started _ rfl rfl, State.finish_clk .., SameStreams.finish _ _ (sameStreams_started s d),
      SameStores.finish _ _ (sameStores_started s d), (State.finish_sched ..).trans (started_sched s d)⟩
  · refine ⟨_, exec_resume ok op, ?_⟩
    rw [resumeStopBody_running running]
    exact ⟨completes_started .., (State.finish_clk ..).trans (started_clk s d), SameStreams.finish _ _ (sameStreams_started s d),
      SameStores.finish _ _ (sameStores_started s d), (State.finish_sched ..).trans (started_sched s d)⟩
  · have ran := (State.settle_hold (s.runTo 4)).trans (State.runTo_boundary_hold early)
    refine ⟨_, exec_blockStop_of_due live asked, ?_, State.stopNow_out _, State.stopNow_pauses _, ?_⟩
    · rw [State.stopNow_clk, clk_of_hold ran]
      rfl
    · rw [SameTenants, State.stopNow_tenants, State.settle_tenants, State.runTo_tenants]
  · refine ⟨_, exec_blockStop_of_due live asked, ?_⟩
    rw [State.runTo_of_over ended.ge, State.settle_of_none clean]
    exact ⟨s.stopNow_clk, s.stopNow_out, s.stopNow_cmds, ⟨s.stopNow_streams, s.stopNow_recs, s.stopNow_masks, s.stopNow_opens⟩, s.stopNow_rings,
      s.stopNow_sched, s.stopNow_tenants⟩
  · refine congrArg Host.Outcome.next (if_neg ?_)
    rcases h with h | h <;> simp [h]
  · obtain ⟨r, e⟩ := State.resumeNow_range none
    have noted := s.resumeNoted_front
    have loads := LoadKeeps.pumpLoads { s.resumeNoted with range := r }
    refine ⟨_, congrArg Host.Outcome.next (if_pos (by simp [stopped, free])), ?_⟩
    rw [e]
    refine ⟨?_, ?_, ?_, loads.streams.trans (congrArg Front.streams noted), loads.recs.trans (congrArg Front.recs noted),
      loads.tenants.trans (congrArg Front.tenants noted)⟩
    · exact (clk_of_hold (State.pumpLoads_hold _)).trans (congrArg Front.clk noted)
    · exact loads.out.subset (List.mem_append_right _ List.mem_cons_self)
    · refine loads.runs fun c hc => ?_
      rw [show ({ s.resumeNoted with range := r } : State).cmds = _ from congrArg Front.cmds noted] at hc
      obtain ⟨b, -, rfl⟩ := List.mem_map.mp hc
      rfl

end Sys2Proof.Machine
end

section
/-! LOAD_IMAGE beside a load command of its own slot that is already whole (R443, R448 to R451): that command ends the new image's load at once.
The image at hand is an automaton's, signed under the neutral point, whose section drives its CRC to zero and stays there. -/

namespace Sys2Proof.Machine

/-! A whole load ends the load of its slot's image. -/

/-- The slot holds an image whose load is over. -/
def State.loadOver (s : State) (slot : Nat) : Prop := ∃ i, s.img? slot = some i ∧ i.status = 0
theorem State.loadOver_congr {s t : State} {slot : Nat} (h : t.images = s.images) (ended : s.loadOver slot) : t.loadOver slot := by
  obtain ⟨i, held, done⟩ := ended
  exact ⟨i, (congrArg (AMap.get? · slot) h).trans held, done⟩
theorem State.setImg_img? (s : State) (k : Nat) (f : Img → Img) (slot : Nat) :
    (s.setImg k f).img? slot = if slot = k then (s.img? k).map f else s.img? slot := AMap.get?_modify ..
/-- The end of a load, of this slot or of another. -/
theorem State.loadOver_setImg {s : State} {slot k : Nat} (ended : s.loadOver slot) :
    (s.setImg k fun i => { i with status := 0, committed := true }).loadOver slot := by
  obtain ⟨i, held, done⟩ := ended
  rw [State.loadOver, State.setImg_img?]
  split
  next same =>
    rw [← same, held]
    exact ⟨_, rfl, rfl⟩
  next => exact ⟨i, held, done⟩
theorem pumpLoad_images (n cmd : Nat) (s : State) : (pumpLoad n cmd s).images = s.images := by
  induction n generalizing s with
  | zero => rfl
  | succ n ih =>
    unfold pumpLoad
    split
    · rfl
    · split
      · split
        · rfl
        · split
          · rfl
          · exact (ih _).trans ((State.images_of_work (State.issue_work ..)).trans rfl)
      · rfl
theorem State.loadStep_loadOver {s : State} {slot : Nat} (ended : s.loadOver slot) (cmd tiles parts : Nat) : (s.loadStep cmd tiles parts).loadOver slot := by
  unfold State.loadStep
  split
  · exact ended
  · split
    · dsimp only
      split
      · exact ended
      · split
        · exact State.loadOver_congr rfl ended
        · split
          · exact State.loadOver_congr (State.finish_images ..) (State.loadOver_setImg ended)
          · exact State.loadOver_congr ((pumpLoad_images ..).trans rfl) ended
    · exact ended
/-- A load whose tiles are acknowledged and whose parts are committed ends. -/
theorem State.loadStep_whole {s : State} {c : Cmd} {slot n acked : Nat} {i : Img} (there : s.cmd? c.id = some c) (kind : c.k = .loadI slot n acked 0)
    (runs : c.paused = false) (held : s.img? slot = some i) (whole : i.bytes.length / 4096 ≤ acked) : (s.loadStep c.id 0 0).loadOver slot := by
  have step : s.loadStep c.id 0 0 = (s.setImg slot fun i => { i with status := 0, committed := true }).finish c { status := stOK, resA := i.hdr.imageId } := by
    simp [State.loadStep, there, kind, held, runs, whole]
  rw [step]
  refine State.loadOver_congr (State.finish_images ..) ?_
  rw [State.loadOver, State.setImg_img?, if_pos rfl, held]
  exact ⟨_, rfl, rfl⟩
/-- Where the first command is a whole load of a slot, the slot's image has its load ended. -/
theorem State.pumpLoads_whole {s : State} {c : Cmd} {cs : List Cmd} {slot n acked : Nat} {i : Img} (cmds : s.cmds = c :: cs) (core : s.start.halted = false)
    (kind : c.k = .loadI slot n acked 0) (runs : c.paused = false) (held : s.img? slot = some i) (whole : i.bytes.length / 4096 ≤ acked) :
    s.pumpLoads.loadOver slot := by
  have there : s.cmd? c.id = some c := by simp [State.cmd?, cmds]
  have rest (l : List Cmd) (u : State) (ended : u.loadOver slot) : (l.foldl (fun s c => s.loadStep c.id 0 0) u).loadOver slot := by
    induction l generalizing u with
    | nil => exact ended
    | cons c l ih => exact ih _ (State.loadStep_loadOver ended ..)
  rw [State.pumpLoads, if_neg (by simp [core]), cmds, List.filter_cons_of_pos (by simp [kind]), List.foldl_cons]
  exact rest _ _ (State.loadStep_whole there kind runs held whole)

/-! The image in its slot. -/

theorem writeParts_front (s : State) (slot : Nat) (i : Img) : (writeParts s slot i).front = s.front := by
  rw [writeParts]
  refine front_foldl _ (fun u k => ?_) _ _
  rw [State.placeRows_front]
  rfl
theorem State.installImage_img {s v : State} {slot : Nat} {h : ImgHdr} {b : ImgBody} {image : List Byte} (put : s.installImage slot h b image = some v) :
    ∃ i, v.img? slot = some i ∧ i.bytes = image := by
  unfold State.installImage at put
  split at put
  · cases put
  · dsimp only at put
    rw [Option.some.injEq] at put
    have images := congrArg State.images put
    obtain ⟨m, i, same, bytes⟩ : ∃ m i, v.images = AMap.set m slot i ∧ i.bytes = image := ⟨_, _, images.symm, rfl⟩
    exact ⟨i, by rw [State.img?, same, AMap.get?_set, if_pos rfl], bytes⟩
theorem exec_loadImage {d : Desc} {s : State} (ok : s.accepts d = true) (op : d.opcode = 0x10) (image : List Byte) :
    exec (.loadImage d image) s = .next (loadBody d image (s.started d) (s.startedCmd d)) :=
  congrArg Host.Outcome.next (runDesc_accepts ok (by simp [op]) _)
/-- LOAD_IMAGE of a good image with room for it and its parts. -/
theorem loadBody_installs {d : Desc} {image : List Byte} {s v : State} {c : Cmd} {h : ImgHdr} {b : ImgBody}
    (free : AMap.has s.images (dfld d 4 7 0) = false) (whole : dfld d 3 31 0 ≤ image.length) (checked : loadCheck s (dfld d 3 31 0) image = .ok (h, b))
    (put : s.installImage (dfld d 4 7 0) h b image = some v) (room : liveRows s + dfld d 3 31 0 / 64 ≤ storeRows s) :
    loadBody d image s c = (writeParts (v.keep c (.loadI (dfld d 4 7 0) 0 0 (cdiv (dfld d 3 31 0) (partBytes s)))) (dfld d 4 7 0)
      (Img.fresh s h b image)).pumpLoads := by
  unfold loadBody
  rw [if_neg (by simp [free]), if_neg (by omega), checked]
  dsimp only
  rw [put]
  exact if_neg (by omega)

/-- An image that passes its checks. -/
theorem loadCheck_ok {s : State} {n : Nat} {image : List Byte} {k : ImgKind} {b : ImgBody} (kind : kindOf (parseHdr image).kind = some k)
    (header : hdrOk (parseHdr image) n image.length = true) (key : keyUsable s (parseHdr image) image = true) (signed : signatureOk image = true)
    (count : s.fuses.rollback.getD ((parseHdr image).kind - 1) 0 ≤ (parseHdr image).rbVersion) (first : s.images = [])
    (crc : crc32c (image.drop 256) = (parseHdr image).crc)
    (content : kindCheck s (parseHdr image) k (sliceB image 256 (parseHdr image).sectionLength) = .ok b) :
    loadCheck s n image = .ok (parseHdr image, b) := by
  have passed : firstFail [(hdrOk (parseHdr image) n image.length, stBadDesc), (keyUsable s (parseHdr image) image, stSigBad),
      (signatureOk image, stSigBad), (s.fuses.rollback.getD ((parseHdr image).kind - 1) 0 ≤ (parseHdr image).rbVersion, stRollback),
      (!([] : AMap Img).any fun x => x.2.hdr.imageId == (parseHdr image).imageId && x.2.hdr.gen == (parseHdr image).gen, stState),
      (crc32c (image.drop 256) == (parseHdr image).crc, stCorrupt)] = none := by
    simp only [firstFail, header, key, signed, decide_eq_true count, crc, beq_self_eq_true]
    rfl
  rw [loadCheck, kind, first]
  dsimp only
  rw [passed, content]
  rfl

/-! The neutral key: every message's signature by the neutral point verifies (R449). -/

/-- A point of the neutral class: x and t zero, y and z alike. -/
def EdPt.neutral (p : EdPt) : Prop := p.x = 0 ∧ p.t = 0 ∧ p.y = p.z
theorem neutral_edZero : edZero.neutral := ⟨rfl, rfl, rfl⟩
theorem fpSub_same {a : Nat} (h : a < edP) : fpSub a a = 0 := by rw [fpSub, Nat.mod_eq_of_lt h, Nat.add_sub_cancel_left, Nat.mod_self]
theorem fpSub_right_zero (a : Nat) : fpSub a 0 = a % edP := by rw [fpSub, Nat.zero_mod, Nat.sub_zero, Nat.add_mod_right]
/-- Neutral points add up to one. -/
theorem neutral_edAdd (d : Nat) {p q : EdPt} (hp : p.neutral) (hq : q.neutral) : (edAdd d p q).neutral := by
  obtain ⟨px, pt, py⟩ := hp
  obtain ⟨qx, qt, qy⟩ := hq
  have below : p.z * q.z % edP < edP := Nat.mod_lt _ (by decide)
  have twice : (p.z * q.z % edP + p.z * q.z % edP) % edP = 2 * p.z * q.z % edP := by rw [← Nat.add_mod, ← Nat.two_mul, Nat.mul_assoc]
  simp only [EdPt.neutral, edAdd, px, pt, py, qx, qt, qy, fpSub_right_zero, Nat.mod_mul_mod, Nat.mul_mod_mod, Nat.mod_mod, fpSub_same below,
    Nat.add_zero, Nat.mul_zero, Nat.zero_mul, Nat.zero_mod, twice, true_and]
theorem neutral_edMul (d f k : Nat) {p a : EdPt} (hp : p.neutral) (ha : a.neutral) : (edMul d f k p a).neutral := by
  induction f generalizing k p a with
  | zero => exact ha
  | succ f ih =>
    refine ih (k / 2) (neutral_edAdd d hp hp) ?_
    split
    · exact neutral_edAdd d ha hp
    · exact ha
theorem edMul_none (d f : Nat) (p a : EdPt) : edMul d f 0 p a = a := by
  induction f generalizing p with
  | zero => rfl
  | succ f ih =>
    unfold edMul
    exact ih _
theorem edEq_of_neutral {p : EdPt} (hp : p.neutral) : edEq edZero p = true := by
  obtain ⟨x, -, y⟩ := hp
  simp [edEq, edZero, x, y]

/-- Bytes of the neutral key, and of the signature with the neutral point and scalar zero. -/
def neutralKey : List Byte := 1#8 :: List.replicate 31 0#8
def neutralSig : List Byte := 1#8 :: List.replicate 63 0#8
theorem edDecode_neutralKey : ∃ p, edDecode neutralKey = some p ∧ p.neutral := by
  have point : (edDecode neutralKey).any (fun p => p.x == 0 && p.t == 0 && p.y == p.z) = true := by decide +kernel
  cases decoded : edDecode neutralKey with
  | none => simp [decoded] at point
  | some p =>
    simp only [decoded, Option.any_some, Bool.and_eq_true, beq_iff_eq, and_assoc] at point
    exact ⟨p, rfl, point⟩
theorem edDecode_neutralSig : edDecode neutralSig = edDecode neutralKey := by
  have point : neutralSig.take 32 = neutralKey.take 32 := by decide +kernel
  rw [edDecode, point, ← edDecode]
theorem neutralSig_verifies (hash : List Byte) : ed25519phVerify neutralKey neutralSig hash = true := by
  obtain ⟨p, decoded, good⟩ := edDecode_neutralKey
  obtain ⟨b, base⟩ : ∃ b, edBase = some b := Option.isSome_iff_exists.mp (by decide +kernel)
  have scalar : bytesToNat (neutralSig.drop 32) = 0 := by decide +kernel
  unfold ed25519phVerify
  simp only [edDecode_neutralSig, decoded, base, scalar, edScalar, Nat.mul_zero, edMul_none]
  rw [edEq_of_neutral (neutral_edAdd _ (neutral_edMul _ _ _ good neutral_edZero) (neutral_edMul _ _ _ (neutral_edMul _ _ _ good neutral_edZero) neutral_edZero))]
  decide +kernel

/-! The state: a load command of slot 5, whole, on ring 1, and LOAD_IMAGE of slot 5 on the administration ring 0. -/

def strayDesc : Desc := ⟨0, 0, BitVec.ofNat 64 (0x10 + 2 ^ 63), 0, 0, 4096#64, 5#64, 0, 0, 0⟩
def strayCmd : Cmd := { (default : Cmd) with id := 0, ring := 1, opcode := 0x10, k := .loadI 5 0 1 0 }
def strayState : State :=
  { State.reset with
    start := { StartS.reset 0 0 false false with
      phase := .complete
      fuseCopy := { FuseS.blank with keyState := [1, 0, 0, 0], keyHash := [bytesToNat ((sha512 neutralKey).take 32), 0, 0, 0] } }
    regs := { RegS.reset .c16 with region := [(0, 0x01000000#32)] }
    rings := [(0, { Ring.blank with entry := some { (default : RingEntry) with admin := true }, fetched := [strayDesc] })]
    cmds := [strayCmd] }

/-! The image. -/

/-- The section's header: one state and one class over output, its tables behind it; then 32 reserved bytes (Tables 8-6 and 8-7). -/
def strayHead : List Byte :=
  wordsBytes [BitVec.ofNat 64 (1 + 2 ^ 17 + 2 ^ 26), 1#64, BitVec.ofNat 64 (68 + 324 * 2 ^ 32), BitVec.ofNat 64 (332 + 336 * 2 ^ 32)]
    ++ List.replicate 32 0#8
/-- The section's header and the four bytes that take its CRC to zero. -/
def strayStart : List Byte := strayHead ++ natToBytes 4 (strayHead.foldl crcStep 0xFFFFFFFF)
def straySection : List Byte := strayStart ++ List.replicate 272 0#8
/-- The bytes behind the image's header: the section, and zeros to the image's end. -/
def strayBody : List Byte := strayStart ++ List.replicate 3772 0#8
/-- The image: kind 5, image id 300, generation 1, 4,096 bytes, a section of 340 bytes (Table 15-7). -/
def strayImage : List Byte :=
  wordsBytes [BitVec.ofNat 64 (0x325A5349 + 5 * 2 ^ 32 + 2 ^ 40), BitVec.ofNat 64 (300 + 2 ^ 32), 4096#64, BitVec.ofNat 64 (0x0203 + 340 * 2 ^ 32),
    0xFFFFFFFF#64] ++ List.replicate 24 0#8 ++ neutralKey ++ neutralSig ++ List.replicate 96 0#8 ++ strayBody

theorem foldl_crcStep_zeros (n : Nat) : (List.replicate n 0#8).foldl crcStep 0 = 0 := by
  induction n with
  | zero => rfl
  | succ n ih => exact ih
theorem crc32c_strayBody : crc32c strayBody = 0xFFFFFFFF#32 := by
  have start : strayStart.foldl crcStep 0xFFFFFFFF = 0 := by decide +kernel
  rw [crc32c, strayBody, List.foldl_append, start, foldl_crcStep_zeros]
  rfl
theorem strayImage_body : strayImage.drop 256 = strayBody := List.drop_left' (by decide +kernel)
theorem strayImage_length : strayImage.length = 4096 := by decide +kernel
theorem strayImage_whole : dfld strayDesc 3 31 0 ≤ strayImage.length := by decide +kernel
theorem strayImage_key : sliceB strayImage 64 32 = neutralKey := by decide +kernel
theorem strayImage_sig : sliceB strayImage 96 64 = neutralSig := by decide +kernel
theorem strayImage_kind : kindOf (parseHdr strayImage).kind = some .automaton := by decide +kernel
theorem strayImage_header : hdrOk (parseHdr strayImage) (dfld strayDesc 3 31 0) strayImage.length = true := by decide +kernel
theorem strayImage_crc : (parseHdr strayImage).crc = 0xFFFFFFFF#32 := by decide +kernel
theorem strayImage_keySlot : (parseHdr strayImage).keySlot = 0 := by decide +kernel
theorem strayImage_section : sliceB strayImage 256 (parseHdr strayImage).sectionLength = straySection := by decide +kernel
theorem straySection_ok : autoOk (parseAuto straySection) = true := by decide +kernel
theorem strayImage_signed : signatureOk strayImage = true := by
  rw [signatureOk, strayImage_key, strayImage_sig]
  exact neutralSig_verifies _

/-! The checks of the image, in the state the command meets. -/

theorem strayState_accepts : strayState.accepts strayDesc = true := by decide +kernel
theorem strayState_free : AMap.has strayState.images (dfld strayDesc 4 7 0) = false := rfl
theorem strayState_room : liveRows (strayState.started strayDesc) + dfld strayDesc 3 31 0 / 64 ≤ storeRows (strayState.started strayDesc) := by
  decide +kernel
theorem strayState_keyUsable : keyUsable (strayState.started strayDesc) (parseHdr strayImage) strayImage = true := by
  rw [keyUsable, strayImage_keySlot, strayImage_key, started_start]
  simp [strayState]
theorem strayState_rollback :
    (strayState.started strayDesc).fuses.rollback.getD ((parseHdr strayImage).kind - 1) 0 ≤ (parseHdr strayImage).rbVersion := by
  decide +kernel
theorem strayState_started_images : (strayState.started strayDesc).images = [] := started_images ..
theorem strayState_started_free : AMap.has (strayState.started strayDesc).images (dfld strayDesc 4 7 0) = false := by
  rw [strayState_started_images]
  rfl
theorem strayState_kindCheck : kindCheck (strayState.started strayDesc) (parseHdr strayImage) .automaton straySection
    = .ok (.automaton (parseAuto straySection)) := by
  have policies (id : Nat) (b : ImgBody) : policiesTake (strayState.started strayDesc) id b = true := by
    rw [policiesTake, strayState_started_images]
    rfl
  simp [kindCheck, parseBody, straySection_ok, policies, firstFail]
theorem strayState_loadCheck : loadCheck (strayState.started strayDesc) (dfld strayDesc 3 31 0) strayImage
    = .ok (parseHdr strayImage, .automaton (parseAuto straySection)) := by
  refine loadCheck_ok strayImage_kind strayImage_header strayState_keyUsable strayImage_signed strayState_rollback strayState_started_images ?_ ?_
  · rw [strayImage_body, crc32c_strayBody, strayImage_crc]
  · rw [strayImage_section, strayState_kindCheck]
theorem strayState_installs : ∃ v, (strayState.started strayDesc).installImage (dfld strayDesc 4 7 0) (parseHdr strayImage)
    (.automaton (parseAuto straySection)) strayImage = some v :=
  Option.isSome_iff_exists.mp (by decide +kernel)

/-- The older command ends the load that LOAD_IMAGE has begun. -/
theorem strayState_loadEnds {v : State} {h : ImgHdr} {b : ImgBody} {k : CmdK} {i : Img}
    (put : (strayState.started strayDesc).installImage (dfld strayDesc 4 7 0) h b strayImage = some v) :
    (writeParts (v.keep (strayState.startedCmd strayDesc) k) (dfld strayDesc 4 7 0) i).pumpLoads.loadOver (dfld strayDesc 4 7 0) := by
  have seat := State.installImage_seat _ _ _ _ _ _ put
  have front := writeParts_front (v.keep (strayState.startedCmd strayDesc) k) (dfld strayDesc 4 7 0) i
  obtain ⟨j, held, bytes⟩ := State.installImage_img put
  have cmds : v.cmds = [strayCmd, strayState.startedCmd strayDesc] := (congrArg Seat.cmds seat).trans (started_cmds ..)
  have core : v.start.halted = false := congrArg (·.start.halted) seat
  refine State.pumpLoads_whole (c := strayCmd) (cs := [{ strayState.startedCmd strayDesc with k := k }]) (n := 0) (acked := 1) (i := j)
    ((congrArg Front.cmds front).trans ?_) ((congrArg (·.start.halted) front).trans core) rfl rfl ?_ ?_
  · rw [State.keep, State.setCmd, cmds]
    rfl
  · rw [State.img?, ← front_images, front]
    exact held
  · rw [bytes, strayImage_length]

/-- Refutes O40: its last clause counts only load commands whose slot holds an image already. Here a load command of the free slot 5 (none of its
tiles outstanding, none of its parts uncommitted) finds the image that LOAD_IMAGE has just put there, and ends its load: the image's status is 0, not 3. -/
theorem not_loadImageChecksThenInstalls : ¬ Obligations.LoadImageChecksThenInstalls := by
  intro claim
  obtain ⟨-, good⟩ := claim strayDesc strayImage strayState strayState_accepts rfl
  obtain ⟨-, -, -, installs⟩ := good strayState_free strayImage_whole
  obtain ⟨v, put⟩ := strayState_installs
  have older : ∀ c ∈ strayState.cmds, c.id < strayState.nextId := by simp [strayState, strayCmd, State.reset]
  have empty (a : Nat) : strayState.img? a = none := rfl
  have unheld : ∀ c ∈ strayState.cmds, ∀ a n k left j, c.k = .loadI a n k left → strayState.img? a = some j →
      c.paused = true ∨ k < j.bytes.length / 4096 ∨ left ≠ 0 := by
    intro c _ a n k left j _ image
    rw [empty] at image
    cases image
  obtain ⟨t, i, -, next, -, held, loading, -⟩ := installs _ _ v strayState_loadCheck put older strayState_room unheld
  rw [exec_loadImage strayState_accepts rfl, loadBody_installs strayState_started_free strayImage_whole strayState_loadCheck put strayState_room] at next
  cases next
  obtain ⟨j, held', ended⟩ := strayState_loadEnds put
  rw [State.img?] at held'
  rw [held'] at held
  cases held
  omega

end Sys2Proof.Machine
end
